-- ==== Sys2Proof/Word.lean ====
section
/-!
DEFINITION. The word types of the part (R5) and their plainest arithmetic: bytes, words and doubles, and sums over lists.
-/
namespace Sys2Proof

/-- A byte, 8 bits (R5). -/
abbrev Byte : Type := BitVec 8

/-- A word, 32 bits: what a register of one lane holds (R5, R16). -/
abbrev Word : Type := BitVec 32

/-- A double, 64 bits (R5). -/
abbrev Double : Type := BitVec 64

/-- A sparse store of `w`-bit cells by number: pairs with strictly rising numbers, none of which holds 0; an unlisted cell reads 0. -/
abbrev Mem (w : Nat) : Type := List (Nat × BitVec w)

/-- A map from numbers: pairs with strictly rising numbers. -/
abbrev NMap (α : Type) : Type := List (Nat × α)

end Sys2Proof
end

