-- ==== Sys2Proof/Config.lean ====
section
/-!
DEFINITION. What an implementation fixes: the configuration registers with their scope, access, reset value and fields (R289 and the
register tables of every chapter), the sizes of the part (R9, R17, R61), and the free values: constants without a body, for what
the spec leaves open.
-/
namespace Sys2Proof.Config

/-- How far a configuration register reaches: one per core, one per chip, or one per virtual interface (R289). -/
inductive Scope where
  | core | chip | vi
  deriving DecidableEq, Repr

/-- The access types of Table Sc-2 that configuration registers use (R6). -/
inductive Access where
  | rw | ro | rc
  deriving DecidableEq, Repr

/-- A field of a configuration register: its lowest bit, its width, its least and greatest value, and the gap of its range, if any:
a value from `gapLo` up to but not including `gapHi` stores `gapHi` (R289). -/
structure Field where
  lo    : Nat
  len   : Nat
  min   : Nat
  max   : Nat
  gapLo : Nat
  gapHi : Nat
  deriving DecidableEq, Repr

/-- A configuration register: number, scope, access, reset value and fields. -/
structure Reg where
  num    : Nat
  scope  : Scope
  access : Access
  reset  : Nat
  fields : List Field
  deriving DecidableEq, Repr

/-- Configuration registers CFG_VI (0x000) to PT_ROOT (0x114). -/
def regs0 : List Reg := [
  ⟨0x000, .core, .rw, 0, [⟨0, 6, 0, 63, 0, 0⟩]⟩,
  ⟨0x001, .core, .rw, 0, [⟨0, 32, 0, 4294967295, 0, 0⟩]⟩,
  ⟨0x010, .vi, .rw, 32, [⟨0, 11, 8, 1024, 0, 0⟩]⟩,
  ⟨0x011, .vi, .rw, 8, [⟨0, 4, 1, 15, 0, 0⟩]⟩,
  ⟨0x012, .vi, .rw, 0, [⟨0, 11, 0, 2047, 0, 0⟩]⟩,
  ⟨0x013, .vi, .rw, 1024, [⟨0, 11, 0, 2047, 0, 0⟩]⟩,
  ⟨0x014, .vi, .rw, 2147483648, [⟨0, 32, 0, 4294967295, 0, 0⟩]⟩,
  ⟨0x015, .vi, .rw, 0, [⟨0, 32, 0, 4294967295, 0, 0⟩]⟩,
  ⟨0x016, .vi, .rw, 0, [⟨0, 32, 0, 4294967295, 0, 0⟩]⟩,
  ⟨0x020, .core, .rw, 0, [⟨0, 4, 0, 15, 0, 0⟩]⟩,
  ⟨0x030, .chip, .rw, 0, [⟨0, 2, 0, 3, 0, 0⟩]⟩,
  ⟨0x031, .chip, .rw, 98, [⟨0, 8, 0, 255, 0, 0⟩]⟩,
  ⟨0x032, .chip, .rw, 90, [⟨0, 8, 0, 255, 0, 0⟩]⟩,
  ⟨0x100, .chip, .rw, 3, [⟨0, 8, 0, 255, 0, 0⟩]⟩,
  ⟨0x101, .chip, .rw, 10000, [⟨0, 16, 0, 65535, 0, 0⟩]⟩,
  ⟨0x102, .chip, .rw, 1000, [⟨0, 20, 100, 1000000, 0, 0⟩]⟩,
  ⟨0x103, .core, .rw, 0, [⟨0, 8, 0, 255, 0, 0⟩]⟩,
  ⟨0x104, .core, .rw, 0, [⟨0, 10, 0, 1023, 0, 0⟩]⟩,
  ⟨0x105, .core, .ro, 0, [⟨0, 16, 0, 65535, 0, 0⟩]⟩,
  ⟨0x106, .vi, .rw, 4, [⟨0, 3, 0, 7, 0, 0⟩]⟩,
  ⟨0x107, .core, .rw, 8, [⟨0, 10, 0, 1023, 0, 0⟩]⟩,
  ⟨0x108, .core, .rw, 64, [⟨0, 10, 0, 1023, 0, 0⟩]⟩,
  ⟨0x109, .core, .rw, 64, [⟨0, 10, 0, 1023, 0, 0⟩]⟩,
  ⟨0x10A, .core, .rw, 256, [⟨0, 10, 0, 1023, 0, 0⟩]⟩,
  ⟨0x10B, .core, .rw, 1048576, [⟨0, 32, 0, 4294967295, 0, 0⟩]⟩,
  ⟨0x110, .vi, .rw, 0, [⟨0, 31, 0, 2147483647, 0, 0⟩]⟩,
  ⟨0x111, .vi, .rw, 0, [⟨0, 17, 0, 65536, 0, 0⟩]⟩,
  ⟨0x112, .vi, .rw, 0, [⟨0, 32, 0, 4294967295, 0, 0⟩]⟩,
  ⟨0x113, .vi, .rw, 0, [⟨0, 13, 0, 4096, 0, 0⟩]⟩,
  ⟨0x114, .vi, .rw, 0, [⟨0, 32, 0, 4294967295, 0, 0⟩]⟩]

/-- Configuration registers HEAP_BASE (0x115) to TREC0 (0x150). -/
def regs1 : List Reg := [
  ⟨0x115, .vi, .rw, 0, [⟨0, 31, 0, 2147483647, 0, 0⟩]⟩,
  ⟨0x116, .vi, .rw, 0, [⟨0, 31, 0, 2147483647, 0, 0⟩]⟩,
  ⟨0x117, .vi, .rw, 0, [⟨0, 31, 0, 2147483647, 0, 0⟩]⟩,
  ⟨0x118, .vi, .rw, 0, [⟨0, 7, 0, 127, 0, 0⟩]⟩,
  ⟨0x119, .vi, .rw, 0, [⟨0, 7, 0, 127, 0, 0⟩]⟩,
  ⟨0x11A, .vi, .rw, 0, [⟨0, 32, 0, 4294967295, 0, 0⟩]⟩,
  ⟨0x11B, .vi, .rw, 64, [⟨0, 16, 0, 65535, 0, 0⟩]⟩,
  ⟨0x11C, .vi, .rw, 0, [⟨0, 32, 0, 4294967295, 0, 0⟩]⟩,
  ⟨0x11D, .vi, .rw, 1, [⟨0, 8, 0, 255, 0, 0⟩]⟩,
  ⟨0x11E, .vi, .rw, 0, [⟨0, 1, 0, 1, 0, 0⟩]⟩,
  ⟨0x11F, .vi, .rw, 0, [⟨0, 31, 0, 2147483647, 0, 0⟩]⟩,
  ⟨0x120, .chip, .rw, 2565, [⟨8, 8, 1, 100, 0, 0⟩, ⟨0, 8, 0, 99, 0, 0⟩]⟩,
  ⟨0x121, .chip, .rw, 2565, [⟨8, 8, 1, 100, 0, 0⟩, ⟨0, 8, 0, 99, 0, 0⟩]⟩,
  ⟨0x122, .chip, .rw, 2565, [⟨8, 8, 1, 100, 0, 0⟩, ⟨0, 8, 0, 99, 0, 0⟩]⟩,
  ⟨0x123, .chip, .rw, 1000, [⟨0, 20, 0, 1048575, 0, 0⟩]⟩,
  ⟨0x124, .chip, .rw, 100, [⟨0, 20, 0, 1048575, 0, 0⟩]⟩,
  ⟨0x125, .chip, .ro, 0, [⟨0, 10, 0, 1023, 0, 0⟩]⟩,
  ⟨0x130, .chip, .rw, 0, [⟨0, 6, 0, 63, 0, 0⟩]⟩,
  ⟨0x131, .chip, .rw, 0, [⟨0, 16, 0, 65535, 0, 0⟩]⟩,
  ⟨0x132, .chip, .rw, 0, [⟨0, 12, 0, 4095, 0, 0⟩]⟩,
  ⟨0x133, .chip, .rw, 0, [⟨0, 6, 0, 63, 0, 0⟩]⟩,
  ⟨0x134, .chip, .rw, 15, [⟨0, 4, 0, 15, 12, 15⟩]⟩,
  ⟨0x140, .core, .rw, 0, [⟨0, 32, 0, 4294967295, 0, 0⟩]⟩,
  ⟨0x141, .core, .rw, 0, [⟨0, 32, 0, 4294967295, 0, 0⟩]⟩,
  ⟨0x142, .core, .rw, 0, [⟨0, 1, 0, 1, 0, 0⟩]⟩,
  ⟨0x143, .chip, .rw, 0, [⟨0, 31, 0, 2147483647, 0, 0⟩]⟩,
  ⟨0x144, .chip, .rw, 0, [⟨0, 17, 0, 65536, 0, 0⟩]⟩,
  ⟨0x145, .core, .rw, 0, [⟨0, 32, 0, 4294967295, 0, 0⟩]⟩,
  ⟨0x146, .core, .rw, 0, [⟨0, 32, 0, 4294967295, 0, 0⟩]⟩,
  ⟨0x150, .core, .ro, 0, [⟨0, 32, 0, 4294967295, 0, 0⟩]⟩]

/-- Configuration registers TREC1 (0x151) to MC_TAIL (0x173). -/
def regs2 : List Reg := [
  ⟨0x151, .core, .ro, 0, [⟨0, 32, 0, 4294967295, 0, 0⟩]⟩,
  ⟨0x152, .core, .ro, 0, [⟨0, 32, 0, 4294967295, 0, 0⟩]⟩,
  ⟨0x153, .core, .ro, 0, [⟨0, 32, 0, 4294967295, 0, 0⟩]⟩,
  ⟨0x154, .core, .ro, 0, [⟨0, 32, 0, 4294967295, 0, 0⟩]⟩,
  ⟨0x155, .core, .ro, 0, [⟨0, 32, 0, 4294967295, 0, 0⟩]⟩,
  ⟨0x156, .core, .ro, 0, [⟨0, 32, 0, 4294967295, 0, 0⟩]⟩,
  ⟨0x157, .core, .ro, 0, [⟨0, 32, 0, 4294967295, 0, 0⟩]⟩,
  ⟨0x158, .core, .ro, 0, [⟨0, 32, 0, 4294967295, 0, 0⟩]⟩,
  ⟨0x159, .core, .ro, 0, [⟨0, 32, 0, 4294967295, 0, 0⟩]⟩,
  ⟨0x15A, .core, .ro, 0, [⟨0, 32, 0, 4294967295, 0, 0⟩]⟩,
  ⟨0x15B, .core, .ro, 0, [⟨0, 32, 0, 4294967295, 0, 0⟩]⟩,
  ⟨0x15C, .core, .ro, 0, [⟨0, 32, 0, 4294967295, 0, 0⟩]⟩,
  ⟨0x15D, .core, .ro, 0, [⟨0, 32, 0, 4294967295, 0, 0⟩]⟩,
  ⟨0x15E, .core, .ro, 0, [⟨0, 32, 0, 4294967295, 0, 0⟩]⟩,
  ⟨0x15F, .core, .ro, 0, [⟨0, 32, 0, 4294967295, 0, 0⟩]⟩,
  ⟨0x160, .chip, .rc, 0, [⟨0, 32, 0, 4294967295, 0, 0⟩]⟩,
  ⟨0x161, .chip, .rc, 0, [⟨0, 32, 0, 4294967295, 0, 0⟩]⟩,
  ⟨0x162, .chip, .rc, 0, [⟨0, 32, 0, 4294967295, 0, 0⟩]⟩,
  ⟨0x163, .chip, .rc, 0, [⟨0, 32, 0, 4294967295, 0, 0⟩]⟩,
  ⟨0x164, .chip, .rc, 0, [⟨0, 32, 0, 4294967295, 0, 0⟩]⟩,
  ⟨0x165, .chip, .rc, 0, [⟨0, 32, 0, 4294967295, 0, 0⟩]⟩,
  ⟨0x166, .chip, .rc, 0, [⟨0, 32, 0, 4294967295, 0, 0⟩]⟩,
  ⟨0x167, .chip, .rc, 0, [⟨0, 32, 0, 4294967295, 0, 0⟩]⟩,
  ⟨0x168, .chip, .rc, 0, [⟨0, 32, 0, 4294967295, 0, 0⟩]⟩,
  ⟨0x169, .chip, .rc, 0, [⟨0, 32, 0, 4294967295, 0, 0⟩]⟩,
  ⟨0x16A, .vi, .rc, 0, [⟨0, 32, 0, 4294967295, 0, 0⟩]⟩,
  ⟨0x170, .chip, .rw, 0, [⟨0, 40, 0, 1099511627775, 0, 0⟩]⟩,
  ⟨0x171, .chip, .rw, 6, [⟨0, 4, 4, 15, 0, 0⟩]⟩,
  ⟨0x172, .chip, .rw, 0, [⟨0, 32, 0, 4294967295, 0, 0⟩]⟩,
  ⟨0x173, .chip, .ro, 0, [⟨0, 32, 0, 4294967295, 0, 0⟩]⟩]

/-- Configuration registers MC_LOST (0x174) to TRC_TAIL (0x1D4). -/
def regs3 : List Reg := [
  ⟨0x174, .chip, .rc, 0, [⟨0, 32, 0, 4294967295, 0, 0⟩]⟩,
  ⟨0x180, .core, .rw, 0, [⟨0, 2, 0, 3, 0, 0⟩]⟩,
  ⟨0x181, .vi, .rw, 0, [⟨0, 1, 0, 1, 0, 0⟩]⟩,
  ⟨0x182, .vi, .rc, 0, [⟨0, 32, 0, 4294967295, 0, 0⟩]⟩,
  ⟨0x190, .chip, .rw, 16777216, [⟨0, 32, 0, 4294967295, 0, 0⟩]⟩,
  ⟨0x191, .chip, .rw, 1048576, [⟨0, 32, 0, 4294967295, 0, 0⟩]⟩,
  ⟨0x192, .chip, .rw, 65536, [⟨0, 32, 0, 4294967295, 0, 0⟩]⟩,
  ⟨0x193, .chip, .rw, 16, [⟨0, 8, 1, 255, 0, 0⟩]⟩,
  ⟨0x194, .chip, .rw, 0, [⟨0, 32, 0, 4294967295, 0, 0⟩]⟩,
  ⟨0x1A0, .vi, .ro, 0, [⟨0, 32, 0, 4294967295, 0, 0⟩]⟩,
  ⟨0x1A1, .vi, .ro, 0, [⟨0, 32, 0, 4294967295, 0, 0⟩]⟩,
  ⟨0x1B0, .core, .rw, 0, [⟨0, 8, 0, 255, 0, 0⟩, ⟨8, 7, 0, 127, 0, 0⟩]⟩,
  ⟨0x1B1, .core, .ro, 0, [⟨0, 32, 0, 4294967295, 0, 0⟩]⟩,
  ⟨0x1B2, .core, .ro, 0, [⟨0, 32, 0, 4294967295, 0, 0⟩]⟩,
  ⟨0x1B3, .core, .ro, 0, [⟨0, 32, 0, 4294967295, 0, 0⟩]⟩,
  ⟨0x1B4, .core, .ro, 0, [⟨0, 32, 0, 4294967295, 0, 0⟩]⟩,
  ⟨0x1B5, .chip, .rw, 10000, [⟨0, 20, 0, 1048575, 0, 0⟩]⟩,
  ⟨0x1B6, .vi, .rw, 0, [⟨0, 1, 0, 1, 0, 0⟩]⟩,
  ⟨0x1B7, .chip, .rw, 0, [⟨0, 40, 0, 1099511627775, 0, 0⟩]⟩,
  ⟨0x1B8, .chip, .rw, 4, [⟨0, 4, 2, 12, 0, 0⟩]⟩,
  ⟨0x1B9, .chip, .rw, 0, [⟨0, 32, 0, 4294967295, 0, 0⟩]⟩,
  ⟨0x1BA, .chip, .ro, 0, [⟨0, 32, 0, 4294967295, 0, 0⟩]⟩,
  ⟨0x1BB, .chip, .rc, 0, [⟨0, 32, 0, 4294967295, 0, 0⟩]⟩,
  ⟨0x1C0, .chip, .rw, 0, [⟨0, 5, 0, 24, 1, 10⟩]⟩,
  ⟨0x1C1, .chip, .rw, 0, [⟨0, 40, 0, 1099511627775, 0, 0⟩]⟩,
  ⟨0x1C2, .chip, .rw, 12, [⟨0, 5, 7, 24, 0, 0⟩]⟩,
  ⟨0x1C3, .chip, .rw, 0, [⟨0, 32, 0, 4294967295, 0, 0⟩]⟩,
  ⟨0x1C4, .chip, .ro, 0, [⟨0, 32, 0, 4294967295, 0, 0⟩]⟩,
  ⟨0x1C5, .chip, .rc, 0, [⟨0, 32, 0, 4294967295, 0, 0⟩]⟩,
  ⟨0x1C8, .vi, .rw, 0, [⟨0, 1, 0, 1, 0, 0⟩]⟩,
  ⟨0x1C9, .vi, .rw, 0, [⟨0, 32, 0, 4294967295, 0, 0⟩]⟩,
  ⟨0x1CA, .vi, .rw, 0, [⟨0, 32, 0, 4294967295, 0, 0⟩]⟩,
  ⟨0x1CB, .vi, .rw, 0, [⟨0, 7, 0, 127, 0, 0⟩]⟩,
  ⟨0x1CC, .vi, .rw, 0, [⟨0, 32, 0, 4294967295, 0, 0⟩]⟩,
  ⟨0x1CD, .vi, .rw, 0, [⟨0, 16, 0, 65535, 0, 0⟩]⟩,
  ⟨0x1D0, .core, .rw, 0, [⟨0, 1, 0, 1, 0, 0⟩, ⟨8, 6, 0, 63, 0, 0⟩]⟩,
  ⟨0x1D1, .core, .rw, 0, [⟨0, 40, 0, 1099511627775, 0, 0⟩]⟩,
  ⟨0x1D2, .core, .rw, 20, [⟨0, 5, 12, 30, 0, 0⟩]⟩,
  ⟨0x1D3, .core, .rw, 0, [⟨0, 32, 0, 4294967295, 0, 0⟩]⟩,
  ⟨0x1D4, .core, .ro, 0, [⟨0, 32, 0, 4294967295, 0, 0⟩]⟩]

/-- Every configuration register of the part (R289). -/
def regs : List Reg := regs0 ++ regs1 ++ regs2 ++ regs3

/-- The register of a number, if the number is assigned (R289). -/
def reg? (num : Nat) : Option Reg := regs.find? (·.num == num)

/-- The number of CFG_VI. -/
abbrev nCfgVi : Nat := 0x000
/-- The number of CT_EPC. -/
abbrev nCtEpc : Nat := 0x001
/-- The number of LEASE_LEN. -/
abbrev nLeaseLen : Nat := 0x010
/-- The number of CASCADE_MAX. -/
abbrev nCascadeMax : Nat := 0x011
/-- The number of TRIG_MIN. -/
abbrev nTrigMin : Nat := 0x012
/-- The number of TRIG_CAP. -/
abbrev nTrigCap : Nat := 0x013
/-- The number of WDOG_WIN. -/
abbrev nWdogWin : Nat := 0x014
/-- The number of STACK_H. -/
abbrev nStackH : Nat := 0x015
/-- The number of STACK_OFF. -/
abbrev nStackOff : Nat := 0x016
/-- The number of ISSUE_MODE. -/
abbrev nIssueMode : Nat := 0x020
/-- The number of PWR_MODE. -/
abbrev nPwrMode : Nat := 0x030
/-- The number of THERM_HI. -/
abbrev nThermHi : Nat := 0x031
/-- The number of THERM_LO. -/
abbrev nThermLo : Nat := 0x032
/-- The number of DROOP_LIM. -/
abbrev nDroopLim : Nat := 0x100
/-- The number of DROOP_HOLD. -/
abbrev nDroopHold : Nat := 0x101
/-- The number of QUANTUM. -/
abbrev nQuantum : Nat := 0x102
/-- The number of SWAP_OUT. -/
abbrev nSwapOut : Nat := 0x103
/-- The number of WBTAG_IDX. -/
abbrev nWbtagIdx : Nat := 0x104
/-- The number of WBTAG. -/
abbrev nWbtag : Nat := 0x105
/-- The number of TRIG_PRIO. -/
abbrev nTrigPrio : Nat := 0x106
/-- The number of TCQ_MIN. -/
abbrev nTcqMin : Nat := 0x107
/-- The number of TCQ_CAP. -/
abbrev nTcqCap : Nat := 0x108
/-- The number of EVQ_MIN. -/
abbrev nEvqMin : Nat := 0x109
/-- The number of EVQ_CAP. -/
abbrev nEvqCap : Nat := 0x10A
/-- The number of SWAP_IDLE. -/
abbrev nSwapIdle : Nat := 0x10B
/-- The number of BT_BASE. -/
abbrev nBtBase : Nat := 0x110
/-- The number of BT_SIZE. -/
abbrev nBtSize : Nat := 0x111
/-- The number of GT_BASE. -/
abbrev nGtBase : Nat := 0x112
/-- The number of GT_SIZE. -/
abbrev nGtSize : Nat := 0x113
/-- The number of PT_ROOT. -/
abbrev nPtRoot : Nat := 0x114
/-- The number of HEAP_BASE. -/
abbrev nHeapBase : Nat := 0x115
/-- The number of HEAP_LIMIT. -/
abbrev nHeapLimit : Nat := 0x116
/-- The number of HEAP_OFFSET. -/
abbrev nHeapOffset : Nat := 0x117
/-- The number of VCORE_IDX. -/
abbrev nVcoreIdx : Nat := 0x118
/-- The number of VCORE_MAP. -/
abbrev nVcoreMap : Nat := 0x119
/-- The number of BSPILL_BASE. -/
abbrev nBspillBase : Nat := 0x11A
/-- The number of BSPILL_SIZE. -/
abbrev nBspillSize : Nat := 0x11B
/-- The number of TRING_BASE. -/
abbrev nTringBase : Nat := 0x11C
/-- The number of TRING_SIZE. -/
abbrev nTringSize : Nat := 0x11D
/-- The number of VI_SYNC. -/
abbrev nViSync : Nat := 0x11E
/-- The number of PT_INVAL. -/
abbrev nPtInval : Nat := 0x11F
/-- The number of TIER_WM0. -/
abbrev nTierWm0 : Nat := 0x120
/-- The number of TIER_WM1. -/
abbrev nTierWm1 : Nat := 0x121
/-- The number of TIER_WM2. -/
abbrev nTierWm2 : Nat := 0x122
/-- The number of SAMPLE_PERIOD. -/
abbrev nSamplePeriod : Nat := 0x123
/-- The number of REHOME_EPOCH. -/
abbrev nRehomeEpoch : Nat := 0x124
/-- The number of MIG_BUSY. -/
abbrev nMigBusy : Nat := 0x125
/-- The number of FAB_RANK. -/
abbrev nFabRank : Nat := 0x130
/-- The number of FAB_DOMAIN. -/
abbrev nFabDomain : Nat := 0x131
/-- The number of FAB_EN. -/
abbrev nFabEn : Nat := 0x132
/-- The number of FAB_RIDX. -/
abbrev nFabRidx : Nat := 0x133
/-- The number of FAB_ROUTE. -/
abbrev nFabRoute : Nat := 0x134
/-- The number of CT_TVEC. -/
abbrev nCtTvec : Nat := 0x140
/-- The number of CT_CODEH. -/
abbrev nCtCodeh : Nat := 0x141
/-- The number of CT_RUN. -/
abbrev nCtRun : Nat := 0x142
/-- The number of CT_BT_BASE. -/
abbrev nCtBtBase : Nat := 0x143
/-- The number of CT_BT_SIZE. -/
abbrev nCtBtSize : Nat := 0x144
/-- The number of CT_STKH. -/
abbrev nCtStkh : Nat := 0x145
/-- The number of CT_STKOFF. -/
abbrev nCtStkoff : Nat := 0x146
/-- The number of TREC0. -/
abbrev nTrec0 : Nat := 0x150
/-- The number of ERR_HBM_CE. -/
abbrev nErrHbmCe : Nat := 0x160
/-- The number of ERR_HBM_UE. -/
abbrev nErrHbmUe : Nat := 0x161
/-- The number of ERR_HBM_CRC. -/
abbrev nErrHbmCrc : Nat := 0x162
/-- The number of ERR_SRAM_CE. -/
abbrev nErrSramCe : Nat := 0x163
/-- The number of ERR_SRAM_UE. -/
abbrev nErrSramUe : Nat := 0x164
/-- The number of ERR_LPDDR_CE. -/
abbrev nErrLpddrCe : Nat := 0x165
/-- The number of ERR_LPDDR_UE. -/
abbrev nErrLpddrUe : Nat := 0x166
/-- The number of ERR_POISON. -/
abbrev nErrPoison : Nat := 0x167
/-- The number of ERR_FAB_CRC. -/
abbrev nErrFabCrc : Nat := 0x168
/-- The number of ERR_CXL. -/
abbrev nErrCxl : Nat := 0x169
/-- The number of ERR_TRAP. -/
abbrev nErrTrap : Nat := 0x16A
/-- The number of MC_BASE. -/
abbrev nMcBase : Nat := 0x170
/-- The number of MC_LOG. -/
abbrev nMcLog : Nat := 0x171
/-- The number of MC_HEAD. -/
abbrev nMcHead : Nat := 0x172
/-- The number of MC_TAIL. -/
abbrev nMcTail : Nat := 0x173
/-- The number of MC_LOST. -/
abbrev nMcLost : Nat := 0x174
/-- The number of TRAP_RESUME. -/
abbrev nTrapResume : Nat := 0x180
/-- The number of UCHECK. -/
abbrev nUcheck : Nat := 0x181
/-- The number of TRIG_DROP. -/
abbrev nTrigDrop : Nat := 0x182
/-- The number of REMOTE_TO. -/
abbrev nRemoteTo : Nat := 0x190
/-- The number of BQ_WAIT. -/
abbrev nBqWait : Nat := 0x191
/-- The number of SLOG_WAIT. -/
abbrev nSlogWait : Nat := 0x192
/-- The number of REPLAY_LIM. -/
abbrev nReplayLim : Nat := 0x193
/-- The number of REPL_ABORT. -/
abbrev nReplAbort : Nat := 0x194
/-- The number of TRING_HEAD. -/
abbrev nTringHead : Nat := 0x1A0
/-- The number of TRING_TAIL. -/
abbrev nTringTail : Nat := 0x1A1
/-- The number of DBG_SEL. -/
abbrev nDbgSel : Nat := 0x1B0
/-- The number of DBG_WAIT0. -/
abbrev nDbgWait0 : Nat := 0x1B1
/-- The number of DBG_WAIT1. -/
abbrev nDbgWait1 : Nat := 0x1B2
/-- The number of DBG_WAIT2. -/
abbrev nDbgWait2 : Nat := 0x1B3
/-- The number of DBG_PROG. -/
abbrev nDbgProg : Nat := 0x1B4
/-- The number of DLK_SCAN. -/
abbrev nDlkScan : Nat := 0x1B5
/-- The number of DLK_EXT. -/
abbrev nDlkExt : Nat := 0x1B6
/-- The number of DLK_BASE. -/
abbrev nDlkBase : Nat := 0x1B7
/-- The number of DLK_LOG. -/
abbrev nDlkLog : Nat := 0x1B8
/-- The number of DLK_HEAD. -/
abbrev nDlkHead : Nat := 0x1B9
/-- The number of DLK_TAIL. -/
abbrev nDlkTail : Nat := 0x1BA
/-- The number of DLK_LOST. -/
abbrev nDlkLost : Nat := 0x1BB
/-- The number of SMP_INT. -/
abbrev nSmpInt : Nat := 0x1C0
/-- The number of SMP_BASE. -/
abbrev nSmpBase : Nat := 0x1C1
/-- The number of SMP_LOG. -/
abbrev nSmpLog : Nat := 0x1C2
/-- The number of SMP_HEAD. -/
abbrev nSmpHead : Nat := 0x1C3
/-- The number of SMP_TAIL. -/
abbrev nSmpTail : Nat := 0x1C4
/-- The number of SMP_LOST. -/
abbrev nSmpLost : Nat := 0x1C5
/-- The number of DSTOP_EN. -/
abbrev nDstopEn : Nat := 0x1C8
/-- The number of DSTOP_GRID. -/
abbrev nDstopGrid : Nat := 0x1C9
/-- The number of DSTOP_TEAM. -/
abbrev nDstopTeam : Nat := 0x1CA
/-- The number of DSTOP_GRP. -/
abbrev nDstopGrp : Nat := 0x1CB
/-- The number of DSTOP_RWCL. -/
abbrev nDstopRwcl : Nat := 0x1CC
/-- The number of DSTOP_RWCH. -/
abbrev nDstopRwch : Nat := 0x1CD
/-- The number of TRC_CTL. -/
abbrev nTrcCtl : Nat := 0x1D0
/-- The number of TRC_BASE. -/
abbrev nTrcBase : Nat := 0x1D1
/-- The number of TRC_LOG. -/
abbrev nTrcLog : Nat := 0x1D2
/-- The number of TRC_HEAD. -/
abbrev nTrcHead : Nat := 0x1D3
/-- The number of TRC_TAIL. -/
abbrev nTrcTail : Nat := 0x1D4

/-- The reset value of register `num` (R289); 0 for VCORE_MAP, whose entries are held apart. -/
def resetValue (num : Nat) : Nat :=
  match reg? num with
  | some r => r.reset
  | none => 0

/-- One field of a written value: clamped to its range, to the gap's upper end inside the gap, and placed (R289). -/
def Field.store (f : Field) (whole : Bool) (v : Nat) : Nat :=
  let raw := if whole then v else v / 2 ^ f.lo % 2 ^ f.len
  let c := if raw < f.min then f.min else if f.max < raw then f.max else raw
  (if f.gapLo ≤ c ∧ c < f.gapHi then f.gapHi else c) * 2 ^ f.lo

/-- What a write of `v` stores in a register: the whole value clamped for one field, else each field by itself (R289). -/
def Reg.store (r : Reg) (v : Nat) : Nat :=
  match r.fields with
  | [f] => f.store true v
  | fs => (fs.map (Field.store · false v)).sum

/-- Accelerator cores of the part (R9). -/
abbrev numCores : Nat := 128

/-- Thread slots of a core (R17). -/
abbrev threadSlots : Nat := 8192

/-- Group slots, and team slots, of a core (R17). -/
abbrev numSlots : Nat := 256

/-- Bytes of AB on a core (R61). -/
abbrev abBytes : Nat := 2097152

/-- WB tiles on a core (R61). -/
abbrev wbTiles : Nat := 1024

/-- ACS tiles on a core (R233). -/
abbrev acsTiles : Nat := 256

/-- Operand records on a core (R233). -/
abbrev numRecords : Nat := 128

/-- Free value: whether source piece `n` of an overlapping copy reads the byte an earlier row wrote (R98). -/
opaque freeBool : Nat → Bool

/-- Free value: a byte that the spec leaves open (the bytes of an attestation report's signature, R351). -/
opaque freeByte : Nat → BitVec 8

/-- Free value: a word that the spec leaves open. -/
opaque freeWord : Nat → BitVec 32

/-- What this part is made with: byte `n` of an attestation report's serial number and boot ROM digest (R351, Table Sy-4). -/
opaque partByte : Nat → BitVec 8

/-- What boot `n` finds to load, which is not given (R349): the lengths and bytes of the Tolrus image, at most 4 MiB, and of Poxus. -/
opaque imageLen : Nat → Nat
opaque imageByte (n k : Nat) : BitVec 8
opaque poxusLen : Nat → Nat
opaque poxusByte (n k : Nat) : BitVec 8

/-- The Tolrus image of boot `n`, and its Poxus (R349). -/
def image (n : Nat) : List (BitVec 8) := (List.range (imageLen n)).map (imageByte n)
def poxusImage (n : Nat) : List (BitVec 8) := (List.range (poxusLen n)).map (poxusByte n)

/-- Byte `k` of the SHA3-512 digest of some bytes, which the spec does not compute (R349, R351). -/
opaque sha3 (bytes : List (BitVec 8)) (k : Nat) : BitVec 8

/-- An image with its signature passes the boot ROM's check against the fused key (R349). -/
opaque imageGood (bytes : List (BitVec 8)) : Bool

/-- Byte `k` of the SHA3-512 digest of a chip-scope configuration: the values of its registers, and its routes by rank (R351). -/
opaque configDigest (values routes : List Nat) (k : Nat) : BitVec 8

/-- The HBM channel of a physical address, which the spec does not give: 256 × stack + channel of the stack (R424). -/
opaque hbmChannel : Nat → Nat

/-- Bytes of the chip's hold area, which Tolrus reserves at boot (R266; log 84). -/
opaque holdBytes : Nat

/-- The CXL port behind which an address of CXL memory lies: the devices attached populate that range (Table Vi-4, R331; log 15). -/
opaque cxlPort : Nat → Nat

end Sys2Proof.Config

namespace Sys2Proof

/-- `i` names a configuration register (R289). -/
def cfgNumber (i : Nat) : Bool := (Config.reg? i).isSome

end Sys2Proof
end

