-- ==== Sys2Proof/Syntax.lean ====
section
/-!
DEFINITION. The instructions of the SH-4128 (spec/06, R147 to R152, and spec/opcode_table.json): one constructor for each row of
the table. The first 174 constructors are instruction words; a field keeps the name and the raw unsigned value that Table En-4 or
the entry's extension-word table gives it (`u` is the uniform bit, `d` `a` `b` the register numbers of D, A and B, `m` the variant
M, `i` the immediate). The last 74 are the steps of the other agents of the part (spec/95); their arguments carry what the outside
world or an open order of the spec decides; those without arguments stand last.
-/
namespace Sys2Proof

/-- One step of the part: an instruction of an issuing lane set, or a step of one of the part's other agents. -/
inductive Instr where
  /-- IADD (ALU 0x00, R167). Adds two registers modulo 2^32 in each active lane. -/
  | iadd (u : Bool) (d a b : Nat)
  /-- ISUB (ALU 0x01, R167). Subtracts two registers modulo 2^32 in each active lane. -/
  | isub (u : Bool) (d a b : Nat)
  /-- IADDI (ALU 0x02, R167). Adds a sign-extended 9-bit immediate to a register. -/
  | iaddi (u : Bool) (d a i : Nat)
  /-- IMUL (ALU 0x03, R167). Multiplies two registers and keeps the low 32 bits. -/
  | imul (u : Bool) (d a b : Nat)
  /-- IMULH (ALU 0x04, R167). Writes the high 32 bits of a signed or unsigned 64-bit product. -/
  | imulh (u : Bool) (d a b m : Nat)
  /-- IMAD (ALU 0x05, R167). Multiply-adds into a 32-bit register or a 64-bit pair. -/
  | imad (u : Bool) (d a b m : Nat)
  /-- IMIN (ALU 0x06, R167). Writes the signed or unsigned lesser of two registers. -/
  | imin (u : Bool) (d a b m : Nat)
  /-- IMAX (ALU 0x07, R167). Writes the signed or unsigned greater of two registers. -/
  | imax (u : Bool) (d a b m : Nat)
  /-- IABS (ALU 0x08, R167). Writes the absolute value, wrapping or saturating. -/
  | iabs (u : Bool) (d a m : Nat)
  /-- IADDS (ALU 0x09, R167). Adds or subtracts with signed or unsigned saturation. -/
  | iadds (u : Bool) (d a b m : Nat)
  /-- IADD64 (ALU 0x0A, R167). Adds two 64-bit register pairs modulo 2^64. -/
  | iadd64 (u : Bool) (d a b : Nat)
  /-- ISUB64 (ALU 0x0B, R167). Subtracts two 64-bit register pairs modulo 2^64. -/
  | isub64 (u : Bool) (d a b : Nat)
  /-- IXADD (ALU 0x0C, R167). Adds a register to another scaled by 1, 4, 8 or 16. -/
  | ixadd (u : Bool) (d a b m : Nat)
  /-- AND (ALU 0x10, R168). Bitwise AND of two registers. -/
  | and (u : Bool) (d a b : Nat)
  /-- OR (ALU 0x11, R168). Bitwise OR of two registers. -/
  | or (u : Bool) (d a b : Nat)
  /-- XOR (ALU 0x12, R168). Bitwise XOR of two registers. -/
  | xor (u : Bool) (d a b : Nat)
  /-- ANDN (ALU 0x13, R168). Bitwise AND of a register with the complement of another. -/
  | andn (u : Bool) (d a b : Nat)
  /-- ANDI (ALU 0x14, R168). Bitwise AND with a zero-extended 9-bit immediate. -/
  | andi (u : Bool) (d a i : Nat)
  /-- ORI (ALU 0x15, R168). Bitwise OR with a zero-extended 9-bit immediate. -/
  | ori (u : Bool) (d a i : Nat)
  /-- XORI (ALU 0x16, R168). Bitwise XOR with a zero-extended 9-bit immediate. -/
  | xori (u : Bool) (d a i : Nat)
  /-- SHL (ALU 0x18, R169). Shifts left by a register count. -/
  | shl (u : Bool) (d a b : Nat)
  /-- SHR (ALU 0x19, R169). Shifts right logically by a register count. -/
  | shr (u : Bool) (d a b : Nat)
  /-- SAR (ALU 0x1A, R169). Shifts right arithmetically by a register count. -/
  | sar (u : Bool) (d a b : Nat)
  /-- SHLI (ALU 0x1B, R169). Shifts left by an immediate count. -/
  | shli (u : Bool) (d a i : Nat)
  /-- SHRI (ALU 0x1C, R169). Shifts right logically by an immediate count. -/
  | shri (u : Bool) (d a i : Nat)
  /-- SARI (ALU 0x1D, R169). Shifts right arithmetically by an immediate count. -/
  | sari (u : Bool) (d a i : Nat)
  /-- POPC (ALU 0x20, R170). Counts the one bits of a register. -/
  | popc (u : Bool) (d a : Nat)
  /-- CLZ (ALU 0x21, R170). Counts leading zero bits of a register. -/
  | clz (u : Bool) (d a : Nat)
  /-- BREV (ALU 0x22, R170). Reverses the bit order of a register. -/
  | brev (u : Bool) (d a : Nat)
  /-- BFE (ALU 0x23, R171). Extracts a bit field, signed or unsigned. -/
  | bfe (u : Bool) (d a b m pos len : Nat) (sgn : Bool)
  /-- BFI (ALU 0x24, R171). Inserts a bit field into the destination register. -/
  | bfi (u : Bool) (d a b m pos len : Nat)
  /-- MOV (ALU 0x28, R172). Copies a register or register pair bit for bit. -/
  | mov (u : Bool) (d a m : Nat)
  /-- LI (ALU 0x29, R173). Loads a sign- or zero-extended 15-bit immediate. -/
  | li (u : Bool) (d m i : Nat)
  /-- LIX (ALU 0x2A, R173). Loads a 32-bit or 64-bit constant from the extension word. -/
  | lix (u : Bool) (d m i x : Nat)
  /-- SEL (ALU 0x2B, R174). Selects one of two registers by a condition flag. -/
  | sel (u : Bool) (d a b m cf : Nat) (inv : Bool)
  /-- MOVS (ALU 0x2C, R175). Reads a 32-bit special register. -/
  | movs (u : Bool) (d n : Nat)
  /-- MOVSW (ALU 0x2D, R175). Reads a 64-bit special register into a pair. -/
  | movsw (u : Bool) (d n : Nat)
  /-- ICMP (ALU 0x30, R176). Compares integers and writes a condition flag. -/
  | icmp (u : Bool) (c k a b m : Nat)
  /-- CLOG (ALU 0x32, R178). Combines two condition flags through a truth table. -/
  | clog (u : Bool) (c k p q : Nat)
  /-- FADD (ALU 0x40, R179). FP32 addition with one rounding. -/
  | fadd (u : Bool) (d a b m : Nat)
  /-- FSUB (ALU 0x41, R179). FP32 subtraction with one rounding. -/
  | fsub (u : Bool) (d a b m : Nat)
  /-- FMUL (ALU 0x42, R179). FP32 multiplication with one rounding. -/
  | fmul (u : Bool) (d a b m : Nat)
  /-- FFMA (ALU 0x43, R179). FP32 fused multiply-add with the destination as addend. -/
  | ffma (u : Bool) (d a b m : Nat)
  /-- FMIN (ALU 0x45, R180). FP32 minimumNumber or minimum. -/
  | fmin (u : Bool) (d a b m : Nat)
  /-- FMAX (ALU 0x46, R180). FP32 maximumNumber or maximum. -/
  | fmax (u : Bool) (d a b m : Nat)
  /-- FCMP (ALU 0x47, R177). Compares FP32 values and writes a condition flag. -/
  | fcmp (u : Bool) (c k a b m : Nat)
  /-- FRCP (ALU 0x48, R183). Correctly rounded FP32 reciprocal. -/
  | frcp (u : Bool) (d a m : Nat)
  /-- FRSQ (ALU 0x49, R183). Correctly rounded FP32 reciprocal square root. -/
  | frsq (u : Bool) (d a : Nat)
  /-- FSQRT (ALU 0x4A, R183). Correctly rounded FP32 square root. -/
  | fsqrt (u : Bool) (d a m : Nat)
  /-- FEXP2 (ALU 0x4B, R183). Correctly rounded FP32 power of two. -/
  | fexp2 (u : Bool) (d a : Nat)
  /-- FLOG2 (ALU 0x4C, R183). Correctly rounded FP32 base-2 logarithm. -/
  | flog2 (u : Bool) (d a : Nat)
  /-- FSIN (ALU 0x4D, R183). Correctly rounded FP32 sinPi. -/
  | fsin (u : Bool) (d a : Nat)
  /-- FCOS (ALU 0x4E, R183). Correctly rounded FP32 cosPi. -/
  | fcos (u : Bool) (d a : Nat)
  /-- FTANH (ALU 0x4F, R183). Correctly rounded FP32 hyperbolic tangent. -/
  | ftanh (u : Bool) (d a : Nat)
  /-- FRND (ALU 0x50, R181). Rounds an FP32 value to an integral value. -/
  | frnd (u : Bool) (d a m : Nat)
  /-- FCPS (ALU 0x51, R182). Changes only the sign bit of a value. -/
  | fcps (u : Bool) (d a b m : Nat)
  /-- HADD2 (ALU 0x58, R184). Packed 16-bit floating-point addition. -/
  | hadd2 (u : Bool) (d a b : Nat) (bf : Bool)
  /-- HMUL2 (ALU 0x59, R184). Packed 16-bit floating-point multiplication. -/
  | hmul2 (u : Bool) (d a b : Nat) (bf : Bool)
  /-- HFMA2 (ALU 0x5A, R184). Packed 16-bit fused multiply-add. -/
  | hfma2 (u : Bool) (d a b : Nat) (bf : Bool)
  /-- HMIN2 (ALU 0x5B, R184). Packed 16-bit minimumNumber. -/
  | hmin2 (u : Bool) (d a b : Nat) (bf : Bool)
  /-- HMAX2 (ALU 0x5C, R184). Packed 16-bit maximumNumber. -/
  | hmax2 (u : Bool) (d a b : Nat) (bf : Bool)
  /-- HDOT2 (ALU 0x5D, R184). Packed 16-bit dot product accumulated into FP32. -/
  | hdot2 (u : Bool) (d a b : Nat) (bf : Bool)
  /-- CVT (ALU 0x80, R186). Converts 1, 2 or 4 elements between formats. -/
  | cvt (u : Bool) (d a src dst rm : Nat) (satx : Bool) (ncnt : Nat)
  /-- CVTQ (ALU 0x81, R187). Quantises a block to V4 or FP8 codes with a scale byte. -/
  | cvtq (u : Bool) (d a b src dst rm : Nat) (satx : Bool) (vtype : Nat) (blk had smode : Bool) (sbyte : Nat)
  /-- CVTD (ALU 0x82, R188). Dequantises a V4 or FP8 block to a wider format. -/
  | cvtd (u : Bool) (d a b src dst rm : Nat) (blk had scl : Bool) (sbyte : Nat)
  /-- BSCL (ALU 0x83, R189). Multiplies by a V4 or E8M0 block scale. -/
  | bscl (u : Bool) (d a b rm : Nat) (styp inv : Bool) (sbyte : Nat)
  /-- HADM (ALU 0x84, R190). Applies the Walsh-Hadamard transform to a block. -/
  | hadm (u : Bool) (d a typ rm : Nat) (nrm blk : Bool)
  /-- VCLASS (ALU 0x88, R191). Classifies a value, recognising verdicts. -/
  | vclass (u : Bool) (d a : Nat)
  /-- VZERO (ALU 0x89, R191). Replaces verdicts, and optionally negatives, with +0. -/
  | vzero (u : Bool) (d a m : Nat)
  /-- VFILL (ALU 0x8A, R191). Replaces verdicts with a fill register value. -/
  | vfill (u : Bool) (d a b : Nat)
  /-- SHFL (ALU 0xA0, R192). Moves register values between active lanes. -/
  | shfl (d a b m : Nat)
  /-- VOTE (ALU 0xA1, R193). Votes a condition flag across active lanes. -/
  | vote (d p m : Nat)
  /-- PRFX (ALU 0xA2, R194). Inclusive or exclusive prefix sum over active lanes. -/
  | prfx (d a m : Nat)
  /-- RDUC (ALU 0xA3, R195). Reduces a register over all active lanes. -/
  | rduc (d a k : Nat)
  /-- LDB (MEM 0x00, R202). Loads a zero-extended byte. -/
  | ldb (u : Bool) (d a h i : Nat)
  /-- LDBS (MEM 0x01, R202). Loads a sign-extended byte. -/
  | ldbs (u : Bool) (d a h i : Nat)
  /-- LDH (MEM 0x02, R202). Loads a zero-extended half. -/
  | ldh (u : Bool) (d a h i : Nat)
  /-- LDHS (MEM 0x03, R202). Loads a sign-extended half. -/
  | ldhs (u : Bool) (d a h i : Nat)
  /-- LDW (MEM 0x04, R202). Loads a word. -/
  | ldw (u : Bool) (d a h i : Nat)
  /-- LDD (MEM 0x05, R202). Loads a double into a register pair. -/
  | ldd (u : Bool) (d a h i : Nat)
  /-- LDQ (MEM 0x06, R202). Loads a quad into four registers. -/
  | ldq (u : Bool) (d a h i : Nat)
  /-- STB (MEM 0x08, R203). Stores a byte. -/
  | stb (u : Bool) (d a h i : Nat)
  /-- STH (MEM 0x09, R203). Stores a half. -/
  | sth (u : Bool) (d a h i : Nat)
  /-- STW (MEM 0x0A, R203). Stores a word. -/
  | stw (u : Bool) (d a h i : Nat)
  /-- STD (MEM 0x0B, R203). Stores a double from a register pair. -/
  | std (u : Bool) (d a h i : Nat)
  /-- STQ (MEM 0x0C, R203). Stores a quad from four registers. -/
  | stq (u : Bool) (d a h i : Nat)
  /-- PFCH (MEM 0x0E, R204). Prefetches a line into L1 with a read lease. -/
  | pfch (u : Bool) (a h i : Nat)
  /-- AADD (MEM 0x20, R207). Uniform-address atomic add, per-lane operands combined in lane order. -/
  | aadd (d a h i src : Nat) (nr : Bool) (ty : Nat)
  /-- AINC (MEM 0x21, R207). Atomic increment with wrap bound. -/
  | ainc (d a h i src : Nat) (nr : Bool) (ty : Nat)
  /-- ADEC (MEM 0x22, R207). Atomic decrement saturating at zero. -/
  | adec (d a h i : Nat) (nr : Bool) (ty : Nat)
  /-- AMIN (MEM 0x23, R207). Atomic minimum. -/
  | amin (d a h i src : Nat) (nr : Bool) (ty : Nat)
  /-- AMAX (MEM 0x24, R207). Atomic maximum. -/
  | amax (d a h i src : Nat) (nr : Bool) (ty : Nat)
  /-- AAND (MEM 0x25, R207). Atomic bitwise AND. -/
  | aand (d a h i src : Nat) (nr : Bool) (ty : Nat)
  /-- AOR (MEM 0x26, R207). Atomic bitwise OR. -/
  | aor (d a h i src : Nat) (nr : Bool) (ty : Nat)
  /-- AXOR (MEM 0x27, R207). Atomic bitwise XOR. -/
  | axor (d a h i src : Nat) (nr : Bool) (ty : Nat)
  /-- ASWP (MEM 0x28, R207). Atomic swap. -/
  | aswp (d a h i src : Nat) (nr : Bool) (ty : Nat)
  /-- ACAS (MEM 0x29, R207). Atomic compare and swap. -/
  | acas (d a h i src cmp : Nat) (nr : Bool) (ty : Nat)
  /-- UPD (MEM 0x30, R210). Emits a 32-bit update pair toward the bindery. -/
  | upd (u : Bool) (d a h i : Nat)
  /-- UPDD (MEM 0x31, R210). Emits a 64-bit update pair toward the bindery. -/
  | updd (u : Bool) (d a h i : Nat)
  /-- UFLUSH (MEM 0x32, R211). Waits until the lane's earlier pairs are applied and their triggers queued. -/
  | uflush (u : Bool)
  /-- UAPPLY (MEM 0x33, R212). Applies the gathering of the folio holding the address. -/
  | uapply (u : Bool) (a h i : Nat)
  /-- WAITC (MEM 0x40, R213). Compares a memory word and arms a monitor until the relation holds. -/
  | waitc (u : Bool) (d a h i cmp k ty : Nat)
  /-- FENCE (MEM 0x41, R215). Team, chip or system fence. -/
  | fence (u : Bool) (m : Nat)
  /-- MBSEND (MEM 0x42, R216). Sends a 64-byte message to a core's mailbox, reporting placed or full. -/
  | mbsend (u : Bool) (d a b mbox : Nat)
  /-- MBRECV (MEM 0x43, R217). Takes the oldest mailbox message, waiting if empty. -/
  | mbrecv (u : Bool) (d mbox : Nat)
  /-- MBPOLL (MEM 0x44, R217). Takes a mailbox message if present, without waiting. -/
  | mbpoll (u : Bool) (d a mbox : Nat)
  /-- BOINIT (MEM 0x48, R220). Initialises a barrier object's expectations and counts. -/
  | boinit (u : Bool) (d a h i : Nat)
  /-- BOARR (MEM 0x49, R221). Adds arrivals and bytes to a barrier object. -/
  | boarr (u : Bool) (d a h i : Nat)
  /-- BOWAIT (MEM 0x4A, R222). Waits until a barrier object is complete and returns PADDED. -/
  | bowait (u : Bool) (d a h i : Nat)
  /-- BOTST (MEM 0x4B, R222). Tests whether a barrier object is complete. -/
  | botst (u : Bool) (d a h i : Nat)
  /-- WATCH (MEM 0x50, R225). Makes a watch live from a descriptor. -/
  | watch (u : Bool) (d a h i : Nat) (susp : Bool)
  /-- WDROP (MEM 0x51, R226). Drops a live watch and discards its undispatched triggers. -/
  | wdrop (u : Bool) (d a h i : Nat)
  /-- WRESUME (MEM 0x52, R227). Clears a watch's suspension and resumes dispatch. -/
  | wresume (u : Bool) (d a h i : Nat)
  /-- WSTAT (MEM 0x53, R228). Reads a live watch's hardware state. -/
  | wstat (u : Bool) (d a h i : Nat)
  /-- BIND (MEM 0x54, R229). Applies old gatherings and binds a buffer to an operator and policy. -/
  | bind (u : Bool) (h opc : Nat) (eager : Bool)
  /-- UNBIND (MEM 0x55, R231). Applies every gathering and leaves the buffer unbound. -/
  | unbind (u : Bool) (h : Nat)
  /-- HSET (MEM 0x60, R232). Writes a handle slot from a register. -/
  | hset (u : Bool) (a s : Nat)
  /-- HGET (MEM 0x61, R232). Reads a handle slot into a register. -/
  | hget (u : Bool) (d s : Nat)
  /-- HLEN (MEM 0x62, R232). Reads the length of the buffer a slot names, or 0. -/
  | hlen (u : Bool) (d s : Nat)
  /-- MMA (MTX 0x00, R247). Matrix multiply-accumulate into an ACS tile as one engine operation. -/
  | mma (a b o ssel xz : Nat) (acc : Bool) (v t sb sa : Nat)
  /-- MMAV (MTX 0x01, R248). Verdict matrix accumulation with bound monitor and abandonment. -/
  | mmav (a b o ssel xz : Nat) (acc : Bool) (v t sb sa : Nat)
  /-- ORSET (MTX 0x08, R245). Writes an operand record from registers. -/
  | orset (d a : Nat)
  /-- ORGET (MTX 0x09, R245). Reads an operand record into registers. -/
  | orget (d a : Nat)
  /-- ACCZ (MTX 0x10, R254). Clears ACS tiles and resets thresholds and step counts. -/
  | accz (d q t : Nat)
  /-- ACCRD (MTX 0x11, R255). Reads ACS elements into registers. -/
  | accrd (d t row0 col0 nreg : Nat)
  /-- ACCWR (MTX 0x12, R255). Writes registers into ACS elements. -/
  | accwr (d t row0 col0 nreg : Nat)
  /-- MTHR (MTX 0x18, R252). Raises row thresholds, or sets threshold and step count from the control thread. -/
  | mthr (d a b m : Nat)
  /-- MVST (MTX 0x19, R256). Reads abandoned bitmaps or threshold and step count of rows. -/
  | mvst (d a b m : Nat)
  /-- MSTAT (MTX 0x1A, R257). Reads a matrix counter of the team. -/
  | mstat (d k : Nat)
  /-- MSYNC (MTX 0x20, R258). Waits until earlier matrix operations reach their end points. -/
  | msync (m : Nat)
  /-- TLOAD (ENG 0x00, R262). Posts a tile copy from global or AB into AB or WB. -/
  | tload (u : Bool) (d a n : Nat)
  /-- TSTORE (ENG 0x01, R265). Posts a tile copy from AB or ACS to global memory. -/
  | tstore (u : Bool) (d a n : Nat)
  /-- TGATH (ENG 0x02, R263). Posts an indexed gather copy with padded rows. -/
  | tgath (u : Bool) (d a n : Nat)
  /-- TSCAT (ENG 0x03, R263). Posts an indexed scatter copy with dropped padded rows. -/
  | tscat (u : Bool) (d a n : Nat)
  /-- TCAST (ENG 0x04, R266). Posts a multicast copy to the grid's teams on masked cores. -/
  | tcast (u : Bool) (d a n : Nat)
  /-- TFILL (ENG 0x05, R262). Posts a fill of destination rows with a pattern. -/
  | tfill (u : Bool) (d a n : Nat)
  /-- FWAIT (ENG 0x10, R272). Waits until a future register, or all, is not pending. -/
  | fwait (u : Bool) (a m : Nat)
  /-- FTEST (ENG 0x11, R272). Tests whether a future register is pending. -/
  | ftest (u : Bool) (d a : Nat)
  /-- FCANCEL (ENG 0x12, R273). Releases a pending future with status 1. -/
  | fcancel (u : Bool) (a : Nat)
  /-- LAUNCH (ENG 0x18, R275). Reads a launch record and queues a grid, optionally replicated. -/
  | launch (u : Bool) (d a n : Nat) (repl : Bool)
  /-- ZOPEN (ENG 0x20, R277). Opens a stream from a descriptor. -/
  | zopen (u : Bool) (z a : Nat)
  /-- ZADV (ENG 0x21, R277). Advances a stream position. -/
  | zadv (u : Bool) (z i : Nat)
  /-- ZEND (ENG 0x22, R277). Sets a flag in lanes past the stream end. -/
  | zend (u : Bool) (c z : Nat)
  /-- ZCLOSE (ENG 0x23, R277). Closes a stream. -/
  | zclose (u : Bool) (z : Nat)
  /-- ZLD (ENG 0x24, R277). Loads stream values per lane. -/
  | zld (u : Bool) (d z : Nat)
  /-- ZCRD (ENG 0x25, R277). Loads stream coordinates per lane. -/
  | zcrd (u : Bool) (d z : Nat)
  /-- EVPOP (ENG 0x30, R281). Pops the oldest event record, optionally waiting. -/
  | evpop (u : Bool) (d : Nat) (w : Bool)
  /-- EVPEEK (ENG 0x31, R281). Reads the oldest event record without removing it. -/
  | evpeek (u : Bool) (d : Nat)
  /-- QCFG (ENG 0x38, R280). Configures a queue's AB overflow area. -/
  | qcfg (u : Bool) (d a : Nat)
  /-- BR (CTL 0x00, R282). Conditional branch per lane on a condition flag. -/
  | br (c : Nat) (s : Bool) (o : Nat)
  /-- JMP (CTL 0x01, R282). Unconditional relative jump. -/
  | jmp (o : Nat)
  /-- JMPI (CTL 0x02, R282). Indirect jump to a per-lane code offset. -/
  | jmpi (a : Nat)
  /-- CALL (CTL 0x03, R282). Relative call pushing the return address. -/
  | call (o : Nat)
  /-- CALLI (CTL 0x04, R282). Indirect call pushing the return address. -/
  | calli (a : Nat)
  /-- RET (CTL 0x05, R282). Pops the return address and continues there. -/
  | ret
  /-- EXIT (CTL 0x06, R284). Makes active lanes vacant. -/
  | exit
  /-- BAR (CTL 0x08, R285). Arrives at a team barrier and waits for the phase. -/
  | bar (b : Nat)
  /-- BARA (CTL 0x09, R285). Arrives at a team barrier without waiting. -/
  | bara (b : Nat)
  /-- BARW (CTL 0x0A, R285). Waits for the phase of the lane's latest arrival. -/
  | barw (b : Nat)
  /-- RACQ (CTL 0x10, R286). Raises the group's register-block allocation, waiting as needed. -/
  | racq (k : Nat)
  /-- RREL (CTL 0x11, R286). Lowers the group's register-block allocation. -/
  | rrel (k : Nat)
  /-- PMARK (CTL 0x12, R287). Adds to the progress counter and restarts the watchdog count. -/
  | pmark
  /-- SLEEP (CTL 0x13, R287). Holds lanes for 64 times the immediate cycles. -/
  | sleep (i : Nat)
  /-- TRAP (CTL 0x18, R288). Raises SOFTWARE_TRAP with an immediate. -/
  | trap (i : Nat)
  /-- BKPT (CTL 0x19, R288). Raises BREAKPOINT with an immediate. -/
  | bkpt (i : Nat)
  /-- NOP (CTL 0x1A, R287). Issues and does nothing. -/
  | nop
  /-- CFGRD (CTL 0x20, R289). Reads a configuration register. -/
  | cfgrd (d i : Nat)
  /-- CFGWR (CTL 0x21, R289). Writes a configuration register with clamping. -/
  | cfgwr (d i : Nat)
  /-- ERET (CTL 0x22, R294). Leaves the handler, applies TRAP_RESUME and ends the fault stop. -/
  | eret
  /-- GSTAT (CTL 0x23, R290). Reads state of a group slot or team slot. -/
  | gstat (d a m : Nat)
  /-- GSAVE (CTL 0x24, R292). Writes a group or team image to memory. -/
  | gsave (a b m : Nat)
  /-- GLOAD (CTL 0x25, R292). Makes a frozen team or adds a group from an image. -/
  | gload (d a b m : Nat)
  /-- GSTOP (CTL 0x26, R291). Freezes, releases, halts or unhalts a team or group. -/
  | gstop (a m : Nat)
  /-- GKILL (CTL 0x27, R293). Ends a team or group at once. -/
  | gkill (a m : Nat)
  /-- REGISTER_WRITEBACK (R305). A fixed-latency result is written and its flag count cleared. -/
  | registerWriteback (id : Nat)
  /-- ACCESS_REPLY (R30). Load data, atomic result or remote reply returns and waiting lanes resume. -/
  | accessReply (id code data : Nat)
  /-- STORE_ACK (R457). A store, pair or non-returning atomic is placed and acknowledged to the core. -/
  | storeAck (id code : Nat)
  /-- MATRIX_OP_END (R251). A matrix-class engine operation reaches its end point. -/
  | matrixOpEnd (id : Nat)
  /-- TILE_COPY_BATCH_DELIVERY (R268). A batch of eight rows is delivered and counted on the barrier object. -/
  | tileCopyBatchDelivery (id : Nat)
  /-- FUTURE_WRITTEN (R271). A completed request writes its completion word to the future register. -/
  | futureWritten (id : Nat)
  /-- MONITOR_WAKEUP (R105). A write meets an armed WAITC condition and wakes the lane. -/
  | monitorWakeup (id : Nat)
  /-- WAITC_RECOMPARE (R106). With the monitor table full, the compare is re-issued every 4,096 cycles. -/
  | waitcRecompare (core agent : Nat)
  /-- MAILBOX_DELIVERY (R86). A message arrives at its mailbox and wakes a waiting receiver. -/
  | mailboxDelivery (core mbox : Nat)
  /-- RACQ_GRANT (R29). A waiting RACQ is served when enough blocks free. -/
  | racqGrant (core : Nat)
  /-- SLEEP_EXPIRY (R287). A SLEEP's hold time runs out. -/
  | sleepExpiry (core agent : Nat)
  /-- BATCH_CLOSE (R72). A sorted batch closes at 1,024 pairs or 512 cycles and joins gatherings. -/
  | batchClose (bindery : Nat)
  /-- TRIGGER_DISPATCH (R82). A lead slice dispatches an eligible trigger under max live. -/
  | triggerDispatch (slice : Nat)
  /-- TRIGGER_SPILL_RETURN (R81). A spilled trigger returns to its slice's pool as room frees. -/
  | triggerSpillReturn (vi : Nat)
  /-- LAUNCH_DISPATCH (R41). The distributor takes a grid from the pending-launch queue. -/
  | launchDispatch (core : Nat)
  /-- OVERFLOW_ENTRY_RETURN (R279). An AB overflow entry moves back into its queue as pool entries free. -/
  | overflowEntryReturn (core team queue : Nat)
  /-- LAUNCH_QUEUE_TAIL_WRITE (R345). A doorbell write to a launch queue's TAIL covers new packets. -/
  | launchQueueTailWrite (queue value : Nat)
  /-- LAUNCH_PACKET_READ (R345). The part reads a launch packet and advances HEAD. -/
  | launchPacketRead (queue : Nat)
  /-- LAUNCH_WAIT_MET (R297). An armed packet wait becomes met. -/
  | launchWaitMet (queue : Nat)
  /-- LAUNCH_REPLICA_ARRIVAL (R44). A replicated launch copy arrives at a chip of the set. -/
  | launchReplicaArrival (gen rank : Nat) (accepted : Bool) (bits vi prio depth chips : Nat)
  /-- START_BARRIER_PASS (R44). Every chip has accepted its copy; the grid's teams may start. -/
  | startBarrierPass (gen : Nat)
  /-- REMOTE_ACCESS_ARRIVAL (R60). A remote-window access is checked and performed at the home chip. -/
  | remoteAccessArrival (rank vi handle off bytes kind ty data depth : Nat)
  /-- REMOTE_TIMEOUT (R432). A remote access without reply for REMOTE_TO cycles is reported. -/
  | remoteTimeout (id : Nat)
  /-- REPLICATION_TIMEOUT (R433). A start barrier not passed within REMOTE_TO cycles is reported. -/
  | replicationTimeout (gen : Nat)
  /-- REPL_ABORT_WRITE (R433). Discards a replicated launch of the given generation on every chip. -/
  | replAbortWrite (gen : Nat)
  /-- SIDE_LOG_REPLAY (R330). The head side-log entry replays once its page is present. -/
  | sideLogReplay (core : Nat)
  /-- SIDE_LOG_FULL (R418). A full side log for SLOG_WAIT cycles posts a record. -/
  | sideLogFull (core : Nat)
  /-- PAGE_IN_COMPLETE (R328). A page read from storage is installed in T0. -/
  | pageInComplete (vi va : Nat) (ok : Bool)
  /-- MIGRATION_LINE_COPY (R331). A migration entry copies one line and advances its pointer. -/
  | migrationLineCopy (entry : Nat)
  /-- MIGRATION_FAILED (R426). A destination write fails and the move reverses. -/
  | migrationFailed (entry : Nat)
  /-- ACCESS_BIT_SWEEP (R333). Every SAMPLE_PERIOD a tier clears access bits and finds cold pages. -/
  | accessBitSweep (tier : Nat)
  /-- BINDERY_QUOTA (R429). UPD stalled BQ_WAIT cycles on a full spill area posts a record. -/
  | binderyQuota (vi core team : Nat)
  /-- THERMAL_READING (R300). Every 10 µs a core's temperature excludes or readmits it. -/
  | thermalReading (core celsius : Nat)
  /-- DROOP_EVENT (R300). A supply-droop event may exclude the core for DROOP_HOLD. -/
  | droopEvent (core : Nat)
  /-- DROOP_HOLD_EXPIRY (R300). A droop exclusion hold ends. -/
  | droopHoldExpiry (core : Nat)
  /-- IDLE_SWAP (R312). A team parked SWAP_IDLE cycles may be swapped for a waiting team. -/
  | idleSwap (core team : Nat)
  /-- WATCHDOG (R410). A persistent team's count reaches WDOG_WIN and its core stops. -/
  | watchdog (core team : Nat)
  /-- GSTOP_DRAIN_COMPLETE (R291). A frozen team finishes draining and GSTOP completes. -/
  | gstopDrainComplete (core : Nat)
  /-- CT_RUN_WRITE (R52). Writing 1 starts the control thread; writing 0 kills the core's teams. -/
  | ctRunWrite (core value : Nat)
  /-- SWAP_OUT_WRITE (R315). Frees a saved team's resources and marks it swapped out. -/
  | swapOutWrite (core value : Nat)
  /-- VI_SYNC_WRITE (R322). Discards cached table entries and translations of a virtual interface. -/
  | viSyncWrite (vi : Nat)
  /-- VI_SYNC_COMPLETE (R322). Earlier accesses are performed and VI_SYNC reads 0. -/
  | viSyncComplete (vi : Nat)
  /-- PT_INVAL_WRITE (R327). Discards translations of a 2 MiB span. -/
  | ptInvalWrite (vi value : Nat)
  /-- PT_INVAL_COMPLETE (R327). Later accesses use the current tables and PT_INVAL reads 0. -/
  | ptInvalComplete (vi : Nat)
  /-- PWR_MODE_WRITE (R15). Selects a power mode effective at the next tick boundary. -/
  | pwrModeWrite (value : Nat)
  /-- FAB_ROUTE_WRITE (R425). Sets a rank's route and moves waiting flits to the new port. -/
  | fabRouteWrite (value : Nat)
  /-- TRC_CTL_WRITE (R453). Starts or ends instruction trace for a virtual interface. -/
  | trcCtlWrite (core value : Nat)
  /-- DSTOP_EN_WRITE (R452). Arms a stop on a retired-work count. -/
  | dstopEnWrite (vi value : Nat)
  /-- DSTOP_HIT (R452). The named group stops before issue DSTOP_RWC as a BREAKPOINT entry. -/
  | dstopHit (core group : Nat)
  /-- COUNTER_READ_CLEAR (R6). Reading an RC counter returns and clears it. -/
  | counterReadClear (number core vi : Nat)
  /-- CONFIG_REGISTER_WRITE (R289). Writes a configuration register without behaviour of its own, clamped to range. -/
  | configRegisterWrite (number core vi value : Nat)
  /-- APERTURE_ACCESS (R342). A general-purpose core accesses a buffer through an aperture window. -/
  | apertureAccess (window off bytes kind ty data : Nat)
  /-- GP_PLAIN_ACCESS (R341). A general-purpose core's plain physical access at a home slice. -/
  | gpPlainAccess (pa bytes : Nat) (write : Bool) (data : Nat)
  /-- FLIT_CRC_ERROR (R425). A fabric flit fails CRC and is replayed and counted. -/
  | flitCrcError (port : Nat) (ok : Bool)
  /-- LINK_DOWN (R425). A fabric port cannot deliver and is reported down. -/
  | linkDown (port : Nat)
  /-- HBM_CRC_ERROR (R424). An HBM channel transfer fails CRC and is replayed. -/
  | hbmCrcError (channel : Nat) (ok : Bool)
  /-- HBM_RETRAIN_COMPLETE (R424). Channel retraining ends, or fails with LINK_DOWN. -/
  | hbmRetrainComplete (channel : Nat) (ok : Bool)
  /-- CXL_DEVICE_LOST (R427). A lost CXL device's pages read as poisoned. -/
  | cxlDeviceLost (port pa bytes : Nat)
  /-- ATTESTATION_REQUEST (R351). Returns a signed attestation report for a nonce. -/
  | attestationRequest (nonce : Nat)
  /-- DEPLOY_COMMAND (R352). Owner-signed command to enter DEPLOYED at next reset. -/
  | deployCommand (signed : Bool)
  /-- RMA_COMMAND (R352). Witegil-signed command to enter RMA, destroying identity and namespaces. -/
  | rmaCommand (signed : Bool)
  /-- BIND_COMPLETE (R229). The applies of every gathering of a buffer that BIND or UNBIND started are finished, and the held lane resumes. -/
  | bindComplete (core agent : Nat)
  /-- CXL_PORT_ERROR (R384). A CXL or PCIe error reported by a port is counted in ERR_CXL and posted as a CXL_ERROR machine check with its status. -/
  | cxlPortError (port status : Nat)
  /-- TICK (R2). Each core's program timestamp advances every 64 cycles; power mode changes take effect. -/
  | tick
  /-- UPDATE_PAIR_ARRIVAL (R71). An update pair reaches its home slice and is forwarded to the bindery. -/
  | updatePairArrival
  /-- TEAM_PLACEMENT (R301). The distributor places a team on a core or pair by resources, locality and temperature. -/
  | teamPlacement
  /-- PACKET_DISPATCH (R298). A ready head packet is dispatched by priority and turn. -/
  | packetDispatch
  /-- REHOME_EPOCH (R337). At each epoch AUTO spans are re-homed or returned to FINE. -/
  | rehomeEpoch
  /-- QUANTUM_EXPIRY (R311). A time slice ends and an incoming virtual interface takes victims. -/
  | quantumExpiry
  /-- SAMPLE_POINT (R451). At each sample point slots write stall records of active groups. -/
  | samplePoint
  /-- DEADLOCK_SCAN (R449). Every DLK_SCAN the wait-for graph is built and deadlocks reported. -/
  | deadlockScan
  /-- PART_RESET (R350). A reset wipes SRAM, HBM and LPDDR and runs boot. -/
  | partReset
  /-- PROVISION_COMMAND (R352). Factory command to enter PROVISIONED at next reset. -/
  | provisionCommand
  /-- DECOMMISSION_COMMAND (R352). Command to enter the final DECOMMISSIONED state. -/
  | decommissionCommand
  deriving DecidableEq, Repr

end Sys2Proof
end

