-- ==== Sys2Proof/Machine/Checks.lean ====
section
/-!
DEFINITION. `Instr.checks`: the reserved uses of each instruction's entry (R164, R198, R394), each with the lowest bit of its field and
its reason of Table Fe-3, by which the decoder refuses. It stands under Machine so that a repair may mend it.
-/
namespace Sys2Proof

/-- A condition that a field of an instruction must meet: the lowest bit of the field (extension-word bits count from 32), the
reason of Table Fe-3, and whether the field meets it. -/
structure Check where
  bit    : Nat
  reason : Nat
  ok     : Bool
  deriving DecidableEq, Repr

/-- An even register number, as a pair needs (R150, R164). -/
def isEven (r : Nat) : Bool := r % 2 == 0

/-- The `n` registers from `r` end by v127 (R164). -/
def fits (r n : Nat) : Bool := decide (r + n ≤ 128)

/-- A 64-bit type code of the atomics (Table Mi-4). -/
def is64 (ty : Nat) : Bool := ty == 2 || ty == 3

/-- N of CVT's NCNT field (Table Al-9). -/
def cvtCount (ncnt : Nat) : Nat := if ncnt = 0 then 1 else if ncnt = 1 then 2 else 4

/-- The block length of BLK (Tables Al-10 and Al-12). -/
def blockLen (blk : Bool) : Nat := if blk then 32 else 16

/-- The width in bits of a conversion type code (Table Al-8). -/
def typeWidth (code : Nat) : Nat :=
  match code with
  | 0 => 32 | 1 => 16 | 2 => 16 | 3 => 8 | 4 => 8 | 5 => 8 | 6 => 32 | 7 => 32 | 8 => 64 | 9 => 64 | 10 => 4 | _ => 32

/-- The registers that `n` elements of type `code` take (R185). -/
def typeRegs (n code : Nat) : Nat := (n * typeWidth code + 31) / 32

/-- A type of codes: FP8 or V4 (Table Al-8). -/
def isCode8 (code : Nat) : Bool := code == 3 || code == 4 || code == 10

/-- The types and the count of a CVT are none that its entry reserves, so that its registers have a number (R185). -/
def cvtSized (src dst ncnt : Nat) : Bool :=
  src ≤ 9 && dst ≤ 9 && ncnt ≤ 2 && cvtCount ncnt * typeWidth src ≤ 128 && cvtCount ncnt * typeWidth dst ≤ 128

/-- Every value of type `src` is a value of type `dst`, so a conversion never rounds or saturates (R186). -/
def cvtExact (src dst : Nat) : Bool :=
  src == dst ||
  match src, dst with
  | 1, 0 => true | 2, 0 => true | 3, 0 => true | 4, 0 => true
  | 3, 1 => true | 3, 2 => true | 4, 1 => true | 4, 2 => true
  | 5, 0 => true | 5, 1 => true | 5, 2 => true | 5, 6 => true | 5, 8 => true
  | 6, 8 => true | 7, 8 => true | 7, 9 => true
  | _, _ => false

/-- The reserved uses of each instruction's entry, besides the unused fields that the decoder checks (R164, R198). DESIGN CHOICE: SBYTE
is ignored where SCL = 0 (R188, log 120). DEDUCED: a field that must be 0 is reason 1, an M outside its values reason 2 (log 130). -/
def Instr.checks : Instr → List Check
  | .iadd _ _ _ _ => []
  | .isub _ _ _ _ => []
  | .iaddi _ _ _ _ => []
  | .imul _ _ _ _ => []
  | .imulh _ _ _ _ m => [⟨0, 2, m ≤ 1⟩]
  | .imad _ d _ _ m => [⟨0, 2, m ≤ 2⟩, ⟨16, 3, m == 0 || isEven d⟩]
  | .imin _ _ _ _ m => [⟨0, 2, m ≤ 1⟩]
  | .imax _ _ _ _ m => [⟨0, 2, m ≤ 1⟩]
  | .iabs _ _ _ m => [⟨0, 2, m ≤ 1⟩]
  | .iadds _ _ _ _ _ => []
  | .iadd64 _ d a b => [⟨16, 3, isEven d⟩, ⟨9, 3, isEven a⟩, ⟨2, 3, isEven b⟩]
  | .isub64 _ d a b => [⟨16, 3, isEven d⟩, ⟨9, 3, isEven a⟩, ⟨2, 3, isEven b⟩]
  | .ixadd _ _ _ _ _ => []
  | .and _ _ _ _ => []
  | .or _ _ _ _ => []
  | .xor _ _ _ _ => []
  | .andn _ _ _ _ => []
  | .andi _ _ _ _ => []
  | .ori _ _ _ _ => []
  | .xori _ _ _ _ => []
  | .shl _ _ _ _ => []
  | .shr _ _ _ _ => []
  | .sar _ _ _ _ => []
  | .shli _ _ _ _ => []
  | .shri _ _ _ _ => []
  | .sari _ _ _ _ => []
  | .popc _ _ _ => []
  | .clz _ _ _ => []
  | .brev _ _ _ => []
  | .bfe _ _ _ b m pos len _ => [⟨0, 2, m ≤ 1⟩, ⟨2, 1, m == 1 || b == 0⟩, ⟨32, if m = 1 then 1 else 2, if m = 1 then pos == 0 else decide (pos ≤ 31)⟩, ⟨40, if m = 1 then 1 else 2, if m = 1 then len == 0 else decide (len ≤ 32)⟩]
  | .bfi _ _ _ b m pos len => [⟨0, 2, m ≤ 1⟩, ⟨2, 1, m == 1 || b == 0⟩, ⟨32, if m = 1 then 1 else 2, if m = 1 then pos == 0 else decide (pos ≤ 31)⟩, ⟨40, if m = 1 then 1 else 2, if m = 1 then len == 0 else decide (len ≤ 32)⟩]
  | .mov _ d a m => [⟨0, 2, m ≤ 1⟩, ⟨16, 3, m != 1 || isEven d⟩, ⟨9, 3, m != 1 || isEven a⟩]
  | .li _ _ _ _ => []
  | .lix _ d m i _ => [⟨0, 1, m == 1 || i == 0⟩, ⟨16, 3, m == 0 || isEven d⟩]
  | .sel _ d a b m _ _ => [⟨0, 2, m ≤ 1⟩, ⟨16, 3, m != 1 || isEven d⟩, ⟨9, 3, m != 1 || isEven a⟩, ⟨2, 3, m != 1 || isEven b⟩]
  | .movs _ _ n => [⟨0, 5, n ≤ 16 && n != 14 && n != 15⟩]
  | .movsw _ d n => [⟨16, 3, isEven d⟩, ⟨0, 5, n == 14 || n == 15⟩]
  | .icmp _ _ k a b m => [⟨16, 2, k ≤ 5⟩, ⟨9, 3, m ≤ 1 || isEven a⟩, ⟨2, 3, m ≤ 1 || isEven b⟩]
  | .clog _ _ _ _ _ => []
  | .fadd _ _ _ _ _ => []
  | .fsub _ _ _ _ _ => []
  | .fmul _ _ _ _ _ => []
  | .ffma _ _ _ _ _ => []
  | .fmin _ _ _ _ m => [⟨0, 2, m ≤ 1⟩]
  | .fmax _ _ _ _ m => [⟨0, 2, m ≤ 1⟩]
  | .fcmp _ _ k _ _ m => [⟨16, 2, k ≤ 7⟩, ⟨0, 2, m ≤ 1⟩]
  | .frcp _ _ _ _ => []
  | .frsq _ _ _ => []
  | .fsqrt _ _ _ _ => []
  | .fexp2 _ _ _ => []
  | .flog2 _ _ _ => []
  | .fsin _ _ _ => []
  | .fcos _ _ _ => []
  | .ftanh _ _ _ => []
  | .frnd _ _ _ _ => []
  | .fcps _ _ _ _ m => [⟨0, 2, m ≤ 2⟩]
  | .hadd2 _ _ _ _ _ => []
  | .hmul2 _ _ _ _ _ => []
  | .hfma2 _ _ _ _ _ => []
  | .hmin2 _ _ _ _ _ => []
  | .hmax2 _ _ _ _ _ => []
  | .hdot2 _ _ _ _ _ => []
  | .cvt _ d a src dst rm satx ncnt => [⟨32, 2, src ≤ 9⟩, ⟨36, 2, dst ≤ 9⟩, ⟨45, 2, rm ≤ 5 && !(rm == 4 && cvtExact src dst)⟩, ⟨48, 1, !satx || dst ≤ 4⟩, ⟨49, 2, ncnt ≤ 2 && cvtCount ncnt * typeWidth src ≤ 128 && cvtCount ncnt * typeWidth dst ≤ 128⟩, ⟨9, 3, (!cvtSized src dst ncnt || fits a (typeRegs (cvtCount ncnt) src)) && (typeWidth src != 64 || isEven a)⟩, ⟨16, 3, (!cvtSized src dst ncnt || fits d (typeRegs (cvtCount ncnt) dst)) && (typeWidth dst != 64 || isEven d)⟩]
  | .cvtq _ d a _ src dst rm satx vtype blk _ smode _ => [⟨32, 2, src ≤ 2⟩, ⟨36, 2, isCode8 dst⟩, ⟨45, 2, rm ≤ 5⟩, ⟨48, 1, !satx || dst != 10⟩, ⟨49, 1, vtype == 0 || (dst == 10 && !smode)⟩, ⟨9, 3, !(src ≤ 2) || fits a (typeRegs (blockLen blk) src)⟩, ⟨16, 3, !isCode8 dst || fits d (typeRegs (blockLen blk) dst)⟩]
  | .cvtd _ d a b src dst rm blk _ scl _ => [⟨32, 2, isCode8 src⟩, ⟨36, 2, dst ≤ 2⟩, ⟨45, 2, rm ≤ 5⟩, ⟨53, 2, scl || src != 10⟩, ⟨2, 1, scl || b == 0⟩, ⟨9, 3, !isCode8 src || fits a (typeRegs (blockLen blk) src)⟩, ⟨16, 3, !(dst ≤ 2) || fits d (typeRegs (blockLen blk) dst)⟩]
  | .bscl _ _ _ _ rm _ _ _ => [⟨45, 2, rm ≤ 5 && rm != 4⟩]
  | .hadm _ d a typ rm _ blk => [⟨32, 2, typ ≤ 2⟩, ⟨45, 2, rm ≤ 5 && rm != 4⟩, ⟨9, 3, !(typ ≤ 2) || fits a (typeRegs (blockLen blk) typ)⟩, ⟨16, 3, !(typ ≤ 2) || fits d (typeRegs (blockLen blk) typ)⟩]
  | .vclass _ _ _ => []
  | .vzero _ _ _ m => [⟨0, 2, m ≤ 1⟩]
  | .vfill _ _ _ _ => []
  | .shfl _ _ _ _ => []
  | .vote _ _ _ => []
  | .prfx _ _ _ => []
  | .rduc _ _ k => [⟨2, 2, k ≤ 10⟩]
  | .ldb _ _ _ h _ => [⟨5, 4, h ≤ 13⟩]
  | .ldbs _ _ _ h _ => [⟨5, 4, h ≤ 13⟩]
  | .ldh _ _ _ h _ => [⟨5, 4, h ≤ 13⟩]
  | .ldhs _ _ _ h _ => [⟨5, 4, h ≤ 13⟩]
  | .ldw _ _ _ h _ => [⟨5, 4, h ≤ 13⟩]
  | .ldd _ d _ h _ => [⟨5, 4, h ≤ 13⟩, ⟨16, 3, isEven d⟩]
  | .ldq _ d _ h _ => [⟨5, 4, h ≤ 13⟩, ⟨16, 3, isEven d && fits d 4⟩]
  | .stb _ _ _ h _ => [⟨5, 4, h ≤ 12⟩]
  | .sth _ _ _ h _ => [⟨5, 4, h ≤ 12⟩]
  | .stw _ _ _ h _ => [⟨5, 4, h ≤ 12⟩]
  | .std _ d _ h _ => [⟨5, 4, h ≤ 12⟩, ⟨16, 3, isEven d⟩]
  | .stq _ d _ h _ => [⟨5, 4, h ≤ 12⟩, ⟨16, 3, isEven d && fits d 4⟩]
  | .pfch _ _ h _ => [⟨5, 4, h ≤ 11⟩]
  | .aadd d _ h _ src nr ty => [⟨5, 4, h ≤ 12⟩, ⟨47, 2, ty ≤ 4⟩, ⟨16, if nr = true then 1 else 3, if nr then d == 0 else !is64 ty || isEven d⟩, ⟨32, 3, !is64 ty || isEven src⟩]
  | .ainc d _ h _ src nr ty => [⟨5, 4, h ≤ 12⟩, ⟨47, 2, ty == 1 || ty == 3⟩, ⟨16, if nr = true then 1 else 3, if nr then d == 0 else !is64 ty || isEven d⟩, ⟨32, 3, !is64 ty || isEven src⟩]
  | .adec d _ h _ nr ty => [⟨5, 4, h ≤ 12⟩, ⟨47, 2, ty == 1 || ty == 3⟩, ⟨16, if nr = true then 1 else 3, if nr then d == 0 else !is64 ty || isEven d⟩]
  | .amin d _ h _ src nr ty => [⟨5, 4, h ≤ 12⟩, ⟨47, 2, ty ≤ 4⟩, ⟨16, if nr = true then 1 else 3, if nr then d == 0 else !is64 ty || isEven d⟩, ⟨32, 3, !is64 ty || isEven src⟩]
  | .amax d _ h _ src nr ty => [⟨5, 4, h ≤ 12⟩, ⟨47, 2, ty ≤ 4⟩, ⟨16, if nr = true then 1 else 3, if nr then d == 0 else !is64 ty || isEven d⟩, ⟨32, 3, !is64 ty || isEven src⟩]
  | .aand d _ h _ src nr ty => [⟨5, 4, h ≤ 12⟩, ⟨47, 2, ty == 1 || ty == 3⟩, ⟨16, if nr = true then 1 else 3, if nr then d == 0 else !is64 ty || isEven d⟩, ⟨32, 3, !is64 ty || isEven src⟩]
  | .aor d _ h _ src nr ty => [⟨5, 4, h ≤ 12⟩, ⟨47, 2, ty == 1 || ty == 3⟩, ⟨16, if nr = true then 1 else 3, if nr then d == 0 else !is64 ty || isEven d⟩, ⟨32, 3, !is64 ty || isEven src⟩]
  | .axor d _ h _ src nr ty => [⟨5, 4, h ≤ 12⟩, ⟨47, 2, ty == 1 || ty == 3⟩, ⟨16, if nr = true then 1 else 3, if nr then d == 0 else !is64 ty || isEven d⟩, ⟨32, 3, !is64 ty || isEven src⟩]
  | .aswp d _ h _ src nr ty => [⟨5, 4, h ≤ 12⟩, ⟨47, 2, ty == 1 || ty == 3⟩, ⟨16, if nr = true then 1 else 3, if nr then d == 0 else !is64 ty || isEven d⟩, ⟨32, 3, !is64 ty || isEven src⟩]
  | .acas d _ h _ src cmp nr ty => [⟨5, 4, h ≤ 12⟩, ⟨47, 2, ty == 1 || ty == 3⟩, ⟨16, if nr = true then 1 else 3, if nr then d == 0 else !is64 ty || isEven d⟩, ⟨32, 3, !is64 ty || isEven src⟩, ⟨39, 3, !is64 ty || isEven cmp⟩]
  | .upd _ _ _ h _ => [⟨5, 4, h ≤ 11⟩]
  | .updd _ d _ h _ => [⟨5, 4, h ≤ 11⟩, ⟨16, 3, isEven d⟩]
  | .uflush _ => []
  | .uapply _ _ h _ => [⟨5, 4, h ≤ 11⟩]
  | .waitc _ d _ h _ cmp k ty => [⟨5, 4, h ≤ 11⟩, ⟨39, 2, k ≤ 5⟩, ⟨16, 3, ty ≤ 1 || isEven d⟩, ⟨32, 3, ty ≤ 1 || isEven cmp⟩]
  | .fence _ m => [⟨0, 2, m ≤ 2⟩]
  | .mbsend _ _ a _ _ => [⟨9, 3, fits a 16⟩]
  | .mbrecv _ d _ => [⟨16, 3, fits d 16⟩]
  | .mbpoll _ d _ _ => [⟨16, 3, fits d 16⟩]
  | .boinit _ d _ h _ => [⟨5, 4, h == 12⟩, ⟨16, 3, fits d 3⟩]
  | .boarr _ _ _ h _ => [⟨5, 4, h == 12⟩]
  | .bowait _ _ _ h _ => [⟨5, 4, h == 12⟩]
  | .botst _ _ _ h _ => [⟨5, 4, h == 12⟩]
  | .watch _ _ _ h _ _ => [⟨5, 4, h ≤ 11⟩]
  | .wdrop _ _ _ h _ => [⟨5, 4, h ≤ 11⟩]
  | .wresume _ _ _ h _ => [⟨5, 4, h ≤ 11⟩]
  | .wstat _ d _ h _ => [⟨5, 4, h ≤ 11⟩, ⟨16, 3, fits d 4⟩]
  | .bind _ h opc _ => [⟨5, 4, h ≤ 11⟩, ⟨32, 2, opc ≤ 0x13⟩]
  | .unbind _ h => [⟨5, 4, h ≤ 11⟩]
  | .hset _ _ s => [⟨0, 2, s ≤ 11⟩]
  | .hget _ _ s => [⟨0, 2, s ≤ 11⟩]
  | .hlen _ d s => [⟨16, 3, isEven d⟩, ⟨0, 2, s ≤ 11⟩]
  | .mma _ _ _ _ _ _ _ _ _ _ => []
  | .mmav _ _ _ _ _ _ _ _ _ _ => []
  | .orset _ a => [⟨9, 3, fits a 16⟩]
  | .orget d _ => [⟨16, 3, fits d 16⟩]
  | .accz _ q _ => [⟨9, 2, q != 0⟩]
  | .accrd d _ _ col0 nreg => [⟨47, 2, col0 + (nreg + 1) ≤ 64⟩, ⟨16, 3, fits d (nreg + 1)⟩]
  | .accwr d _ _ col0 nreg => [⟨47, 2, col0 + (nreg + 1) ≤ 64⟩, ⟨16, 3, fits d (nreg + 1)⟩]
  | .mthr _ a _ m => [⟨0, 2, m ≤ 1⟩, ⟨9, 3, m != 1 || fits a 2⟩]
  | .mvst d _ _ m => [⟨16, 3, isEven d⟩, ⟨0, 2, m ≤ 1⟩]
  | .mstat d k => [⟨16, 3, isEven d⟩, ⟨2, 2, k ≤ 5⟩]
  | .msync m => [⟨0, 2, m ≤ 1⟩]
  | .tload _ _ _ _ => []
  | .tstore _ _ _ _ => []
  | .tgath _ _ _ _ => []
  | .tscat _ _ _ _ => []
  | .tcast _ _ _ _ => []
  | .tfill _ _ _ _ => []
  | .fwait _ a m => [⟨0, 2, m ≤ 1⟩, ⟨9, 1, m == 0 || a == 0⟩]
  | .ftest _ d a => [⟨16, 2, d != a⟩]
  | .fcancel _ _ => []
  | .launch _ d _ _ repl => [⟨16, if repl = true then 3 else 1, if repl then isEven d else d == 0⟩]
  | .zopen _ _ _ => []
  | .zadv _ _ _ => []
  | .zend _ _ _ => []
  | .zclose _ _ => []
  | .zld _ _ _ => []
  | .zcrd _ _ _ => []
  | .evpop _ d _ => [⟨16, 3, fits d 16⟩]
  | .evpeek _ d => [⟨16, 3, fits d 16⟩]
  | .qcfg _ d _ => [⟨16, 3, isEven d⟩]
  | .br _ _ _ => []
  | .jmp _ => []
  | .jmpi _ => []
  | .call _ => []
  | .calli _ => []
  | .ret => []
  | .exit => []
  | .bar _ => []
  | .bara _ => []
  | .barw _ => []
  | .racq k => [⟨0, 2, 1 ≤ k && k ≤ 8⟩]
  | .rrel k => [⟨0, 2, 1 ≤ k && k ≤ 8⟩]
  | .pmark => []
  | .sleep _ => []
  | .trap _ => []
  | .bkpt _ => []
  | .nop => []
  | .cfgrd _ i => [⟨0, 2, cfgNumber i⟩]
  | .cfgwr _ i => [⟨0, 2, cfgNumber i⟩]
  | .eret => []
  | .gstat d _ m => [⟨0, 2, m ≤ 1⟩, ⟨16, 3, fits d (if m = 1 then 6 else 4)⟩]
  | .gsave _ _ m => [⟨0, 2, m ≤ 1⟩]
  | .gload _ a _ m => [⟨0, 2, m ≤ 1⟩, ⟨9, 1, m != 1 || a == 0⟩]
  | .gstop _ _ => []
  | .gkill _ m => [⟨0, 2, m ≤ 1⟩]
  | .registerWriteback _ => []
  | .accessReply _ _ _ => []
  | .storeAck _ _ => []
  | .matrixOpEnd _ => []
  | .tileCopyBatchDelivery _ => []
  | .futureWritten _ => []
  | .monitorWakeup _ => []
  | .waitcRecompare _ _ => []
  | .mailboxDelivery _ _ => []
  | .racqGrant _ => []
  | .sleepExpiry _ _ => []
  | .batchClose _ => []
  | .triggerDispatch _ => []
  | .triggerSpillReturn _ => []
  | .launchDispatch _ => []
  | .overflowEntryReturn _ _ _ => []
  | .launchQueueTailWrite _ _ => []
  | .launchPacketRead _ => []
  | .launchWaitMet _ => []
  | .launchReplicaArrival _ _ _ _ _ _ _ _ => []
  | .startBarrierPass _ => []
  | .remoteAccessArrival _ _ _ _ _ _ _ _ _ => []
  | .remoteTimeout _ => []
  | .replicationTimeout _ => []
  | .replAbortWrite _ => []
  | .sideLogReplay _ => []
  | .sideLogFull _ => []
  | .pageInComplete _ _ _ => []
  | .migrationLineCopy _ => []
  | .migrationFailed _ => []
  | .accessBitSweep _ => []
  | .binderyQuota _ _ _ => []
  | .thermalReading _ _ => []
  | .droopEvent _ => []
  | .droopHoldExpiry _ => []
  | .idleSwap _ _ => []
  | .watchdog _ _ => []
  | .gstopDrainComplete _ => []
  | .ctRunWrite _ _ => []
  | .swapOutWrite _ _ => []
  | .viSyncWrite _ => []
  | .viSyncComplete _ => []
  | .ptInvalWrite _ _ => []
  | .ptInvalComplete _ => []
  | .pwrModeWrite _ => []
  | .fabRouteWrite _ => []
  | .trcCtlWrite _ _ => []
  | .dstopEnWrite _ _ => []
  | .dstopHit _ _ => []
  | .counterReadClear _ _ _ => []
  | .configRegisterWrite _ _ _ _ => []
  | .apertureAccess _ _ _ _ _ _ => []
  | .gpPlainAccess _ _ _ _ => []
  | .flitCrcError _ _ => []
  | .linkDown _ => []
  | .hbmCrcError _ _ => []
  | .hbmRetrainComplete _ _ => []
  | .cxlDeviceLost _ _ _ => []
  | .attestationRequest _ => []
  | .deployCommand _ => []
  | .rmaCommand _ => []
  | .bindComplete _ _ => []
  | .cxlPortError _ _ => []
  | .tick => []
  | .updatePairArrival => []
  | .teamPlacement => []
  | .packetDispatch => []
  | .rehomeEpoch => []
  | .quantumExpiry => []
  | .samplePoint => []
  | .deadlockScan => []
  | .partReset => []
  | .provisionCommand => []
  | .decommissionCommand => []

end Sys2Proof
end

