-- ==== Sys2Proof/WellFormed.lean ====
section
/-!
DEFINITION. Well-formed instructions. `Instr.inRange` says that each field fits the bits its format gives it (Tables En-4, Al-3 to
Mx-6); `Instr.checks` (Machine/Checks.lean) lists the reserved uses of each entry; an instruction is well-formed when its fields fit and
no listed use is reserved. The decoder refuses by the same list.
-/
namespace Sys2Proof

/-- Each field of an instruction word fits the bits that its format gives it; an event carries no word. -/
def Instr.inRange : Instr → Bool
  | .iadd _ d a b => decide (d < 128 ∧ a < 128 ∧ b < 128)
  | .isub _ d a b => decide (d < 128 ∧ a < 128 ∧ b < 128)
  | .iaddi _ d a i => decide (d < 128 ∧ a < 128 ∧ i < 512)
  | .imul _ d a b => decide (d < 128 ∧ a < 128 ∧ b < 128)
  | .imulh _ d a b m => decide (d < 128 ∧ a < 128 ∧ b < 128 ∧ m < 4)
  | .imad _ d a b m => decide (d < 128 ∧ a < 128 ∧ b < 128 ∧ m < 4)
  | .imin _ d a b m => decide (d < 128 ∧ a < 128 ∧ b < 128 ∧ m < 4)
  | .imax _ d a b m => decide (d < 128 ∧ a < 128 ∧ b < 128 ∧ m < 4)
  | .iabs _ d a m => decide (d < 128 ∧ a < 128 ∧ m < 4)
  | .iadds _ d a b m => decide (d < 128 ∧ a < 128 ∧ b < 128 ∧ m < 4)
  | .iadd64 _ d a b => decide (d < 128 ∧ a < 128 ∧ b < 128)
  | .isub64 _ d a b => decide (d < 128 ∧ a < 128 ∧ b < 128)
  | .ixadd _ d a b m => decide (d < 128 ∧ a < 128 ∧ b < 128 ∧ m < 4)
  | .and _ d a b => decide (d < 128 ∧ a < 128 ∧ b < 128)
  | .or _ d a b => decide (d < 128 ∧ a < 128 ∧ b < 128)
  | .xor _ d a b => decide (d < 128 ∧ a < 128 ∧ b < 128)
  | .andn _ d a b => decide (d < 128 ∧ a < 128 ∧ b < 128)
  | .andi _ d a i => decide (d < 128 ∧ a < 128 ∧ i < 512)
  | .ori _ d a i => decide (d < 128 ∧ a < 128 ∧ i < 512)
  | .xori _ d a i => decide (d < 128 ∧ a < 128 ∧ i < 512)
  | .shl _ d a b => decide (d < 128 ∧ a < 128 ∧ b < 128)
  | .shr _ d a b => decide (d < 128 ∧ a < 128 ∧ b < 128)
  | .sar _ d a b => decide (d < 128 ∧ a < 128 ∧ b < 128)
  | .shli _ d a i => decide (d < 128 ∧ a < 128 ∧ i < 512)
  | .shri _ d a i => decide (d < 128 ∧ a < 128 ∧ i < 512)
  | .sari _ d a i => decide (d < 128 ∧ a < 128 ∧ i < 512)
  | .popc _ d a => decide (d < 128 ∧ a < 128)
  | .clz _ d a => decide (d < 128 ∧ a < 128)
  | .brev _ d a => decide (d < 128 ∧ a < 128)
  | .bfe _ d a b m pos len _ => decide (d < 128 ∧ a < 128 ∧ b < 128 ∧ m < 4 ∧ pos < 64 ∧ len < 64)
  | .bfi _ d a b m pos len => decide (d < 128 ∧ a < 128 ∧ b < 128 ∧ m < 4 ∧ pos < 64 ∧ len < 64)
  | .mov _ d a m => decide (d < 128 ∧ a < 128 ∧ m < 4)
  | .li _ d m i => decide (d < 128 ∧ m < 2 ∧ i < 32768)
  | .lix _ d m i x => decide (d < 128 ∧ m < 2 ∧ i < 32768 ∧ x < 4294967296)
  | .sel _ d a b m cf _ => decide (d < 128 ∧ a < 128 ∧ b < 128 ∧ m < 4 ∧ cf < 8)
  | .movs _ d n => decide (d < 128 ∧ n < 128)
  | .movsw _ d n => decide (d < 128 ∧ n < 128)
  | .icmp _ c k a b m => decide (c < 8 ∧ k < 16 ∧ a < 128 ∧ b < 128 ∧ m < 4)
  | .clog _ c k p q => decide (c < 8 ∧ k < 16 ∧ p < 8 ∧ q < 8)
  | .fadd _ d a b m => decide (d < 128 ∧ a < 128 ∧ b < 128 ∧ m < 4)
  | .fsub _ d a b m => decide (d < 128 ∧ a < 128 ∧ b < 128 ∧ m < 4)
  | .fmul _ d a b m => decide (d < 128 ∧ a < 128 ∧ b < 128 ∧ m < 4)
  | .ffma _ d a b m => decide (d < 128 ∧ a < 128 ∧ b < 128 ∧ m < 4)
  | .fmin _ d a b m => decide (d < 128 ∧ a < 128 ∧ b < 128 ∧ m < 4)
  | .fmax _ d a b m => decide (d < 128 ∧ a < 128 ∧ b < 128 ∧ m < 4)
  | .fcmp _ c k a b m => decide (c < 8 ∧ k < 16 ∧ a < 128 ∧ b < 128 ∧ m < 4)
  | .frcp _ d a m => decide (d < 128 ∧ a < 128 ∧ m < 4)
  | .frsq _ d a => decide (d < 128 ∧ a < 128)
  | .fsqrt _ d a m => decide (d < 128 ∧ a < 128 ∧ m < 4)
  | .fexp2 _ d a => decide (d < 128 ∧ a < 128)
  | .flog2 _ d a => decide (d < 128 ∧ a < 128)
  | .fsin _ d a => decide (d < 128 ∧ a < 128)
  | .fcos _ d a => decide (d < 128 ∧ a < 128)
  | .ftanh _ d a => decide (d < 128 ∧ a < 128)
  | .frnd _ d a m => decide (d < 128 ∧ a < 128 ∧ m < 4)
  | .fcps _ d a b m => decide (d < 128 ∧ a < 128 ∧ b < 128 ∧ m < 4)
  | .hadd2 _ d a b _ => decide (d < 128 ∧ a < 128 ∧ b < 128)
  | .hmul2 _ d a b _ => decide (d < 128 ∧ a < 128 ∧ b < 128)
  | .hfma2 _ d a b _ => decide (d < 128 ∧ a < 128 ∧ b < 128)
  | .hmin2 _ d a b _ => decide (d < 128 ∧ a < 128 ∧ b < 128)
  | .hmax2 _ d a b _ => decide (d < 128 ∧ a < 128 ∧ b < 128)
  | .hdot2 _ d a b _ => decide (d < 128 ∧ a < 128 ∧ b < 128)
  | .cvt _ d a src dst rm _ ncnt => decide (d < 128 ∧ a < 128 ∧ src < 16 ∧ dst < 16 ∧ rm < 8 ∧ ncnt < 4)
  | .cvtq _ d a b src dst rm _ vtype _ _ _ sbyte => decide (d < 128 ∧ a < 128 ∧ b < 128 ∧ src < 16 ∧ dst < 16 ∧ rm < 8 ∧ vtype < 4 ∧ sbyte < 4)
  | .cvtd _ d a b src dst rm _ _ _ sbyte => decide (d < 128 ∧ a < 128 ∧ b < 128 ∧ src < 16 ∧ dst < 16 ∧ rm < 8 ∧ sbyte < 4)
  | .bscl _ d a b rm _ _ sbyte => decide (d < 128 ∧ a < 128 ∧ b < 128 ∧ rm < 8 ∧ sbyte < 4)
  | .hadm _ d a typ rm _ _ => decide (d < 128 ∧ a < 128 ∧ typ < 16 ∧ rm < 8)
  | .vclass _ d a => decide (d < 128 ∧ a < 128)
  | .vzero _ d a m => decide (d < 128 ∧ a < 128 ∧ m < 4)
  | .vfill _ d a b => decide (d < 128 ∧ a < 128 ∧ b < 128)
  | .shfl d a b m => decide (d < 128 ∧ a < 128 ∧ b < 128 ∧ m < 4)
  | .vote d p m => decide (d < 128 ∧ p < 8 ∧ m < 4)
  | .prfx d a m => decide (d < 128 ∧ a < 128 ∧ m < 4)
  | .rduc d a k => decide (d < 128 ∧ a < 128 ∧ k < 128)
  | .ldb _ d a h i => decide (d < 128 ∧ a < 128 ∧ h < 16 ∧ i < 32)
  | .ldbs _ d a h i => decide (d < 128 ∧ a < 128 ∧ h < 16 ∧ i < 32)
  | .ldh _ d a h i => decide (d < 128 ∧ a < 128 ∧ h < 16 ∧ i < 32)
  | .ldhs _ d a h i => decide (d < 128 ∧ a < 128 ∧ h < 16 ∧ i < 32)
  | .ldw _ d a h i => decide (d < 128 ∧ a < 128 ∧ h < 16 ∧ i < 32)
  | .ldd _ d a h i => decide (d < 128 ∧ a < 128 ∧ h < 16 ∧ i < 32)
  | .ldq _ d a h i => decide (d < 128 ∧ a < 128 ∧ h < 16 ∧ i < 32)
  | .stb _ d a h i => decide (d < 128 ∧ a < 128 ∧ h < 16 ∧ i < 32)
  | .sth _ d a h i => decide (d < 128 ∧ a < 128 ∧ h < 16 ∧ i < 32)
  | .stw _ d a h i => decide (d < 128 ∧ a < 128 ∧ h < 16 ∧ i < 32)
  | .std _ d a h i => decide (d < 128 ∧ a < 128 ∧ h < 16 ∧ i < 32)
  | .stq _ d a h i => decide (d < 128 ∧ a < 128 ∧ h < 16 ∧ i < 32)
  | .pfch _ a h i => decide (a < 128 ∧ h < 16 ∧ i < 32)
  | .aadd d a h i src _ ty => decide (d < 128 ∧ a < 128 ∧ h < 16 ∧ i < 32 ∧ src < 128 ∧ ty < 8)
  | .ainc d a h i src _ ty => decide (d < 128 ∧ a < 128 ∧ h < 16 ∧ i < 32 ∧ src < 128 ∧ ty < 8)
  | .adec d a h i _ ty => decide (d < 128 ∧ a < 128 ∧ h < 16 ∧ i < 32 ∧ ty < 8)
  | .amin d a h i src _ ty => decide (d < 128 ∧ a < 128 ∧ h < 16 ∧ i < 32 ∧ src < 128 ∧ ty < 8)
  | .amax d a h i src _ ty => decide (d < 128 ∧ a < 128 ∧ h < 16 ∧ i < 32 ∧ src < 128 ∧ ty < 8)
  | .aand d a h i src _ ty => decide (d < 128 ∧ a < 128 ∧ h < 16 ∧ i < 32 ∧ src < 128 ∧ ty < 8)
  | .aor d a h i src _ ty => decide (d < 128 ∧ a < 128 ∧ h < 16 ∧ i < 32 ∧ src < 128 ∧ ty < 8)
  | .axor d a h i src _ ty => decide (d < 128 ∧ a < 128 ∧ h < 16 ∧ i < 32 ∧ src < 128 ∧ ty < 8)
  | .aswp d a h i src _ ty => decide (d < 128 ∧ a < 128 ∧ h < 16 ∧ i < 32 ∧ src < 128 ∧ ty < 8)
  | .acas d a h i src cmp _ ty => decide (d < 128 ∧ a < 128 ∧ h < 16 ∧ i < 32 ∧ src < 128 ∧ cmp < 128 ∧ ty < 8)
  | .upd _ d a h i => decide (d < 128 ∧ a < 128 ∧ h < 16 ∧ i < 32)
  | .updd _ d a h i => decide (d < 128 ∧ a < 128 ∧ h < 16 ∧ i < 32)
  | .uflush _ => true
  | .uapply _ a h i => decide (a < 128 ∧ h < 16 ∧ i < 32)
  | .waitc _ d a h i cmp k ty => decide (d < 128 ∧ a < 128 ∧ h < 16 ∧ i < 32 ∧ cmp < 128 ∧ k < 16 ∧ ty < 4)
  | .fence _ m => decide (m < 4)
  | .mbsend _ d a b mbox => decide (d < 128 ∧ a < 128 ∧ b < 128 ∧ mbox < 8)
  | .mbrecv _ d mbox => decide (d < 128 ∧ mbox < 8)
  | .mbpoll _ d a mbox => decide (d < 128 ∧ a < 128 ∧ mbox < 8)
  | .boinit _ d a h i => decide (d < 128 ∧ a < 128 ∧ h < 16 ∧ i < 32)
  | .boarr _ d a h i => decide (d < 128 ∧ a < 128 ∧ h < 16 ∧ i < 32)
  | .bowait _ d a h i => decide (d < 128 ∧ a < 128 ∧ h < 16 ∧ i < 32)
  | .botst _ d a h i => decide (d < 128 ∧ a < 128 ∧ h < 16 ∧ i < 32)
  | .watch _ d a h i _ => decide (d < 128 ∧ a < 128 ∧ h < 16 ∧ i < 32)
  | .wdrop _ d a h i => decide (d < 128 ∧ a < 128 ∧ h < 16 ∧ i < 32)
  | .wresume _ d a h i => decide (d < 128 ∧ a < 128 ∧ h < 16 ∧ i < 32)
  | .wstat _ d a h i => decide (d < 128 ∧ a < 128 ∧ h < 16 ∧ i < 32)
  | .bind _ h opc _ => decide (h < 16 ∧ opc < 64)
  | .unbind _ h => decide (h < 16)
  | .hset _ a s => decide (a < 128 ∧ s < 16)
  | .hget _ d s => decide (d < 128 ∧ s < 16)
  | .hlen _ d s => decide (d < 128 ∧ s < 16)
  | .mma a b o ssel xz _ v t sb sa => decide (a < 128 ∧ b < 128 ∧ o < 128 ∧ ssel < 4 ∧ xz < 4 ∧ v < 128 ∧ t < 256 ∧ sb < 128 ∧ sa < 128)
  | .mmav a b o ssel xz _ v t sb sa => decide (a < 128 ∧ b < 128 ∧ o < 128 ∧ ssel < 4 ∧ xz < 4 ∧ v < 128 ∧ t < 256 ∧ sb < 128 ∧ sa < 128)
  | .orset d a => decide (d < 128 ∧ a < 128)
  | .orget d a => decide (d < 128 ∧ a < 128)
  | .accz d q t => decide (d < 128 ∧ q < 16 ∧ t < 256)
  | .accrd d t row0 col0 nreg => decide (d < 128 ∧ t < 256 ∧ row0 < 128 ∧ col0 < 64 ∧ nreg < 16)
  | .accwr d t row0 col0 nreg => decide (d < 128 ∧ t < 256 ∧ row0 < 128 ∧ col0 < 64 ∧ nreg < 16)
  | .mthr d a b m => decide (d < 128 ∧ a < 128 ∧ b < 128 ∧ m < 4)
  | .mvst d a b m => decide (d < 128 ∧ a < 128 ∧ b < 128 ∧ m < 4)
  | .mstat d k => decide (d < 128 ∧ k < 128)
  | .msync m => decide (m < 4)
  | .tload _ d a n => decide (d < 128 ∧ a < 128 ∧ n < 64)
  | .tstore _ d a n => decide (d < 128 ∧ a < 128 ∧ n < 64)
  | .tgath _ d a n => decide (d < 128 ∧ a < 128 ∧ n < 64)
  | .tscat _ d a n => decide (d < 128 ∧ a < 128 ∧ n < 64)
  | .tcast _ d a n => decide (d < 128 ∧ a < 128 ∧ n < 64)
  | .tfill _ d a n => decide (d < 128 ∧ a < 128 ∧ n < 64)
  | .fwait _ a m => decide (a < 128 ∧ m < 4)
  | .ftest _ d a => decide (d < 128 ∧ a < 128)
  | .fcancel _ a => decide (a < 128)
  | .launch _ d a n _ => decide (d < 128 ∧ a < 128 ∧ n < 64)
  | .zopen _ z a => decide (z < 8 ∧ a < 128)
  | .zadv _ z i => decide (z < 8 ∧ i < 512)
  | .zend _ c z => decide (c < 8 ∧ z < 8)
  | .zclose _ z => decide (z < 8)
  | .zld _ d z => decide (d < 128 ∧ z < 8)
  | .zcrd _ d z => decide (d < 128 ∧ z < 8)
  | .evpop _ d _ => decide (d < 128)
  | .evpeek _ d => decide (d < 128)
  | .qcfg _ d a => decide (d < 128 ∧ a < 128)
  | .br c _ o => decide (c < 8 ∧ o < 524288)
  | .jmp o => decide (o < 8388608)
  | .jmpi a => decide (a < 128)
  | .call o => decide (o < 8388608)
  | .calli a => decide (a < 128)
  | .ret => true
  | .exit => true
  | .bar b => decide (b < 8)
  | .bara b => decide (b < 8)
  | .barw b => decide (b < 8)
  | .racq k => decide (k < 512)
  | .rrel k => decide (k < 512)
  | .pmark => true
  | .sleep i => decide (i < 512)
  | .trap i => decide (i < 512)
  | .bkpt i => decide (i < 512)
  | .nop => true
  | .cfgrd d i => decide (d < 128 ∧ i < 32768)
  | .cfgwr d i => decide (d < 128 ∧ i < 32768)
  | .eret => true
  | .gstat d a m => decide (d < 128 ∧ a < 128 ∧ m < 4)
  | .gsave a b m => decide (a < 128 ∧ b < 128 ∧ m < 4)
  | .gload d a b m => decide (d < 128 ∧ a < 128 ∧ b < 128 ∧ m < 4)
  | .gstop a m => decide (a < 128 ∧ m < 4)
  | .gkill a m => decide (a < 128 ∧ m < 4)
  | .registerWriteback _ => true
  | .accessReply _ _ _ => true
  | .storeAck _ _ => true
  | .matrixOpEnd _ => true
  | .tileCopyBatchDelivery _ => true
  | .futureWritten _ => true
  | .monitorWakeup _ => true
  | .waitcRecompare _ _ => true
  | .mailboxDelivery _ _ => true
  | .racqGrant _ => true
  | .sleepExpiry _ _ => true
  | .batchClose _ => true
  | .triggerDispatch _ => true
  | .triggerSpillReturn _ => true
  | .launchDispatch _ => true
  | .overflowEntryReturn _ _ _ => true
  | .launchQueueTailWrite _ _ => true
  | .launchPacketRead _ => true
  | .launchWaitMet _ => true
  | .launchReplicaArrival _ _ _ _ _ _ _ _ => true
  | .startBarrierPass _ => true
  | .remoteAccessArrival _ _ _ _ _ _ _ _ _ => true
  | .remoteTimeout _ => true
  | .replicationTimeout _ => true
  | .replAbortWrite _ => true
  | .sideLogReplay _ => true
  | .sideLogFull _ => true
  | .pageInComplete _ _ _ => true
  | .migrationLineCopy _ => true
  | .migrationFailed _ => true
  | .accessBitSweep _ => true
  | .binderyQuota _ _ _ => true
  | .thermalReading _ _ => true
  | .droopEvent _ => true
  | .droopHoldExpiry _ => true
  | .idleSwap _ _ => true
  | .watchdog _ _ => true
  | .gstopDrainComplete _ => true
  | .ctRunWrite _ _ => true
  | .swapOutWrite _ _ => true
  | .viSyncWrite _ => true
  | .viSyncComplete _ => true
  | .ptInvalWrite _ _ => true
  | .ptInvalComplete _ => true
  | .pwrModeWrite _ => true
  | .fabRouteWrite _ => true
  | .trcCtlWrite _ _ => true
  | .dstopEnWrite _ _ => true
  | .dstopHit _ _ => true
  | .counterReadClear _ _ _ => true
  | .configRegisterWrite _ _ _ _ => true
  | .apertureAccess _ _ _ _ _ _ => true
  | .gpPlainAccess _ _ _ _ => true
  | .flitCrcError _ _ => true
  | .linkDown _ => true
  | .hbmCrcError _ _ => true
  | .hbmRetrainComplete _ _ => true
  | .cxlDeviceLost _ _ _ => true
  | .attestationRequest _ => true
  | .deployCommand _ => true
  | .rmaCommand _ => true
  | .bindComplete _ _ => true
  | .cxlPortError _ _ => true
  | .tick => true
  | .updatePairArrival => true
  | .teamPlacement => true
  | .packetDispatch => true
  | .rehomeEpoch => true
  | .quantumExpiry => true
  | .samplePoint => true
  | .deadlockScan => true
  | .partReset => true
  | .provisionCommand => true
  | .decommissionCommand => true

/-- A well-formed instruction: every field fits and none is a reserved use. -/
def Instr.wellFormed (i : Instr) : Bool := i.inRange && i.checks.all (·.ok)

end Sys2Proof
end

