-- ==== Sys2Proof/Decode.lean ====
section
/-!
DEFINITION. Decoding (R141 to R152, R392 to R394): the clause header, the five opcode maps, and the words of an instruction, total
on any words, with each refusal named by the reason of Table Fe-1 or Fe-3; then an encoder written from the same tables.
An instruction's words are read as one number: the instruction word is bits 31..0 and the extension word bits 63..32, so that bit
numbers are those that R394 reports.
-/
namespace Sys2Proof

/-- The `n` bits of `v` from bit `lo` up, unsigned. -/
def fld (v lo n : Nat) : Nat := v / 2 ^ lo % 2 ^ n

/-- Bit `lo` of `v`. -/
def bit (v lo : Nat) : Bool := v / 2 ^ lo % 2 == 1

/-- `v` read as an `n`-bit two's complement number. -/
def signed (v n : Nat) : Int := if v % 2 ^ n < 2 ^ (n - 1) then (v % 2 ^ n : Nat) else (v % 2 ^ n : Nat) - (2 ^ n : Nat)

/-- The five engine classes of a clause, coded by ECLS (Table En-1). -/
inductive Cls where
  | alu | mem | mtx | eng | ctl
  deriving DecidableEq, Repr

/-- The class that an ECLS value names. -/
def Cls.ofCode (c : Nat) : Option Cls :=
  match c with
  | 0 => some .alu | 1 => some .mem | 2 => some .mtx | 3 => some .eng | 4 => some .ctl | _ => none

/-- The ECLS value of a class. -/
def Cls.code : Cls → Nat
  | .alu => 0 | .mem => 1 | .mtx => 2 | .eng => 3 | .ctl => 4

/-- A clause header (Table En-1): refill and yield marks, the flags of SETB and SETA, the wait mask, class and word count. -/
structure Header where
  rfl  : Bool
  yld  : Bool
  setB : Option Nat
  setA : Option Nat
  wait : Nat
  cls  : Cls
  cnt  : Nat
  deriving DecidableEq, Repr

/-- A flag field: 0 to 11 name a flag, 0xF none; any other value is bad (Table En-1). -/
def flagField (v : Nat) : Option (Option Nat) :=
  if v ≤ 11 then some (some v) else if v = 15 then some none else none

/-- A header word, or the INFO code of Table Fe-1 for a bad one (R142, R391): 1 TAG, 2 ECLS, 3 CNT, 4 SETA or SETB, 5 SETB in an
ALU or CTL clause. INFO 6 needs the clause's last word and is found by `lastWordBad`. DESIGN CHOICE: the conditions are tested in this
order, since the table gives none (log 131). -/
def decodeHeader (w : Nat) : Except Nat Header :=
  if fld w 29 3 ≠ 6 then .error 1
  else match Cls.ofCode (fld w 4 3) with
  | none => .error 2
  | some c =>
    if fld w 0 4 = 0 then .error 3
    else match flagField (fld w 19 4), flagField (fld w 23 4) with
    | some sa, some sb =>
      if (c = .alu ∨ c = .ctl) ∧ sb ≠ none then .error 5
      else .ok ⟨bit w 28, bit w 27, sb, sa, fld w 7 12, c, fld w 0 4⟩
    | _, _ => .error 4

/-- The U values at which an opcode is an instruction (R152). -/
inductive UUse where
  | any | one | zero
  deriving DecidableEq, Repr

/-- U = 1 is used (`u`), or not, as the map's column U allows. -/
def UUse.allows : UUse → Bool → Bool
  | .any, _ => true
  | .one, u => u
  | .zero, u => !u

/-- A field that an entry leaves unused or marks zero: its lowest bit, its width, and the reason its nonzero value carries. -/
structure Unused where
  lo     : Nat
  len    : Nat
  reason : Nat
  deriving DecidableEq, Repr

/-- What an opcode's words hold: the extension word mark, the U column, the privileged mark (R49), the fields that must be zero, and
the instruction that the other fields give. -/
structure Row where
  ext    : Bool
  use    : UUse
  priv   : Bool
  unused : List Unused
  instr  : Instr
  deriving DecidableEq, Repr


/-- The ALU class map (Table En-7): what the words of an opcode hold. -/
def mapAlu (op v : Nat) : Option Row :=
  match op with
  | 0x00 => some ⟨false, .any, false, [⟨0, 2, 2⟩], .iadd (bit v 23) (fld v 16 7) (fld v 9 7) (fld v 2 7)⟩
  | 0x01 => some ⟨false, .any, false, [⟨0, 2, 2⟩], .isub (bit v 23) (fld v 16 7) (fld v 9 7) (fld v 2 7)⟩
  | 0x02 => some ⟨false, .any, false, [], .iaddi (bit v 23) (fld v 16 7) (fld v 9 7) (fld v 0 9)⟩
  | 0x03 => some ⟨false, .any, false, [⟨0, 2, 2⟩], .imul (bit v 23) (fld v 16 7) (fld v 9 7) (fld v 2 7)⟩
  | 0x04 => some ⟨false, .any, false, [], .imulh (bit v 23) (fld v 16 7) (fld v 9 7) (fld v 2 7) (fld v 0 2)⟩
  | 0x05 => some ⟨false, .any, false, [], .imad (bit v 23) (fld v 16 7) (fld v 9 7) (fld v 2 7) (fld v 0 2)⟩
  | 0x06 => some ⟨false, .any, false, [], .imin (bit v 23) (fld v 16 7) (fld v 9 7) (fld v 2 7) (fld v 0 2)⟩
  | 0x07 => some ⟨false, .any, false, [], .imax (bit v 23) (fld v 16 7) (fld v 9 7) (fld v 2 7) (fld v 0 2)⟩
  | 0x08 => some ⟨false, .any, false, [⟨2, 7, 1⟩], .iabs (bit v 23) (fld v 16 7) (fld v 9 7) (fld v 0 2)⟩
  | 0x09 => some ⟨false, .any, false, [], .iadds (bit v 23) (fld v 16 7) (fld v 9 7) (fld v 2 7) (fld v 0 2)⟩
  | 0x0A => some ⟨false, .any, false, [⟨0, 2, 2⟩], .iadd64 (bit v 23) (fld v 16 7) (fld v 9 7) (fld v 2 7)⟩
  | 0x0B => some ⟨false, .any, false, [⟨0, 2, 2⟩], .isub64 (bit v 23) (fld v 16 7) (fld v 9 7) (fld v 2 7)⟩
  | 0x0C => some ⟨false, .any, false, [], .ixadd (bit v 23) (fld v 16 7) (fld v 9 7) (fld v 2 7) (fld v 0 2)⟩
  | 0x10 => some ⟨false, .any, false, [⟨0, 2, 2⟩], .and (bit v 23) (fld v 16 7) (fld v 9 7) (fld v 2 7)⟩
  | 0x11 => some ⟨false, .any, false, [⟨0, 2, 2⟩], .or (bit v 23) (fld v 16 7) (fld v 9 7) (fld v 2 7)⟩
  | 0x12 => some ⟨false, .any, false, [⟨0, 2, 2⟩], .xor (bit v 23) (fld v 16 7) (fld v 9 7) (fld v 2 7)⟩
  | 0x13 => some ⟨false, .any, false, [⟨0, 2, 2⟩], .andn (bit v 23) (fld v 16 7) (fld v 9 7) (fld v 2 7)⟩
  | 0x14 => some ⟨false, .any, false, [], .andi (bit v 23) (fld v 16 7) (fld v 9 7) (fld v 0 9)⟩
  | 0x15 => some ⟨false, .any, false, [], .ori (bit v 23) (fld v 16 7) (fld v 9 7) (fld v 0 9)⟩
  | 0x16 => some ⟨false, .any, false, [], .xori (bit v 23) (fld v 16 7) (fld v 9 7) (fld v 0 9)⟩
  | 0x18 => some ⟨false, .any, false, [⟨0, 2, 2⟩], .shl (bit v 23) (fld v 16 7) (fld v 9 7) (fld v 2 7)⟩
  | 0x19 => some ⟨false, .any, false, [⟨0, 2, 2⟩], .shr (bit v 23) (fld v 16 7) (fld v 9 7) (fld v 2 7)⟩
  | 0x1A => some ⟨false, .any, false, [⟨0, 2, 2⟩], .sar (bit v 23) (fld v 16 7) (fld v 9 7) (fld v 2 7)⟩
  | 0x1B => some ⟨false, .any, false, [], .shli (bit v 23) (fld v 16 7) (fld v 9 7) (fld v 0 9)⟩
  | 0x1C => some ⟨false, .any, false, [], .shri (bit v 23) (fld v 16 7) (fld v 9 7) (fld v 0 9)⟩
  | 0x1D => some ⟨false, .any, false, [], .sari (bit v 23) (fld v 16 7) (fld v 9 7) (fld v 0 9)⟩
  | 0x20 => some ⟨false, .any, false, [⟨2, 7, 1⟩, ⟨0, 2, 2⟩], .popc (bit v 23) (fld v 16 7) (fld v 9 7)⟩
  | 0x21 => some ⟨false, .any, false, [⟨2, 7, 1⟩, ⟨0, 2, 2⟩], .clz (bit v 23) (fld v 16 7) (fld v 9 7)⟩
  | 0x22 => some ⟨false, .any, false, [⟨2, 7, 1⟩, ⟨0, 2, 2⟩], .brev (bit v 23) (fld v 16 7) (fld v 9 7)⟩
  | 0x23 => some ⟨true, .any, false, [⟨38, 2, 1⟩, ⟨47, 17, 1⟩], .bfe (bit v 23) (fld v 16 7) (fld v 9 7) (fld v 2 7) (fld v 0 2) (fld v 32 6) (fld v 40 6) (bit v 46)⟩
  | 0x24 => some ⟨true, .any, false, [⟨38, 2, 1⟩, ⟨46, 1, 1⟩, ⟨47, 17, 1⟩], .bfi (bit v 23) (fld v 16 7) (fld v 9 7) (fld v 2 7) (fld v 0 2) (fld v 32 6) (fld v 40 6)⟩
  | 0x28 => some ⟨false, .any, false, [⟨2, 7, 1⟩], .mov (bit v 23) (fld v 16 7) (fld v 9 7) (fld v 0 2)⟩
  | 0x29 => some ⟨false, .any, false, [], .li (bit v 23) (fld v 16 7) (fld v 15 1) (fld v 0 15)⟩
  | 0x2A => some ⟨true, .any, false, [], .lix (bit v 23) (fld v 16 7) (fld v 15 1) (fld v 0 15) (fld v 32 32)⟩
  | 0x2B => some ⟨true, .any, false, [⟨36, 28, 1⟩], .sel (bit v 23) (fld v 16 7) (fld v 9 7) (fld v 2 7) (fld v 0 2) (fld v 32 3) (bit v 35)⟩
  | 0x2C => some ⟨false, .any, false, [⟨9, 7, 1⟩, ⟨7, 2, 1⟩], .movs (bit v 23) (fld v 16 7) (fld v 0 7)⟩
  | 0x2D => some ⟨false, .any, false, [⟨9, 7, 1⟩, ⟨7, 2, 1⟩], .movsw (bit v 23) (fld v 16 7) (fld v 0 7)⟩
  | 0x30 => some ⟨false, .any, false, [], .icmp (bit v 23) (fld v 20 3) (fld v 16 4) (fld v 9 7) (fld v 2 7) (fld v 0 2)⟩
  | 0x32 => some ⟨false, .any, false, [⟨12, 4, 1⟩, ⟨5, 4, 1⟩, ⟨0, 2, 2⟩], .clog (bit v 23) (fld v 20 3) (fld v 16 4) (fld v 9 3) (fld v 2 3)⟩
  | 0x40 => some ⟨false, .any, false, [], .fadd (bit v 23) (fld v 16 7) (fld v 9 7) (fld v 2 7) (fld v 0 2)⟩
  | 0x41 => some ⟨false, .any, false, [], .fsub (bit v 23) (fld v 16 7) (fld v 9 7) (fld v 2 7) (fld v 0 2)⟩
  | 0x42 => some ⟨false, .any, false, [], .fmul (bit v 23) (fld v 16 7) (fld v 9 7) (fld v 2 7) (fld v 0 2)⟩
  | 0x43 => some ⟨false, .any, false, [], .ffma (bit v 23) (fld v 16 7) (fld v 9 7) (fld v 2 7) (fld v 0 2)⟩
  | 0x45 => some ⟨false, .any, false, [], .fmin (bit v 23) (fld v 16 7) (fld v 9 7) (fld v 2 7) (fld v 0 2)⟩
  | 0x46 => some ⟨false, .any, false, [], .fmax (bit v 23) (fld v 16 7) (fld v 9 7) (fld v 2 7) (fld v 0 2)⟩
  | 0x47 => some ⟨false, .any, false, [], .fcmp (bit v 23) (fld v 20 3) (fld v 16 4) (fld v 9 7) (fld v 2 7) (fld v 0 2)⟩
  | 0x48 => some ⟨false, .any, false, [⟨2, 7, 1⟩], .frcp (bit v 23) (fld v 16 7) (fld v 9 7) (fld v 0 2)⟩
  | 0x49 => some ⟨false, .any, false, [⟨2, 7, 1⟩, ⟨0, 2, 2⟩], .frsq (bit v 23) (fld v 16 7) (fld v 9 7)⟩
  | 0x4A => some ⟨false, .any, false, [⟨2, 7, 1⟩], .fsqrt (bit v 23) (fld v 16 7) (fld v 9 7) (fld v 0 2)⟩
  | 0x4B => some ⟨false, .any, false, [⟨2, 7, 1⟩, ⟨0, 2, 2⟩], .fexp2 (bit v 23) (fld v 16 7) (fld v 9 7)⟩
  | 0x4C => some ⟨false, .any, false, [⟨2, 7, 1⟩, ⟨0, 2, 2⟩], .flog2 (bit v 23) (fld v 16 7) (fld v 9 7)⟩
  | 0x4D => some ⟨false, .any, false, [⟨2, 7, 1⟩, ⟨0, 2, 2⟩], .fsin (bit v 23) (fld v 16 7) (fld v 9 7)⟩
  | 0x4E => some ⟨false, .any, false, [⟨2, 7, 1⟩, ⟨0, 2, 2⟩], .fcos (bit v 23) (fld v 16 7) (fld v 9 7)⟩
  | 0x4F => some ⟨false, .any, false, [⟨2, 7, 1⟩, ⟨0, 2, 2⟩], .ftanh (bit v 23) (fld v 16 7) (fld v 9 7)⟩
  | 0x50 => some ⟨false, .any, false, [⟨2, 7, 1⟩], .frnd (bit v 23) (fld v 16 7) (fld v 9 7) (fld v 0 2)⟩
  | 0x51 => some ⟨false, .any, false, [], .fcps (bit v 23) (fld v 16 7) (fld v 9 7) (fld v 2 7) (fld v 0 2)⟩
  | 0x58 => some ⟨false, .any, false, [⟨1, 1, 2⟩], .hadd2 (bit v 23) (fld v 16 7) (fld v 9 7) (fld v 2 7) (bit v 0)⟩
  | 0x59 => some ⟨false, .any, false, [⟨1, 1, 2⟩], .hmul2 (bit v 23) (fld v 16 7) (fld v 9 7) (fld v 2 7) (bit v 0)⟩
  | 0x5A => some ⟨false, .any, false, [⟨1, 1, 2⟩], .hfma2 (bit v 23) (fld v 16 7) (fld v 9 7) (fld v 2 7) (bit v 0)⟩
  | 0x5B => some ⟨false, .any, false, [⟨1, 1, 2⟩], .hmin2 (bit v 23) (fld v 16 7) (fld v 9 7) (fld v 2 7) (bit v 0)⟩
  | 0x5C => some ⟨false, .any, false, [⟨1, 1, 2⟩], .hmax2 (bit v 23) (fld v 16 7) (fld v 9 7) (fld v 2 7) (bit v 0)⟩
  | 0x5D => some ⟨false, .any, false, [⟨1, 1, 2⟩], .hdot2 (bit v 23) (fld v 16 7) (fld v 9 7) (fld v 2 7) (bit v 0)⟩
  | 0x80 => some ⟨true, .any, false, [⟨2, 7, 1⟩, ⟨0, 2, 2⟩, ⟨40, 5, 1⟩, ⟨51, 13, 1⟩], .cvt (bit v 23) (fld v 16 7) (fld v 9 7) (fld v 32 4) (fld v 36 4) (fld v 45 3) (bit v 48) (fld v 49 2)⟩
  | 0x81 => some ⟨true, .any, false, [⟨0, 2, 2⟩, ⟨40, 5, 1⟩, ⟨56, 8, 1⟩], .cvtq (bit v 23) (fld v 16 7) (fld v 9 7) (fld v 2 7) (fld v 32 4) (fld v 36 4) (fld v 45 3) (bit v 48) (fld v 49 2) (bit v 51) (bit v 52) (bit v 53) (fld v 54 2)⟩
  | 0x82 => some ⟨true, .any, false, [⟨0, 2, 2⟩, ⟨40, 5, 1⟩, ⟨48, 3, 1⟩, ⟨56, 8, 1⟩], .cvtd (bit v 23) (fld v 16 7) (fld v 9 7) (fld v 2 7) (fld v 32 4) (fld v 36 4) (fld v 45 3) (bit v 51) (bit v 52) (bit v 53) (fld v 54 2)⟩
  | 0x83 => some ⟨true, .any, false, [⟨0, 2, 2⟩, ⟨32, 13, 1⟩, ⟨48, 4, 1⟩, ⟨56, 8, 1⟩], .bscl (bit v 23) (fld v 16 7) (fld v 9 7) (fld v 2 7) (fld v 45 3) (bit v 52) (bit v 53) (fld v 54 2)⟩
  | 0x84 => some ⟨true, .any, false, [⟨2, 7, 1⟩, ⟨0, 2, 2⟩, ⟨36, 9, 1⟩, ⟨48, 2, 1⟩, ⟨52, 12, 1⟩], .hadm (bit v 23) (fld v 16 7) (fld v 9 7) (fld v 32 4) (fld v 45 3) (bit v 50) (bit v 51)⟩
  | 0x88 => some ⟨false, .any, false, [⟨2, 7, 1⟩, ⟨0, 2, 2⟩], .vclass (bit v 23) (fld v 16 7) (fld v 9 7)⟩
  | 0x89 => some ⟨false, .any, false, [⟨2, 7, 1⟩], .vzero (bit v 23) (fld v 16 7) (fld v 9 7) (fld v 0 2)⟩
  | 0x8A => some ⟨false, .any, false, [⟨0, 2, 2⟩], .vfill (bit v 23) (fld v 16 7) (fld v 9 7) (fld v 2 7)⟩
  | 0xA0 => some ⟨false, .zero, false, [], .shfl (fld v 16 7) (fld v 9 7) (fld v 2 7) (fld v 0 2)⟩
  | 0xA1 => some ⟨false, .zero, false, [⟨12, 4, 1⟩, ⟨2, 7, 1⟩], .vote (fld v 16 7) (fld v 9 3) (fld v 0 2)⟩
  | 0xA2 => some ⟨false, .zero, false, [⟨2, 7, 1⟩], .prfx (fld v 16 7) (fld v 9 7) (fld v 0 2)⟩
  | 0xA3 => some ⟨false, .zero, false, [⟨0, 2, 2⟩], .rduc (fld v 16 7) (fld v 9 7) (fld v 2 7)⟩
  | _ => none

/-- The MEM class map (Table En-8): what the words of an opcode hold. -/
def mapMem (op v : Nat) : Option Row :=
  match op with
  | 0x00 => some ⟨false, .any, false, [], .ldb (bit v 23) (fld v 16 7) (fld v 9 7) (fld v 5 4) (fld v 0 5)⟩
  | 0x01 => some ⟨false, .any, false, [], .ldbs (bit v 23) (fld v 16 7) (fld v 9 7) (fld v 5 4) (fld v 0 5)⟩
  | 0x02 => some ⟨false, .any, false, [], .ldh (bit v 23) (fld v 16 7) (fld v 9 7) (fld v 5 4) (fld v 0 5)⟩
  | 0x03 => some ⟨false, .any, false, [], .ldhs (bit v 23) (fld v 16 7) (fld v 9 7) (fld v 5 4) (fld v 0 5)⟩
  | 0x04 => some ⟨false, .any, false, [], .ldw (bit v 23) (fld v 16 7) (fld v 9 7) (fld v 5 4) (fld v 0 5)⟩
  | 0x05 => some ⟨false, .any, false, [], .ldd (bit v 23) (fld v 16 7) (fld v 9 7) (fld v 5 4) (fld v 0 5)⟩
  | 0x06 => some ⟨false, .any, false, [], .ldq (bit v 23) (fld v 16 7) (fld v 9 7) (fld v 5 4) (fld v 0 5)⟩
  | 0x08 => some ⟨false, .any, false, [], .stb (bit v 23) (fld v 16 7) (fld v 9 7) (fld v 5 4) (fld v 0 5)⟩
  | 0x09 => some ⟨false, .any, false, [], .sth (bit v 23) (fld v 16 7) (fld v 9 7) (fld v 5 4) (fld v 0 5)⟩
  | 0x0A => some ⟨false, .any, false, [], .stw (bit v 23) (fld v 16 7) (fld v 9 7) (fld v 5 4) (fld v 0 5)⟩
  | 0x0B => some ⟨false, .any, false, [], .std (bit v 23) (fld v 16 7) (fld v 9 7) (fld v 5 4) (fld v 0 5)⟩
  | 0x0C => some ⟨false, .any, false, [], .stq (bit v 23) (fld v 16 7) (fld v 9 7) (fld v 5 4) (fld v 0 5)⟩
  | 0x0E => some ⟨false, .any, false, [⟨16, 7, 1⟩], .pfch (bit v 23) (fld v 9 7) (fld v 5 4) (fld v 0 5)⟩
  | 0x20 => some ⟨true, .one, false, [⟨50, 14, 1⟩, ⟨39, 7, 1⟩], .aadd (fld v 16 7) (fld v 9 7) (fld v 5 4) (fld v 0 5) (fld v 32 7) (bit v 46) (fld v 47 3)⟩
  | 0x21 => some ⟨true, .one, false, [⟨50, 14, 1⟩, ⟨39, 7, 1⟩], .ainc (fld v 16 7) (fld v 9 7) (fld v 5 4) (fld v 0 5) (fld v 32 7) (bit v 46) (fld v 47 3)⟩
  | 0x22 => some ⟨true, .one, false, [⟨50, 14, 1⟩, ⟨32, 7, 1⟩, ⟨39, 7, 1⟩], .adec (fld v 16 7) (fld v 9 7) (fld v 5 4) (fld v 0 5) (bit v 46) (fld v 47 3)⟩
  | 0x23 => some ⟨true, .one, false, [⟨50, 14, 1⟩, ⟨39, 7, 1⟩], .amin (fld v 16 7) (fld v 9 7) (fld v 5 4) (fld v 0 5) (fld v 32 7) (bit v 46) (fld v 47 3)⟩
  | 0x24 => some ⟨true, .one, false, [⟨50, 14, 1⟩, ⟨39, 7, 1⟩], .amax (fld v 16 7) (fld v 9 7) (fld v 5 4) (fld v 0 5) (fld v 32 7) (bit v 46) (fld v 47 3)⟩
  | 0x25 => some ⟨true, .one, false, [⟨50, 14, 1⟩, ⟨39, 7, 1⟩], .aand (fld v 16 7) (fld v 9 7) (fld v 5 4) (fld v 0 5) (fld v 32 7) (bit v 46) (fld v 47 3)⟩
  | 0x26 => some ⟨true, .one, false, [⟨50, 14, 1⟩, ⟨39, 7, 1⟩], .aor (fld v 16 7) (fld v 9 7) (fld v 5 4) (fld v 0 5) (fld v 32 7) (bit v 46) (fld v 47 3)⟩
  | 0x27 => some ⟨true, .one, false, [⟨50, 14, 1⟩, ⟨39, 7, 1⟩], .axor (fld v 16 7) (fld v 9 7) (fld v 5 4) (fld v 0 5) (fld v 32 7) (bit v 46) (fld v 47 3)⟩
  | 0x28 => some ⟨true, .one, false, [⟨50, 14, 1⟩, ⟨39, 7, 1⟩], .aswp (fld v 16 7) (fld v 9 7) (fld v 5 4) (fld v 0 5) (fld v 32 7) (bit v 46) (fld v 47 3)⟩
  | 0x29 => some ⟨true, .one, false, [⟨50, 14, 1⟩], .acas (fld v 16 7) (fld v 9 7) (fld v 5 4) (fld v 0 5) (fld v 32 7) (fld v 39 7) (bit v 46) (fld v 47 3)⟩
  | 0x30 => some ⟨false, .any, false, [], .upd (bit v 23) (fld v 16 7) (fld v 9 7) (fld v 5 4) (fld v 0 5)⟩
  | 0x31 => some ⟨false, .any, false, [], .updd (bit v 23) (fld v 16 7) (fld v 9 7) (fld v 5 4) (fld v 0 5)⟩
  | 0x32 => some ⟨false, .any, false, [⟨16, 7, 1⟩, ⟨9, 7, 1⟩, ⟨2, 7, 1⟩, ⟨0, 2, 1⟩], .uflush (bit v 23)⟩
  | 0x33 => some ⟨false, .any, false, [⟨16, 7, 1⟩], .uapply (bit v 23) (fld v 9 7) (fld v 5 4) (fld v 0 5)⟩
  | 0x40 => some ⟨true, .any, false, [⟨45, 19, 1⟩], .waitc (bit v 23) (fld v 16 7) (fld v 9 7) (fld v 5 4) (fld v 0 5) (fld v 32 7) (fld v 39 4) (fld v 43 2)⟩
  | 0x41 => some ⟨false, .any, false, [⟨16, 7, 1⟩, ⟨9, 7, 1⟩, ⟨2, 7, 1⟩], .fence (bit v 23) (fld v 0 2)⟩
  | 0x42 => some ⟨true, .any, false, [⟨0, 2, 2⟩, ⟨35, 29, 1⟩], .mbsend (bit v 23) (fld v 16 7) (fld v 9 7) (fld v 2 7) (fld v 32 3)⟩
  | 0x43 => some ⟨false, .any, false, [⟨9, 7, 1⟩, ⟨5, 4, 1⟩, ⟨0, 2, 2⟩], .mbrecv (bit v 23) (fld v 16 7) (fld v 2 3)⟩
  | 0x44 => some ⟨false, .any, false, [⟨5, 4, 1⟩, ⟨0, 2, 2⟩], .mbpoll (bit v 23) (fld v 16 7) (fld v 9 7) (fld v 2 3)⟩
  | 0x48 => some ⟨false, .any, false, [], .boinit (bit v 23) (fld v 16 7) (fld v 9 7) (fld v 5 4) (fld v 0 5)⟩
  | 0x49 => some ⟨false, .any, false, [], .boarr (bit v 23) (fld v 16 7) (fld v 9 7) (fld v 5 4) (fld v 0 5)⟩
  | 0x4A => some ⟨false, .any, false, [], .bowait (bit v 23) (fld v 16 7) (fld v 9 7) (fld v 5 4) (fld v 0 5)⟩
  | 0x4B => some ⟨false, .any, false, [], .botst (bit v 23) (fld v 16 7) (fld v 9 7) (fld v 5 4) (fld v 0 5)⟩
  | 0x50 => some ⟨true, .any, false, [⟨33, 31, 1⟩], .watch (bit v 23) (fld v 16 7) (fld v 9 7) (fld v 5 4) (fld v 0 5) (bit v 32)⟩
  | 0x51 => some ⟨false, .any, false, [], .wdrop (bit v 23) (fld v 16 7) (fld v 9 7) (fld v 5 4) (fld v 0 5)⟩
  | 0x52 => some ⟨false, .any, false, [], .wresume (bit v 23) (fld v 16 7) (fld v 9 7) (fld v 5 4) (fld v 0 5)⟩
  | 0x53 => some ⟨false, .any, false, [], .wstat (bit v 23) (fld v 16 7) (fld v 9 7) (fld v 5 4) (fld v 0 5)⟩
  | 0x54 => some ⟨true, .any, false, [⟨16, 7, 1⟩, ⟨9, 7, 1⟩, ⟨0, 5, 1⟩, ⟨38, 2, 1⟩, ⟨41, 23, 1⟩], .bind (bit v 23) (fld v 5 4) (fld v 32 6) (bit v 40)⟩
  | 0x55 => some ⟨false, .any, false, [⟨16, 7, 1⟩, ⟨9, 7, 1⟩, ⟨0, 5, 1⟩], .unbind (bit v 23) (fld v 5 4)⟩
  | 0x60 => some ⟨false, .any, false, [⟨16, 7, 1⟩, ⟨4, 5, 1⟩], .hset (bit v 23) (fld v 9 7) (fld v 0 4)⟩
  | 0x61 => some ⟨false, .any, false, [⟨9, 7, 1⟩, ⟨4, 5, 1⟩], .hget (bit v 23) (fld v 16 7) (fld v 0 4)⟩
  | 0x62 => some ⟨false, .any, false, [⟨9, 7, 1⟩, ⟨4, 5, 1⟩], .hlen (bit v 23) (fld v 16 7) (fld v 0 4)⟩
  | _ => none

/-- The MTX class map (Table En-9): what the words of an opcode hold. -/
def mapMtx (op v : Nat) : Option Row :=
  match op with
  | 0x00 => some ⟨true, .zero, false, [], .mma (fld v 16 7) (fld v 9 7) (fld v 2 7) (fld v 0 2) (fld v 32 2) (bit v 34) (fld v 35 7) (fld v 42 8) (fld v 50 7) (fld v 57 7)⟩
  | 0x01 => some ⟨true, .zero, false, [], .mmav (fld v 16 7) (fld v 9 7) (fld v 2 7) (fld v 0 2) (fld v 32 2) (bit v 34) (fld v 35 7) (fld v 42 8) (fld v 50 7) (fld v 57 7)⟩
  | 0x08 => some ⟨false, .zero, false, [⟨2, 7, 1⟩, ⟨0, 2, 2⟩], .orset (fld v 16 7) (fld v 9 7)⟩
  | 0x09 => some ⟨false, .zero, false, [⟨2, 7, 1⟩, ⟨0, 2, 2⟩], .orget (fld v 16 7) (fld v 9 7)⟩
  | 0x10 => some ⟨false, .zero, false, [⟨13, 3, 1⟩, ⟨8, 1, 1⟩], .accz (fld v 16 7) (fld v 9 4) (fld v 0 8)⟩
  | 0x11 => some ⟨true, .zero, false, [⟨9, 7, 1⟩, ⟨2, 7, 1⟩, ⟨0, 2, 1⟩, ⟨57, 7, 1⟩], .accrd (fld v 16 7) (fld v 32 8) (fld v 40 7) (fld v 47 6) (fld v 53 4)⟩
  | 0x12 => some ⟨true, .zero, false, [⟨9, 7, 1⟩, ⟨2, 7, 1⟩, ⟨0, 2, 1⟩, ⟨57, 7, 1⟩], .accwr (fld v 16 7) (fld v 32 8) (fld v 40 7) (fld v 47 6) (fld v 53 4)⟩
  | 0x18 => some ⟨false, .zero, false, [], .mthr (fld v 16 7) (fld v 9 7) (fld v 2 7) (fld v 0 2)⟩
  | 0x19 => some ⟨false, .zero, false, [], .mvst (fld v 16 7) (fld v 9 7) (fld v 2 7) (fld v 0 2)⟩
  | 0x1A => some ⟨false, .zero, false, [⟨9, 7, 1⟩, ⟨0, 2, 2⟩], .mstat (fld v 16 7) (fld v 2 7)⟩
  | 0x20 => some ⟨false, .zero, false, [⟨16, 7, 1⟩, ⟨9, 7, 1⟩, ⟨2, 7, 1⟩], .msync (fld v 0 2)⟩
  | _ => none

/-- The ENG class map (Table En-10): what the words of an opcode hold. -/
def mapEng (op v : Nat) : Option Row :=
  match op with
  | 0x00 => some ⟨false, .any, false, [⟨6, 3, 1⟩], .tload (bit v 23) (fld v 16 7) (fld v 9 7) (fld v 0 6)⟩
  | 0x01 => some ⟨false, .any, false, [⟨6, 3, 1⟩], .tstore (bit v 23) (fld v 16 7) (fld v 9 7) (fld v 0 6)⟩
  | 0x02 => some ⟨false, .any, false, [⟨6, 3, 1⟩], .tgath (bit v 23) (fld v 16 7) (fld v 9 7) (fld v 0 6)⟩
  | 0x03 => some ⟨false, .any, false, [⟨6, 3, 1⟩], .tscat (bit v 23) (fld v 16 7) (fld v 9 7) (fld v 0 6)⟩
  | 0x04 => some ⟨false, .any, false, [⟨6, 3, 1⟩], .tcast (bit v 23) (fld v 16 7) (fld v 9 7) (fld v 0 6)⟩
  | 0x05 => some ⟨false, .any, false, [⟨6, 3, 1⟩], .tfill (bit v 23) (fld v 16 7) (fld v 9 7) (fld v 0 6)⟩
  | 0x10 => some ⟨false, .any, false, [⟨16, 7, 1⟩, ⟨2, 7, 1⟩], .fwait (bit v 23) (fld v 9 7) (fld v 0 2)⟩
  | 0x11 => some ⟨false, .any, false, [⟨2, 7, 1⟩, ⟨0, 2, 2⟩], .ftest (bit v 23) (fld v 16 7) (fld v 9 7)⟩
  | 0x12 => some ⟨false, .any, false, [⟨16, 7, 1⟩, ⟨2, 7, 1⟩, ⟨0, 2, 1⟩], .fcancel (bit v 23) (fld v 9 7)⟩
  | 0x18 => some ⟨false, .any, false, [⟨6, 2, 1⟩], .launch (bit v 23) (fld v 16 7) (fld v 9 7) (fld v 0 6) (bit v 8)⟩
  | 0x20 => some ⟨false, .any, false, [⟨19, 4, 1⟩, ⟨0, 9, 1⟩], .zopen (bit v 23) (fld v 16 3) (fld v 9 7)⟩
  | 0x21 => some ⟨false, .any, false, [⟨19, 4, 1⟩, ⟨9, 7, 1⟩], .zadv (bit v 23) (fld v 16 3) (fld v 0 9)⟩
  | 0x22 => some ⟨false, .any, false, [⟨19, 4, 1⟩, ⟨9, 7, 1⟩, ⟨3, 6, 1⟩], .zend (bit v 23) (fld v 16 3) (fld v 0 3)⟩
  | 0x23 => some ⟨false, .any, false, [⟨19, 4, 1⟩, ⟨9, 7, 1⟩, ⟨0, 9, 1⟩], .zclose (bit v 23) (fld v 16 3)⟩
  | 0x24 => some ⟨false, .any, false, [⟨9, 7, 1⟩, ⟨3, 6, 1⟩], .zld (bit v 23) (fld v 16 7) (fld v 0 3)⟩
  | 0x25 => some ⟨false, .any, false, [⟨9, 7, 1⟩, ⟨3, 6, 1⟩], .zcrd (bit v 23) (fld v 16 7) (fld v 0 3)⟩
  | 0x30 => some ⟨false, .any, true, [⟨9, 7, 1⟩, ⟨1, 8, 1⟩], .evpop (bit v 23) (fld v 16 7) (bit v 0)⟩
  | 0x31 => some ⟨false, .any, true, [⟨9, 7, 1⟩, ⟨1, 8, 1⟩, ⟨0, 1, 1⟩], .evpeek (bit v 23) (fld v 16 7)⟩
  | 0x38 => some ⟨false, .any, true, [⟨0, 9, 1⟩], .qcfg (bit v 23) (fld v 16 7) (fld v 9 7)⟩
  | _ => none

/-- The CTL class map (Table En-11): what the words of an opcode hold. -/
def mapCtl (op v : Nat) : Option Row :=
  match op with
  | 0x00 => some ⟨false, .zero, false, [], .br (fld v 20 3) (bit v 19) (fld v 0 19)⟩
  | 0x01 => some ⟨false, .zero, false, [], .jmp (fld v 0 23)⟩
  | 0x02 => some ⟨false, .zero, false, [⟨16, 7, 1⟩, ⟨2, 7, 1⟩, ⟨0, 2, 1⟩], .jmpi (fld v 9 7)⟩
  | 0x03 => some ⟨false, .zero, false, [], .call (fld v 0 23)⟩
  | 0x04 => some ⟨false, .zero, false, [⟨16, 7, 1⟩, ⟨2, 7, 1⟩, ⟨0, 2, 1⟩], .calli (fld v 9 7)⟩
  | 0x05 => some ⟨false, .zero, false, [⟨16, 7, 1⟩, ⟨9, 7, 1⟩, ⟨2, 7, 1⟩, ⟨0, 2, 1⟩], .ret⟩
  | 0x06 => some ⟨false, .zero, false, [⟨16, 7, 1⟩, ⟨9, 7, 1⟩, ⟨2, 7, 1⟩, ⟨0, 2, 1⟩], .exit⟩
  | 0x08 => some ⟨false, .zero, false, [⟨16, 7, 1⟩, ⟨9, 7, 1⟩, ⟨3, 6, 1⟩], .bar (fld v 0 3)⟩
  | 0x09 => some ⟨false, .zero, false, [⟨16, 7, 1⟩, ⟨9, 7, 1⟩, ⟨3, 6, 1⟩], .bara (fld v 0 3)⟩
  | 0x0A => some ⟨false, .zero, false, [⟨16, 7, 1⟩, ⟨9, 7, 1⟩, ⟨3, 6, 1⟩], .barw (fld v 0 3)⟩
  | 0x10 => some ⟨false, .zero, false, [⟨16, 7, 1⟩, ⟨9, 7, 1⟩], .racq (fld v 0 9)⟩
  | 0x11 => some ⟨false, .zero, false, [⟨16, 7, 1⟩, ⟨9, 7, 1⟩], .rrel (fld v 0 9)⟩
  | 0x12 => some ⟨false, .zero, false, [⟨16, 7, 1⟩, ⟨9, 7, 1⟩, ⟨2, 7, 1⟩, ⟨0, 2, 1⟩], .pmark⟩
  | 0x13 => some ⟨false, .zero, false, [⟨16, 7, 1⟩, ⟨9, 7, 1⟩], .sleep (fld v 0 9)⟩
  | 0x18 => some ⟨false, .zero, false, [⟨16, 7, 1⟩, ⟨9, 7, 1⟩], .trap (fld v 0 9)⟩
  | 0x19 => some ⟨false, .zero, false, [⟨16, 7, 1⟩, ⟨9, 7, 1⟩], .bkpt (fld v 0 9)⟩
  | 0x1A => some ⟨false, .zero, false, [⟨16, 7, 1⟩, ⟨9, 7, 1⟩, ⟨2, 7, 1⟩, ⟨0, 2, 1⟩], .nop⟩
  | 0x20 => some ⟨false, .zero, true, [⟨15, 1, 2⟩], .cfgrd (fld v 16 7) (fld v 0 15)⟩
  | 0x21 => some ⟨false, .zero, true, [⟨15, 1, 2⟩], .cfgwr (fld v 16 7) (fld v 0 15)⟩
  | 0x22 => some ⟨false, .zero, true, [⟨16, 7, 1⟩, ⟨9, 7, 1⟩, ⟨2, 7, 1⟩, ⟨0, 2, 1⟩], .eret⟩
  | 0x23 => some ⟨false, .zero, true, [⟨2, 7, 1⟩], .gstat (fld v 16 7) (fld v 9 7) (fld v 0 2)⟩
  | 0x24 => some ⟨false, .zero, true, [⟨16, 7, 1⟩], .gsave (fld v 9 7) (fld v 2 7) (fld v 0 2)⟩
  | 0x25 => some ⟨false, .zero, true, [], .gload (fld v 16 7) (fld v 9 7) (fld v 2 7) (fld v 0 2)⟩
  | 0x26 => some ⟨false, .zero, true, [⟨16, 7, 1⟩, ⟨2, 7, 1⟩], .gstop (fld v 9 7) (fld v 0 2)⟩
  | 0x27 => some ⟨false, .zero, true, [⟨16, 7, 1⟩, ⟨2, 7, 1⟩], .gkill (fld v 9 7) (fld v 0 2)⟩
  | _ => none

/-- The row that class `c` gives the opcode of the words `v` (R152). -/
def opRow (c : Cls) (v : Nat) : Option Row :=
  match c with
  | .alu => mapAlu (fld v 24 8) v
  | .mem => mapMem (fld v 24 8) v
  | .mtx => mapMtx (fld v 24 8) v
  | .eng => mapEng (fld v 24 8) v
  | .ctl => mapCtl (fld v 24 8) v

/-- Why words are no instruction: ILLEGAL_OPCODE with its reason (0 unassigned, 1 U excluded, 2 privileged), or RESERVED_FIELD with
its reason of Table Fe-3 and the lowest bit of the field (R393, R394). -/
inductive DecErr where
  | illegalOpcode (reason : Nat)
  | reserved (reason bit : Nat)
  deriving DecidableEq, Repr

/-- The failed check whose field lies lowest; of two at one bit, the one listed first (R394). -/
def lowestFailure : List Check → Option Check
  | [] => none
  | c :: cs =>
    match c.ok, lowestFailure cs with
    | true, r => r
    | false, none => some c
    | false, some d => if d.bit < c.bit then some d else some c

/-- The unused fields of the words `v` as checks. -/
def unusedChecks (v : Nat) (zs : List Unused) : List Check :=
  zs.map fun z => ⟨z.lo, z.reason, fld v z.lo z.len == 0⟩

/-- The instruction that words `v` of class `c` are, for the control thread (`ct`) or an ordinary group; `v` holds the instruction
word and, above bit 31, the word after it. -/
def decode (c : Cls) (ct : Bool) (v : Nat) : Except DecErr Instr :=
  match opRow c v with
  | none => .error (.illegalOpcode 0)
  | some r =>
    if r.use.allows (bit v 23) = false then .error (.illegalOpcode 1)
    else if r.priv && !ct then .error (.illegalOpcode 2)
    else match lowestFailure (unusedChecks v r.unused ++ r.instr.checks) with
      | some k => .error (.reserved k.reason k.bit)
      | none => .ok r.instr

/-- The word `w` of class `c` is an instruction word whose opcode takes an extension word (R148). -/
def takesExt (c : Cls) (w : Nat) : Bool :=
  match opRow c w with
  | some r => r.ext
  | none => false

/-- The words of an instruction: its class, whether an extension word follows, and the words as one number (instruction word in
bits 31..0, extension word in bits 63..32). -/
structure Words where
  cls  : Cls
  ext  : Bool
  bits : Nat
  deriving DecidableEq, Repr


/-- The words of an instruction, written from Tables En-3, En-4 and the extension-word tables; none for an event, which has no
word. -/
def encode : Instr → Option Words
  | .iadd u d a b => some ⟨.alu, false, u.toNat * 8388608 + d * 65536 + a * 512 + b * 4⟩
  | .isub u d a b => some ⟨.alu, false, 0x01 * 16777216 + u.toNat * 8388608 + d * 65536 + a * 512 + b * 4⟩
  | .iaddi u d a i => some ⟨.alu, false, 0x02 * 16777216 + u.toNat * 8388608 + d * 65536 + a * 512 + i⟩
  | .imul u d a b => some ⟨.alu, false, 0x03 * 16777216 + u.toNat * 8388608 + d * 65536 + a * 512 + b * 4⟩
  | .imulh u d a b m => some ⟨.alu, false, 0x04 * 16777216 + u.toNat * 8388608 + d * 65536 + a * 512 + b * 4 + m⟩
  | .imad u d a b m => some ⟨.alu, false, 0x05 * 16777216 + u.toNat * 8388608 + d * 65536 + a * 512 + b * 4 + m⟩
  | .imin u d a b m => some ⟨.alu, false, 0x06 * 16777216 + u.toNat * 8388608 + d * 65536 + a * 512 + b * 4 + m⟩
  | .imax u d a b m => some ⟨.alu, false, 0x07 * 16777216 + u.toNat * 8388608 + d * 65536 + a * 512 + b * 4 + m⟩
  | .iabs u d a m => some ⟨.alu, false, 0x08 * 16777216 + u.toNat * 8388608 + d * 65536 + a * 512 + m⟩
  | .iadds u d a b m => some ⟨.alu, false, 0x09 * 16777216 + u.toNat * 8388608 + d * 65536 + a * 512 + b * 4 + m⟩
  | .iadd64 u d a b => some ⟨.alu, false, 0x0A * 16777216 + u.toNat * 8388608 + d * 65536 + a * 512 + b * 4⟩
  | .isub64 u d a b => some ⟨.alu, false, 0x0B * 16777216 + u.toNat * 8388608 + d * 65536 + a * 512 + b * 4⟩
  | .ixadd u d a b m => some ⟨.alu, false, 0x0C * 16777216 + u.toNat * 8388608 + d * 65536 + a * 512 + b * 4 + m⟩
  | .and u d a b => some ⟨.alu, false, 0x10 * 16777216 + u.toNat * 8388608 + d * 65536 + a * 512 + b * 4⟩
  | .or u d a b => some ⟨.alu, false, 0x11 * 16777216 + u.toNat * 8388608 + d * 65536 + a * 512 + b * 4⟩
  | .xor u d a b => some ⟨.alu, false, 0x12 * 16777216 + u.toNat * 8388608 + d * 65536 + a * 512 + b * 4⟩
  | .andn u d a b => some ⟨.alu, false, 0x13 * 16777216 + u.toNat * 8388608 + d * 65536 + a * 512 + b * 4⟩
  | .andi u d a i => some ⟨.alu, false, 0x14 * 16777216 + u.toNat * 8388608 + d * 65536 + a * 512 + i⟩
  | .ori u d a i => some ⟨.alu, false, 0x15 * 16777216 + u.toNat * 8388608 + d * 65536 + a * 512 + i⟩
  | .xori u d a i => some ⟨.alu, false, 0x16 * 16777216 + u.toNat * 8388608 + d * 65536 + a * 512 + i⟩
  | .shl u d a b => some ⟨.alu, false, 0x18 * 16777216 + u.toNat * 8388608 + d * 65536 + a * 512 + b * 4⟩
  | .shr u d a b => some ⟨.alu, false, 0x19 * 16777216 + u.toNat * 8388608 + d * 65536 + a * 512 + b * 4⟩
  | .sar u d a b => some ⟨.alu, false, 0x1A * 16777216 + u.toNat * 8388608 + d * 65536 + a * 512 + b * 4⟩
  | .shli u d a i => some ⟨.alu, false, 0x1B * 16777216 + u.toNat * 8388608 + d * 65536 + a * 512 + i⟩
  | .shri u d a i => some ⟨.alu, false, 0x1C * 16777216 + u.toNat * 8388608 + d * 65536 + a * 512 + i⟩
  | .sari u d a i => some ⟨.alu, false, 0x1D * 16777216 + u.toNat * 8388608 + d * 65536 + a * 512 + i⟩
  | .popc u d a => some ⟨.alu, false, 0x20 * 16777216 + u.toNat * 8388608 + d * 65536 + a * 512⟩
  | .clz u d a => some ⟨.alu, false, 0x21 * 16777216 + u.toNat * 8388608 + d * 65536 + a * 512⟩
  | .brev u d a => some ⟨.alu, false, 0x22 * 16777216 + u.toNat * 8388608 + d * 65536 + a * 512⟩
  | .bfe u d a b m pos len sgn => some ⟨.alu, true, 0x23 * 16777216 + u.toNat * 8388608 + d * 65536 + a * 512 + b * 4 + m + pos * 4294967296 + len * 1099511627776 + sgn.toNat * 70368744177664⟩
  | .bfi u d a b m pos len => some ⟨.alu, true, 0x24 * 16777216 + u.toNat * 8388608 + d * 65536 + a * 512 + b * 4 + m + pos * 4294967296 + len * 1099511627776⟩
  | .mov u d a m => some ⟨.alu, false, 0x28 * 16777216 + u.toNat * 8388608 + d * 65536 + a * 512 + m⟩
  | .li u d m i => some ⟨.alu, false, 0x29 * 16777216 + u.toNat * 8388608 + d * 65536 + m * 32768 + i⟩
  | .lix u d m i x => some ⟨.alu, true, 0x2A * 16777216 + u.toNat * 8388608 + d * 65536 + m * 32768 + i + x * 4294967296⟩
  | .sel u d a b m cf inv => some ⟨.alu, true, 0x2B * 16777216 + u.toNat * 8388608 + d * 65536 + a * 512 + b * 4 + m + cf * 4294967296 + inv.toNat * 34359738368⟩
  | .movs u d n => some ⟨.alu, false, 0x2C * 16777216 + u.toNat * 8388608 + d * 65536 + n⟩
  | .movsw u d n => some ⟨.alu, false, 0x2D * 16777216 + u.toNat * 8388608 + d * 65536 + n⟩
  | .icmp u c k a b m => some ⟨.alu, false, 0x30 * 16777216 + u.toNat * 8388608 + c * 1048576 + k * 65536 + a * 512 + b * 4 + m⟩
  | .clog u c k p q => some ⟨.alu, false, 0x32 * 16777216 + u.toNat * 8388608 + c * 1048576 + k * 65536 + p * 512 + q * 4⟩
  | .fadd u d a b m => some ⟨.alu, false, 0x40 * 16777216 + u.toNat * 8388608 + d * 65536 + a * 512 + b * 4 + m⟩
  | .fsub u d a b m => some ⟨.alu, false, 0x41 * 16777216 + u.toNat * 8388608 + d * 65536 + a * 512 + b * 4 + m⟩
  | .fmul u d a b m => some ⟨.alu, false, 0x42 * 16777216 + u.toNat * 8388608 + d * 65536 + a * 512 + b * 4 + m⟩
  | .ffma u d a b m => some ⟨.alu, false, 0x43 * 16777216 + u.toNat * 8388608 + d * 65536 + a * 512 + b * 4 + m⟩
  | .fmin u d a b m => some ⟨.alu, false, 0x45 * 16777216 + u.toNat * 8388608 + d * 65536 + a * 512 + b * 4 + m⟩
  | .fmax u d a b m => some ⟨.alu, false, 0x46 * 16777216 + u.toNat * 8388608 + d * 65536 + a * 512 + b * 4 + m⟩
  | .fcmp u c k a b m => some ⟨.alu, false, 0x47 * 16777216 + u.toNat * 8388608 + c * 1048576 + k * 65536 + a * 512 + b * 4 + m⟩
  | .frcp u d a m => some ⟨.alu, false, 0x48 * 16777216 + u.toNat * 8388608 + d * 65536 + a * 512 + m⟩
  | .frsq u d a => some ⟨.alu, false, 0x49 * 16777216 + u.toNat * 8388608 + d * 65536 + a * 512⟩
  | .fsqrt u d a m => some ⟨.alu, false, 0x4A * 16777216 + u.toNat * 8388608 + d * 65536 + a * 512 + m⟩
  | .fexp2 u d a => some ⟨.alu, false, 0x4B * 16777216 + u.toNat * 8388608 + d * 65536 + a * 512⟩
  | .flog2 u d a => some ⟨.alu, false, 0x4C * 16777216 + u.toNat * 8388608 + d * 65536 + a * 512⟩
  | .fsin u d a => some ⟨.alu, false, 0x4D * 16777216 + u.toNat * 8388608 + d * 65536 + a * 512⟩
  | .fcos u d a => some ⟨.alu, false, 0x4E * 16777216 + u.toNat * 8388608 + d * 65536 + a * 512⟩
  | .ftanh u d a => some ⟨.alu, false, 0x4F * 16777216 + u.toNat * 8388608 + d * 65536 + a * 512⟩
  | .frnd u d a m => some ⟨.alu, false, 0x50 * 16777216 + u.toNat * 8388608 + d * 65536 + a * 512 + m⟩
  | .fcps u d a b m => some ⟨.alu, false, 0x51 * 16777216 + u.toNat * 8388608 + d * 65536 + a * 512 + b * 4 + m⟩
  | .hadd2 u d a b bf => some ⟨.alu, false, 0x58 * 16777216 + u.toNat * 8388608 + d * 65536 + a * 512 + b * 4 + bf.toNat⟩
  | .hmul2 u d a b bf => some ⟨.alu, false, 0x59 * 16777216 + u.toNat * 8388608 + d * 65536 + a * 512 + b * 4 + bf.toNat⟩
  | .hfma2 u d a b bf => some ⟨.alu, false, 0x5A * 16777216 + u.toNat * 8388608 + d * 65536 + a * 512 + b * 4 + bf.toNat⟩
  | .hmin2 u d a b bf => some ⟨.alu, false, 0x5B * 16777216 + u.toNat * 8388608 + d * 65536 + a * 512 + b * 4 + bf.toNat⟩
  | .hmax2 u d a b bf => some ⟨.alu, false, 0x5C * 16777216 + u.toNat * 8388608 + d * 65536 + a * 512 + b * 4 + bf.toNat⟩
  | .hdot2 u d a b bf => some ⟨.alu, false, 0x5D * 16777216 + u.toNat * 8388608 + d * 65536 + a * 512 + b * 4 + bf.toNat⟩
  | .cvt u d a src dst rm satx ncnt => some ⟨.alu, true, 0x80 * 16777216 + u.toNat * 8388608 + d * 65536 + a * 512 + src * 4294967296 + dst * 68719476736 + rm * 35184372088832 + satx.toNat * 281474976710656 + ncnt * 562949953421312⟩
  | .cvtq u d a b src dst rm satx vtype blk had smode sbyte => some ⟨.alu, true, 0x81 * 16777216 + u.toNat * 8388608 + d * 65536 + a * 512 + b * 4 + src * 4294967296 + dst * 68719476736 + rm * 35184372088832 + satx.toNat * 281474976710656 + vtype * 562949953421312 + blk.toNat * 2251799813685248 + had.toNat * 4503599627370496 + smode.toNat * 9007199254740992 + sbyte * 18014398509481984⟩
  | .cvtd u d a b src dst rm blk had scl sbyte => some ⟨.alu, true, 0x82 * 16777216 + u.toNat * 8388608 + d * 65536 + a * 512 + b * 4 + src * 4294967296 + dst * 68719476736 + rm * 35184372088832 + blk.toNat * 2251799813685248 + had.toNat * 4503599627370496 + scl.toNat * 9007199254740992 + sbyte * 18014398509481984⟩
  | .bscl u d a b rm styp inv sbyte => some ⟨.alu, true, 0x83 * 16777216 + u.toNat * 8388608 + d * 65536 + a * 512 + b * 4 + rm * 35184372088832 + styp.toNat * 4503599627370496 + inv.toNat * 9007199254740992 + sbyte * 18014398509481984⟩
  | .hadm u d a typ rm nrm blk => some ⟨.alu, true, 0x84 * 16777216 + u.toNat * 8388608 + d * 65536 + a * 512 + typ * 4294967296 + rm * 35184372088832 + nrm.toNat * 1125899906842624 + blk.toNat * 2251799813685248⟩
  | .vclass u d a => some ⟨.alu, false, 0x88 * 16777216 + u.toNat * 8388608 + d * 65536 + a * 512⟩
  | .vzero u d a m => some ⟨.alu, false, 0x89 * 16777216 + u.toNat * 8388608 + d * 65536 + a * 512 + m⟩
  | .vfill u d a b => some ⟨.alu, false, 0x8A * 16777216 + u.toNat * 8388608 + d * 65536 + a * 512 + b * 4⟩
  | .shfl d a b m => some ⟨.alu, false, 0xA0 * 16777216 + d * 65536 + a * 512 + b * 4 + m⟩
  | .vote d p m => some ⟨.alu, false, 0xA1 * 16777216 + d * 65536 + p * 512 + m⟩
  | .prfx d a m => some ⟨.alu, false, 0xA2 * 16777216 + d * 65536 + a * 512 + m⟩
  | .rduc d a k => some ⟨.alu, false, 0xA3 * 16777216 + d * 65536 + a * 512 + k * 4⟩
  | .ldb u d a h i => some ⟨.mem, false, u.toNat * 8388608 + d * 65536 + a * 512 + h * 32 + i⟩
  | .ldbs u d a h i => some ⟨.mem, false, 0x01 * 16777216 + u.toNat * 8388608 + d * 65536 + a * 512 + h * 32 + i⟩
  | .ldh u d a h i => some ⟨.mem, false, 0x02 * 16777216 + u.toNat * 8388608 + d * 65536 + a * 512 + h * 32 + i⟩
  | .ldhs u d a h i => some ⟨.mem, false, 0x03 * 16777216 + u.toNat * 8388608 + d * 65536 + a * 512 + h * 32 + i⟩
  | .ldw u d a h i => some ⟨.mem, false, 0x04 * 16777216 + u.toNat * 8388608 + d * 65536 + a * 512 + h * 32 + i⟩
  | .ldd u d a h i => some ⟨.mem, false, 0x05 * 16777216 + u.toNat * 8388608 + d * 65536 + a * 512 + h * 32 + i⟩
  | .ldq u d a h i => some ⟨.mem, false, 0x06 * 16777216 + u.toNat * 8388608 + d * 65536 + a * 512 + h * 32 + i⟩
  | .stb u d a h i => some ⟨.mem, false, 0x08 * 16777216 + u.toNat * 8388608 + d * 65536 + a * 512 + h * 32 + i⟩
  | .sth u d a h i => some ⟨.mem, false, 0x09 * 16777216 + u.toNat * 8388608 + d * 65536 + a * 512 + h * 32 + i⟩
  | .stw u d a h i => some ⟨.mem, false, 0x0A * 16777216 + u.toNat * 8388608 + d * 65536 + a * 512 + h * 32 + i⟩
  | .std u d a h i => some ⟨.mem, false, 0x0B * 16777216 + u.toNat * 8388608 + d * 65536 + a * 512 + h * 32 + i⟩
  | .stq u d a h i => some ⟨.mem, false, 0x0C * 16777216 + u.toNat * 8388608 + d * 65536 + a * 512 + h * 32 + i⟩
  | .pfch u a h i => some ⟨.mem, false, 0x0E * 16777216 + u.toNat * 8388608 + a * 512 + h * 32 + i⟩
  | .aadd d a h i src nr ty => some ⟨.mem, true, 0x20 * 16777216 + 8388608 + d * 65536 + a * 512 + h * 32 + i + src * 4294967296 + nr.toNat * 70368744177664 + ty * 140737488355328⟩
  | .ainc d a h i src nr ty => some ⟨.mem, true, 0x21 * 16777216 + 8388608 + d * 65536 + a * 512 + h * 32 + i + src * 4294967296 + nr.toNat * 70368744177664 + ty * 140737488355328⟩
  | .adec d a h i nr ty => some ⟨.mem, true, 0x22 * 16777216 + 8388608 + d * 65536 + a * 512 + h * 32 + i + nr.toNat * 70368744177664 + ty * 140737488355328⟩
  | .amin d a h i src nr ty => some ⟨.mem, true, 0x23 * 16777216 + 8388608 + d * 65536 + a * 512 + h * 32 + i + src * 4294967296 + nr.toNat * 70368744177664 + ty * 140737488355328⟩
  | .amax d a h i src nr ty => some ⟨.mem, true, 0x24 * 16777216 + 8388608 + d * 65536 + a * 512 + h * 32 + i + src * 4294967296 + nr.toNat * 70368744177664 + ty * 140737488355328⟩
  | .aand d a h i src nr ty => some ⟨.mem, true, 0x25 * 16777216 + 8388608 + d * 65536 + a * 512 + h * 32 + i + src * 4294967296 + nr.toNat * 70368744177664 + ty * 140737488355328⟩
  | .aor d a h i src nr ty => some ⟨.mem, true, 0x26 * 16777216 + 8388608 + d * 65536 + a * 512 + h * 32 + i + src * 4294967296 + nr.toNat * 70368744177664 + ty * 140737488355328⟩
  | .axor d a h i src nr ty => some ⟨.mem, true, 0x27 * 16777216 + 8388608 + d * 65536 + a * 512 + h * 32 + i + src * 4294967296 + nr.toNat * 70368744177664 + ty * 140737488355328⟩
  | .aswp d a h i src nr ty => some ⟨.mem, true, 0x28 * 16777216 + 8388608 + d * 65536 + a * 512 + h * 32 + i + src * 4294967296 + nr.toNat * 70368744177664 + ty * 140737488355328⟩
  | .acas d a h i src cmp nr ty => some ⟨.mem, true, 0x29 * 16777216 + 8388608 + d * 65536 + a * 512 + h * 32 + i + src * 4294967296 + cmp * 549755813888 + nr.toNat * 70368744177664 + ty * 140737488355328⟩
  | .upd u d a h i => some ⟨.mem, false, 0x30 * 16777216 + u.toNat * 8388608 + d * 65536 + a * 512 + h * 32 + i⟩
  | .updd u d a h i => some ⟨.mem, false, 0x31 * 16777216 + u.toNat * 8388608 + d * 65536 + a * 512 + h * 32 + i⟩
  | .uflush u => some ⟨.mem, false, 0x32 * 16777216 + u.toNat * 8388608⟩
  | .uapply u a h i => some ⟨.mem, false, 0x33 * 16777216 + u.toNat * 8388608 + a * 512 + h * 32 + i⟩
  | .waitc u d a h i cmp k ty => some ⟨.mem, true, 0x40 * 16777216 + u.toNat * 8388608 + d * 65536 + a * 512 + h * 32 + i + cmp * 4294967296 + k * 549755813888 + ty * 8796093022208⟩
  | .fence u m => some ⟨.mem, false, 0x41 * 16777216 + u.toNat * 8388608 + m⟩
  | .mbsend u d a b mbox => some ⟨.mem, true, 0x42 * 16777216 + u.toNat * 8388608 + d * 65536 + a * 512 + b * 4 + mbox * 4294967296⟩
  | .mbrecv u d mbox => some ⟨.mem, false, 0x43 * 16777216 + u.toNat * 8388608 + d * 65536 + mbox * 4⟩
  | .mbpoll u d a mbox => some ⟨.mem, false, 0x44 * 16777216 + u.toNat * 8388608 + d * 65536 + a * 512 + mbox * 4⟩
  | .boinit u d a h i => some ⟨.mem, false, 0x48 * 16777216 + u.toNat * 8388608 + d * 65536 + a * 512 + h * 32 + i⟩
  | .boarr u d a h i => some ⟨.mem, false, 0x49 * 16777216 + u.toNat * 8388608 + d * 65536 + a * 512 + h * 32 + i⟩
  | .bowait u d a h i => some ⟨.mem, false, 0x4A * 16777216 + u.toNat * 8388608 + d * 65536 + a * 512 + h * 32 + i⟩
  | .botst u d a h i => some ⟨.mem, false, 0x4B * 16777216 + u.toNat * 8388608 + d * 65536 + a * 512 + h * 32 + i⟩
  | .watch u d a h i susp => some ⟨.mem, true, 0x50 * 16777216 + u.toNat * 8388608 + d * 65536 + a * 512 + h * 32 + i + susp.toNat * 4294967296⟩
  | .wdrop u d a h i => some ⟨.mem, false, 0x51 * 16777216 + u.toNat * 8388608 + d * 65536 + a * 512 + h * 32 + i⟩
  | .wresume u d a h i => some ⟨.mem, false, 0x52 * 16777216 + u.toNat * 8388608 + d * 65536 + a * 512 + h * 32 + i⟩
  | .wstat u d a h i => some ⟨.mem, false, 0x53 * 16777216 + u.toNat * 8388608 + d * 65536 + a * 512 + h * 32 + i⟩
  | .bind u h opc eager => some ⟨.mem, true, 0x54 * 16777216 + u.toNat * 8388608 + h * 32 + opc * 4294967296 + eager.toNat * 1099511627776⟩
  | .unbind u h => some ⟨.mem, false, 0x55 * 16777216 + u.toNat * 8388608 + h * 32⟩
  | .hset u a s => some ⟨.mem, false, 0x60 * 16777216 + u.toNat * 8388608 + a * 512 + s⟩
  | .hget u d s => some ⟨.mem, false, 0x61 * 16777216 + u.toNat * 8388608 + d * 65536 + s⟩
  | .hlen u d s => some ⟨.mem, false, 0x62 * 16777216 + u.toNat * 8388608 + d * 65536 + s⟩
  | .mma a b o ssel xz acc v t sb sa => some ⟨.mtx, true, a * 65536 + b * 512 + o * 4 + ssel + xz * 4294967296 + acc.toNat * 17179869184 + v * 34359738368 + t * 4398046511104 + sb * 1125899906842624 + sa * 144115188075855872⟩
  | .mmav a b o ssel xz acc v t sb sa => some ⟨.mtx, true, 0x01 * 16777216 + a * 65536 + b * 512 + o * 4 + ssel + xz * 4294967296 + acc.toNat * 17179869184 + v * 34359738368 + t * 4398046511104 + sb * 1125899906842624 + sa * 144115188075855872⟩
  | .orset d a => some ⟨.mtx, false, 0x08 * 16777216 + d * 65536 + a * 512⟩
  | .orget d a => some ⟨.mtx, false, 0x09 * 16777216 + d * 65536 + a * 512⟩
  | .accz d q t => some ⟨.mtx, false, 0x10 * 16777216 + d * 65536 + q * 512 + t⟩
  | .accrd d t row0 col0 nreg => some ⟨.mtx, true, 0x11 * 16777216 + d * 65536 + t * 4294967296 + row0 * 1099511627776 + col0 * 140737488355328 + nreg * 9007199254740992⟩
  | .accwr d t row0 col0 nreg => some ⟨.mtx, true, 0x12 * 16777216 + d * 65536 + t * 4294967296 + row0 * 1099511627776 + col0 * 140737488355328 + nreg * 9007199254740992⟩
  | .mthr d a b m => some ⟨.mtx, false, 0x18 * 16777216 + d * 65536 + a * 512 + b * 4 + m⟩
  | .mvst d a b m => some ⟨.mtx, false, 0x19 * 16777216 + d * 65536 + a * 512 + b * 4 + m⟩
  | .mstat d k => some ⟨.mtx, false, 0x1A * 16777216 + d * 65536 + k * 4⟩
  | .msync m => some ⟨.mtx, false, 0x20 * 16777216 + m⟩
  | .tload u d a n => some ⟨.eng, false, u.toNat * 8388608 + d * 65536 + a * 512 + n⟩
  | .tstore u d a n => some ⟨.eng, false, 0x01 * 16777216 + u.toNat * 8388608 + d * 65536 + a * 512 + n⟩
  | .tgath u d a n => some ⟨.eng, false, 0x02 * 16777216 + u.toNat * 8388608 + d * 65536 + a * 512 + n⟩
  | .tscat u d a n => some ⟨.eng, false, 0x03 * 16777216 + u.toNat * 8388608 + d * 65536 + a * 512 + n⟩
  | .tcast u d a n => some ⟨.eng, false, 0x04 * 16777216 + u.toNat * 8388608 + d * 65536 + a * 512 + n⟩
  | .tfill u d a n => some ⟨.eng, false, 0x05 * 16777216 + u.toNat * 8388608 + d * 65536 + a * 512 + n⟩
  | .fwait u a m => some ⟨.eng, false, 0x10 * 16777216 + u.toNat * 8388608 + a * 512 + m⟩
  | .ftest u d a => some ⟨.eng, false, 0x11 * 16777216 + u.toNat * 8388608 + d * 65536 + a * 512⟩
  | .fcancel u a => some ⟨.eng, false, 0x12 * 16777216 + u.toNat * 8388608 + a * 512⟩
  | .launch u d a n repl => some ⟨.eng, false, 0x18 * 16777216 + u.toNat * 8388608 + d * 65536 + a * 512 + n + repl.toNat * 256⟩
  | .zopen u z a => some ⟨.eng, false, 0x20 * 16777216 + u.toNat * 8388608 + z * 65536 + a * 512⟩
  | .zadv u z i => some ⟨.eng, false, 0x21 * 16777216 + u.toNat * 8388608 + z * 65536 + i⟩
  | .zend u c z => some ⟨.eng, false, 0x22 * 16777216 + u.toNat * 8388608 + c * 65536 + z⟩
  | .zclose u z => some ⟨.eng, false, 0x23 * 16777216 + u.toNat * 8388608 + z * 65536⟩
  | .zld u d z => some ⟨.eng, false, 0x24 * 16777216 + u.toNat * 8388608 + d * 65536 + z⟩
  | .zcrd u d z => some ⟨.eng, false, 0x25 * 16777216 + u.toNat * 8388608 + d * 65536 + z⟩
  | .evpop u d w => some ⟨.eng, false, 0x30 * 16777216 + u.toNat * 8388608 + d * 65536 + w.toNat⟩
  | .evpeek u d => some ⟨.eng, false, 0x31 * 16777216 + u.toNat * 8388608 + d * 65536⟩
  | .qcfg u d a => some ⟨.eng, false, 0x38 * 16777216 + u.toNat * 8388608 + d * 65536 + a * 512⟩
  | .br c s o => some ⟨.ctl, false, c * 1048576 + s.toNat * 524288 + o⟩
  | .jmp o => some ⟨.ctl, false, 0x01 * 16777216 + o⟩
  | .jmpi a => some ⟨.ctl, false, 0x02 * 16777216 + a * 512⟩
  | .call o => some ⟨.ctl, false, 0x03 * 16777216 + o⟩
  | .calli a => some ⟨.ctl, false, 0x04 * 16777216 + a * 512⟩
  | .ret => some ⟨.ctl, false, 0x05 * 16777216⟩
  | .exit => some ⟨.ctl, false, 0x06 * 16777216⟩
  | .bar b => some ⟨.ctl, false, 0x08 * 16777216 + b⟩
  | .bara b => some ⟨.ctl, false, 0x09 * 16777216 + b⟩
  | .barw b => some ⟨.ctl, false, 0x0A * 16777216 + b⟩
  | .racq k => some ⟨.ctl, false, 0x10 * 16777216 + k⟩
  | .rrel k => some ⟨.ctl, false, 0x11 * 16777216 + k⟩
  | .pmark => some ⟨.ctl, false, 0x12 * 16777216⟩
  | .sleep i => some ⟨.ctl, false, 0x13 * 16777216 + i⟩
  | .trap i => some ⟨.ctl, false, 0x18 * 16777216 + i⟩
  | .bkpt i => some ⟨.ctl, false, 0x19 * 16777216 + i⟩
  | .nop => some ⟨.ctl, false, 0x1A * 16777216⟩
  | .cfgrd d i => some ⟨.ctl, false, 0x20 * 16777216 + d * 65536 + i⟩
  | .cfgwr d i => some ⟨.ctl, false, 0x21 * 16777216 + d * 65536 + i⟩
  | .eret => some ⟨.ctl, false, 0x22 * 16777216⟩
  | .gstat d a m => some ⟨.ctl, false, 0x23 * 16777216 + d * 65536 + a * 512 + m⟩
  | .gsave a b m => some ⟨.ctl, false, 0x24 * 16777216 + a * 512 + b * 4 + m⟩
  | .gload d a b m => some ⟨.ctl, false, 0x25 * 16777216 + d * 65536 + a * 512 + b * 4 + m⟩
  | .gstop a m => some ⟨.ctl, false, 0x26 * 16777216 + a * 512 + m⟩
  | .gkill a m => some ⟨.ctl, false, 0x27 * 16777216 + a * 512 + m⟩
  | .registerWriteback _ => none
  | .accessReply _ _ _ => none
  | .storeAck _ _ => none
  | .matrixOpEnd _ => none
  | .tileCopyBatchDelivery _ => none
  | .futureWritten _ => none
  | .monitorWakeup _ => none
  | .waitcRecompare _ _ => none
  | .mailboxDelivery _ _ => none
  | .racqGrant _ => none
  | .sleepExpiry _ _ => none
  | .batchClose _ => none
  | .triggerDispatch _ => none
  | .triggerSpillReturn _ => none
  | .launchDispatch _ => none
  | .overflowEntryReturn _ _ _ => none
  | .launchQueueTailWrite _ _ => none
  | .launchPacketRead _ => none
  | .launchWaitMet _ => none
  | .launchReplicaArrival _ _ _ _ _ _ _ _ => none
  | .startBarrierPass _ => none
  | .remoteAccessArrival _ _ _ _ _ _ _ _ _ => none
  | .remoteTimeout _ => none
  | .replicationTimeout _ => none
  | .replAbortWrite _ => none
  | .sideLogReplay _ => none
  | .sideLogFull _ => none
  | .pageInComplete _ _ _ => none
  | .migrationLineCopy _ => none
  | .migrationFailed _ => none
  | .accessBitSweep _ => none
  | .binderyQuota _ _ _ => none
  | .thermalReading _ _ => none
  | .droopEvent _ => none
  | .droopHoldExpiry _ => none
  | .idleSwap _ _ => none
  | .watchdog _ _ => none
  | .gstopDrainComplete _ => none
  | .ctRunWrite _ _ => none
  | .swapOutWrite _ _ => none
  | .viSyncWrite _ => none
  | .viSyncComplete _ => none
  | .ptInvalWrite _ _ => none
  | .ptInvalComplete _ => none
  | .pwrModeWrite _ => none
  | .fabRouteWrite _ => none
  | .trcCtlWrite _ _ => none
  | .dstopEnWrite _ _ => none
  | .dstopHit _ _ => none
  | .counterReadClear _ _ _ => none
  | .configRegisterWrite _ _ _ _ => none
  | .apertureAccess _ _ _ _ _ _ => none
  | .gpPlainAccess _ _ _ _ => none
  | .flitCrcError _ _ => none
  | .linkDown _ => none
  | .hbmCrcError _ _ => none
  | .hbmRetrainComplete _ _ => none
  | .cxlDeviceLost _ _ _ => none
  | .attestationRequest _ => none
  | .deployCommand _ => none
  | .rmaCommand _ => none
  | .bindComplete _ _ => none
  | .cxlPortError _ _ => none
  | .tick => none
  | .updatePairArrival => none
  | .teamPlacement => none
  | .packetDispatch => none
  | .rehomeEpoch => none
  | .quantumExpiry => none
  | .samplePoint => none
  | .deadlockScan => none
  | .partReset => none
  | .provisionCommand => none
  | .decommissionCommand => none

/-- The bytes of a 32-bit word, lowest address first (R4). -/
def wordBytes (w : Nat) : List Nat := [w % 256, w / 256 % 256, w / 65536 % 256, w / 16777216 % 256]

/-- The word of four bytes, lowest address first (R4); missing bytes read 0. -/
def bytesWord : List Nat → Nat
  | a :: b :: c :: d :: _ => a + 256 * b + 65536 * c + 16777216 * d
  | _ => 0

/-- How many bits of the words the class map's row fixes: its unused fields, and U where the map fixes it. -/
def Row.fixedBits (r : Row) : Nat := (r.unused.map (·.len)).sum + (if r.use = .any then 0 else 1)

/-- The class that the table's bits stand for. An opcode-table row gives no class (R152 takes it from the clause header), so the
words are read in each class, and the class is one whose row decodes and fixes the most bits of the word (the first of MTX, CTL,
ENG, MEM, ALU among equals). A row of `nbits` = 32 is one without an extension word. -/
def tableClass (nbits v : Nat) : Option Cls :=
  let score (c : Cls) : Nat :=
    match opRow c v, decode c true v with
    | some r, .ok _ => if r.ext = decide (32 < nbits) then 1 + r.fixedBits else 0
    | _, _ => 0
  let pick (best : Option (Cls × Nat)) (c : Cls) : Option (Cls × Nat) :=
    match best with
    | none => if score c = 0 then none else some (c, score c)
    | some (b, n) => if n < score c then some (c, score c) else some (b, n)
  ([Cls.mtx, .ctl, .eng, .mem, .alu].foldl pick none).map (·.1)

/-- The instruction that the decoder reads from words whose bits are `w`, numbered as spec/opcode_table.json numbers them. -/
def decodeTableWord (nbits w : Nat) : Option Instr :=
  let v := w % 2 ^ nbits
  match tableClass nbits v with
  | none => none
  | some c => match decode c true v with
    | .ok i => some i
    | .error _ => none

end Sys2Proof
end

