-- ==== Sys2Proof/Machine/State.lean ====
section
/-!
DEFINITION. The state of one SH-4128 (INVENTORY.md, '## State'): plain data, all of it. A sparse store (`Mem`) or a map (`NMap`)
lists only what differs from reset, in rising order, so that equal parts are equal data. Program counters, handles, offsets and
counts are natural numbers below the bound their rule gives; registers and memory cells are bit vectors.
-/
namespace Sys2Proof.Machine

/-- Why the model stops. No instruction of the spec ends in one of these by itself. -/
inductive Fault where
  /-- Raised by the memory operations: translation gave the physical address `pa`, which Table Vi-4 says is no memory; Poxus must
  not place a window there (R325). Safe: the model stops where the spec says nothing. -/
  | noMemory (pa : Nat)
  /-- Raised by an instruction when the issue record names no active lane of a present group, which `step` never makes. Safe. -/
  | noIssue
  deriving DecidableEq, Repr

/-- Why the model gives no meaning. -/
inductive Refusal where
  /-- Raised by an arm of `exec` without a meaning; safe, since the model stops. -/
  | notModelled (mnemonic : String)
  deriving DecidableEq, Repr

/-- Who issues on a core: its control thread, or the group in a group slot (R16, R49). -/
inductive Agent where
  | ct
  | grp (slot : Nat)
  deriving DecidableEq, Repr

/-- The clause a lane stands in: the header's code offset and its word (R24, R141). -/
structure Clause where
  off  : Nat
  word : Nat
  deriving DecidableEq, Repr

/-- The issue in progress (the model's own): core, agent, active lanes in ascending order, the word's code offset, its clause, the
instruction word and the word after it, and its fetch port, 0 or 1. -/
structure Issue where
  core   : Nat
  agent  : Agent
  lanes  : List Nat
  pc     : Nat
  clause : Clause
  iword  : Nat
  xword  : Nat
  port   : Nat
  deriving DecidableEq, Repr

/-- What a waiting or held lane waits in (R30, R291, R410, Table Dt-1); in WAITC, with the handle and offset. -/
inductive Why where
  | load | atomic | remote | waitc (h off : Nat) | mbrecv | bowait | bar | bara | barw | racq | sleep | fwait | future (r : Nat) | fence | bind | flush
  | sideLog | spillArea | spillRing | evpop | msync | launchQueue | copyQueue | mtxQueue | image | gstop | page | line | rrel
  deriving DecidableEq, Repr

/-- How a lane waits. -/
inductive Wait where
  /-- It does not wait. -/
  | none
  /-- The word has issued and been counted, and has had no effect: the lane issues it again when the hold ends (R30, R271, R328). -/
  | retry (why : Why)
  /-- It waits for the end of operation `id`. -/
  | op (id : Nat) (why : Why)
  /-- It waits at barrier `b` for the end of phase `phase` (R285). -/
  | bar (b phase : Nat) (why : Why)
  /-- It sleeps until cycle `till` (R287). -/
  | sleep (till : Nat)
  deriving DecidableEq, Repr

/-- One lane of a group (R16, R20, R22, R24, R35, R129, R283). -/
structure Lane where
  /-- Code offset of the next word, or of the header where `clause` is none. -/
  pc        : Nat
  /-- The clause the lane is inside; none at a clause header. -/
  clause    : Option Clause
  vacant    : Bool
  item      : Word
  sr        : Word
  cflags    : BitVec 8
  /-- Return addresses held in hardware, newest first, at most 8 (R283). -/
  rstack    : List Nat
  /-- Return addresses in the stack area (R283). -/
  spilled   : Nat
  wait      : Wait
  /-- Where a cancelled wait sets the lane back: the word's offset and its clause (R291, R380). -/
  back      : Option (Nat × Clause)
  /-- The lane's word has been counted by `$rwc` already, and `$rwc` before that (R19, R387). -/
  counted   : Bool
  rwcAt     : Nat
  /-- What the lane's held word read at its issue (R175, R275), and the completion flags that it raised there (R145). -/
  saved     : List Nat
  flags     : List Nat
  /-- The number of the next operation when the lane's word, an access, was first held after its checks (R322). -/
  heldAt    : Option Nat
  /-- Table entries, by address, that the checks of that access found (R322). -/
  entries   : List (Nat × Nat)
  /-- Number of the group's issue at which the lane last issued (R22). -/
  lastIssue : Nat
  /-- The operation of a UFLUSH or UAPPLY that the lane's next access waits for (R211, R212). -/
  flushing  : List Nat
  /-- Barrier and phase of the lane's latest arrival, by barrier (R285). -/
  arrived   : NMap Nat
  /-- Other chips that the lane has sent update pairs to since its last UFLUSH (R211). -/
  farPairs  : List Nat
  deriving DecidableEq, Repr

/-- An open stream register (R276, R277). -/
structure Stream where
  pos  : Nat
  fin  : Nat
  rpH  : Nat
  coH  : Nat
  vaH  : Nat
  coOff : Nat
  vaOff : Nat
  vw   : Nat
  deriving DecidableEq, Repr

/-- A pending future: lane, register, request (R271). -/
structure Pending where
  lane : Nat
  reg  : Nat
  id   : Nat
  deriving DecidableEq, Repr

/-- A group (R16, R19, R20, R22, R126, R447). -/
structure Group where
  team    : Nat
  grp     : Nat
  width   : Nat
  blocks  : Nat
  /-- Register r of lane l under number 128 l + r. -/
  regs    : Mem 32
  lanes   : List Lane
  /-- Handle slots b0 to b11. -/
  slots   : Mem 32
  streams : NMap Stream
  rwc     : Nat
  issues  : Nat
  fpf     : BitVec 5
  prog    : Word
  halted  : Bool
  trapped : Bool
  /-- Order in which the core's groups became resident (R307, R367), and its issue slot (R302). -/
  order   : Nat
  islot   : Nat
  /-- Thread slots in units of 32, those of lanes 0 to 31 first (R283). -/
  units   : List Nat
  /-- Cycles in which the group was ready and not chosen (R307), and the cycle of its last issue (R451). -/
  starved : Nat
  issuedAt : Option Nat
  pend    : List Pending
  /-- Registers that hold poison: lane and register (R421). -/
  poison  : List (Nat × Nat)
  /-- The entry clause has not been fetched yet (R35, R406). -/
  fresh   : Bool
  /-- The next refill point pops nothing: ACT 1 on a failed pop (R405). -/
  noRefill : Bool
  /-- Code words that have come from another chip and not been used: offset, and the word, or 2^32 and the check that its chip refused (R60). -/
  code    : List (Nat × Nat)
  deriving DecidableEq, Repr

/-- A team barrier: its phase, the arrivals of the phase, as group index and lane, and how many more a restored team's image counts, of
threads that it does not name (R285, R292). -/
structure Bar where
  phase   : Nat
  arrived : List (Nat × Nat)
  more    : Nat
  deriving DecidableEq, Repr

/-- A work queue: KIND, QH, QOFF, LIMIT of Table Ex-5. -/
structure WorkQueue where
  kind  : Nat
  qh    : Nat
  qoff  : Nat
  limit : Nat
  deriving DecidableEq, Repr

/-- The other half of a split team: its core and team slot, and whether this half is the higher one (R47). -/
structure Half where
  core : Nat
  slot : Nat
  high : Bool
  deriving DecidableEq, Repr

/-- A team on one core (R16 to R18, R32, R37, R47, R125, R233, R257, R279, R285, R410). -/
structure Team where
  vi      : Nat
  grid    : Nat
  team    : Nat
  nteam   : Nat
  groups  : Nat
  width   : Nat
  regs    : Nat
  prio    : Nat
  depth   : Nat
  gen     : Nat
  vcore   : Nat
  codeH   : Nat
  eoff    : Nat
  argH    : Nat
  argOff  : Nat
  /-- The argument handles of b1 and b2 in a triggered group (R20). -/
  argB1   : Nat
  argB2   : Nat
  fpctl   : BitVec 16
  srseed  : Word
  vmon    : Bool
  persist : Bool
  wq      : Option WorkQueue
  watch   : Option Nat
  wh      : Nat
  woff    : Nat
  abBase  : Nat
  abLen   : Nat
  wbFirst : Nat
  wbN     : Nat
  acsFirst : Nat
  acsN    : Nat
  recFirst : Nat
  recN    : Nat
  bars    : List Bar
  frozen  : Bool
  undrained : Bool
  imaged  : Bool
  half    : Option Half
  wdog    : Nat
  /-- QCW 0 and 1, and those that take effect when the present areas are empty (R280). -/
  qcw0    : Double
  qcw1    : Double
  qcw0Next : Option Double
  qcw1Next : Option Double
  /-- MSTAT counters 0 to 5 (Table Mx-7). -/
  stats   : Mem 64
  order   : Nat
  /-- Cycles in which all groups have been parked (R312); time slices seen (R311); 1 once chosen as a victim, 2 for idleness (R313). -/
  idle    : Nat
  slices  : Nat
  victim  : Nat
  /-- All groups have ended; the team waits for its queues (R53). -/
  ending  : Bool
  deriving DecidableEq, Repr

/-- A trap record in the making: a program fault, a watchdog entry, or a PREEMPT entry (R380, R381). -/
structure Entry where
  code   : Nat
  vi     : Nat
  gslot  : Nat
  tslot  : Nat
  pc     : Nat
  codeH  : Nat
  rwc    : Nat
  lanes  : List Nat
  fh     : Nat
  foff   : Nat
  info   : Nat
  iword  : Nat
  xword  : Nat
  /-- The clause of the faulting word. -/
  clause : Option Clause
  /-- Raised by a reply, after the word issued (R387). -/
  late   : Bool
  /-- Raised by an entry fetch or a pop, before the clause issues (R405, R406). -/
  start  : Bool
  /-- Of a WATCHDOG entry, the order in which its team came, and of a deferred fault the cycle in which it came (R387); the other core that a
  WATCHDOG entry stops (R390, R411). -/
  order  : Nat
  other  : Option Nat
  deriving DecidableEq, Repr

/-- What a checked access names: the address space (`Claim`) and address of its first byte; the entry that names the buffer, its
table's virtual interface and index and the offset in it; the entry of the handle used; and the rank of a remote window (R55, R60). -/
structure Ref where
  space  : Nat
  va     : Nat
  entry  : Nat
  vi     : Nat
  index  : Nat
  off    : Nat
  outer  : Nat
  remote : Option Nat
  deriving DecidableEq, Repr

/-- A condition a WAITC or a launch packet waits for: the bytes' address, the type code, the relation, and the comparand of each
waiting lane, the home slice, and the handle and offset that named the bytes (R213, R297, R447). -/
structure Cond where
  pa   : Nat
  slice : Nat
  ty   : Nat
  rel  : Nat
  args : List (Nat × Nat)
  h    : Nat
  off  : Nat
  deriving DecidableEq, Repr

/-- How a remote access's reply is written to registers: no reply that a lane waits for; a bare acknowledgement; registers from `d`
up holding `bytes` bytes, sign-extended or not; or the old values of an atomic; or a WAITC's value; or the item a
work queue gives, plus 1, or 0; or POS and END of a stream being opened; or
the return address that RET reads back; or the value that an access from outside the cores returns, or none for its store; or whether a ring took the item of
a watch's trigger at a slice, and the position it took; or that wait `n` of a launch queue's packet is met; or bytes that the lane's word
keeps until it issues again; or that the condition on which a swapped-out team was set back has come true; or a row of a copy. -/
inductive ReplyForm where
  | nothing
  | row (copy : Nat)
  | ack
  | load (d bytes : Nat) (sext : Bool)
  | atomic (op ty : Nat) (d : Nat) (operands : List (Nat × Nat × Nat))
  | waitc (d ty : Nat)
  | pop
  | stream (z : Nat) (st : Stream)
  | ret
  | outside
  | posted
  | push (watch slice off : Nat)
  | wait (queue n : Nat)
  | image
  | wake (grid team : Nat)
  | code (off : Nat)
  deriving DecidableEq, Repr

/-- What a remote access asks of its home chip (R60, R348): bytes read or stored; a copy's row with the indices
of its poisoned bytes; a pair; an atomic's operation, type and lanes with operand
and comparand; a WAITC's type, relation and comparand; BIND's operator and policy, or UNBIND; the apply of a folio; the applies of the
lane's pairs there; a code word; a pop of a counter, or of a ring of `n` items, below a limit; a join decrement; an item pushed into a ring of `n`
items for a watch; the word that such an item has been popped; or a watch instruction. -/
inductive RemoteAct where
  | read (bytes : Nat)
  | store (bytes : List Byte)
  | rowOf (bytes : List Byte) (bad : List Nat)
  | pair (bytes val : Nat)
  | atomic (op ty : Nat) (operands : List (Nat × Nat × Nat))
  | waitc (ty rel cmp : Nat)
  | bind (b : Option (Nat × Bool))
  | apply
  | flush
  | code
  | pop (kind limit : Nat)
  | join
  | push (items item watch : Nat)
  | popped (watch : Nat)
  | watch (op susp : Nat)
  deriving DecidableEq, Repr

/-- A remote access outstanding (R60, R348, R387): rank, handle used here, offset, the form of its reply, what it asks, the depth of the
agent that issued it, the number of its instruction's first operation, and the code and data of a reply that waits for those of the
instruction's other lanes. -/
structure Remote where
  rank     : Nat
  handle   : Nat
  off      : Nat
  form     : ReplyForm
  act      : RemoteAct
  depth    : Nat
  first    : Nat
  got      : Option (Nat × Nat)
  deriving DecidableEq, Repr

/-- An MMA or MMAV whose B operand lies in global memory and has not been read yet (R329, R60): the issuing group's registers as they
stood at issue, its team slot, the record, the instruction with its extension word, the tile, and the buffer's reference. -/
structure MmaJob where
  g     : Group
  team  : Option Nat
  rcd   : Nat
  word  : Nat
  tile  : Nat
  vmon  : Bool
  bref  : Ref
  deriving DecidableEq, Repr

/-- Where a row of a tile copy comes from or goes: global memory, core-absolute addresses of AB and WB, an ACS row and first column, the
bytes of FILL, or zeros (Table Ec-2, R263). -/
inductive Place where
  | glob (r : Ref)
  | ab (core addr : Nat)
  | wb (core addr : Nat)
  | acs (tile row col : Nat)
  | fill
  | zero
  deriving DecidableEq, Repr

/-- A row of a tile copy: its source, if it has one, its destinations, and whether its index was padded (R263). -/
structure CopyRow where
  src  : Option Place
  dsts : List Place
  pad  : Bool
  deriving DecidableEq, Repr

/-- A barrier object that counts a copy: its core and core-absolute address, and the team slot it belongs to with the order in which that
team came, so that an object does not outlive its team. -/
structure BoRef where
  core  : Nat
  addr  : Nat
  owner : Option (Nat × Nat)
  deriving DecidableEq, Repr

/-- A tile copy to be performed: its opcode and request block, the posting virtual interface and depth, its source's and destination's
handles, its rows, and the swapped-out recipients, as grid, team and core (R266). -/
structure CopyJob where
  op    : Nat
  block : Nat
  vi    : Nat
  depth : Nat
  srcH  : Nat
  dstH  : Nat
  rows  : List CopyRow
  away  : List (Nat × Nat × Nat)
  deriving DecidableEq, Repr

/-- A tile copy posted (R268, R270): the job while it waits to be performed, for a page or a reply; the batches still to be counted, as
rows, bytes and padded rows; the object at BO and the number of deliveries it counts; the recipients' objects at RBO; the completion
word; whether its request stands in the core pool, or else in the AB queue; the team slot whose queue holds it; whether it has found room
in the queue at all; its request block; and why its job waits, if it has been tried. Rows on their way to another chip are operations of
their own. -/
structure CopyRun where
  job     : Option CopyJob
  batches : List (Nat × Nat × Nat)
  bo      : Option BoRef
  nrec    : Nat
  rbo     : List BoRef
  word    : Nat
  pooled  : Bool
  slot    : Option Nat
  placed  : Bool
  block   : Nat
  wait    : Option Why
  /-- The bytes of a remote source that have come, each with whether it is poisoned, while the job still waits (R96, R421). -/
  far     : Option (List (Byte × Bool))
  deriving DecidableEq, Repr

/-- A delivery held for a swapped-out recipient (R266): the copy's operation, the recipient's grid, team and core, the rows with their
offsets in its AB or WB and the indices of poisoned bytes, the owner tag, and the batches that its RBO and the copy's BO count. -/
structure Held where
  id    : Nat
  grid  : Nat
  team  : Nat
  core  : Nat
  wb    : Bool
  rows  : List (Nat × List Byte × List Nat)
  tag   : Nat
  rbo   : Option Nat
  bo    : Option BoRef
  counts : List (Nat × Nat × Nat)
  deriving DecidableEq, Repr

/-- A launch waiting for the distributor (R41, R42, R44): the record's 512 bits, the launching virtual interface, its priority and
depth, the chips of a replicated launch, and the team slot that owns its overflow queue. -/
structure Launch where
  bits  : Nat
  vi    : Nat
  prio  : Nat
  depth : Nat
  chips : Nat
  gen   : Nat
  team  : Nat
  deriving DecidableEq, Repr

/-- What an operation that has issued and not ended still has to do. -/
inductive OpKind where
  /-- A result on its way to registers, or an AB or WB load (R305). -/
  | writeback
  /-- A global read, atomic or remote access whose reply frees its lanes (R30). -/
  | reply
  /-- A store, pair or non-returning atomic on its way to its acknowledgement (R457). -/
  | store
  /-- FENCE of scope 0 team, 1 chip or 2 system (R215). -/
  | fence (scope : Nat)
  /-- UFLUSH (R211). -/
  | uflush
  /-- UAPPLY of the folios at these physical addresses (R212). -/
  | uapply (folios : List Nat)
  /-- A matrix-class engine operation of a team slot (R251, R258). -/
  | mtx (slot : Option Nat)
  /-- An MMA or MMAV that waits for its B operand. Later matrix operations of the core wait behind it (R251). -/
  | mma (job : MmaJob)
  /-- A request block or launch record to be read, for SETA (Table En-2). -/
  | read
  /-- A tile copy (R268 to R271). -/
  | copy (run : CopyRun)
  /-- A future to be written with a completion word (R271). -/
  | future (word : Nat)
  /-- A WAITC: destination, condition, and whether a monitor is armed (R105, R106). -/
  | waitc (d : Nat) (cond : Cond) (armed : Bool)
  /-- An MBRECV: destination, mailbox, U (R217). -/
  | mbrecv (d mbox : Nat) (u : Bool)
  /-- A BOWAIT: destination, and the core and the core-absolute address of the object (R222). -/
  | bowait (d home addr : Nat)
  /-- An RACQ for k blocks (R29). -/
  | racq (k : Nat)
  /-- EVPOP with `.wait` (R281). -/
  | evpop (d : Nat)
  /-- MSYNC (R258): the operations waited for. -/
  | msync (ids : List Nat)
  /-- GSTOP of a team slot, until the team is drained (R291). -/
  | gstop (slot : Nat)
  /-- BIND or UNBIND (R229, R231). -/
  | bind
  /-- A LAUNCH whose record has been read and whose copy waits for room in the pending-launch queue (R41). -/
  | launch (x : Launch)
  /-- A remote access (R60): where it goes, and what its reply writes. -/
  | remote (r : Remote)
  deriving DecidableEq, Repr

/-- An operation that has issued and not ended (R145, Table En-2): its number, who issued it, for which lanes, what flag it raises,
the deferred fault its reply raises, the cycle of its issue, and whether its remote timeout has been posted (R432). -/
structure Op where
  id    : Nat
  core  : Nat
  agent : Agent
  lanes : List Nat
  kind  : OpKind
  flag  : Option Nat
  fault : Option Entry
  clk   : Nat
  timedOut : Bool
  /-- Its word's offset, and `$rwc` before its issue (R387, R451). -/
  pc    : Nat
  rwc   : Nat
  /-- The team that issued it: virtual interface, grid and team index (R43, R291); none for a control thread and for the part. -/
  team  : Option (Nat × Nat × Nat)
  deriving DecidableEq, Repr

/-- What a side-log entry writes (R330): bytes, an update pair with its operator and policy, or a non-returning atomic with its lanes'
operands. -/
inductive LogKind where
  | store (bytes : List Byte)
  | pair (val opc : Nat) (eager : Bool)
  | atomic (op ty : Nat) (operands : List (Nat × Nat × Nat))
  deriving DecidableEq, Repr

/-- An entry of a core's side log (R330): address space, virtual address and size, kind, the operation it belongs to, the buffer's
virtual interface and index, the lanes that issued it (R90), the depth, the cycle of its entry, and the handle and offset that named it (R435). -/
structure LogEntry where
  space : Nat
  va    : Nat
  size  : Nat
  kind  : LogKind
  id    : Nat
  vi    : Nat
  index : Nat
  agent : Agent
  lanes : List Nat
  depth : Nat
  clk   : Nat
  handle : Nat
  off   : Nat
  deriving DecidableEq, Repr

/-- A range that an access not yet performed holds against every other access (R97, R329, R430): the address space, its bounds, and
the lane or the operation that holds it. Spaces 0 to 63 are the virtual addresses of the virtual interfaces and 64 is physical; core
c's AB, WB and ACS are spaces 100 + c, 300 + c and 500 + c. -/
structure Claim where
  space : Nat
  lo    : Nat
  hi    : Nat
  owner : (Nat × Agent × Nat) ⊕ Nat
  deriving DecidableEq, Repr

/-- An issue slot's memory: the group that issued last, whether its last clause yielded (R307), and its active list (R304). -/
structure SlotState where
  last  : Option Nat
  yield : Bool
  active : List Nat
  deriving DecidableEq, Repr

/-- A core (R17, R29, R49, R61, R63, R69, R86, R233, R242, R281, R300, R330, R380, R453). -/
structure Core where
  ct       : Group
  groups   : NMap Group
  teams    : NMap Team
  ab       : Mem 8
  wb       : Mem 8
  wbTag    : Mem 16
  /-- ACS element j of row r of tile t under number 8192 t + 64 r + j. -/
  acs      : Mem 32
  /-- Threshold of row r of pair p under number 128 p + r, exclusive-or its reset value 0xFF80_0000. -/
  thr      : Mem 32
  ncount   : Mem 16
  /-- Word m of record o under number 16 o + m. -/
  recs     : Mem 32
  poisonAb : List Nat
  poisonWb : List Nat
  poisonAcs : List Nat
  /-- Messages in mailboxes, with those on their way, oldest first: mailbox and 16 words. -/
  mbox     : List (Nat × List Word)
  mboxFly  : List (Nat × List Word)
  /-- Event records in the queue's pool entries, and records that a posting unit waits to post (R281, R303). -/
  events   : List (List Word)
  evWait   : List (List Word)
  /-- QCW 2, and one that takes effect when the present area is empty (R280). -/
  qcw2     : Double
  qcw2Next : Option Double
  /-- Launches in the pending-launch queue, and those in AB overflow areas, oldest first (R41). -/
  launchQ  : List Launch
  launchOver : List Launch
  sideLog  : List LogEntry
  /-- The cycle since which the head entry has stood with the log full, and whether SIDE_LOG_FULL has been posted since the log last held
  fewer than 256 entries (R418). -/
  slogFull : Option Nat
  slogTold : Bool
  /-- Lanes that wait to enter the full side log, in the order they issued (R418). -/
  slogWait : List (Agent × Nat)
  stopped  : Bool
  /-- WATCHDOG entries of split teams that stop this core and wait, or are handled, at the cluster's lower core (R411). -/
  pairStops : Nat
  inHandler : Bool
  dead     : Bool
  /-- The clause the control thread stood in when its handler was entered, with the offset saved in CT_EPC (R380). -/
  epcClause : Option (Nat × Clause)
  entries  : List Entry
  cur      : Option Entry
  slots    : List SlotState
  tstamp   : Nat
  /-- The last temperature reading, exclusion by it, droop events, and the end of an exclusion by them (R300). -/
  celsius  : Nat
  hot      : Bool
  droops   : List Nat
  droopEnd : Option Nat
  traceSync : Nat
  traceLost : Nat
  resident : Nat
  deriving DecidableEq, Repr

/-- A grid that has not completed (R16, R43, R45, R299, R458). -/
structure Grid where
  num   : Nat
  bits  : Nat
  vi    : Nat
  prio  : Nat
  depth : Nat
  gen   : Nat
  queue : Option Nat
  watch : Option Nat
  woff  : Nat
  next  : Nat
  last  : Nat
  nteam : Nat
  live  : Nat
  /-- Copies of a replicated launch wait for their start barrier (R44). -/
  held  : Bool
  /-- The launching core, and the lead slice of a trigger, for placement (R301). -/
  src   : Option Nat
  slice : Option Nat
  deriving DecidableEq, Repr

/-- What the images of a swapped-out team do not hold of a thread: its group index and lane, the barriers it arrived at, its wait in BAR,
its clause, its poisoned registers, whether its group has still to fetch its entry, and the chips it has sent pairs to (R35, R211, R285,
R291, R421). -/
structure Kept where
  grp     : Nat
  lane    : Nat
  arrived : NMap Nat
  wait    : Wait
  clause  : Option Clause
  poison  : List Nat
  fresh   : Bool
  farPairs : List Nat
  deriving DecidableEq, Repr

/-- A group as the deadlock scan sees it (R448, Table Dt-3): whose it is, where it is or was, `$rwc` and progress counter, whether it is
halted, whether it is swapped out, and of each lane that is not vacant its number, PC, and wait kind with DBG_WAIT1 and DBG_WAIT2. -/
structure Node where
  grid   : Nat
  team   : Nat
  grp    : Nat
  core   : Nat
  slot   : Nat
  vcore  : Nat
  rwc    : Nat
  prog   : Nat
  halted : Bool
  away   : Bool
  lanes  : List (Nat × Nat × Nat × Nat × Nat)
  deriving DecidableEq, Repr

/-- A team that is frozen for a swap or has been swapped out (R315, R317): its grid and index, the core it left, its other half's core, why it left, what
may wake it, and its held deliveries. -/
structure Swapped where
  grid  : Nat
  team  : Nat
  vi    : Nat
  prio  : Nat
  core  : Nat
  half  : Option Nat
  idle  : Bool
  /-- Words and mailboxes, by core and number, on which lanes were set back, and whether a write or message has reached one (R317); whether its RESTORE
  record has been posted; whether it has left its core and is not being restored (R315, R318). -/
  conds : List Cond
  mboxes : List (Nat × Nat)
  ready : Bool
  posted : Bool
  away  : Bool
  abLen : Nat
  wbN   : Nat
  acsN  : Nat
  groups : Nat
  width : Nat
  blocks : Nat
  /-- The team slot it left, and the higher half's. -/
  slots : Nat × Nat
  /-- What the images do not hold: the team's barriers, its threads, and the name that a group's pairs in the bindery go by meanwhile
  (R285, R291, R71). -/
  bars  : List Bar
  threads : List Kept
  /-- MSTAT counters of the whole team or lower half, and of the higher half (R257). -/
  stats : Mem 64 × Mem 64
  aliases : List (Nat × Nat)
  /-- Its groups as they waited when it was frozen (R448). -/
  nodes : List Node
  deriving DecidableEq, Repr

/-- A live watch (R78, R223): its virtual interface, its descriptor's handle, offset, address and 512 bits, the addresses of the
watched range and the status block, the triggers dispatched and running, and the slice that took its last place; and word [63:32] of a
status block behind a remote window as the part keeps it. A dropped watch stays while its groups run. -/
structure Watch where
  id     : Nat
  vi     : Nat
  dH     : Nat
  dOff   : Nat
  /-- Where the descriptor's bytes, the watched range and the status block are. -/
  dRef   : Ref
  desc   : Nat
  wRef   : Ref
  sRef   : Ref
  live   : Nat
  slice  : Nat
  dropped : Bool
  far    : Nat
  deriving DecidableEq, Repr

/-- An atomic of the part on a watch's status block that waits for its page, for an access before it, or for a spill ring: the watch, the first
byte, their number, what it does, and its depth (R83, R328, R430). -/
structure StatusAtom where
  watch : Nat
  byte  : Nat
  n     : Nat
  ops   : List (Nat × Nat)
  depth : Nat
  deriving DecidableEq, Repr

/-- An access of a unit that waits for a spill ring, and has suspended the watch whose ring it is (R430): an operation; the head of a core's
side log; the evaluation of waits on a folio, or an apply of it, that the bindery makes; a page-table entry; a PT_INVAL of a virtual interface; the status block
of a watch. -/
inductive RingWaiter where
  | op (id : Nat)
  | log (core : Nat)
  | waits (folio : Nat)
  | folio (f : Nat)
  | entry (ea : Nat)
  | inval (vi : Nat)
  | count (watch : Nat)
  deriving DecidableEq, Repr

/-- A trigger that waits in a slice's pool, or in the spill ring (R80, R81). -/
structure Trigger where
  watch   : Nat
  off     : Nat
  depth   : Nat
  slice   : Nat
  /-- Its spill number while it waits in the spill ring (R439). -/
  seq     : Option Nat
  deriving DecidableEq, Repr

/-- A buffer bound by BIND: its virtual interface and buffer-table index, operator and policy (R229). -/
structure Binding where
  vi    : Nat
  index : Nat
  opc   : Nat
  eager : Bool
  deriving DecidableEq, Repr

/-- How far an update pair has come (R71 to R74). -/
inductive Stage where
  | flight | batch | gathered | spilled
  deriving DecidableEq, Repr

/-- An update pair that memory does not hold yet (R71, R100): its element, value and operator, the depth and the buffer, the lanes that
emitted it (R90), how far it has come, and the cycle of that; pairs of one spilled run carry one cycle. -/
structure Pair where
  pa    : Nat
  val   : Nat
  opc   : Nat
  depth : Nat
  vi    : Nat
  index : Nat
  eager : Bool
  core  : Nat
  agent : Agent
  lanes : List Nat
  stage : Stage
  clk   : Nat
  deriving DecidableEq, Repr

/-- A launch queue's registers (R344) and its head packet, read and waiting (R297): the packet's 1,024 bits; the conditions not met yet
that a monitor or another chip watches; the waits not compared yet; and the conditions to be compared again, which found the monitor
table full (R106). -/
structure LaunchQueue where
  qbase  : Nat
  prio   : Nat
  qlog   : Nat
  tail   : Nat
  head   : Nat
  packet : Option Nat
  waits  : List Cond
  todo   : List Nat
  polls  : List Cond
  deriving DecidableEq, Repr

/-- An aperture window (R342). -/
structure Window where
  en     : Bool
  vi     : Nat
  handle : Nat
  deriving DecidableEq, Repr

/-- An access from outside that was checked and waits (R322, R342): its step, the window or handle and interface that it goes by, the table
entries its checks read, and the number of the first operation after them. -/
structure KeptAccess where
  event   : Instr
  window  : Window
  entries : List (Nat × Nat)
  id      : Nat
  deriving DecidableEq, Repr

/-- A start barrier of a replicated launch (R44, R348, R433): its generation, the ranks of its set, those that have accepted, this chip's
grid, the cycle of the launch, whether its timeout has been posted, the core and virtual interface that launched it, and what the copies on
their way to the other chips hold besides: record, priority and depth. -/
structure StartBarrier where
  gen      : Nat
  chips    : Nat
  accepted : Nat
  grid     : Option Nat
  clk      : Nat
  posted   : Bool
  core     : Option Nat
  vi       : Nat
  bits     : Nat
  prio     : Nat
  depth    : Nat
  deriving DecidableEq, Repr

/-- A translation that a buffer holds (R327): the buffer, a core's or 1000 + a facet's; virtual interface, first address and size of the page, and
its physical address, which gives the tier. -/
structure Trans where
  at_  : Nat
  vi   : Nat
  va   : Nat
  size : Nat
  base : Nat
  deriving DecidableEq, Repr

/-- A page move that waits for room (R332, R334, R337): the page, kind 1 promotion or 3 re-home, the stack it belongs in, and whether it
waits until T0 reaches HIGH. -/
structure Wanted where
  vi    : Nat
  va    : Nat
  kind  : Nat
  stack : Option Nat
  high  : Bool
  deriving DecidableEq, Repr

/-- A migration-table entry (R331, R426): where from and to, how many lines, how far, the virtual interface and page it moves, the
controller, the kind (0 demotion, 1 promotion, 2 page-in, 3 re-home), whether it runs backwards, the line and cause of its failure, and of
a re-home of lines' homes the buffer and span (R338). -/
structure Migration where
  src  : Nat
  dst  : Nat
  lines : Nat
  pos  : Nat
  vi   : Nat
  va   : Nat
  ctrl : Nat
  kind : Nat
  back : Bool
  fail : Option (Nat × Nat)
  auto : Option (Nat × Nat × Nat)
  deriving DecidableEq, Repr

/-- What the re-homer knows of a 2 MiB span of an AUTO buffer (R337, R338): the buffer with its GEN, the span, its home facet (none for
FINE) and, while it is being re-homed, its new one with the lines that have moved; this epoch's accesses by facet, the facet that led the
last epoch with 75 % if one did, epochs since its last re-home, and epochs in a row that no facet led with 50 %. -/
structure AutoSpan where
  vi    : Nat
  index : Nat
  gen   : Nat
  span  : Nat
  goal  : Option (Option Nat)
  pos   : Nat
  home  : Option Nat
  counts : Mem 32
  lead  : Option Nat
  since : Nat
  quiet : Nat
  deriving DecidableEq, Repr

/-- Part states of the life cycle (R352). -/
inductive LifeCycle where
  | manufactured | provisioned | deployed | rma | decommissioned
  deriving DecidableEq, Repr

/-- Where an error has arisen in an on-chip array (Table Fm-3, R436): a sector that a slice of L2 holds, dirty or clean; an L1 of a core; 32 bytes of AB or WB; an
ACS element; a register of a lane; the bin store's entry of an element. -/
inductive ArrayPlace where
  | l2 (slice sector : Nat) (dirty : Bool)
  | l1 (core : Nat)
  | ab (core granule : Nat)
  | wb (core granule : Nat)
  | acs (core element : Nat)
  | reg (core : Nat) (agent : Agent) (lane r : Nat)
  | bin (pa : Nat)
  deriving DecidableEq, Repr

/-- The whole part. -/
structure State where
  /-- `$clk`, modulo 2^64 (R18). -/
  clk       : Nat
  /-- Physical memory by address (Table Vi-4); and from 2^60 up, where no physical address lies, storage (T3): byte b of slot n of virtual
  interface v under 2^60 + (2^44 v + n) 2^21 + b (R328, Table Vi-7). -/
  mem       : Mem 8
  /-- Sectors (physical address / 32) that hold the poison code (R420). -/
  poison    : List Nat
  /-- Sectors with an array error not yet met: correctable ones, and uncorrectable ones (R420). -/
  latentCe  : List Nat
  latentUe  : List Nat
  /-- Errors of on-chip arrays that the part has not detected yet, each correctable or, with true, not (R420). -/
  arrayErrs : List (ArrayPlace × Bool)
  /-- Elements of which an entry of the bin store is marked: each is poisoned at its apply (Table Fm-3). -/
  binBad    : List Nat
  /-- Corrected errors since the last record, by unit: 65536 type + number (R383). -/
  ceCounts  : NMap Nat
  /-- Configuration registers that differ from reset (R289): number n of core or interface k under 4096 k + n. -/
  cfg       : NMap Nat
  /-- VCORE_MAP entry v of interface i under 128 i + v, exclusive-or v (R339). -/
  vcoreMap  : Mem 7
  /-- FAB_ROUTE of rank r, exclusive-or 0xF (R348). -/
  fabRoute  : Mem 4
  lq        : NMap LaunchQueue
  windows   : NMap Window
  /-- Ranges of lost CXL devices: first address and length (R427). -/
  cxlLost   : List (Nat × Nat)
  claims    : List Claim
  lifeCycle : LifeCycle
  lifeNext  : Option LifeCycle
  idKey     : Bool
  /-- The boots so far, whose last loaded the Tolrus image that the firmware SRAM holds, none yet for 0; whether a failed check stopped it,
  which the management port reports; and the boot whose measurement of Poxus stands recorded, none where none does (R349). -/
  boots     : Nat
  bootStopped : Bool
  poxus     : Option Nat
  cores     : NMap Core
  watches   : List Watch
  watchSeq  : Nat
  trigs     : List Trigger
  /-- Atomics on status blocks that wait, in order, and the units' accesses that wait for a spill ring (R83, R430). -/
  counts    : List StatusAtom
  rung      : List RingWaiter
  /-- Counts of copies that wait for accesses before them to their barrier objects: the copy, the object, how many deliveries, and rows, bytes
  and padded rows (R97, R268). -/
  boWaits   : List (Nat × BoRef × Nat × Nat × Nat × Nat)
  /-- Ring items pushed by watches: name of the ring, position, watch; of another chip's watch, 2^32 × (rank + 1) more (R82). -/
  pushed    : List (Nat × Nat × Nat)
  binds     : List Binding
  pairs     : List Pair
  ops       : List Op
  opSeq     : Nat
  grids     : List Grid
  gridCnt   : Nat
  /-- Teams swapped out (R315). -/
  swapped   : List Swapped
  /-- Deliveries held for swapped-out recipients (R266). -/
  held      : List Held
  replCnt   : Nat
  barriers  : List StartBarrier
  migs      : List Migration
  /-- Translations held by the cores and facets (R327). -/
  tlb       : List Trans
  /-- Page-table entries that the part has written and that are still to be compared with watches, with what they held: between steps only
  such as their own writes have caused, or wait for a spill ring (R326, R430). -/
  ptes      : List (Nat × Nat)
  /-- Table entries by which the issue in progress was checked before (R322); no state between steps holds one (the model's own). -/
  kept      : List (Nat × Nat)
  /-- Misses whose MAP_REQUEST has been posted: core, virtual interface and page (R328). -/
  asked     : List (Nat × Nat × Nat)
  autos     : List AutoSpan
  /-- Channels being retrained, ports down (R424, R425). -/
  hbmDown   : List Nat
  hbmFails  : Mem 8
  portDown  : List Nat
  /-- The power mode in effect; PWR_MODE holds the one written (R15). -/
  pwrNow    : Nat
  /-- Virtual interfaces whose VI_SYNC has not completed, with the number of the first operation after the write; writes of PT_INVAL that have
  not: virtual interface and span (R322, R327). -/
  viSync    : NMap Nat
  ptInval   : List (Nat × Nat)
  /-- Dispatch turns: launch queue last served of each interface and priority, last placed core, slice holder (R298, R301, R311). -/
  turns     : NMap Nat
  /-- Groups found waiting at the previous deadlock scan, as grid, team and index, with `$rwc` and progress counter; sets already reported
  (R449). -/
  dlkPrev   : List (List Nat × Nat × Nat)
  dlkDone   : List (List Nat)
  /-- Generations of replicated launches that were discarded (R433). -/
  aborted   : List Nat
  /-- Page moves that wait, and cold pages in the order they became cold: tier, virtual interface, page (R332 to R334). -/
  promos    : List Wanted
  cold      : List (Nat × Nat × Nat)
  /-- The last attestation report (R351). -/
  report    : List Byte
  /-- What the last access from outside the accelerator cores returned, whether it ended in an access fault, and such accesses that
  wait for a page (R342; the model's own). -/
  gpValue   : Nat
  gpFault   : Bool
  gpHeld    : List Instr
  /-- What accesses from outside that wait were checked against (R322, R342). -/
  gpKept : List KeptAccess
  /-- Steps that wait for another access to be performed and are tried again in the next cycle (the model's own). -/
  retryNext : List Instr
  /-- Steps that the outside world asks for, oldest first; steps that the part's own units have due; the next issuer in turn
  (the model's own). -/
  inbox     : List Instr
  agenda    : List Instr
  cursor    : Nat
  issue     : Issue
  /-- Index of the next free value (the model's own). -/
  freeCtr   : Nat
  /-- A physical address that an access named and that is no memory; no state between steps holds one (the model's own). -/
  badPa     : Option Nat
  deriving DecidableEq, Repr

/-- A lane at a clause header, as every thread starts (R20). -/
def Lane.start (pc : Nat) : Lane :=
  { pc := pc, clause := none, vacant := false, item := 0, sr := 0, cflags := 0, rstack := [], spilled := 0, wait := .none,
    back := none, counted := false, rwcAt := 0, saved := [], flags := [], heldAt := none, entries := [], lastIssue := 0, flushing := [], arrived := [], farPairs := [] }

/-- A lane that no record seeds at its start, as the control thread's. DESIGN CHOICE: no record seeds its rounding state, which holds what R129 puts for 0, since the
state is never 0 (R130, log 124). -/
def Lane.ctStart (pc : Nat) : Lane := { Lane.start pc with sr := 0x6D2B79F5 }

/-- A control thread before its start: width 1, 8 blocks, at offset 0 (R49, R52). -/
def Group.ctReset : Group :=
  { team := 0, grp := 0, width := 1, blocks := 8, regs := [], lanes := [Lane.ctStart 0], slots := [], streams := [], rwc := 0,
    issues := 0, fpf := 0, prog := 0, halted := false, trapped := false, order := 0, islot := 0, starved := 0, issuedAt := none, pend := [], poison := [],
    units := [], fresh := false, noRefill := false, code := [] }

/-- A core after reset: nothing resident, local storage zero (R64, R350). -/
def Core.reset : Core :=
  { ct := Group.ctReset, groups := [], teams := [], ab := [], wb := [], wbTag := [], acs := [], thr := [], ncount := [],
    recs := [], poisonAb := [], poisonWb := [], poisonAcs := [], mbox := [], mboxFly := [], events := [], evWait := [], qcw2 := 0,
    qcw2Next := none, launchQ := [], launchOver := [],
    sideLog := [], slogFull := none, slogTold := false, slogWait := [], stopped := false, pairStops := 0, inHandler := false, dead := false, epcClause := none, entries := [], cur := none,
    slots := List.replicate 4 ⟨none, false, []⟩, tstamp := 0, celsius := 0, hot := false, droops := [], droopEnd := none, traceSync := 0,
    traceLost := 0, resident := 0 }

/-- No issue in progress. -/
def Issue.reset : Issue := ⟨0, .ct, [], 0, ⟨0, 0⟩, 0, 0, 0⟩

/-- The part right after reset (R350): memory and storage wiped, every configuration register at its reset value, no work. -/
def State.reset : State :=
  { clk := 0, mem := [], poison := [], latentCe := [], latentUe := [], arrayErrs := [], binBad := [], ceCounts := [], cfg := [], vcoreMap := [],
    fabRoute := [], lq := [], windows := [], cxlLost := [], claims := [], lifeCycle := .deployed, lifeNext := none, idKey := true, boots := 0, bootStopped := false,
    poxus := some 0, cores := [], watches := [], watchSeq := 0,
    trigs := [], counts := [], rung := [], boWaits := [], pushed := [], binds := [], pairs := [], ops := [], opSeq := 0, grids := [], gridCnt := 1, swapped := [], held := [],
    replCnt := 0, barriers := [], migs := [], tlb := [], ptes := [], kept := [], asked := [], autos := [], hbmDown := [], hbmFails := [], portDown := [],
    pwrNow := 0, viSync := [], ptInval := [], turns := [], dlkPrev := [], dlkDone := [],
    aborted := [], promos := [], cold := [], report := [], gpValue := 0, gpFault := false, gpHeld := [], gpKept := [], retryNext := [], inbox := [], agenda := [],
    cursor := 0, issue := Issue.reset, freeCtr := 0, badPa := none }

end Sys2Proof.Machine
end

