-- ==== Sys2Proof/Machine/Ops.lean ====
section
/-!
DEFINITION. The named operations that every meaning uses: sparse stores, configuration registers, cores, groups and teams, the
registers of the issuing lanes, the operations in flight, machine-check records, and taking and leaving an exception (R380 to R390).
-/
namespace Sys2Proof.Machine

/-- What a meaning answers. -/
abbrev Out : Type := Host.Outcome State Fault Refusal

end Sys2Proof.Machine

namespace Sys2Proof

/-- The value under number `k`. -/
def NMap.find {α : Type} : NMap α → Nat → Option α
  | [], _ => none
  | (j, v) :: t, k => if j = k then some v else NMap.find t k

/-- The map with `v` under number `k`, in rising order. -/
def NMap.put {α : Type} : NMap α → Nat → α → NMap α
  | [], k, v => [(k, v)]
  | (j, w) :: t, k, v => if k < j then (k, v) :: (j, w) :: t else if k = j then (k, v) :: t else (j, w) :: NMap.put t k v

/-- The map without number `k`. -/
def NMap.drop {α : Type} : NMap α → Nat → NMap α
  | [], _ => []
  | (j, w) :: t, k => if j = k then NMap.drop t k else (j, w) :: NMap.drop t k

/-- Cell `k`; an unlisted cell reads 0. -/
def Mem.get {w : Nat} (m : Mem w) (k : Nat) : BitVec w := (NMap.find m k).getD 0

/-- The store with `v` in cell `k`; a cell that holds 0 is not listed. -/
def Mem.set {w : Nat} (m : Mem w) (k : Nat) (v : BitVec w) : Mem w := if v = 0 then NMap.drop m k else NMap.put m k v

/-- The store with the cells `lo` to `lo + n - 1` at 0. -/
def Mem.clear {w : Nat} (m : Mem w) (lo n : Nat) : Mem w := m.filter fun c => decide (c.1 < lo) || decide (lo + n ≤ c.1)

/-- The canonical form of a store: numbers strictly rise and no listed cell holds 0. -/
def Mem.wf {w : Nat} : Mem w → Bool
  | [] => true
  | [(_, v)] => decide (v ≠ 0)
  | (j, v) :: (k, u) :: t => decide (v ≠ 0) && decide (j < k) && Mem.wf ((k, u) :: t)

/-- The bytes of cells `k` to `k + n - 1`. -/
def Mem.bytes (m : Mem 8) (k : Nat) : Nat → List Byte
  | 0 => []
  | n + 1 => Mem.get m k :: Mem.bytes m (k + 1) n

/-- The store with `bs` in the cells from `k` up. -/
def Mem.setBytes (m : Mem 8) (k : Nat) : List Byte → Mem 8
  | [] => m
  | b :: bs => Mem.setBytes (Mem.set m k b) (k + 1) bs

/-- The number whose little-endian bytes are `bs` (R4). -/
def leNat : List Byte → Nat
  | [] => 0
  | b :: bs => b.toNat + 256 * leNat bs

/-- The `n` little-endian bytes of `v` (R4). -/
def leBytes (v : Nat) : Nat → List Byte
  | 0 => []
  | n + 1 => BitVec.ofNat 8 v :: leBytes (v / 256) n

/-- The sorted list `l` with `k` in it once. -/
def addTo (k : Nat) : List Nat → List Nat
  | [] => [k]
  | j :: t => if k < j then k :: j :: t else if k = j then j :: t else j :: addTo k t

/-- The list `l` with `f` applied to the element at index `i`. -/
def modAt {α : Type} (f : α → α) : Nat → List α → List α
  | _, [] => []
  | 0, x :: t => f x :: t
  | i + 1, x :: t => x :: modAt f i t

end Sys2Proof

namespace Sys2Proof.Machine

/-! Configuration registers (R289). -/

/-- The value of configuration register `num` of core or virtual interface `k` (0 for chip scope). -/
def State.cfgGet (s : State) (num k : Nat) : Nat := (NMap.find s.cfg (4096 * k + num)).getD (Config.resetValue num)

/-- The state with `v` in configuration register `num` of core or interface `k`. -/
def State.cfgPut (s : State) (num k v : Nat) : State :=
  { s with cfg := if v = Config.resetValue num then NMap.drop s.cfg (4096 * k + num) else NMap.put s.cfg (4096 * k + num) v }

/-- A counter of one class goes up by `n`, saturating at 0xFFFF_FFFF (R384). -/
def State.count (s : State) (num k n : Nat) : State := s.cfgPut num k (min (s.cfgGet num k + n) 0xFFFFFFFF)

/-! Cores, groups, teams. -/

/-- Core `c`; one that no step has touched is as after reset. -/
def State.core (s : State) (c : Nat) : Core := (NMap.find s.cores c).getD Core.reset

/-- The state with core `c` changed by `f`. -/
def State.modCore (s : State) (c : Nat) (f : Core → Core) : State := { s with cores := NMap.put s.cores c (f (s.core c)) }

/-- The group that `a` names on a core. -/
def Core.group? (k : Core) (a : Agent) : Option Group :=
  match a with
  | .ct => some k.ct
  | .grp n => NMap.find k.groups n

/-- The core with group `a` changed by `f`; nothing happens where there is no such group. -/
def Core.modGroup (k : Core) (a : Agent) (f : Group → Group) : Core :=
  match a with
  | .ct => { k with ct := f k.ct }
  | .grp n => match NMap.find k.groups n with
    | some g => { k with groups := NMap.put k.groups n (f g) }
    | none => k

/-- The group `a` of core `c`. -/
def State.group? (s : State) (c : Nat) (a : Agent) : Option Group := (s.core c).group? a

/-- The state with group `a` of core `c` changed by `f`. -/
def State.modGroup (s : State) (c : Nat) (a : Agent) (f : Group → Group) : State := s.modCore c (·.modGroup a f)

/-- Team slot `t` of core `c`. -/
def State.team? (s : State) (c t : Nat) : Option Team := NMap.find (s.core c).teams t

/-- The state with team slot `t` of core `c` changed by `f`. -/
def State.modTeam (s : State) (c t : Nat) (f : Team → Team) : State :=
  match s.team? c t with
  | some m => s.modCore c fun k => { k with teams := NMap.put k.teams t (f m) }
  | none => s

/-- The group of the issue in progress. -/
def State.me? (s : State) : Option Group := s.group? s.issue.core s.issue.agent

/-- The group of the issue in progress; a control thread after reset where there is none. -/
def State.me (s : State) : Group := s.me?.getD Group.ctReset

/-- The state with the issuing group changed by `f`. -/
def State.modMe (s : State) (f : Group → Group) : State := s.modGroup s.issue.core s.issue.agent f

/-- The team of the issuing group; a control thread has none (R18). -/
def State.myTeam? (s : State) : Option Team :=
  match s.issue.agent with
  | .ct => none
  | .grp _ => s.team? s.issue.core s.me.team

/-- The virtual interface of the issuing group; 0 for the control thread, which belongs to none (R18). -/
def State.myVi (s : State) : Nat :=
  match s.myTeam? with
  | some t => t.vi
  | none => 0

/-- The issuer is the control thread. -/
def State.isCt (s : State) : Bool := decide (s.issue.agent = .ct)

/-- The cascade depth of the issuer; 0 for the control thread (R18, R38). -/
def State.myDepth (s : State) : Nat :=
  match s.myTeam? with
  | some t => t.depth
  | none => 0

/-! Registers of lanes. -/

/-- Register `r` of lane `l`. -/
def Group.reg (g : Group) (l r : Nat) : Word := Mem.get g.regs (128 * l + r)

/-- The group with register `r` of lane `l` written; a written register holds no poison (R421). -/
def Group.setReg (g : Group) (l r : Nat) (v : Word) : Group :=
  { g with regs := Mem.set g.regs (128 * l + r) v, poison := g.poison.filter (· ≠ (l, r)) }

/-- The pair from register `r` of lane `l`, low word in the even register (R4). -/
def Group.pair (g : Group) (l r : Nat) : Double := g.reg l (r + 1) ++ g.reg l r

/-- The writes of a pair: low word first. -/
def pairWrites (d : Nat) (v : Double) : List (Nat × Word) := [(d, v.extractLsb' 0 32), (d + 1, v.extractLsb' 32 32)]

/-- The writes of `v`'s words to `n` registers from `d` up. -/
def wordWrites (d v : Nat) : Nat → List (Nat × Word)
  | 0 => []
  | n + 1 => (d, BitVec.ofNat 32 v) :: wordWrites (d + 1) (v / 4294967296) n

/-- The number held in `n` registers from `r` up, lowest register lowest. -/
def Group.words (g : Group) (l r : Nat) : Nat → Nat
  | 0 => 0
  | n + 1 => (g.reg l r).toNat + 4294967296 * g.words l (r + 1) n

/-- Several registers of one lane written, in order. -/
def Group.setRegs (g : Group) (l : Nat) (ws : List (Nat × Word)) : Group := ws.foldl (fun h w => h.setReg l w.1 w.2) g

/-- Lane `l` of a group. -/
def Group.lane (g : Group) (l : Nat) : Lane := (g.lanes[l]?).getD (Lane.start 0)

/-- The group with lane `l` changed by `f`. -/
def Group.modLane (g : Group) (l : Nat) (f : Lane → Lane) : Group := { g with lanes := modAt f l g.lanes }

/-- The group with each lane of `ls` changed by `f`. -/
def Group.modLanes (g : Group) (ls : List Nat) (f : Lane → Lane) : Group := ls.foldl (fun h l => h.modLane l f) g

/-- Condition flag `c` of lane `l`. -/
def Group.flag (g : Group) (l c : Nat) : Bool := (g.lane l).cflags.getLsbD c

/-- Condition flag `c` of lane `l` set to `b`. -/
def Group.setFlag (g : Group) (l c : Nat) (b : Bool) : Group :=
  g.modLane l fun x =>
    { x with cflags := (x.cflags &&& ~~~(BitVec.ofNat 8 (2 ^ c))) ||| (if b then BitVec.ofNat 8 (2 ^ c) else 0) }

/-- The lane whose operands an active lane's result uses: the lowest with U = 1, else its own (R26). -/
def srcLane (u : Bool) (lanes : List Nat) (l : Nat) : Nat := if u then lanes.headD 0 else l

/-! Operations in flight (R145). -/

/-- The header of the issue's clause. -/
def State.issueHeader (s : State) : Option Header :=
  match decodeHeader s.issue.clause.word with
  | .ok h => some h
  | .error _ => none

/-- The flag that SETA of the issue's clause names. -/
def State.setA (s : State) : Option Nat := s.issueHeader.bind (·.setA)

/-- The flag that SETB of the issue's clause names. -/
def State.setB (s : State) : Option Nat := s.issueHeader.bind (·.setB)

/-- The state with step `e` due. -/
def State.due (s : State) (e : Instr) : State := { s with agenda := s.agenda ++ [e] }

/-- `$rwc` before the issue in progress, which may be counted already (R19). -/
def State.issueRwc (s : State) : Nat :=
  if s.issue.lanes.any fun l => !(s.me.lane l).counted then s.me.rwc else (s.me.lane (s.issue.lanes.headD 0)).rwcAt

/-- The team that an operation of the issuer belongs to: its virtual interface, grid and index; none of a control thread. -/
def State.opTeam (s : State) : Option (Nat × Nat × Nat) := s.myTeam?.map fun m => (m.vi, m.grid, m.team)

/-- A new operation of the issuer for lanes `ls`. -/
def State.addOp (s : State) (ls : List Nat) (kind : OpKind) (flag : Option Nat) (fault : Option Entry) : State :=
  { s with ops := s.ops ++ [⟨s.opSeq, s.issue.core, s.issue.agent, ls, kind, flag, fault, s.clk, false, s.issue.pc, s.issueRwc,
    s.opTeam⟩], opSeq := s.opSeq + 1 }

/-- The virtual interface that an operation's access belongs to, if its team or its own record says; a control thread's belongs to none
(R18). -/
def Op.vi? (o : Op) : Option Nat :=
  match o.team, o.agent with
  | some x, _ => some x.1
  | none, .ct => none
  | none, .grp _ => match o.kind with
    | .mma j => some j.bref.vi
    | .copy r => r.job.map (·.vi)
    | _ => o.fault.map (·.vi)

/-- A new operation of the issuer whose end step `e` is due at once. -/
def State.addOpDue (s : State) (ls : List Nat) (kind : OpKind) (flag : Option Nat) (fault : Option Entry) (e : Nat → Instr) :
    State :=
  (s.addOp ls kind flag fault).due (e s.opSeq)

/-- A fixed-latency operation, kept only where a flag tracks it (Table En-2). -/
def State.track (s : State) (flag : Option Nat) : State :=
  match flag with
  | none => s
  | some _ => s.addOpDue s.issue.lanes .writeback flag none .registerWriteback

/-- A store-like operation on its way to its acknowledgement (R457). -/
def State.trackStore (s : State) : State := s.addOpDue s.issue.lanes .store s.setB none (.storeAck · 0)

/-- Operation `id`. -/
def State.op? (s : State) (id : Nat) : Option Op := s.ops.find? (·.id == id)

/-- The state without operation `id`. -/
def State.endOp (s : State) (id : Nat) : State := { s with ops := s.ops.filter (·.id != id) }

/-- The state with operation `id` changed. -/
def State.modOp (s : State) (id : Nat) (f : Op → Op) : State :=
  { s with ops := s.ops.map fun o => if o.id = id then f o else o }

/-- The operations of group `a` of core `c`. -/
def State.opsOf (s : State) (c : Nat) (a : Agent) : List Op := s.ops.filter fun o => decide (o.core = c) && decide (o.agent = a)

/-- A lane held at a word that has issued keeps completion flag `n` raised (R145). -/
def Lane.raises (x : Lane) (n : Nat) : Bool := x.counted && x.flags.contains n

/-- Completion flag `n` of group `a` of core `c` reads as set (R145). -/
def State.flagSet (s : State) (c : Nat) (a : Agent) (n : Nat) : Bool :=
  (s.opsOf c a).any (·.flag == some n) || ((s.group? c a).map fun g => g.lanes.any (·.raises n)).getD false

/-- What SETA and SETB of a clause of a class track of an instruction's words `v` (Table En-2). -/
def trackedBy (cls : Cls) (v : Nat) : Bool × Bool :=
  let op := fld v 24 8
  match cls with
  | .alu => ((decide (0x48 ≤ op) && decide (op ≤ 0x4F)) || op == 0x81, false)
  | .mem => (decide (op ≤ 0x06) || (decide (0x20 ≤ op) && decide (op ≤ 0x29) && !bit v 46) || [0x40, 0x43, 0x44].contains op,
      (decide (0x08 ≤ op) && decide (op ≤ 0x0C)) || [0x30, 0x31, 0x32, 0x33, 0x41, 0x42, 0x49].contains op)
  | .mtx => (decide (op ≤ 1), op == 0x11 || op == 0x12)
  | .eng => (decide (op ≤ 5) || op == 0x18, decide (op ≤ 5))
  | .ctl => (op == 0x10, false)

/-- The completion flags that the issue in progress raises (R145). -/
def State.issueFlags (s : State) : List Nat :=
  match s.issueHeader with
  | none => []
  | some h =>
    let t := trackedBy h.cls (s.issue.iword + s.issue.xword * 4294967296)
    (if t.1 then h.setA.toList else []) ++ (if t.2 then h.setB.toList else [])

/-- The completion flags of a group as a mask. -/
def State.flagMask (s : State) (c : Nat) (a : Agent) : Nat :=
  ((List.range 12).map fun n => if s.flagSet c a n then 2 ^ n else 0).sum

/-! Instruction trace (R453, R454). -/

/-- The trace packets' escape: a byte 0x00 after every byte 0xA5. -/
def traceEscape (bs : List Nat) : List Nat := bs.flatMap fun b => if b = 0xA5 then [b, 0] else [b]

/-- The bytes of a lane mask of a group of width `w`. -/
def maskBytes (w : Nat) (ls : List Nat) : List Nat :=
  (List.range ((w + 7) / 8)).map fun i => ((ls.filter fun l => l / 8 == i).map fun l => 2 ^ (l % 8)).sum

/-- The `n` little-endian bytes of `v`, as numbers. -/
def natBytes (v n : Nat) : List Nat := (leBytes v n).map (·.toNat)

/-- The width code of a group of width `w`. -/
def widthCode (w : Nat) : Nat := if w = 128 then 2 else if w = 64 then 1 else 0

/-- The lane sets of a group in ascending PC: lanes that are not vacant, waiting ones too. -/
def Group.laneSets (g : Group) : List (Nat × List Nat) :=
  let live := ((List.range g.lanes.length).filter fun l => !(g.lane l).vacant)
  ((live.map fun l => (g.lane l).pc).foldr addTo []).map fun pc => (pc, live.filter fun l => (g.lane l).pc == pc)

/-- The sync packet of a group in slot `n` (Table Dt-7), escaped. -/
def Group.syncPacket (g : Group) (n vi : Nat) : List Nat :=
  let sets := g.laneSets
  0xA5 :: traceEscape ([0xFF, n, vi, widthCode g.width] ++ natBytes g.rwc 6 ++ [sets.length] ++
    sets.flatMap fun x => natBytes x.1 4 ++ maskBytes g.width x.2)

/-- The sync series of core `c` for interface `v`. -/
def State.syncSeries (s : State) (c v : Nat) : List Nat :=
  let k := s.core c
  k.groups.flatMap fun g => match NMap.find k.teams g.2.team with
    | some t => if t.vi = v then g.2.syncPacket g.1 v else []
    | none => []

/-- Free bytes of core `c`'s trace ring. -/
def State.traceRoom (s : State) (c : Nat) : Nat :=
  2 ^ s.cfgGet Config.nTrcLog c -
    (s.cfgGet Config.nTrcTail c + 4294967296 - s.cfgGet Config.nTrcHead c) % 4294967296

/-- Bytes appended to core `c`'s trace ring. -/
def State.tracePut (s : State) (c : Nat) (bs : List Nat) : State :=
  let base := s.cfgGet Config.nTrcBase c * 4096
  let size := 2 ^ s.cfgGet Config.nTrcLog c
  let tail := s.cfgGet Config.nTrcTail c
  let s1 : State := { s with mem := (bs.zipIdx).foldl (fun m b => Mem.set m (base + (tail + b.2) % size) (BitVec.ofNat 8 b.1)) s.mem }
  s1.cfgPut Config.nTrcTail c ((tail + bs.length) % 4294967296)

/-- Core `c` writes a formed packet of interface `v`, which counts `k` among the packets other than syncs. What is without room is dropped
and counted; a LOST packet and a sync series come first where some were dropped, and a series after every 4,096 packets (R453). -/
def State.traceWrite (s : State) (c v k : Nat) (body : List Nat) : State :=
  let q := s.core c
  let lost := if q.traceLost = 0 then [] else traceEscape (7 :: natBytes q.traceLost 4) ++ s.syncSeries c v
  if s.traceRoom c < lost.length + body.length then s.modCore c ({ · with traceLost := q.traceLost + 1 })
  else
    let n := (if q.traceLost = 0 then q.traceSync else (q.traceSync + 1) % 4096) + k
    let s1 := (s.tracePut c (lost ++ body)).modCore c ({ · with traceLost := 0, traceSync := n % 4096 })
    if n < 4096 then s1
    else
      let series := s1.syncSeries c v
      if s1.traceRoom c < series.length then s1.modCore c ({ · with traceLost := 1 }) else s1.tracePut c series

/-- Core `c` writes a packet for a group of interface `v`, if it traces `v` (R453). -/
def State.trace (s : State) (c v : Nat) (packet : List Nat) : State :=
  if s.cfgGet Config.nTrcCtl c ≠ 256 * v + 1 then s else s.traceWrite c v 1 (traceEscape packet)

/-! The end of an issue. -/

/-- Bytes of the issue's instruction: a word, and its extension word (R148). -/
def State.issueSize (s : State) : Nat :=
  match s.issueHeader with
  | some h => if takesExt h.cls s.issue.iword then 8 else 4
  | none => 4

/-- Code offset of the header after the issue's clause (R143). -/
def State.clauseEnd (s : State) : Nat := s.issue.clause.off + 4 + 4 * (s.issue.clause.word % 16)

/-- A lane moved past the issue's instruction: to the next word, or to the next header at the clause's end (R143). -/
def State.pastIssue (s : State) (x : Lane) : Lane :=
  { x with saved := [], flags := [], heldAt := none, entries := [], pc := s.issue.pc + s.issueSize,
           clause := if s.issue.pc + s.issueSize < s.clauseEnd then some s.issue.clause else none }

/-- The issue packet of the issue in progress (Table Dt-7). -/
def State.traceIssue (s : State) : State :=
  match s.issue.agent with
  | .grp n => s.trace s.issue.core s.myVi [1 + s.issue.port, n, s.issue.lanes.headD 0]
  | .ct => s

/-- A lane whose word `$rwc` has counted, and the value `n` that stood before it counted first. -/
def Lane.count (x : Lane) (n : Nat) : Lane := { x with counted := true, rwcAt := if x.counted then x.rwcAt else n }

/-- `$rwc` counts the issue once, unless it is the same word waiting to be performed (R19). -/
def State.countIssue (s : State) : State :=
  if s.issue.lanes.any (fun l => !(s.me.lane l).counted) then
    (s.traceIssue).modMe fun g =>
      { g with rwc := (g.rwc + 1) % 2 ^ 48 }.modLanes s.issue.lanes (·.count g.rwc)
  else s

/-- The issue ends: `$rwc` counts it, and its lanes stand at the next word. -/
def State.retire (s : State) : State :=
  s.countIssue.modMe fun g =>
    g.modLanes s.issue.lanes fun x => { s.pastIssue x with counted := false, back := none }

/-- The issue is counted and ends, and each of its lanes waits: set back to this word where the wait is cancelled. -/
def State.retireWait (s : State) (w : Wait) : State :=
  s.countIssue.modMe fun g =>
    g.modLanes s.issue.lanes fun x =>
      { s.pastIssue x with counted := false, wait := w, back := some (s.issue.pc, s.issue.clause) }

/-- A hold that stands between an access's checks and its performance. -/
def Why.access : Why → Bool
  | .page | .line | .sideLog | .spillRing | .spillArea => true
  | _ => false

/-- A number of `n` bytes of physical memory. -/
def State.physNat (s : State) (pa n : Nat) : Nat := leNat (Mem.bytes s.mem pa n)

/-- The address of the entry that handle `h` names in the buffer table of virtual interface `vi`, or in the control table for 64 (R52,
R321). -/
def State.entryAddr (s : State) (vi h : Nat) : Nat :=
  (if vi = 64 then s.cfgGet Config.nCtBtBase 0 else s.cfgGet Config.nBtBase vi) * 2097152 + 32 * (h % 65536)

/-- A table entry of 32 bytes: as the checks of the issue found it before, if it has been held after them (R322). -/
def State.tableEntry (s : State) (ea : Nat) : Nat :=
  match s.kept.find? (·.1 == ea) with
  | some x => x.2
  | none => s.physNat ea 32

/-- The entries that the checks of an access through handle `h` read: its own, and the one that a window on this chip names (R55, R60). -/
def State.entriesOf (s : State) (vi h : Nat) : List (Nat × Nat) :=
  let e := s.tableEntry (s.entryAddr vi h)
  (s.entryAddr vi h, e) :: (if bit e 211 ∧ fld e 212 6 = s.cfgGet Config.nFabRank 0 then
    let ea := s.entryAddr (fld e 218 6) (fld e 224 32)
    [(ea, s.tableEntry ea)]
  else [])

/-- The entries that the issuer's handle slots name. -/
def State.slotEntries (s : State) : List (Nat × Nat) :=
  (List.range 12).flatMap fun k => s.entriesOf (if s.isCt then 64 else s.myVi) (Mem.get s.me.slots k).toNat

/-- A lane held at the issue's word, which has issued (R145, R322). -/
def State.heldLane (s : State) (why : Why) (x : Lane) : Lane :=
  { x with wait := .retry why, pc := s.issue.pc, clause := some s.issue.clause, flags := s.issueFlags,
           heldAt := if why.access then some (x.heldAt.getD s.opSeq) else x.heldAt,
           entries := if why.access ∧ x.heldAt.isNone then s.slotEntries else x.entries }

/-- The lanes `ls` are held at the issue's word, which has been counted and issues again when the hold ends. -/
def State.hold (s : State) (ls : List Nat) (why : Why) : State :=
  s.countIssue.modMe fun g => g.modLanes ls (s.heldLane why)

/-- The lanes of the issue wait in front of its word, which has not issued: a full queue holds it as the scoreboard does (R251, R306). -/
def State.holdBefore (s : State) (why : Why) : State :=
  s.modMe (·.modLanes s.issue.lanes fun x => { x with wait := .retry why })

/-- The lanes that transfer control stand at the header at `target`, and the others at the next word (R24, R143). -/
def State.retireTo (s : State) (target : Nat → Option Nat) : State :=
  s.countIssue.modMe fun g =>
    s.issue.lanes.foldl (fun h l => h.modLane l fun x =>
      match target l with
      | some t => { x with pc := t, clause := none, counted := false, back := none }
      | none => { s.pastIssue x with counted := false, back := none }) g

/-- The lanes of a group that wait for operation `id` wait no longer. -/
def Group.wake (g : Group) (id : Nat) : Group :=
  { g with lanes := g.lanes.map fun x =>
      match x.wait with
      | .op j _ => if j = id then { x with wait := .none, back := none } else x
      | _ => x }

/-- Every lane of the part that `p` picks issues its held word again. -/
def Group.release (g : Group) (p : Why → Bool) : Group :=
  { g with lanes := g.lanes.map fun x =>
      match x.wait with
      | .retry w => if p w then { x with wait := .none } else x
      | _ => x }

/-- Every held lane of core `c` whose hold `p` picks issues again. -/
def Core.release (k : Core) (p : Why → Bool) : Core :=
  { k with ct := k.ct.release p, groups := k.groups.map fun g => (g.1, g.2.release p) }

/-- Every held lane of the part whose hold `p` picks issues again. -/
def State.release (s : State) (p : Why → Bool) : State := { s with cores := s.cores.map fun c => (c.1, c.2.release p) }

/-! Machine-check records (R383). -/

/-- Plain bytes in physical memory, below every check (writes of the part). -/
def State.poke (s : State) (pa : Nat) (bs : List Byte) : State := { s with mem := Mem.setBytes s.mem pa bs }

/-- A machine-check record: class, unit type and number, the virtual interface concerned, the physical address, and DETAIL
(Table Fo-5). A full ring drops it and MC_LOST counts it. -/
def State.machineCheck (s : State) (cls utype unit : Nat) (vi : Option Nat) (pa detail : Nat) : State :=
  let tail := s.cfgGet Config.nMcTail 0
  let size := 2 ^ s.cfgGet Config.nMcLog 0
  if (tail + 4294967296 - s.cfgGet Config.nMcHead 0) % 4294967296 ≥ size then s.count Config.nMcLost 0 1
  else
    let w0 := cls + (match vi with | some v => v * 256 + 32768 | none => 0) + utype * 16777216 + unit * 4294967296
    let bs := leBytes w0 32 ++ leBytes s.clk 8 ++ leBytes pa 8 ++ leBytes detail 16
    (s.poke (s.cfgGet Config.nMcBase 0 * 4096 + 64 * (tail % size)) bs).cfgPut Config.nMcTail 0 ((tail + 1) % 4294967296)

/-! Taking an exception (R380, R381, R386, R387, R413). -/

/-- The action that a handler entry presets in TRAP_RESUME (Table Fe-1): skip for the verdict, floating-point and software traps
and breakpoints, re-issue for the watchdog and the memory codes, kill for the rest. -/
def defaultAction (code : Nat) : Nat :=
  match code with
  | 0x19 => 1 | 0x1A => 1 | 0x28 => 1 | 0x29 => 1
  | 0x2A => 0 | 0x10 => 0 | 0x11 => 0 | 0x12 => 0 | 0x13 => 0 | 0x15 => 0 | 0x20 => 0 | 0x30 => 0
  | _ => 2

/-- The LANES field: bit l for each lane of the set. -/
def laneMask (ls : List Nat) : Nat := (ls.map (2 ^ ·)).sum

/-- The 512 bits of a trap record (Table Fo-3); a PREEMPT record holds CODE, VI and TSLOT alone. -/
def Entry.record (e : Entry) : Nat :=
  if e.code = 0x30 then e.code + e.vi * 2 ^ 8 + e.tslot * 2 ^ 24
  else e.code + e.vi * 2 ^ 8 + e.gslot * 2 ^ 16 + e.tslot * 2 ^ 24 + e.pc % 2 ^ 32 * 2 ^ 32 + e.codeH * 2 ^ 64 + e.rwc * 2 ^ 96
    + laneMask e.lanes * 2 ^ 160 + e.fh * 2 ^ 288 + e.foff % 2 ^ 32 * 2 ^ 320 + e.info * 2 ^ 352 + e.iword * 2 ^ 384
    + e.xword * 2 ^ 416

/-- The trap record in TREC0 to TREC15 of core `c` (R381). -/
def State.putRecord (s : State) (c : Nat) (e : Entry) : State :=
  (List.range 16).foldl (fun t m => t.cfgPut (Config.nTrec0 + m) c (e.record / 2 ^ (32 * m) % 2 ^ 32)) s

/-- The control thread of core `c` runs: CT_RUN holds 1 and no fault of its own has stopped it (R52, R413). -/
def State.ctRuns (s : State) (c : Nat) : Bool := s.cfgGet Config.nCtRun c == 1 && !(s.core c).dead

/-- The waits of the control thread that a handler entry abandons (R380). -/
def Why.abandoned : Why → Bool
  | .waitc _ _ | .mbrecv | .evpop | .fwait | .bowait | .future _ => true
  | _ => false

/-- Where the control thread's lane stands for an entry: its next offset and clause, with an abandoned wait undone; none while it is
held, and while a held word that has issued is still to be performed (R380). -/
def Lane.boundary (x : Lane) : Option (Nat × Option Clause) :=
  match x.wait with
  | .none => if x.counted then none else some (x.pc, x.clause)
  | .retry w => if w.abandoned then some (x.pc, x.clause) else none
  | .op _ w => if w.abandoned then
      match x.back with
      | some b => some (b.1, some b.2)
      | none => some (x.pc, x.clause)
    else none
  | .bar _ _ _ => some (x.pc, x.clause)
  | .sleep _ => none

/-- The action preset for an entry; a stop on a retired-work count presets 3 (R390, R452). -/
def Entry.defaultAct (e : Entry) : Nat := if e.code = 0x29 ∧ e.info = 0x200 then 3 else defaultAction e.code

/-- The control thread of core `c` enters its handler for entry `e`: the next PC goes to CT_EPC, the record to TREC0 to TREC15, the
default action to TRAP_RESUME, and the thread continues at CT_TVEC; an abandoned wait counts as not issued (R380, R390). -/
def State.enter (s : State) (c : Nat) (e : Entry) (at_ : Nat × Option Clause) : State :=
  let s1 := ((s.cfgPut Config.nCtEpc c (at_.1 % 4294967296)).putRecord c e).cfgPut Config.nTrapResume c e.defaultAct
  let w := ((s.core c).ct.lane 0).wait
  let s2 := match w with | .op j _ => s1.endOp j | _ => s1
  let undo := match w with | .op _ _ => true | .retry _ => true | _ => false
  s2.modCore c fun k =>
    { k with inHandler := true, cur := some e, epcClause := at_.2.map fun q => (at_.1, q),
             ct := { k.ct with rwc := if undo then (k.ct.rwc + (2 ^ 48 - 1)) % 2 ^ 48 else k.ct.rwc }.modLane 0 fun x =>
               { x with pc := s.cfgGet Config.nCtTvec c, clause := none, wait := .none, back := none, counted := false } }

/-- The first waiting entry of core `c` is delivered, if its control thread runs, is in no handler and stands at a boundary
(R380). -/
def State.deliver (s : State) (c : Nat) : State :=
  let k := s.core c
  if k.inHandler || !s.ctRuns c then s
  else match k.entries, (k.ct.lane 0).boundary with
    | e :: rest, some p => (s.modCore c fun q => { q with entries := rest }).enter c e p
    | _, _ => s

/-- Deferred fault `e` comes before `x`: one of the same group and cycle at a higher PC, or at the same one with a higher lowest lane (R387). -/
def Entry.ahead (e x : Entry) : Bool :=
  e.late && x.late && x.gslot == e.gslot && x.order == e.order &&
    (decide (e.pc < x.pc) || (e.pc == x.pc && decide (e.lanes.headD 0 < x.lanes.headD 0)))

/-- Entry `e` waits at core `c`: faults before PREEMPT entries, each kind in the order raised, deferred faults of a cycle in theirs (R380, R387). -/
def State.enqueue (s : State) (c : Nat) (e : Entry) : State :=
  s.modCore c fun k =>
    let faults := k.entries.filter (·.code ≠ 0x30)
    { k with entries := if e.code = 0x30 then k.entries ++ [e]
        else faults.takeWhile (!e.ahead ·) ++ e :: faults.dropWhile (!e.ahead ·) ++ k.entries.filter (·.code = 0x30) }

/-- A program fault of a group of core `c` stops the core, is counted in ERR_TRAP, marks the group trapped, and waits to be delivered (R386). -/
def State.stopFor (s : State) (c : Nat) (e : Entry) : State :=
  let s1 := (s.count Config.nErrTrap e.vi 1).modCore c fun k =>
    { k with stopped := true }.modGroup (.grp e.gslot) ({ · with trapped := true })
  (s1.trace c e.vi [6, e.gslot, e.code]).enqueue c e

/-- A program fault of a group of core `c` stops the core and enters the handler (R386). -/
def State.takeFault (s : State) (c : Nat) (e : Entry) : State := (s.stopFor c e).deliver c

/-- The entry of a fault of the issue in progress. -/
def State.faultEntry (s : State) (code info foff fh : Nat) : Entry :=
  { code := code, vi := s.myVi,
    gslot := (match s.issue.agent with | .grp n => n | .ct => 0), tslot := s.me.team, pc := s.issue.pc,
    codeH := (match s.myTeam? with | some t => t.codeH | none => s.cfgGet Config.nCtCodeh s.issue.core),
    rwc := s.issueRwc, lanes := s.issue.lanes, fh := fh, foff := foff, info := info, iword := s.issue.iword,
    xword := if s.issueSize = 8 then s.issue.xword else 0, clause := some s.issue.clause, late := false, start := false, order := 0, other := none }

/-- The reason that DETAIL carries in bits 79 to 72 (R413). -/
def ctReason (code info : Nat) : Nat :=
  match code with
  | 0x02 => info % 4
  | 0x03 => info % 256
  | 0x21 => info / 256 % 4
  | _ => 0

/-- A fault of the control thread of core `c`: a machine check of class CT_FAULT, and the core stays stopped until it is reset
(R380, R413). DEDUCED: R413 gives DETAIL 80 bits and Table Fo-5 64, so its bits 79 to 64 stand in the record's bits 463 to 448
(log 10). -/
def State.ctFault (s : State) (code reason : Nat) : State :=
  let d := s.issue.iword % 2 ^ 32 + s.issue.pc % 2 ^ 32 * 2 ^ 32 + code * 2 ^ 64 + reason * 2 ^ 72
  (s.machineCheck 0x08 5 s.issue.core none 0 d).modCore s.issue.core fun k =>
    { k with stopped := true, dead := true, ct := k.ct.modLane 0 ({ · with counted := false }) }

/-- A faulting issue is not counted by `$rwc`, nor is the first issue of a held word that faults when it is performed (R386). -/
def State.uncount (s : State) : State :=
  let n := if s.issue.lanes.any fun l => !(s.me.lane l).counted then s.me.rwc else (s.me.rwc + (2 ^ 48 - 1)) % 2 ^ 48
  s.modMe fun g => { g with rwc := n }.modLanes s.issue.lanes
    ({ · with counted := false, saved := [], flags := [], heldAt := none, entries := [] })

/-- The issue raises a program fault and has no other effect (R386); of the control thread, it is a CT_FAULT (R413). -/
def State.raise (s : State) (code info foff fh : Nat) : State :=
  match s.issue.agent with
  | .ct => s.ctFault code (ctReason code info)
  | .grp _ => s.uncount.takeFault s.issue.core (s.faultEntry code info foff fh)

/-- RESERVED_FIELD with a reason and the lowest bit of the field (Table Fe-1). -/
def State.reserved (s : State) (reason bit foff : Nat) : State := s.raise 0x03 (reason + bit * 65536) foff 0

/-- What decoding refused, as a fault of the issue (R393). -/
def State.raiseDecode (s : State) (e : DecErr) : State :=
  match e with
  | .illegalOpcode r => s.raise 0x02 r 0 0
  | .reserved r b => s.reserved r b 0

/-! The frame of every instruction issue. -/

/-- The lanes of the issue that must wait for a pending future that the word reads or writes (R271); with U = 1, which executes once,
all of them or none (R26). -/
def State.futureLanes (s : State) (u : Bool) (reads writes : List Nat) : List Nat :=
  let g := s.me
  let ls := s.issue.lanes.filter fun l =>
    g.pend.any fun p =>
      (reads.contains p.reg && decide (p.lane = srcLane u s.issue.lanes l)) || (writes.contains p.reg && decide (p.lane = l))
  if u && ls != [] then s.issue.lanes else ls

/-- Lanes held for a pending future, each with the lowest register of the word that is pending for it (R271, R447). -/
def State.holdFuture (s : State) (u : Bool) (reads writes : List Nat) (held : List Nat) : State :=
  let g := s.me
  held.foldl (fun t l =>
    let rs := (g.pend.filter fun p => (reads.contains p.reg && decide (p.lane = srcLane u s.issue.lanes l)) ||
      (writes.contains p.reg && decide (p.lane = l))).map (·.reg)
    t.hold [l] (.future (rs.min?.getD 0))) s

/-- The lowest register of `rs` outside the allocation (R28, R393). -/
def Group.lowestOutside (g : Group) (rs : List Nat) : Option Nat := (rs.filter (16 * g.blocks ≤ ·)).min?

/-- The lowest lane of the issue, with the register, that reads a poisoned register (R421). -/
def State.poisonRead (s : State) (u : Bool) (reads : List Nat) : Option (Nat × Nat) :=
  s.issue.lanes.findSome? fun l =>
    ((s.me.poison.filter fun p => reads.contains p.2 && decide (p.1 = srcLane u s.issue.lanes l)).map (·.2)).min?.map (l, ·)

/-- An instruction reads a poisoned register: the use is counted, and DATA_POISON names lane and register (R420, R421). -/
def State.registerPoison (s : State) (l r : Nat) : State :=
  ((s.count Config.nErrPoison 0 1).machineCheck 0x03 5 s.issue.core (if s.isCt then none else some s.myVi) 0 3).raise
    0x20 (l + 128) r 0

/-- Answer `t`, or the fault of a physical address that is no memory. -/
def finish (t : State) : Out :=
  match t.badPa with
  | none => .next t
  | some pa => .fault (.noMemory pa)

/-- The frame of an instruction issue with the registers it reads and writes: no lanes is a fault of the model; a register outside
the allocation raises REGISTER_UNALLOCATED; lanes with a pending future are held; poison read from a register raises DATA_POISON;
then the rest of the lanes go on with `k`. DESIGN CHOICE: the held lanes issue on their own later, and where they trap then, what
the others wrote stands (R166, log 142). -/
def issueWith (u : Bool) (reads writes : List Nat) (s : State) (k : State → Out) : Out :=
  match s.me?, s.issue.lanes with
  | none, _ => .fault .noIssue
  | _, [] => .fault .noIssue
  | some g, _ :: _ =>
    match g.lowestOutside (reads ++ writes) with
    | some r => .next (s.raise 0x05 (r + g.blocks * 256) 0 0)
    | none =>
      let held := s.futureLanes u reads writes
      let rest := s.issue.lanes.filter (!held.contains ·)
      if held = [] then
        match s.poisonRead u reads with
        | some p => .next (s.registerPoison p.1 p.2)
        | none => k s
      else if rest = [] then .next (s.holdFuture u reads writes held)
      else
        let t : State := { s with issue := { s.issue with lanes := rest } }
        match t.poisonRead u reads with
        | some p => .next (t.registerPoison p.1 p.2)
        | none => k { s.holdFuture u reads writes held with issue := { s.issue with lanes := rest } }

/-- The result of `f` on each active lane's source lane, written to that lane, all lanes reading before any writes (R163, R26). -/
def State.writeLanes (s : State) (u : Bool) (f : Group → Nat → List (Nat × Word)) : State :=
  s.modMe fun g => s.issue.lanes.foldl (fun h l => h.setRegs l (f g (srcLane u s.issue.lanes l))) g

/-- How a lane's share of an issue ends: it goes on, it is held at the word, or the word has issued and it waits. -/
inductive LaneEnd where
  | go
  | hold (why : Why)
  | wait (w : Wait)
  deriving DecidableEq, Repr

/-- The issue is counted, and each of some lanes ends its share of it. -/
def State.settle (s : State) (ends : List (Nat × LaneEnd)) : State :=
  s.countIssue.modMe fun g => ends.foldl (fun h e => h.modLane e.1 fun x =>
    match e.2 with
    | .go => { s.pastIssue x with counted := false, back := none }
    | .hold w => s.heldLane w x
    | .wait w => { s.pastIssue x with counted := false, wait := w, back := some (s.issue.pc, s.issue.clause) }) g

/-- The lanes of the issue whose next access waits for UFLUSH or UAPPLY (R211, R212); with U = 1, all of them or none. -/
def State.flushLanes (s : State) (u : Bool) : List Nat :=
  let ls := s.issue.lanes.filter fun l => (s.me.lane l).flushing.any fun id => (s.op? id).isSome
  if u && ls != [] then s.issue.lanes else ls

/-- The frame of an access instruction: that of every instruction, and the wait for UFLUSH and UAPPLY. -/
def accessWith (u : Bool) (reads writes : List Nat) (s : State) (k : State → Out) : Out :=
  issueWith u reads writes s fun t =>
    let held := t.flushLanes u
    let rest := t.issue.lanes.filter (!held.contains ·)
    if held = [] then k t
    else if rest = [] then .next (t.hold held .flush)
    else k { t.hold held .flush with issue := { t.issue with lanes := rest } }

/-- The lowest register among some that is pending in any lane. -/
def Group.lowestPending (g : Group) (rs : List Nat) : Nat := (((g.pend.map (·.reg)).filter rs.contains).min?).getD 0

/-- The frame of an instruction that executes once over its whole set: where some lane must wait for a pending future, all of them do,
and issue it together (R27, R192 to R195, R244, R271). -/
def issueSet (reads writes : List Nat) (s : State) (k : State → Out) : Out :=
  issueWith false reads writes s fun t =>
    if t.issue.lanes = s.issue.lanes then k t
    else .next (t.hold t.issue.lanes (.future (t.me.lowestPending (reads ++ writes))))

/-- The frame of an instruction that is checked and performed whole, whatever its U bit: `issueSet`, or with U = 1 the frame that takes its
lanes together anyway. -/
def issueWhole (u : Bool) (reads writes : List Nat) (s : State) (k : State → Out) : Out :=
  if u then issueWith true reads writes s k else issueSet reads writes s k

/-- `issueSet` for an access instruction (R211, R212). -/
def accessSet (reads writes : List Nat) (s : State) (k : State → Out) : Out :=
  issueSet reads writes s fun t => if t.flushLanes true = [] then k t else .next (t.hold t.issue.lanes .flush)

/-- `issueWhole` for an access instruction (R211, R212). -/
def accessWhole (u : Bool) (reads writes : List Nat) (s : State) (k : State → Out) : Out :=
  issueWhole u reads writes s fun t => if t.flushLanes true = [] then k t else .next (t.hold t.issue.lanes .flush)

/-- A register instruction: `f` gives the writes of a lane from the group and the lane it reads. -/
def laneOp (u : Bool) (reads writes : List Nat) (s : State) (f : Group → Nat → List (Nat × Word)) : Out :=
  issueWith u reads writes s fun t => .next (t.writeLanes u f).retire

/-- A flag instruction: `f` gives the value of flag `c` in a lane. -/
def flagOp (u : Bool) (reads : List Nat) (c : Nat) (s : State) (f : Group → Nat → Bool) : Out :=
  issueWith u reads [] s fun t =>
    .next (t.modMe fun g =>
      t.issue.lanes.foldl (fun h l => h.setFlag l c (f g (srcLane u t.issue.lanes l))) g).retire

/-- The next free index, and the state after it is taken. -/
def State.nextFree (s : State) : Nat × State := (s.freeCtr, { s with freeCtr := s.freeCtr + 1 })

end Sys2Proof.Machine
end

