-- ==== Sys2Proof/Machine/Flags.lean ====
section
/-!
DEFINITION. Flag computations: the integer relations of ICMP and WAITC (R176, R213), the truth tables of CLOG (R178), the
floating-point flags of `$fpf` (Table Nf-6), and the special registers (Tables Ex-2 and En-13).
-/
namespace Sys2Proof.Machine

/-- Relation CC 0 to 5 of Table En-5 between integers. -/
def intRel (k : Nat) (x y : Int) : Bool :=
  match k with
  | 0 => x == y
  | 1 => x != y
  | 2 => decide (x < y)
  | 3 => decide (x ≤ y)
  | 4 => decide (y < x)
  | _ => decide (y ≤ x)

/-- The integer that 32 or 64 bits are under a type code: 0 `.i32`, 1 `.n32`, 2 `.i64`, 3 `.n64` (R176, Table Mi-6). -/
def typedInt (ty v : Nat) : Int :=
  match ty with
  | 0 => (BitVec.ofNat 32 v).toInt
  | 1 => ((v % 4294967296 : Nat) : Int)
  | 2 => (BitVec.ofNat 64 v).toInt
  | _ => ((v % 18446744073709551616 : Nat) : Int)

/-- CLOG's truth table: bit 2x + y of `k` (R178). -/
def truthTable (k : Nat) (x y : Bool) : Bool := bit k (2 * x.toNat + y.toNat)

/-- The flags of `$fpf`: IV 1, DZ 2, OF 4, UF 8, NX 16 (Table Nf-6). -/
abbrev FpFlags : Type := BitVec 5

/-- Invalid. -/
abbrev flagIV : FpFlags := 1
/-- Divide by zero. -/
abbrev flagDZ : FpFlags := 2
/-- Overflow. -/
abbrev flagOF : FpFlags := 4
/-- Underflow. -/
abbrev flagUF : FpFlags := 8
/-- Inexact. -/
abbrev flagNX : FpFlags := 16

/-- The floating-point control of the issuer: its team's FPCTL. DESIGN CHOICE: 0 for a control thread, which has no launch record (R125;
log 114). -/
def State.fpctl (s : State) : BitVec 16 :=
  match s.myTeam? with
  | some t => t.fpctl
  | none => 0

/-- The value of special register `n` of lane `l` of the issuer, 32 or 64 bits (Tables Ex-2 and En-13, R18). -/
def State.special (s : State) (l n : Nat) : Nat :=
  let g := s.me
  match s.myTeam? with
  | none =>
    match n with
    | 4 => 1 | 5 => 1 | 6 => 1
    | 7 => s.issue.core
    | 8 => s.cfgGet Config.nFabRank 0
    | 14 => g.rwc
    | 15 => s.clk
    | 16 => g.fpf.toNat
    | _ => 0
  | some t =>
    match n with
    | 0 => g.grp * g.width + l
    | 1 => l
    | 2 => g.grp
    | 3 => t.team
    | 4 => t.groups * t.width
    | 5 => t.nteam
    | 6 => g.width
    | 7 => t.vcore
    | 8 => s.cfgGet Config.nFabRank 0
    | 9 => t.gen
    | 10 => (g.lane l).item.toNat
    | 11 => t.wh
    | 12 => t.woff
    | 13 => t.depth
    | 14 => g.rwc
    | 15 => s.clk
    | 16 => g.fpf.toNat
    | _ => 0

end Sys2Proof.Machine
end

