-- ==== Sys2Proof/Machine/Fp.lean ====
section
/-!
DEFINITION. Floating-point values and their rounding (R113, R114, R124, R126, R128 to R130, R135): a value is decoded to an exact
number, computed with exactly, and rounded once.
-/
namespace Sys2Proof.Machine

/-- A floating-point format of Table Nf-1: its exponent and mantissa widths, its bias, and whether it is E4M3, which has no
infinity. -/
structure Fmt where
  ebits : Nat
  mbits : Nat
  bias  : Nat
  e4m3  : Bool
  deriving DecidableEq, Repr

/-- FP32. -/
def Fmt.f32 : Fmt := ⟨8, 23, 127, false⟩
/-- FP16. -/
def Fmt.f16 : Fmt := ⟨5, 10, 15, false⟩
/-- BF16. -/
def Fmt.bf16 : Fmt := ⟨8, 7, 127, false⟩
/-- E4M3. -/
def Fmt.e4m3fmt : Fmt := ⟨4, 3, 7, true⟩
/-- E5M2. -/
def Fmt.e5m2 : Fmt := ⟨5, 2, 15, false⟩

/-- The format of type codes 0 to 4 (Table Al-8). -/
def Fmt.ofCode (c : Nat) : Fmt :=
  match c with
  | 0 => .f32 | 1 => .f16 | 2 => .bf16 | 3 => .e4m3fmt | _ => .e5m2

/-- Bits of an encoding. -/
def Fmt.bits (f : Fmt) : Nat := 1 + f.ebits + f.mbits

/-- The infinity's encoding, or E4M3's NaN, for a sign (Table Nf-1). -/
def Fmt.inf (f : Fmt) (neg : Bool) : Nat :=
  if f.e4m3 then 0x7F else neg.toNat * 2 ^ (f.ebits + f.mbits) + (2 ^ f.ebits - 1) * 2 ^ f.mbits

/-- The largest finite encoding for a sign (Table Nf-1). -/
def Fmt.maxFinite (f : Fmt) (neg : Bool) : Nat :=
  neg.toNat * 2 ^ (f.ebits + f.mbits)
    + (if f.e4m3 then 0x7E else (2 ^ f.ebits - 1) * 2 ^ f.mbits - 1)

/-- The canonical NaN (Table Nf-1). -/
def Fmt.nan (f : Fmt) : Nat :=
  if f.e4m3 then 0x7F else (2 ^ f.ebits - 1) * 2 ^ f.mbits + 2 ^ (f.mbits - 1)

/-- An exact value: a NaN, quiet or signalling; an infinity; or ± `m` × 2^`e`, zero with its sign. -/
inductive FVal where
  | nan (signalling : Bool)
  | inf (neg : Bool)
  | fin (neg : Bool) (m : Nat) (e : Int)
  deriving DecidableEq, Repr

/-- The value of an encoding (R113, R114); `ftz` flushes a subnormal to zero of its sign (R126). -/
def Fmt.decode (f : Fmt) (ftz : Bool) (v : Nat) : FVal :=
  let neg := bit v (f.ebits + f.mbits)
  let ex := fld v f.mbits f.ebits
  let ma := fld v 0 f.mbits
  if ex = 0 then .fin neg (if ftz then 0 else ma) (1 - (f.bias : Int) - f.mbits)
  else if f.e4m3 then
    if ex = 15 ∧ ma = 7 then .nan false else .fin neg (2 ^ f.mbits + ma) ((ex : Int) - f.bias - f.mbits)
  else if ex = 2 ^ f.ebits - 1 then
    if ma = 0 then .inf neg else .nan (!bit v (f.mbits - 1))
  else .fin neg (2 ^ f.mbits + ma) ((ex : Int) - f.bias - f.mbits)

/-- Bits needed for `m`; 0 for 0. -/
def bitLen (m : Nat) : Nat := if m = 0 then 0 else Nat.log2 m + 1

/-- The rounding modes of Table Nf-4; stochastic rounding carries its draw (R130). -/
inductive Rm where
  | rne | rtz | rup | rdn
  | sr (draw : Nat)
  deriving DecidableEq, Repr

/-- Rounding code 0 to 3. -/
def Rm.ofCode (c : Nat) : Rm :=
  match c with
  | 0 => .rne | 1 => .rtz | 2 => .rup | _ => .rdn

/-- The kept part `q` goes up by one when `rem` of `2^k` was cut off (R124, R130). -/
def Rm.up (rm : Rm) (neg : Bool) (q rem k : Nat) : Bool :=
  if rem = 0 then false
  else match rm with
  | .rne => decide (2 ^ k < 2 * rem) || (decide (2 * rem = 2 ^ k) && q % 2 == 1)
  | .rtz => false
  | .rup => !neg
  | .rdn => neg
  | .sr x => decide (x ≤ rem * 4294967296 / 2 ^ k)

/-- `m` × 2^`e` rounded to a multiple of 2^`q`: the multiple, and whether it is inexact. -/
def roundAt (rm : Rm) (neg : Bool) (m : Nat) (e q : Int) : Nat × Bool :=
  if q ≤ e then (m * 2 ^ (e - q).toNat, false)
  else
    let k := (q - e).toNat
    let hi := m / 2 ^ k
    let rem := m % 2 ^ k
    (if rm.up neg hi rem k then hi + 1 else hi, decide (rem ≠ 0))

/-- An encoding with the flags its making raised. -/
structure FRes where
  bits  : Nat
  flags : FpFlags
  deriving DecidableEq, Repr

/-- What an overflow gives: the saturating and non-saturating columns of Table Nf-7. -/
def Fmt.overflow (f : Fmt) (rm : Rm) (sat neg : Bool) : Nat :=
  if sat then f.maxFinite neg
  else if f.e4m3 then 0x7F
  else match rm with
  | .rne => f.inf neg
  | .rtz => f.maxFinite neg
  | .rup => if neg then f.maxFinite neg else f.inf neg
  | .rdn => if neg then f.inf neg else f.maxFinite neg
  | .sr _ => f.inf neg

/-- ± `m` × 2^`e` rounded once to format `f` (R126, R128): overflow by Table Nf-7, underflow detected after rounding, and with
`ftz` a subnormal result flushed to zero, inexact and underflowing. -/
def Fmt.round (f : Fmt) (rm : Rm) (ftz sat : Bool) (neg : Bool) (m : Nat) (e : Int) : FRes :=
  let sign := neg.toNat * 2 ^ (f.ebits + f.mbits)
  if m = 0 then ⟨sign, 0⟩
  else
    let top : Int := e + bitLen m - 1
    let emin : Int := 1 - (f.bias : Int)
    let p : Int := f.mbits
    let q : Int := max (top - p) (emin - p)
    let (r, inexact) := roundAt rm neg m e q
    -- the largest finite magnitude in units of 2^q
    let maxUnits : Int := if f.e4m3 then 14 else 2 ^ (f.mbits + 1) - 1
    let emax : Int := if f.e4m3 then 8 else (2 ^ f.ebits - 2 : Nat) - (f.bias : Int)
    let ovf := decide (emax - p < q) || (decide (q = emax - p) && decide (maxUnits < r))
    if ovf then ⟨f.overflow rm sat neg, flagOF ||| flagNX⟩
    else
      let (r1, _) := roundAt rm neg m e (top - p)
      let tiny := decide (top < emin) && !(decide (top = emin - 1) && decide (r1 = 2 ^ (f.mbits + 1)))
      let sub := decide (r < 2 ^ f.mbits)
      if ftz && sub && decide (r ≠ 0) then ⟨sign, flagUF ||| flagNX⟩
      else
        let mag := if sub then r else ((q + p + f.bias).toNat - 1) * 2 ^ f.mbits + r
        ⟨sign + mag, (if inexact then flagNX else 0) ||| (if tiny && inexact then flagUF else 0)⟩

/-- A verdict: bits 31..16 are 0xFFB5 and bits 15..12 are 1 or 2 (R135). -/
def isVerdict (v : Word) : Bool := v.toNat / 65536 == 0xFFB5 && (v.toNat / 4096 % 16 == 1 || v.toNat / 4096 % 16 == 2)

/-- A NaN among the values is signalling. -/
def anySignalling (xs : List FVal) : Bool := xs.any fun x => match x with | .nan sg => sg | _ => false

/-- A value is a NaN. -/
def FVal.isNan : FVal → Bool
  | .nan _ => true
  | _ => false

/-- The sign of a value; a NaN has none. -/
def FVal.neg : FVal → Bool
  | .nan _ => false
  | .inf n => n
  | .fin n _ _ => n

/-- The value with its sign flipped. -/
def FVal.flip : FVal → FVal
  | .nan sg => .nan sg
  | .inf n => .inf !n
  | .fin n m e => .fin (!n) m e

/-- A finite value is zero. -/
def FVal.isZero : FVal → Bool
  | .fin _ 0 _ => true
  | _ => false

/-- The exact sum of finite values: an integer times 2^`e`. -/
def exactSum (xs : List FVal) : Int × Int :=
  let e0 : Int := xs.foldl (fun a x => match x with | .fin _ _ e => min a e | _ => a) 0
  (xs.foldl (fun a x => match x with
      | .fin n m e => a + (if n then -1 else 1) * (m * 2 ^ (e - e0).toNat : Nat)
      | _ => a) 0, e0)

/-- The product of two values; none where a zero meets an infinity (R179). NaNs are left to the caller. -/
def FVal.mul (x y : FVal) : Option FVal :=
  match x, y with
  | .nan sg, _ => some (.nan sg)
  | _, .nan sg => some (.nan sg)
  | .inf a, .inf b => some (.inf (a ^^ b))
  | .inf a, .fin b m _ => if m = 0 then none else some (.inf (a ^^ b))
  | .fin a m _, .inf b => if m = 0 then none else some (.inf (a ^^ b))
  | .fin a m e, .fin b n g => some (.fin (a ^^ b) (m * n) (e + g))

/-- How an exact zero sum takes its sign: as IEEE 754 gives it, every term of one sign keeping that sign, or as PRFX gives it
(R179, R194). -/
def zeroSign (prefixRule : Bool) (rm : Rm) (xs : List FVal) : Bool :=
  if prefixRule then xs.all (·.neg) || decide (rm = .rdn)
  else if xs.all (·.neg) then true
  else if xs.all (!·.neg) then false
  else decide (rm = .rdn)

/-- Infinities of both signs stand among some values. -/
def opposed (xs : List FVal) : Bool := xs.contains (.inf true) && xs.contains (.inf false)

/-- The sum of values rounded once to format `f`: NaN and opposed infinities give the canonical NaN, with IV for a signalling NaN or
opposed infinities; an infinity gives itself (R179, R184, R194). -/
def Fmt.sum (f : Fmt) (rm : Rm) (ftz : Bool) (prefixRule : Bool) (xs : List FVal) : FRes :=
  if anySignalling xs || opposed xs then ⟨f.nan, flagIV⟩
  else if xs.any (·.isNan) then ⟨f.nan, 0⟩
  else if xs.contains (.inf true) then ⟨f.inf true, 0⟩
  else if xs.contains (.inf false) then ⟨f.inf false, 0⟩
  else
    let (n, e) := exactSum xs
    if n = 0 then ⟨(zeroSign prefixRule rm xs).toNat * 2 ^ (f.ebits + f.mbits), 0⟩
    else f.round rm ftz false (decide (n < 0)) n.natAbs e

/-- A sum of products and addends rounded once: 0 × ∞ gives the canonical NaN with IV (R179, R184). DESIGN CHOICE:
opposed infinite products beside a quiet NaN raise no IV (log 143). -/
def Fmt.dot (f : Fmt) (rm : Rm) (ftz : Bool) (ps : List (FVal × FVal)) (cs : List FVal) : FRes :=
  let all := ps.foldr (fun p a => p.1 :: p.2 :: a) cs
  let prods := ps.map fun p => p.1.mul p.2
  if all.any (·.isNan) then
    ⟨f.nan, if anySignalling all || prods.any (· == none) then flagIV else 0⟩
  else if prods.any (· == none) then ⟨f.nan, flagIV⟩
  else f.sum rm ftz false (prods.filterMap id ++ cs)

/-- `x` < `y` for values that are no NaN; zeros of both signs are equal. -/
def FVal.lt (x y : FVal) : Bool :=
  match x, y with
  | .inf true, .inf true => false
  | .inf true, _ => true
  | _, .inf true => false
  | .inf false, _ => false
  | _, .inf false => true
  | .fin a m e, .fin b n g =>
    let k := min e g
    let l : Int := (if a then -1 else 1) * (m * 2 ^ (e - k).toNat : Nat)
    let r : Int := (if b then -1 else 1) * (n * 2 ^ (g - k).toNat : Nat)
    decide (l < r)
  | _, _ => false

/-- `x` comes before `y` for a minimum: less, or −0 before +0 (R180). -/
def FVal.before (x y : FVal) : Bool := x.lt y || (x.isZero && y.isZero && x.neg && !y.neg)

/-- minimumNumber and maximumNumber, or with `nanMode` minimum and maximum, of two encodings (R180, R136). A flushed operand is
returned as its zero. -/
def Fmt.minMax (f : Fmt) (ftz isMax nanMode : Bool) (a b : Nat) : FRes :=
  let x := f.decode ftz a
  let y := f.decode ftz b
  let iv : FpFlags := if anySignalling [x, y] then flagIV else 0
  let keep (v : Nat) (w : FVal) : Nat :=
    match w with
    | .fin n 0 _ => n.toNat * 2 ^ (f.ebits + f.mbits)
    | _ => v
  if x.isNan && y.isNan then ⟨f.nan, iv⟩
  else if x.isNan then ⟨if nanMode then f.nan else keep b y, iv⟩
  else if y.isNan then ⟨if nanMode then f.nan else keep a x, iv⟩
  else if (if isMax then x.before y else y.before x) then ⟨keep b y, iv⟩ else ⟨keep a x, iv⟩

/-- FCMP's relations (Table Al-5), and IV for a signalling NaN, or for any NaN with `sig` (R177). -/
def fpRel (k : Nat) (sig : Bool) (x y : FVal) : Bool × FpFlags :=
  let un := x.isNan || y.isNan
  let iv : FpFlags := if un && (sig || anySignalling [x, y]) then flagIV else 0
  let lt := x.lt y
  let gt := y.lt x
  let r := match k with
    | 0 => !un && !lt && !gt
    | 1 => un || lt || gt
    | 2 => !un && lt
    | 3 => !un && !gt
    | 4 => !un && gt
    | 5 => !un && !lt
    | 6 => un
    | _ => !un
  (r, iv)

/-- The next stochastic-rounding state (R130). -/
def srNext (x : Word) : Word :=
  let x1 := x ^^^ (x <<< 13)
  let x2 := x1 ^^^ (x1 >>> 17)
  x2 ^^^ (x2 <<< 5)

/-- The seed of a lane's stochastic-rounding state (R129). -/
def srSeed (seed team tid item : Word) : Word :=
  let x := seed ^^^ (team * 0x9E3779B9) ^^^ (tid * 0x85EBCA6B) ^^^ (item * 0xC2B2AE35)
  if x = 0 then 0x6D2B79F5 else x

/-- The least and greatest value of an integer type code 5 to 9 (Table Al-8). -/
def intRange (code : Nat) : Int × Int :=
  match code with
  | 5 => (-128, 127)
  | 6 => (-2147483648, 2147483647)
  | 7 => (0, 4294967295)
  | 8 => (-9223372036854775808, 9223372036854775807)
  | _ => (0, 18446744073709551615)

/-- A value converted to an integer type: rounded by `rm`, saturated to the range; IV for NaN, infinity or overflow, NX when inexact
and in range (Table Nf-7). -/
def toIntType (code : Nat) (rm : Rm) (x : FVal) : FRes :=
  let (lo, hi) := intRange code
  let w := typeWidth code
  let enc (v : Int) : Nat := (BitVec.ofInt w v).toNat
  match x with
  | .nan _ => ⟨0, flagIV⟩
  | .inf n => ⟨enc (if n then lo else hi), flagIV⟩
  | .fin n m e =>
    let (r, inexact) := roundAt rm n m e 0
    let v : Int := if n then -(r : Int) else r
    if v < lo then ⟨enc lo, flagIV⟩
    else if hi < v then ⟨enc hi, flagIV⟩
    else ⟨enc v, if inexact then flagNX else 0⟩

/-- One element converted from type `src` to type `dst` (R128, R186): floating-point targets saturate as `sat` says. -/
def convertElem (src dst : Nat) (rm : Rm) (ftz sat : Bool) (v : Nat) : FRes :=
  let x : FVal :=
    if src ≤ 4 then (Fmt.ofCode src).decode ftz v
    else
      let i : Int := if src = 5 ∨ src = 6 ∨ src = 8 then signed v (typeWidth src) else (v : Int)
      .fin (decide (i < 0)) i.natAbs 0
  if dst ≤ 4 then
    let f := Fmt.ofCode dst
    match x with
    | .nan sg => ⟨f.nan, if sg then flagIV else 0⟩
    | .inf n => ⟨if sat then f.maxFinite n else f.inf n, 0⟩
    | .fin n m e => f.round rm ftz sat n m e
  else toIntType dst rm x

end Sys2Proof.Machine
end

