-- ==== Sys2Proof/Machine/Operands.lean ====
section
/-!
DEFINITION. Operand forms of memory accesses: who makes an access, the offset of a lane (R196), the places of AB, WB and ACS
addresses (R47, R61, R233), and the checks that R55 makes on a handle, through the buffer tables (R321), the control table (R52),
windows (R60) and grants (R324).
-/
namespace Sys2Proof.Machine

/-- Who makes an access: the core that hears of it, whether a control thread makes it, its virtual interface and its depth (R38). -/
structure Actor where
  core  : Nat
  ct    : Bool
  vi    : Nat
  depth : Nat
  deriving DecidableEq, Repr

/-- The issuer as an actor. -/
def State.actor (s : State) : Actor := ⟨s.issue.core, s.isCt, s.myVi, s.myDepth⟩

/-- The address space of physical addresses (`Claim`). -/
abbrev physSpace : Nat := 64
/-- The address space of what lies on other chips; nothing in it is translated here. -/
abbrev remoteSpace : Nat := 99
/-- The address space of core `c`'s AB. -/
abbrev abSpace (c : Nat) : Nat := 100 + c
/-- The address space of core `c`'s WB. -/
abbrev wbSpace (c : Nat) : Nat := 300 + c
/-- The address space of core `c`'s ACS. -/
abbrev acsSpace (c : Nat) : Nat := 500 + c

/-- The offset that lane `l` forms: v[a] + IMM5 × z, computed exactly (R196). -/
def Group.offset (g : Group) (l a i z : Nat) : Nat := (g.reg l a).toNat + i * z

/-- `n` is a number of bytes that a naturally aligned piece at `x` may have, halving until it is (R94). -/
def pieceSize (x n : Nat) : Nat :=
  if x % 8 = 0 ∧ 8 ≤ n then 8 else if x % 4 = 0 ∧ 4 ≤ n then 4 else if x % 2 = 0 ∧ 2 ≤ n then 2 else 1

/-- The naturally aligned pieces of `n` bytes at `x`, from the lowest byte up (R94). -/
def pieces (x : Nat) : Nat → Nat → List (Nat × Nat)
  | 0, _ => []
  | fuel + 1, n => if n = 0 then [] else (x, pieceSize x n) :: pieces (x + pieceSize x n) fuel (n - pieceSize x n)

/-- Where a team's AB offset lies: core and core-absolute address of `n` bytes inside the allocation; bit 21 of a split team's
offset selects the half (R47, R61). -/
def State.abPlace (s : State) (core : Nat) (t : Team) (off n : Nat) : Option (Nat × Nat) :=
  match t.half with
  | none => if off + n ≤ t.abLen then some (core, t.abBase + off) else none
  | some h =>
    if off / 2097152 % 2 = (if h.high then 1 else 0) then
      if off < 4194304 ∧ off % 2097152 + n ≤ t.abLen then some (core, t.abBase + off % 2097152) else none
    else match s.team? h.core h.slot with
    | some o => if off < 4194304 ∧ off % 2097152 + n ≤ o.abLen then some (h.core, o.abBase + off % 2097152) else none
    | none => none

/-- Where an AB offset of the issuer lies; a control thread's are core-absolute (R61, R233). -/
def State.myAb (s : State) (off n : Nat) : Option (Nat × Nat) :=
  match s.myTeam? with
  | some t => s.abPlace s.issue.core t off n
  | none => if off + n ≤ Config.abBytes then some (s.issue.core, off) else none

/-- Where a WB offset of the issuer lies, as a byte of its core's WB (R48, R61). -/
def State.myWb (s : State) (off n : Nat) : Option Nat :=
  match s.myTeam? with
  | some t => if off + n ≤ t.wbN * 4096 then some (t.wbFirst * 4096 + off) else none
  | none => if off + n ≤ Config.wbTiles * 4096 then some off else none

/-! The buffer tables. -/

/-- A right of Table Ms-2, by its bit of Table Vi-2. -/
inductive Right where
  | read | write | update | atomic | execute
  deriving DecidableEq, Repr

/-- The bit of a buffer-table entry that holds a right (Table Vi-2). -/
def Right.bit : Right → Nat
  | .read => 128 | .write => 129 | .update => 130 | .atomic => 131 | .execute => 132

/-- The buffer-table entry of virtual interface `vi` that a handle names: none where INDEX is 0 or outside the table or VALID is 0
(R54, R321). -/
def State.entryOf (s : State) (vi h : Nat) : Option Nat :=
  let i := h % 65536
  if i = 0 ∨ s.cfgGet Config.nBtSize vi ≤ i then none
  else
    let e := s.tableEntry (s.entryAddr vi h)
    if bit e 127 then some e else none

/-- The control-table entry that a handle names (R52). -/
def State.ctEntryOf (s : State) (h : Nat) : Option Nat :=
  let i := h % 65536
  if i = 0 ∨ s.cfgGet Config.nCtBtSize 0 ≤ i then none
  else
    let e := s.tableEntry (s.entryAddr physSpace h)
    if bit e 127 then some e else none

/-- BASE of an entry (Table Vi-2). -/
def entBase (e : Nat) : Nat := fld e 0 52
/-- Length of an entry's buffer in bytes. -/
def entLen (e : Nat) : Nat := fld e 64 32 + 1
/-- GEN of an entry. -/
def entGen (e : Nat) : Nat := fld e 96 16
/-- OWNER of an entry. -/
def entOwner (e : Nat) : Nat := fld e 112 6
/-- Watched flag of an entry. -/
def entWatched (e : Nat) : Bool := bit e 133
/-- Binding-region flag of an entry. -/
def entBinding (e : Nat) : Bool := bit e 134
/-- An entry is a window (R60). -/
def entWindow (e : Nat) : Bool := bit e 211
/-- HCHIP of a window. -/
def entChip (e : Nat) : Nat := fld e 212 6
/-- RVI of a window. -/
def entRvi (e : Nat) : Nat := fld e 218 6
/-- RHANDLE of a window. -/
def entRhandle (e : Nat) : Nat := fld e 224 32

/-- The route to a rank (R348). -/
def State.route (s : State) (rank : Nat) : Nat := (Mem.get s.fabRoute rank).toNat ^^^ 15

/-- The grant-table entry of `vi` under id `g`, if it is a valid grant (R323). -/
def State.grant? (s : State) (vi g : Nat) : Option Nat :=
  if g = 0 ∨ s.cfgGet Config.nGtSize vi ≤ g then none
  else
    let e := s.physNat (s.cfgGet Config.nGtBase vi * 1048576 + 16 * g) 16
    if bit e 0 then some e else none

/-- Grant `g` of `vi` covers the entry `e` that handle `h` names, for these rights (R324). -/
def State.granted (s : State) (vi g h e : Nat) (rights : List Right) : Bool :=
  match s.grant? vi g with
  | none => false
  | some q =>
    fld q 32 16 == h % 65536 && fld q 48 16 == entGen e && fld q 8 6 == entOwner e &&
    rights.all fun r => match r with
      | .read => bit q 1
      | .write => bit q 2
      | _ => false

/-- The first failing check of R55 of an access of `n` bytes at `off`, made with an entry of `vi`'s table by an access of `vi` itself
or under grant `g` of `vi` (R55, R321, R324). -/
def State.checkEntry (s : State) (vi h off n : Nat) (rights : List Right) (g : Option Nat) : Except Nat Nat :=
  match s.entryOf vi h with
  | none => .error 1
  | some e =>
    if entWindow e && entChip e != s.cfgGet Config.nFabRank 0 && s.route (entChip e) == 15 then .error 1
    else if entGen e ≠ h / 65536 % 65536 then .error 2
    else if entOwner e ≠ vi && !(match g with | some k => s.granted vi k h e rights | none => false) then .error 3
    else if entLen e < off + n then .error 4
    else if !(entWindow e && entChip e != s.cfgGet Config.nFabRank 0) && rights.any (fun r => !bit e r.bit) then .error 5
    else .ok e

/-- The same with an entry of the control table, where check 3 passes (R52). DEDUCED: an entry that stands for a buffer of this chip is
checked for VALID and GEN alone; lengths and rights are those of the buffer it stands for (log 37). -/
def State.checkCtEntry (s : State) (h off n : Nat) (rights : List Right) : Except Nat Nat :=
  match s.ctEntryOf h with
  | none => .error 1
  | some e =>
    if entWindow e && entChip e != s.cfgGet Config.nFabRank 0 && s.route (entChip e) == 15 then .error 1
    else if entGen e ≠ h / 65536 % 65536 then .error 2
    else if entWindow e && entChip e == s.cfgGet Config.nFabRank 0 then .ok e
    else if entLen e < off + n then .error 4
    else if !(entWindow e && entChip e != s.cfgGet Config.nFabRank 0) && rights.any (fun r => !bit e r.bit) then .error 5
    else .ok e

/-- The reference that an entry gives: its own buffer, a local window's buffer in RVI's table, or a remote window. DEDUCED: a window
that names another window names no buffer, and the lower-numbered check of a window's two entries decides (log 14). -/
def State.viaEntry (s : State) (e : Except Nat Nat) (vi h off n : Nat) (rights : List Right) : Except Nat Ref :=
  match e with
  | .ok d =>
    if entWindow d then
      if entChip d = s.cfgGet Config.nFabRank 0 then
        match s.checkEntry (entRvi d) (entRhandle d) off n rights none with
        | .ok b => if entWindow b then .error 1
          else .ok ⟨entRvi d, entBase b + off, b, entRvi d, entRhandle d % 65536, off, d, none⟩
        | .error c => .error c
      else .ok ⟨remoteSpace, off, d, vi, h % 65536, off, d, some (entChip d)⟩
    else .ok ⟨vi, entBase d + off, d, vi, h % 65536, off, d, none⟩
  | .error c =>
    match (if vi = physSpace then s.ctEntryOf h else s.entryOf vi h) with
    | some d =>
      if entWindow d && entChip d == s.cfgGet Config.nFabRank 0 then
        match s.checkEntry (entRvi d) (entRhandle d) off n rights none with
        | .ok _ => .error c
        | .error k => .error (min c k)
      else .error c
    | none => .error c

/-- The checks of R55 on an access of `n` bytes at `off` through handle `h`, or the number of the first that fails. -/
def State.resolve (s : State) (a : Actor) (h off n : Nat) (rights : List Right) (g : Option Nat) : Except Nat Ref :=
  if a.ct then s.viaEntry (s.checkCtEntry h off n rights) physSpace h off n rights
  else s.viaEntry (s.checkEntry a.vi h off n rights g) a.vi h off n rights

/-- The trap code of a failed check (Table Fm-1). -/
def checkCode (c : Nat) : Nat :=
  match c with
  | 1 => 0x10 | 2 => 0x10 | 3 => 0x13 | 4 => 0x11 | _ => 0x12

/-- The home facet of the line at offset `off` in its span: that of the re-home on its way once its pointer has passed (R338). -/
def AutoSpan.facet (x : AutoSpan) (off : Nat) : Option Nat :=
  match x.goal with
  | some f => if off % 2097152 / 64 < x.pos then f else x.home
  | none => x.home

/-- An AUTO span is that of offset `off` of a buffer named by its entry. -/
def AutoSpan.isOf (x : AutoSpan) (vi index gen off : Nat) : Bool :=
  decide (x.vi = vi ∧ x.index = index ∧ x.gen = gen ∧ x.span = off / 2097152)

/-- The home slice of a byte of a buffer by its entry (Table Ms-3), and for a span of an AUTO buffer that has been re-homed, by the
DIE row with the span's facet (R337). -/
def State.homeSlice (s : State) (r : Ref) (off : Nat) : Nat :=
  let l := off / 64
  let fine := (fld l 0 8 ^^^ fld l 8 8) ^^^ (fld l 16 8 ^^^ fld l 24 2)
  let die := fun f => 64 * f + ((fld l 0 6 ^^^ fld l 6 6) ^^^ fld l 12 2)
  let p := fld r.entry 120 3
  match fld r.entry 118 2 with
  | 0 => fine
  | 1 => die (fld off 20 2 ^^^ p % 4)
  | 2 => 64 * (p / 2) + 32 * (p % 2) +
      (((fld l 0 5 ^^^ fld l 5 5) ^^^ (fld l 10 5 ^^^ fld l 15 5)) ^^^ (fld l 20 5 ^^^ fld l 25 1))
  | _ => match (s.autos.find? (·.isOf r.vi r.index (entGen r.entry) off)).bind (·.facet off) with
    | some f => die f
    | none => fine

/-- The handle in slot `h` of the issuer. -/
def State.slotHandle (s : State) (h : Nat) : Nat := (Mem.get s.me.slots h).toNat

/-! Fields whose legal values depend on the state (R394, R395). -/

/-- The issuer's ACS tiles: the first, and how many it may name, of an even number allocated; a control thread names the core's (R233). -/
def State.acsTiles (s : State) : Nat × Nat :=
  match s.myTeam? with
  | some t => (t.acsFirst, t.acsN)
  | none => (0, 256)

/-- The issuer's operand records (R233). -/
def State.records (s : State) : Nat × Nat :=
  match s.myTeam? with
  | some t => (t.recFirst, t.recN)
  | none => (0, 128)

/-- The greatest active lane. -/
def State.topLane (s : State) : Nat := s.issue.lanes.foldl max 0

/-- The uses of an instruction's fields that the state at issue forbids: tiles outside the allocation, rows above 127, MTHR.set from
another thread than the control thread, and closed streams (R252, R254 to R256, R277, R395). -/
def State.fieldChecks (s : State) (i : Instr) : List Check :=
  match i with
  | .accz d _ t => [⟨0, 2, decide (t + d < s.acsTiles.2)⟩]
  | .accrd _ t row0 _ _ => [⟨32, 2, decide (t < s.acsTiles.2)⟩, ⟨40, 2, decide (row0 + s.topLane ≤ 127)⟩]
  | .accwr _ t row0 _ _ => [⟨32, 2, decide (t < s.acsTiles.2)⟩, ⟨40, 2, decide (row0 + s.topLane ≤ 127)⟩]
  | .mthr d _ b m =>
    [⟨0, 7, m != 1 || s.isCt⟩, ⟨2, 2, decide (b + s.topLane ≤ 127)⟩, ⟨16, 2, decide (2 * d < s.acsTiles.2)⟩]
  | .mvst _ a b _ => [⟨2, 2, decide (b + s.topLane ≤ 127)⟩, ⟨9, 2, decide (2 * a < s.acsTiles.2)⟩]
  | .zadv _ z _ => [⟨16, 7, (NMap.find s.me.streams z).isSome⟩]
  | .zend _ _ z => [⟨0, 7, (NMap.find s.me.streams z).isSome⟩]
  | .zclose _ z => [⟨16, 7, (NMap.find s.me.streams z).isSome⟩]
  | .zld _ _ z => [⟨0, 7, (NMap.find s.me.streams z).isSome⟩]
  | .zcrd _ _ z => [⟨0, 7, (NMap.find s.me.streams z).isSome⟩]
  | _ => []

/-- The frame of an instruction with such fields. -/
def fieldWith (i : Instr) (s : State) (k : State → Out) : Out :=
  match lowestFailure (s.fieldChecks i) with
  | some c => .next (s.reserved c.reason c.bit 0)
  | none => k s

end Sys2Proof.Machine
end

