-- ==== Sys2Proof/Machine/Translate.lean ====
section
/-!
DEFINITION. Translation and physical memory: the physical map (Table Vi-4), the heap window and the page walk (R325, R326, R417), page
frames and page moves that a walk starts (R328, R334), array errors and poison (R420), and event records (R382, R303).
-/
namespace Sys2Proof.Machine

/-- `pa` is memory (Table Vi-4). -/
def isMemory (pa : Nat) : Bool :=
  decide (pa < 2 ^ 39) || (decide (2 ^ 40 ≤ pa) && decide (pa < 2 ^ 41)) || (decide (2 ^ 44 ≤ pa) && decide (pa < 2 ^ 44 + 2 ^ 43))

/-- Stored bytes stand in `State.mem` from here up. -/
abbrev storeBase : Nat := 2 ^ 60

/-- Where slot `slot` of virtual interface `vi` in storage begins. -/
def storedAt (vi slot : Nat) : Nat := storeBase + (2 ^ 44 * vi + slot) * 2 ^ 21

/-- The tier of an address: 0 HBM, 1 LPDDR, 2 CXL, 3 storage (Table Vi-7). -/
def tierOf (pa : Nat) : Nat := if pa < 2 ^ 39 then 0 else if pa < 2 ^ 41 then 1 else if pa < storeBase then 2 else 3

/-- The HBM stack of a physical address (Table Vi-4). -/
def stackOf (pa : Nat) : Nat := pa / 2 ^ 36

/-! Event records. -/

/-- Words 4 to 15 of a record, from those given, the rest 0. -/
def recordTail (ws : List Nat) : List Word := (List.range 12).map fun i => BitVec.ofNat 32 ((ws[i]?).getD 0)

/-- The 16 words of an event record (R382). -/
def State.eventRecord (s : State) (kind vi : Nat) (tslot : Option Nat) (ws : List Nat) : List Word :=
  let w0 := kind + vi * 256 + (match tslot with | some t => t * 65536 + 16777216 | none => 0)
  [BitVec.ofNat 32 w0, 0, BitVec.ofNat 32 s.clk, BitVec.ofNat 32 (s.clk / 4294967296)] ++ recordTail ws

/-- A word of a core's AB. -/
def Core.abWord (k : Core) (a : Nat) : Nat := leNat (Mem.bytes k.ab a 4)

/-- A core with `bs` in its AB from byte `a` up. -/
def Core.abPut (k : Core) (a : Nat) (bs : List Byte) : Core := { k with ab := Mem.setBytes k.ab a bs }

/-- Entries that stand in the AB overflow area at `base` (R279). -/
def Core.areaHeld (k : Core) (base : Nat) : Nat := (k.abWord (base + 4) + 4294967296 - k.abWord base) % 4294967296

/-- DEPTH of a queue control word (Table Ec-8). -/
def qcwDepth (q : Double) : Nat := fld q.toNat 32 16

/-- BASE of a queue control word. -/
def qcwBase (q : Double) : Nat := fld q.toNat 0 21

/-- An entry of 64 bytes put in the overflow area at `base` (R279). -/
def Core.areaPut (k : Core) (base depth : Nat) (entry : List Byte) : Core :=
  let tail := k.abWord (base + 4)
  let k1 := (k.abPut (base + 64 + 64 * (tail % depth)) entry).abPut (base + 4) (leBytes (tail + 1) 4)
  if k1.abWord (base + 8) < k1.areaHeld base then k1.abPut (base + 8) (leBytes (k1.areaHeld base) 4) else k1

/-- The oldest entry of the overflow area at `base`, and the core without it. -/
def Core.areaTake (k : Core) (base depth : Nat) : List Byte × Core :=
  let head := k.abWord base
  (Mem.bytes k.ab (base + 64 + 64 * (head % depth)) 64, k.abPut base (leBytes (head + 1) 4))

/-- The 64 bytes of 16 words. -/
def wordsBytes (ws : List Word) : List Byte := ws.flatMap fun w => leBytes w.toNat 4

/-- The little-endian words of some bytes. -/
def bytesWords (n : Nat) (bs : List Byte) : List Word :=
  (List.range n).map fun i => BitVec.ofNat 32 (leNat ((bs.drop (4 * i)).take 4))

/-- Tile-copy requests of team slot `t` that stand in the core pool: copies posted and not delivered (R270, R303). -/
def State.tcqCount (s : State) (c t : Nat) : Nat :=
  (s.ops.filter fun o => decide (o.core = c) &&
    (match o.kind with | .copy r => r.pooled && r.slot == some t | _ => false)).length

/-- A queue's minimum as the pool keeps it: the resident teams' together never exceed the pool (R303). -/
def State.poolMin (s : State) (num c : Nat) : Nat :=
  if num = Config.nTcqMin then min (s.cfgGet num c) ((1020 - s.cfgGet Config.nEvqMin c) / max (s.core c).teams.length 1) else s.cfgGet num c

/-- The core pool's free entries, less the unmet minimums of the queues other than the event queue (`q` = 0), the pending-launch queue
(1), or the tile-copy queue of team slot `t` (2) (R303). -/
def State.poolSpare (s : State) (c q t : Nat) : Int :=
  let k := s.core c
  let teams := k.teams.map (·.1)
  let used := k.events.length + k.launchQ.length + (teams.map (s.tcqCount c)).sum
  let unmetE := if q = 0 then 0 else s.poolMin Config.nEvqMin c - k.events.length
  let unmetL := if q = 1 then 0 else 4 - k.launchQ.length
  let unmetT := (teams.map fun x => if q = 2 ∧ x = t then 0 else s.poolMin Config.nTcqMin c - s.tcqCount c x).sum
  (1024 : Int) - (used : Nat) - (unmetE + unmetL + unmetT : Nat)

/-- A queue with `n` pool entries takes one more (R303). -/
def State.poolTakes (s : State) (c q t n mn cap : Nat) : Bool :=
  decide (n < mn) || (decide (n < cap) && decide (0 < s.poolSpare c q t))

/-- The event queue's overflow area holds no entry. -/
def Core.eventAreaEmpty (k : Core) : Bool := qcwDepth k.qcw2 == 0 || k.areaHeld (qcwBase k.qcw2) == 0

/-- A record joins core `c`'s event queue: its pool entries, its AB area, or the records that wait to be posted (R281, R303). -/
def State.placeEvent (s : State) (c : Nat) (r : List Word) : State :=
  let k := s.core c
  if k.evWait = [] ∧ k.eventAreaEmpty ∧
      s.poolTakes c 0 0 k.events.length (s.poolMin Config.nEvqMin c) (s.cfgGet Config.nEvqCap c) then
    s.modCore c fun k => { k with events := k.events ++ [r] }
  else if k.evWait = [] ∧ 0 < qcwDepth k.qcw2 ∧ k.areaHeld (qcwBase k.qcw2) < qcwDepth k.qcw2 then
    s.modCore c fun k => k.areaPut (qcwBase k.qcw2) (qcwDepth k.qcw2) (wordsBytes r)
  else s.modCore c fun k => { k with evWait := k.evWait ++ [r] }

/-- Entries return in order as room frees: from the AB area to the pool, and from the waiting units to the queue (R303). -/
def State.refillEvents (s : State) (c : Nat) : State :=
  let k := s.core c
  let s1 :=
    if k.eventAreaEmpty then s
    else if s.poolTakes c 0 0 k.events.length (s.poolMin Config.nEvqMin c) (s.cfgGet Config.nEvqCap c) then
      s.modCore c fun k =>
        let (bs, k1) := k.areaTake (qcwBase k.qcw2) (qcwDepth k.qcw2)
        { k1 with events := k1.events ++ [bytesWords 16 bs] }
    else s
  let s2 := s1.modCore c fun k =>
    match k.qcw2Next with
    | some q => if k.eventAreaEmpty then { k with qcw2 := q, qcw2Next := none } else k
    | none => k
  match (s2.core c).evWait with
  | [] => s2
  | r :: rest => (s2.modCore c fun k => { k with evWait := [] }).placeEvent c r |>.modCore c
      fun k => { k with evWait := k.evWait ++ rest }

/-- The oldest event record of core `c`, and the state without it (R281). -/
def State.takeEvent (s : State) (c : Nat) : Option (List Word × State) :=
  match (s.core c).events with
  | r :: rest => some (r, (s.modCore c fun k => { k with events := rest }).refillEvents c)
  | [] => none

/-- The 16 words of a record or message as register writes from `d` up. -/
def blockWrites (d : Nat) (ws : List Word) : List (Nat × Word) := (List.range 16).map fun m => (d + m, (ws[m]?).getD 0)

/-- A control thread that waits in EVPOP receives the oldest record (R281). -/
def State.serveEvpop (s : State) (c : Nat) : State :=
  match s.ops.find? (fun o => o.core == c && (match o.kind with | .evpop _ => true | _ => false)) with
  | none => s
  | some o =>
    match o.kind, s.takeEvent c with
    | .evpop d, some (r, t) =>
      (t.modGroup c o.agent fun g => (o.lanes.foldl (fun h l => h.setRegs l (blockWrites d r)) g).wake o.id).endOp o.id
    | _, _ => s

/-- An event record is posted to core `c` (R382). -/
def State.postEvent (s : State) (c kind vi : Nat) (tslot : Option Nat) (ws : List Nat) : State :=
  (s.placeEvent c (s.eventRecord kind vi tslot ws)).serveEvpop c

/-- Physical core of virtual core `v` of interface `vi` (R320). -/
def State.physCore (s : State) (vi v : Nat) : Nat := (Mem.get s.vcoreMap (128 * vi + v)).toNat ^^^ v

/-- A record that no access issued goes to the core of virtual core 0 (R382). -/
def State.postHome (s : State) (kind vi : Nat) (ws : List Nat) : State := s.postEvent (s.physCore vi 0) kind vi none ws

/-! Array errors and poison (R420 to R423). -/

/-- The machine-check unit of a physical address: type and number (Table Fo-5). -/
def memUnit (pa : Nat) : Nat × Nat :=
  match tierOf pa with
  | 0 => (1, stackOf pa)
  | 1 => (2, 0)
  | _ => (4, Config.cxlPort pa)

/-- The array code of a physical address in DETAIL (R436). -/
def arrayCode (pa : Nat) : Nat :=
  match tierOf pa with
  | 0 => 0 | 1 => 8 | _ => 9

/-- The virtual interface a machine check concerns; none for a control thread or the part. -/
def Actor.vi? (a : Actor) : Option Nat := if a.ct then none else some a.vi

/-- A corrected error of array `arr` of a unit is counted in register `num`; one record is posted for each 1,024 of a unit (R383, R420). -/
def State.corrected (s : State) (num : Nat) (unit : Nat × Nat) (pa arr : Nat) : State :=
  let key := 65536 * unit.1 + unit.2
  let s1 := s.count num 0 1
  let n := (NMap.find s1.ceCounts key).getD 0 + 1
  if n = 1024 then ({ s1 with ceCounts := NMap.drop s1.ceCounts key }).machineCheck 0x01 unit.1 unit.2 none pa (arr + 1024 * 2 ^ 32)
  else { s1 with ceCounts := NMap.put s1.ceCounts key n }

/-- An uncorrectable error of array `arr` of a unit is counted in register `num`, once, with a record (R383, R420). -/
def State.uncorrected (s : State) (num : Nat) (unit : Nat × Nat) (pa arr : Nat) : State :=
  (s.count num 0 1).machineCheck 0x02 unit.1 unit.2 none pa (arr + 2 ^ 32)

/-- A correctable error of the sector at `pa` (R420). -/
def State.arrayCe (s : State) (pa : Nat) : State :=
  s.corrected (match tierOf pa with | 0 => Config.nErrHbmCe | 1 => Config.nErrLpddrCe | _ => Config.nErrCxl) (memUnit pa) pa (arrayCode pa)

/-- An uncorrectable error of the sector at `pa`, which is poisoned (R420). -/
def State.arrayUe (s : State) (pa : Nat) : State :=
  let s1 := s.uncorrected (match tierOf pa with | 0 => Config.nErrHbmUe | 1 => Config.nErrLpddrUe | _ => Config.nErrCxl) (memUnit pa) pa
    (arrayCode pa)
  { s1 with poison := addTo (pa / 32) s1.poison }

/-- The array code of an on-chip array, the unit it belongs to, and the physical address concerned (R436, Table Fo-5): L2 belongs to a slice, the
bin store to an HBM stack, the others to a core. -/
def ArrayPlace.unit : ArrayPlace → Nat × (Nat × Nat) × Nat
  | .l2 f k _ => (1, (0, f), 32 * k)
  | .l1 c => (2, (5, c), 0)
  | .ab c _ => (3, (5, c), 0)
  | .wb c _ => (4, (5, c), 0)
  | .acs c _ => (5, (5, c), 0)
  | .reg c _ _ _ => (6, (5, c), 0)
  | .bin pa => (7, (1, stackOf pa), pa)

/-- What is poisoned by an uncorrectable error of an on-chip array (Table Fm-3): a clean L2 sector and an L1 are read again. -/
def State.arrayPoison (s : State) : ArrayPlace → State
  | .l2 _ k dirty => if dirty then { s with poison := addTo k s.poison } else s
  | .l1 _ => s
  | .ab c g => s.modCore c fun k => { k with poisonAb := addTo g k.poisonAb }
  | .wb c g => s.modCore c fun k => { k with poisonWb := addTo g k.poisonWb }
  | .acs c e => s.modCore c fun k => { k with poisonAcs := addTo e k.poisonAcs }
  | .reg c a l r => s.modGroup c a fun g => if g.poison.contains (l, r) then g else { g with poison := g.poison ++ [(l, r)] }
  | .bin pa => { s with binBad := addTo pa s.binBad }

/-- The errors of on-chip arrays are detected, counted and, where they are uncorrectable, poison what they hit (R420, Table Fm-3). DEDUCED: each is
detected at the end of the cycle in which it has arisen, and each corrected one counts in ERR_SRAM_CE (log 137). -/
def State.detectArrays (s : State) : State :=
  s.arrayErrs.foldl (fun t e =>
    let (arr, unit, pa) := e.1.unit
    if e.2 then (t.uncorrected Config.nErrSramUe unit pa arr).arrayPoison e.1 else t.corrected Config.nErrSramCe unit pa arr)
    { s with arrayErrs := [] }

/-- The sectors that `n` bytes at `pa` touch. -/
def sectors (pa n : Nat) : List Nat := (List.range ((pa + n + 31) / 32 - pa / 32)).map (pa / 32 + ·)

/-- A read of `n` bytes at `pa` meets the latent errors of their sectors (R420). -/
def State.detect (s : State) (pa n : Nat) : State :=
  if s.latentCe = [] ∧ s.latentUe = [] then s
  else (sectors pa n).foldl (fun t k =>
    let t1 := if t.latentCe.contains k then ({ t with latentCe := t.latentCe.filter (· ≠ k) }).arrayCe (32 * k) else t
    if t1.latentUe.contains k then ({ t1 with latentUe := t1.latentUe.filter (· ≠ k) }).arrayUe (32 * k) else t1) s

/-- The byte at `pa` belongs to a lost CXL device (R427). -/
def State.lost (s : State) (pa : Nat) : Bool := s.cxlLost.any fun r => decide (r.1 ≤ pa) && decide (pa < r.1 + r.2)

/-- Sector `k` reads as poisoned (R420, R427). -/
def State.poisoned (s : State) (k : Nat) : Bool := s.poison.contains k || s.lost (32 * k)

/-- The first poisoned sector that `n` bytes at `pa` touch. -/
def State.poisonIn (s : State) (pa n : Nat) : Option Nat :=
  if s.poison = [] ∧ s.cxlLost = [] then none else (sectors pa n).find? s.poisoned

/-- A consumption of poison is counted, with a machine check of class POISON_USE naming the consumer (R420, R436). -/
def State.poisonUse (s : State) (vi : Option Nat) (consumer pa : Nat) : State :=
  let (ty, un) := memUnit pa
  (s.count Config.nErrPoison 0 1).machineCheck 0x03 ty un vi pa consumer

/-- POISON_WRITTEN, posted to the core concerned (R435). -/
def State.postPoison (s : State) (a : Actor) (handle off cause granules : Nat) : State :=
  s.postEvent a.core 0x15 a.vi none [handle, off, cause, granules]

/-! Translation. -/

/-- What a walk finds (R326, R328, R417): a page, with the address of its entry, its own address and size; a page to be made or read
in; nothing; a malformed entry at a level; or a table on an HBM channel whose accesses wait (R424). -/
inductive Walk where
  | waits
  | page (entry base size : Nat)
  | demand (entry size : Nat)
  | storage (entry size slot : Nat)
  | unmapped
  | malformed (level : Nat)
  deriving DecidableEq, Repr

/-- ADDR of a page-table entry as an address (Table Vi-5). -/
def pteAddr (e : Nat) : Nat := fld e 8 44 * 256

/-- A page-table entry that no walk may use (R417). -/
def pteBad (level e : Nat) : Bool :=
  fld e 52 12 != 0 || bit e 2 ||
  (bit e 0 && ((bit e 1 && decide (level ≤ 1)) || (!bit e 1 && level == 3) || !isMemory (pteAddr e))) ||
  (!bit e 0 && fld e 4 2 == 2)

/-- The page size that a leaf of a level maps (R326). -/
def pageSize (level : Nat) : Nat := if level = 2 then 2097152 else 65536

/-- The walk from level `level`, whose table is at `table`, with `fuel` levels to go. DEDUCED: TIER 1 and 3 of an entry that is not
present above level 2, where no page can be mapped, leave the address unmapped (log 16). -/
def State.walkFrom (s : State) (va : Nat) : Nat → Nat → Nat → Walk
  | 0, _, _ => .unmapped
  | fuel + 1, level, table =>
    let idx := match level with
      | 0 => fld va 39 13 | 1 => fld va 30 9 | 2 => fld va 21 9 | _ => fld va 16 5
    let ea := table + 8 * idx
    let e := s.physNat ea 8
    if s.hbmDown != [] && decide (ea < 2 ^ 39) && s.hbmDown.contains (Config.hbmChannel ea) then .waits
    else if pteBad level e then .malformed level
    else if bit e 0 then
      if bit e 1 then .page ea (pteAddr e) (pageSize level) else s.walkFrom va fuel (level + 1) (pteAddr e)
    else if level ≤ 1 then .unmapped
    else match fld e 4 2 with
      | 1 => .demand ea (pageSize level)
      | 3 => .storage ea (pageSize level) (fld e 8 44)
      | _ => .unmapped

/-- The walk for a virtual address outside the heap window (R326). -/
def State.walk (s : State) (vi va : Nat) : Walk :=
  let root := s.cfgGet Config.nPtRoot vi
  if root = 0 ∨ 2 ^ 52 ≤ va then .unmapped else s.walkFrom va 4 0 (root * 1048576)

/-- `va` lies in the heap window (R325). -/
def State.inHeap (s : State) (vi va : Nat) : Bool :=
  decide (s.cfgGet Config.nHeapBase vi * 2097152 ≤ va) && decide (va < s.cfgGet Config.nHeapLimit vi * 2097152)

/-- The facet's buffer behind a core's (R327). -/
def facetBuffer (core : Nat) : Nat := 1000 + core / 32

/-- The translation that buffer `b` holds for `va` (R327). -/
def State.transIn (s : State) (b vi va : Nat) : Option Trans :=
  s.tlb.find? fun x => decide (x.at_ = b ∧ x.vi = vi ∧ x.va ≤ va ∧ va < x.va + x.size)

/-- The translation held for `va` by the core whose access it is, or else by its facet (R327). -/
def State.trans? (s : State) (vi va : Nat) : Option Trans :=
  match s.transIn s.issue.core vi va with
  | some x => some x
  | none => s.transIn (facetBuffer s.issue.core) vi va

/-- The set of a translation, by the number of its page: 128 sets in a core's buffer and 2,048 in a facet's (R327). -/
def Trans.set (x : Trans) : Nat := x.va / x.size % (if x.at_ < 1000 then 128 else 2048)

/-- A translation enters its buffer, whose set holds 8 in a core and 16 in a facet (R327). DESIGN CHOICE: the set is the page's number modulo
the sets, and the oldest translation of a full set gives way (log 53). -/
def State.holdTrans (s : State) (x : Trans) : State :=
  let here := s.tlb.filter fun y => y.at_ == x.at_ && y.set == x.set
  let ways := if x.at_ < 1000 then 8 else 16
  { s with tlb := (if here.length < ways then s.tlb else match here with
      | y :: _ => s.tlb.erase y
      | [] => s.tlb) ++ [x] }

/-- A page's translation enters the buffers of the core whose access it is and of its facet (R327). -/
def State.fillTrans (s : State) (vi va size base : Nat) : State :=
  (s.holdTrans ⟨facetBuffer s.issue.core, vi, va, size, base⟩).holdTrans ⟨s.issue.core, vi, va, size, base⟩

/-- The accesses that follow are core `c`'s; those of no core have number 128, with buffers of their own (R327, log 53). -/
def State.atCore (s : State) (c : Nat) : State := { s with issue := { s.issue with core := c } }

/-- The translations of virtual interface `vi` for some addresses are discarded (R327). -/
def State.dropTrans (s : State) (vi lo n : Nat) : State :=
  { s with tlb := s.tlb.filter fun x => !decide (x.vi = vi ∧ x.va < lo + n ∧ lo < x.va + x.size) }

/-- Where a line of a page under a live move is: lines that the pointer has passed are at the destination (R331, R426). -/
def State.moved (s : State) (pa : Nat) : Nat :=
  match s.migs.find? (fun m => m.auto.isNone && decide (m.src ≤ pa) && decide (pa < m.src + 64 * m.lines)) with
  | some m => if (pa - m.src) / 64 < m.pos then m.dst + (pa - m.src) else pa
  | none => pa

/-- The physical address of a byte, by the translation held or else by a walk; none where it misses (R58, R325 to R328). -/
def State.lookup (s : State) (space va : Nat) : Option Nat :=
  if space = physSpace then some va
  else if s.inHeap space va then some ((va + s.cfgGet Config.nHeapOffset space * 2097152) % 2 ^ 52)
  else match s.trans? space va with
  | some x => some (s.moved (x.base + (va - x.va)))
  | none => match s.walk space va with
    | .page _ base size => some (s.moved (base + va % size))
    | _ => none

/-- Where a byte of a page that is in storage stands. -/
def State.storedPlace (s : State) (space va : Nat) : Option Nat :=
  if space = physSpace ∨ s.inHeap space va then none
  else match s.walk space va with
  | .storage _ size slot => some (storedAt space slot + va % size)
  | _ => none

/-- Runs of `n` bytes from `va` up that lie in one aligned block of `step` bytes. -/
def runs (step va : Nat) : Nat → Nat → List (Nat × Nat)
  | 0, _ => []
  | fuel + 1, n =>
    if n = 0 then []
    else
      let k := min n (step - va % step)
      (va, k) :: runs step (va + k) fuel (n - k)

/-- The runs of a range, each within one page, or one line while a page is being moved: offset in the range, length, and physical
address if it is present. -/
def State.extents (s : State) (space va n : Nat) : List (Nat × Nat × Option Nat) :=
  if n = 0 then []
  else if space = physSpace ∨ (s.inHeap space va ∧ s.inHeap space (va + n - 1)) then [(0, n, s.lookup space va)]
  else
    let step := if s.migs = [] then 65536 else 64
    (runs step va (n / step + 2) n).map fun r => (r.1 - va, r.2, s.lookup space r.1)

/-- The physical runs of a range; none where some page is missing. -/
def State.locate (s : State) (space va n : Nat) : Option (List (Nat × Nat)) :=
  let es := s.extents space va n
  if es.all (·.2.2.isSome) then some (es.filterMap fun e => e.2.2.map (·, e.2.1)) else none

/-! Free pages and moves that a walk starts. -/

/-- The listed cells of `n` bytes from `lo` up, by offset. -/
def cellsOf (m : Mem 8) (lo n : Nat) : List (Nat × Byte) :=
  (m.filter fun c => decide (lo ≤ c.1) && decide (c.1 < lo + n)).map fun c => (c.1 - lo, c.2)

/-- `n` bytes from `lo` up replaced by some cells, the rest 0. -/
def putCells (m : Mem 8) (lo n : Nat) (cs : List (Nat × Byte)) : Mem 8 := cs.foldl (fun x c => Mem.set x (lo + c.1) c.2) (Mem.clear m lo n)

/-- The listed entries of a table of `n` entries at `table`. -/
def State.listed (s : State) (table n : Nat) : List Nat := ((cellsOf s.mem table (8 * n)).map fun c => c.1 / 8).foldr addTo []

/-- The present pages below the table at `table` of level `level`: virtual address, address of the entry, page address, page size. -/
def State.leaves (s : State) : Nat → Nat → Nat → Nat → List (Nat × Nat × Nat × Nat)
  | 0, _, _, _ => []
  | fuel + 1, level, table, va =>
    let (n, shift) : Nat × Nat := match level with
      | 0 => (8192, 39) | 1 => (512, 30) | 2 => (512, 21) | _ => (32, 16)
    (s.listed table n).flatMap fun i =>
      let ea := table + 8 * i
      let e := s.physNat ea 8
      if pteBad level e ∨ !bit e 0 then []
      else if bit e 1 then [(va + i * 2 ^ shift, ea, pteAddr e, pageSize level)]
      else s.leaves fuel (level + 1) (pteAddr e) (va + i * 2 ^ shift)

/-- Every present page: virtual interface, virtual address, entry, page address, size, in ascending order. -/
def State.pages (s : State) : List (Nat × Nat × Nat × Nat × Nat) :=
  (List.range 64).flatMap fun v =>
    let root := s.cfgGet Config.nPtRoot v
    if root = 0 then [] else (s.leaves 4 0 (root * 1048576) 0).map (v, ·)

/-- A range joins some ranges in ascending order that do not touch. -/
def addRange (lo hi : Nat) : List (Nat × Nat) → List (Nat × Nat)
  | [] => [(lo, hi)]
  | (a, b) :: rest =>
    if hi < a then (lo, hi) :: (a, b) :: rest
    else if b < lo then (a, b) :: addRange lo hi rest
    else addRange (min lo a) (max hi b) rest

/-- Ranges, in ascending order, none of them empty or touching another. -/
def mergeRanges (rs : List (Nat × Nat)) : List (Nat × Nat) := (rs.filter fun r => r.1 < r.2).foldl (fun l r => addRange r.1 r.2 l) []

/-- Bytes of some ranges that lie from `lo` up to `hi`. -/
def bytesIn (lo hi : Nat) (rs : List (Nat × Nat)) : Nat := (rs.map fun r => min hi r.2 - max lo r.1).sum

/-- The range of a tier (Table Vi-4). -/
def tierRange (tier : Nat) : Nat × Nat :=
  match tier with
  | 0 => (0, 2 ^ 39) | 1 => (2 ^ 40, 2 ^ 41) | _ => (2 ^ 44, 2 ^ 44 + 2 ^ 43)

/-- Physical ranges outside the paged pools: heap windows, spill areas (R328), and what lost devices held. -/
def State.unpaged (s : State) : List (Nat × Nat) :=
  ((List.range 64).flatMap fun v =>
    let heap := (s.cfgGet Config.nHeapBase v + s.cfgGet Config.nHeapOffset v) * 2097152 % 2 ^ 52
    let area := fun (base size : Nat) => if s.cfgGet base v = 0 then (0, 0)
      else (s.cfgGet base v * 1048576, (s.cfgGet base v + s.cfgGet size v) * 1048576)
    [(heap, heap + (s.cfgGet Config.nHeapLimit v - s.cfgGet Config.nHeapBase v) * 2097152), area Config.nBspillBase Config.nBspillSize,
      area Config.nTringBase Config.nTringSize]) ++ s.cxlLost.map fun r => (r.1, r.1 + r.2)

/-- Physical ranges that no page may take: those outside the pools, the pages that leaf entries and translations name, and both ends of
every live move. -/
def State.taken (s : State) : List (Nat × Nat) :=
  mergeRanges (s.unpaged ++ (s.pages.map fun p => (p.2.2.2.1, p.2.2.2.1 + p.2.2.2.2)) ++ (s.tlb.map fun x => (x.base, x.base + x.size)) ++
    (s.migs.filter (·.auto.isNone)).flatMap fun m => [(m.src, m.src + 64 * m.lines), (m.dst, m.dst + 64 * m.lines)])

/-- Bytes of a tier's paged pool: all of its memory outside the reserved ranges (R328). -/
def State.poolBytes (s : State) (tier : Nat) : Nat :=
  let (lo, hi) := tierRange tier
  hi - lo - bytesIn lo hi (mergeRanges s.unpaged)

/-- Free bytes of a tier's paged pool. -/
def State.freeBytes (s : State) (tier : Nat) : Nat :=
  let (lo, hi) := tierRange tier
  hi - lo - bytesIn lo hi s.taken

/-- The number of a watermark register. -/
def wmReg (tier : Nat) : Nat :=
  match tier with
  | 0 => Config.nTierWm0 | 1 => Config.nTierWm1 | _ => Config.nTierWm2

/-- A tier's free fraction is at or above `pct` percent (R333, R334). -/
def State.freeAtLeast (s : State) (tier pct : Nat) : Bool := decide (pct * s.poolBytes tier ≤ 100 * s.freeBytes tier)

/-- LOW of a tier. -/
def State.wmLow (s : State) (tier : Nat) : Nat := s.cfgGet (wmReg tier) 0 % 256

/-- HIGH of a tier. -/
def State.wmHigh (s : State) (tier : Nat) : Nat := s.cfgGet (wmReg tier) 0 / 256

/-- The highest free page of `size` bytes from `lo` up to `hi`, among the ranges taken. DESIGN CHOICE: which free page the part takes, since
the spec names none (log 132). -/
def freePage (size lo hi : Nat) (rs : List (Nat × Nat)) : Option Nat :=
  ((hi :: ((rs.map (·.1)).filter (· ≤ hi)).reverse).map fun e => (e / size * size, size)).findSome? fun e =>
    if lo + e.2 ≤ e.1 ∧ rs.all (fun r => decide (e.1 ≤ r.1) || decide (r.2 ≤ e.1 - e.2)) then some (e.1 - e.2) else none

/-- A free page of a tier. -/
def State.freeIn (s : State) (tier size : Nat) : Option Nat := freePage size (tierRange tier).1 (tierRange tier).2 s.taken

/-- The stack with the most free bytes of the pool, the lower at a tie (R334). -/
def freeStack (rs : List (Nat × Nat)) : Nat :=
  let used := fun k => bytesIn (k * 2 ^ 36) ((k + 1) * 2 ^ 36) rs
  (List.range 8).foldl (fun b k => if used k < used b then k else b) 0

/-- A free page of T0, in stack `pref` where one is asked for (R328, R334). -/
def State.freeT0 (s : State) (size : Nat) (pref : Option Nat) : Option Nat :=
  let rs := s.taken
  let k := pref.getD (freeStack rs)
  match freePage size (k * 2 ^ 36) ((k + 1) * 2 ^ 36) rs with
  | some p => some p
  | none => if pref.isSome then none else s.freeIn 0 size

/-- The controller that owns memory: HBM stack 0 to 7, LPDDR 8, and CXL port n 9 + n (R331). -/
def ctrlOf (pa : Nat) : Nat :=
  match tierOf pa with
  | 0 => stackOf pa | 1 => 8 | _ => 9 + Config.cxlPort pa

/-- The migration table of a controller has room (R331). -/
def State.tableRoom (s : State) (ctrl : Nat) : Bool := decide ((s.migs.filter (·.ctrl == ctrl)).length < 64)

/-- The present pages of `n` bytes at `lo`, by their physical addresses. -/
def State.basesOf (s : State) (vi lo n : Nat) : List Nat :=
  (List.range ((lo + n + 65535) / 65536 - lo / 65536)).filterMap fun i =>
    let va := (lo / 65536 + i) * 65536
    if s.inHeap vi va then none else match s.walk vi va with
      | .page _ base _ => some base
      | _ => none

/-- The page at `src` has a live entry of a migration table, of its own or of a span that is being re-homed (R332, R338). -/
def State.moving (s : State) (src : Nat) : Bool :=
  s.migs.any fun m => m.src == src || (m.auto.isSome && (s.basesOf m.vi m.va (64 * m.lines)).contains src)

/-- The controller's migration table has room and the page has no live entry (R331, R332). -/
def State.canMove (s : State) (src : Nat) : Bool := s.tableRoom (ctrlOf src) && !s.moving src

/-- A page-table entry written by the part: an atomic at the entry's home slice, which the end of the step compares (R326). -/
def State.putEntry (s : State) (ea v : Nat) : State :=
  { s.poke ea (leBytes v 8) with ptes := s.ptes ++ [(ea, s.physNat ea 8)] }

/-- The tiers are looked at in the next cycle: T0 has lost a page, or a watermark has been written (R333). -/
def State.lookAtTiers (s : State) : State := { s with turns := NMap.put s.turns 3 1 }

/-- A move of a page starts: kind 0 demotion, 1 promotion, 3 re-home (R331); the entry at `entry` becomes BUSY. -/
def State.startMove (s : State) (kind vi va entry src dst size : Nat) : State :=
  let s1 : State := { s with migs := s.migs ++ [⟨src, dst, size / 64, 0, vi, va, ctrlOf src, kind, false, none, none⟩] }
  (s1.putEntry entry (s1.physNat entry 8 ||| 64)).due (.migrationLineCopy src) |>.lookAtTiers

/-- A page move that is wanted starts or proves needless; or it must wait, for its table, for a live entry of its page, or for a free page
(R332, R334, R337). -/
def State.tryMove (s : State) (x : Wanted) : Option State :=
  match s.walk x.vi x.va with
  | .page ea base size =>
    if tierOf base = 0 ∧ (x.kind = 1 ∨ x.stack = some (stackOf base)) then some s
    else if bit (s.physNat ea 8) 6 ∨ !s.canMove base then none
    else (s.freeT0 size x.stack).map fun p => s.startMove x.kind x.vi (x.va / size * size) ea base p size
  | .waits => none
  | _ => some s

/-- A page move is wanted: it starts now, or it waits. -/
def State.want (s : State) (x : Wanted) : State :=
  let wait : State := if s.promos.any (fun y => y.vi == x.vi && y.va == x.va && y.kind == x.kind) then s
    else { s with promos := s.promos ++ [x] }
  if x.high then wait else (s.tryMove x).getD wait

/-- A walk that fills a translation for `va`: it sets A, starts a promotion from T1 or T2 where T0 has room or has it wait, makes a
demand-zero page, or has a stored page read in (R326 to R328, R332, R334). DEDUCED: a page-in takes an entry in the table of the stack that
it goes to (log 133). -/
def State.fillPage (s : State) (space va : Nat) (pref : Option Nat) : State :=
  if space = physSpace ∨ s.inHeap space va ∨ (s.transIn s.issue.core space va).isSome then s
  else match s.trans? space va with
  | some x => s.holdTrans { x with at_ := s.issue.core }
  | none => match s.walk space va with
  | .page ea base size =>
    let e := s.physNat ea 8
    let s0 := if bit e 3 then s else s.putEntry ea (e + 8)
    let s1 := s0.fillTrans space (va / size * size) size base
    if tierOf base = 0 then s1 else s1.want ⟨space, va / size * size, 1, pref, !s1.freeAtLeast 0 (s1.wmLow 0)⟩
  | .demand ea size =>
    match s.freeT0 size pref with
    | some p =>
      let e := s.physNat ea 8
      let away := fun (k : Nat) => decide (32 * k + 32 ≤ p) || decide (p + size ≤ 32 * k)
      let s0 : State := { s with
        mem := Mem.clear s.mem p size
        poison := s.poison.filter away
        latentCe := s.latentCe.filter away
        latentUe := s.latentUe.filter away }
      let s1 := s0.fillTrans space (va / size * size) size p
      (s1.putEntry ea (p + (e &&& 128) + 8 + 2 + 1)).lookAtTiers
    | none => s
  | .storage ea size slot =>
    let src := storedAt space slot
    match s.freeT0 size pref with
    | some p =>
      if s.migs.any (·.src == src) ∨ !s.tableRoom (ctrlOf p) then s
      else
        let s1 : State := { s with migs := s.migs ++ [⟨src, p, size / 64, 0, space, va / size * size, ctrlOf p, 2, false, none, none⟩] }
        ((s1.putEntry ea (s1.physNat ea 8 ||| 64)).due (.pageInComplete space (va / size * size) true)).lookAtTiers
    | none => s
  | _ => s

/-- The stack a buffer's pages belong in: P for interleave STACK (Table Ms-3). -/
def Ref.stack (r : Ref) : Option Nat := if fld r.entry 118 2 = 2 then some (fld r.entry 120 3) else none

/-- The pages of a reference's range made present where the walk can; a physical address that is no memory is noted (R325). -/
def State.prepare (s : State) (r : Ref) (n : Nat) : State :=
  let s1 := (s.extents r.space r.va n).foldl (fun t e => t.fillPage r.space (r.va + e.1) r.stack) s
  match (s1.extents r.space r.va n).find? (fun e =>
      match e.2.2 with | some p => decide (p < storeBase) && (!isMemory p || !isMemory (p + e.2.1 - 1)) | none => false) with
  | some e => { s1 with badPa := e.2.2 }
  | none => s1

/-- An access of a facet's core to a span of an AUTO buffer is counted (R337). A span of an entry that has been reused, which its GEN tells,
starts anew. -/
def State.autoTouch (s : State) (r : Ref) (core : Nat) : State :=
  if fld r.entry 118 2 ≠ 3 ∨ r.remote.isSome then s
  else
    let here := fun (x : AutoSpan) => x.isOf r.vi r.index (entGen r.entry) r.off
    let add := fun (x : AutoSpan) => { x with counts := Mem.set x.counts (core / 32) (Mem.get x.counts (core / 32) + 1) }
    if s.autos.any here then { s with autos := s.autos.map fun x => if here x then add x else x }
    else { s with autos := (s.autos.filter fun x => x.vi != r.vi || x.index != r.index || x.gen == entGen r.entry) ++
      [add ⟨r.vi, r.index, entGen r.entry, r.off / 2097152, none, 0, none, [], none, 2, 0⟩] }

/-- The same for an access of a lane, when its word issues and not when it has been held (R337). -/
def State.touch (s : State) (me : Nat × Agent × Nat) (r : Ref) (core : Nat) : State :=
  match (s.group? me.1 me.2.1).map (·.lane me.2.2) with
  | some x => if x.heldAt.isSome then s else s.autoTouch r core
  | none => s.autoTouch r core

/-- The first missing page of a range, as a virtual address, with word 7 of its MAP_REQUEST, or none for a page that the part itself
makes present (R328, R417). -/
def State.missing (s : State) (space va n : Nat) : Option (Nat × Option Nat) :=
  match (s.extents space va n).find? (·.2.2.isNone) with
  | none => none
  | some e => some (va + e.1, match s.walk space (va + e.1) with
      | .malformed l => some (1 + 2 * l)
      | .unmapped => some 0
      | _ => none)

/-- MAP_REQUEST for a missing page: `kind` 0 load, 1 logged store, 2 engine, 3 stack area (R328, Table Fo-4). DEDUCED: a core asks once for a
page until PT_INVAL has answered for its span (log 129). -/
def State.mapRequest (s : State) (a : Actor) (space : Nat) (m : Nat × Option Nat) (kind : Nat) : State :=
  match m.2 with
  | some w7 =>
    if s.asked.contains (a.core, space, m.1 / 65536) then s
    else ({ s with asked := s.asked ++ [(a.core, space, m.1 / 65536)] } : State).postEvent a.core 0x03 space none [m.1 % 2 ^ 32, m.1 / 2 ^ 32, kind, w7]
  | none => s

end Sys2Proof.Machine
end

