-- ==== Sys2Proof/Machine/Path.lean ====
section
/-!
DEFINITION. The path to memory behind a checked address: the bindery's operators and applies (R71 to R77, R100 to R102), watches and
triggers (R78 to R83, R402, R430, R438, R439), monitors (R85, R105), and the one operation that performs writes at the home slices.
-/
namespace Sys2Proof.Machine

/-! Operators of binding regions (Table Mi-11, Table Ms-6). -/

/-- Bytes of an element under an operator code. -/
def opcBytes (opc : Nat) : Nat := if [0x01, 0x06, 0x0A, 0x0D, 0x0F, 0x11, 0x13].contains opc then 8 else 4

/-- One step of every operator but xsum: memory value or result so far, then a pair's value (Table Ms-6). -/
def opcStep (opc m p : Nat) : Nat :=
  let pick := fun (ty : Nat) (lo : Bool) => if (decide (typedInt ty p < typedInt ty m)) = lo then p else m
  match opc with
  | 0x00 => (m + p) % 2 ^ 32
  | 0x01 => (m + p) % 2 ^ 64
  | 0x02 => (Fmt.f32.sum .rne false false [Fmt.f32.decode false m, Fmt.f32.decode false p]).bits
  | 0x04 => pick 0 true
  | 0x05 => pick 1 true
  | 0x06 => pick 2 true
  | 0x07 => (Fmt.f32.minMax false false false m p).bits
  | 0x08 => pick 0 false
  | 0x09 => pick 1 false
  | 0x0A => pick 2 false
  | 0x0B => (Fmt.f32.minMax false true false m p).bits
  | 0x0C => m &&& p
  | 0x0D => m &&& p
  | 0x0E => m ||| p
  | 0x0F => m ||| p
  | 0x10 => m ^^^ p
  | 0x11 => m ^^^ p
  | _ => p

/-- The value of an element after an apply of pairs in order: xsum is one exact sum rounded once (R75, R76). -/
def opcApply (opc m : Nat) (ps : List Nat) : Nat :=
  if opc = 0x03 then (Fmt.f32.sum .rne false false ((m :: ps).map (Fmt.f32.decode false))).bits else ps.foldl (opcStep opc) m

/-! Writes at the home slices. -/

/-- A write to be performed: physical address, bytes, the depth of its writer (R38), and the handle and offset it was made with, 0
for the part's own. -/
structure Wr where
  pa    : Nat
  bytes : List Byte
  depth : Nat
  h     : Nat
  off   : Nat
  deriving DecidableEq, Repr

/-- The writes of `bs` to the runs of a located range. -/
def runWrites (depth h : Nat) : Nat → List (Nat × Nat) → List Byte → List Wr
  | _, [], _ => []
  | off, (pa, n) :: rest, bs => ⟨pa, bs.take n, depth, h, off⟩ :: runWrites depth h (off + n) rest (bs.drop n)

/-- Memory with the writes performed in order; bytes of a lost device are discarded (R427). -/
def State.store (s : State) (ws : List Wr) : State :=
  ws.foldl (fun t w => if t.cxlLost = [] ∨ !t.lost w.pa then t.poke w.pa w.bytes else t) s

/-- A byte is covered by some of the writes. -/
def covered (ws : List Wr) (pa : Nat) : Bool := ws.any fun w => decide (w.pa ≤ pa) && decide (pa < w.pa + w.bytes.length)

/-- The poisoned or damaged sectors that some writes cover wholly (R423). -/
def State.cleared (s : State) (ws : List Wr) : List Nat :=
  (s.poison ++ s.latentUe ++ s.latentCe).filter fun k => (List.range 32).all fun i => covered ws (32 * k + i)

/-- What a write of `n` bytes at `pa` does to the poison of its sectors: a sector that one instruction covers loses it; one with an
uncorrectable error not yet met is read, counted and poisoned, and the core hears of it (R422, R423). -/
def State.poisonWrite (s : State) (a : Actor) (clear : List Nat) (w : Wr) : State :=
  if s.poison = [] ∧ s.latentUe = [] ∧ s.latentCe = [] then s
  else
    let ks := sectors w.pa w.bytes.length
    let hurt := ks.filter fun k => s.latentUe.contains k && !clear.contains k
    let s1 := ks.foldl (fun t k =>
      if clear.contains k then
        { t with poison := t.poison.filter (· ≠ k), latentUe := t.latentUe.filter (· ≠ k), latentCe := t.latentCe.filter (· ≠ k) }
      else t.detect (32 * k) 32) s
    match hurt with
    | [] => s1
    | k :: _ => s1.postPoison a w.h (if w.h = 0 then 32 * k else w.off + 32 * k - w.pa) 0 hurt.length

/-! Watches (R78 to R83). -/

/-- GRAN of a watch. -/
def Watch.gran (w : Watch) : Nat := fld w.desc 96 4
/-- WOFF of a watch. -/
def Watch.off (w : Watch) : Nat := fld w.desc 32 32
/-- WLEN of a watch. -/
def Watch.len (w : Watch) : Nat := fld w.desc 64 32
/-- Delivery mode of a watch: true for a work ring. -/
def Watch.ring (w : Watch) : Bool := fld w.desc 100 2 == 1
/-- MAXLIVE of a watch. -/
def Watch.maxLive (w : Watch) : Nat := fld w.desc 112 16

/-- The state with watch `id` changed. -/
def State.modWatch (s : State) (id : Nat) (f : Watch → Watch) : State :=
  { s with watches := s.watches.map fun w => if w.id = id then f w else w }

/-- Watch `id`. -/
def State.watch? (s : State) (id : Nat) : Option Watch := s.watches.find? (·.id == id)

/-- A granule that an access touched: its offset in the buffer, where the lowest touched byte stands in the access's own order of addresses
(R438) and in the buffer, whether it changed, and the depth of what changed it (R38, R79). -/
structure Hit where
  off     : Nat
  key     : Nat
  first   : Nat
  changed : Bool
  depth   : Nat
  deriving DecidableEq, Repr

/-- Granules of a watch that a write touches, and whether it changed them, from the states before and after it; an access that poisons,
clears or leaves poison counts as a change (R79, R423). -/
def Watch.touched (w : Watch) (before after : State) (x : Wr) : List Hit :=
  (before.extents w.wRef.space w.wRef.va w.len).flatMap fun e =>
    match e.2.2 with
    | none => []
    | some p =>
      let lo := max p x.pa
      let hi := min (p + e.2.1) (x.pa + x.bytes.length)
      if hi ≤ lo then []
      else
        let g := 2 ^ w.gran
        let o0 := w.off + e.1 + (lo - p)
        let o1 := w.off + e.1 + (hi - 1 - p)
        (List.range (o1 / g + 1 - o0 / g)).map fun i =>
          let go := (o0 / g + i) * g
          let a := lo + (max go o0 - o0)
          let b := lo + (min (go + g) (o1 + 1) - o0)
          ⟨go, x.off + (a - x.pa), max go o0, Mem.bytes before.mem a (b - a) != Mem.bytes after.mem a (b - a) ||
            (sectors a (b - a)).any fun k => before.poison.contains k || after.poison.contains k, x.depth⟩

/-- Granules that a whole access touches, in ascending order, with the greatest depth of the writes that changed one, or of all where none did
(R38, R79). -/
def Watch.hits (w : Watch) (before after : State) (ws : List Wr) : List Hit :=
  let all := ws.flatMap (w.touched before after)
  ((all.map (·.off)).foldr addTo []).map fun o =>
    let here := all.filter (·.off == o)
    let mine := here.filter (·.changed)
    ⟨o, ((here.map (·.key)).min?).getD 0, ((here.map (·.first)).min?).getD o, mine != [],
      ((if mine = [] then here else mine).map (·.depth)).foldl max 0⟩

/-- A condition holds for one of its comparands (R213, R297). -/
def State.condHolds (s : State) (c : Cond) : Bool :=
  let v := s.physNat c.pa (if c.ty < 2 then 4 else 8)
  c.args.any fun x => intRel c.rel (typedInt c.ty v) (typedInt c.ty x.2)

/-- Bytes of a condition's value. -/
def Cond.bytes (c : Cond) : Nat := if c.ty < 2 then 4 else 8

/-- A write touches a condition's bytes. -/
def Cond.under (c : Cond) (ws : List Wr) : Bool :=
  ws.any fun w => decide (w.pa < c.pa + c.bytes) && decide (c.pa < w.pa + w.bytes.length)

/-- The writes of a value of 4 or 8 bytes by type code, to register d or pair d. -/
def typedWrites (d ty v : Nat) : List (Nat × Word) := wordWrites d v (if ty < 2 then 1 else 2)

/-- A compare of a condition's value ends its wait: it holds, or the value is poisoned (R105, R421). -/
def State.condMet (s : State) (c : Cond) : Bool := (s.poisonIn c.pa c.bytes).isSome || s.condHolds c

/-- A WAITC whose compare ends its wait completes: its lanes' registers receive the value, and the wake-up is on its way (R105). A
poisoned value is a deferred fault (R421). -/
def State.waitcTrue (s : State) (o : Op) (d : Nat) (c : Cond) : State :=
  match s.poisonIn c.pa c.bytes with
  | some k => ((s.poisonUse o.vi? 2 (32 * k)).modOp o.id fun p => { p with kind := .reply }).due (.monitorWakeup o.id)
  | none =>
    let v := s.physNat c.pa c.bytes
    ((s.modGroup o.core o.agent fun g => o.lanes.foldl (fun h l => h.setRegs l (typedWrites d c.ty v)) g).modOp o.id
      fun p => { p with kind := .reply, fault := none }).due (.monitorWakeup o.id)

/-- Writes are compared with every armed monitor on their bytes: of WAITC, of launch packets, and of swapped-out teams (R85, R105, R297,
R317). -/
def State.monitors (s : State) (ws : List Wr) : State :=
  let s1 := s.ops.foldl (fun t o =>
    match o.kind with
    | .waitc d c true => if c.under ws && t.condMet c then t.waitcTrue o d c else t
    | _ => t) s
  let s2 := s1.lq.foldl (fun t q =>
    if q.2.waits.any (fun c => c.under ws && t.condHolds c) then
      let rest := q.2.waits.filter fun c => !(c.under ws && t.condHolds c)
      let t1 := { t with lq := NMap.put t.lq q.1 { q.2 with waits := rest } }
      if rest = [] then t1.due (.launchWaitMet q.1) else t1
    else t) s1
  { s2 with swapped := s2.swapped.map fun w =>
      if w.conds.any (·.under ws) then { w with ready := true } else w }

/-! Accesses that wait at a home slice. -/

/-- Two byte ranges share a line. -/
def sameLine (a n b m : Nat) : Bool := decide (a / 64 ≤ (b + m - 1) / 64) && decide (b / 64 ≤ (a + n - 1) / 64)

/-- Some byte of a range lies on an HBM channel that is being retrained, or has failed to be (R424). -/
def State.channelDown (s : State) (space lo n : Nat) : Bool :=
  s.hbmDown != [] && decide (space ≤ physSpace) && (s.extents space lo n).any fun e => match e.2.2 with
    | some p => decide (p < 2 ^ 39) && (runs 32 p (e.2.1 / 32 + 2) e.2.1).any fun r => s.hbmDown.contains (Config.hbmChannel r.1)
    | none => false

/-- Two ranges of address spaces share a line, under one name or, where their pages are present, under several (R97). -/
def State.overlap (s : State) (sp lo n sp2 lo2 n2 : Nat) : Bool :=
  (sp == sp2 && sameLine lo n lo2 n2) ||
  (decide (sp ≤ physSpace) && decide (sp2 ≤ physSpace) && (s.extents sp lo n).any fun e => (s.extents sp2 lo2 n2).any fun f =>
    match e.2.2, f.2.2 with
    | some p, some q => sameLine p e.2.1 q f.2.1
    | _, _ => false)

/-- A range meets a claim that stands before those of `owner`, who waits behind it, or any claim where it holds none: claims are taken in
the order of the accesses (R97, R430). -/
def State.claimedBy (s : State) (owner : (Nat × Agent × Nat) ⊕ Nat) (space lo n : Nat) : Bool :=
  (s.claims.takeWhile (·.owner != owner)).any fun c => s.overlap c.space c.lo (c.hi - c.lo) space lo n

/-- An entry of another core's side log stands on the lines of a range (R110, R330). -/
def State.loggedElsewhere (s : State) (core space lo n : Nat) : Bool :=
  s.cores.any fun k => k.1 != core && k.2.sideLog.any fun e => s.overlap e.space e.va e.size space lo n

/-- An access of `owner` on a core must wait: for another access to its lines that is not performed yet, by a claim of another (R97, R329,
R430) or an entry of another core's side log (R330); or for an HBM channel (R424). -/
def State.heldBy (s : State) (owner : (Nat × Agent × Nat) ⊕ Nat) (core space lo n : Nat) : Bool :=
  s.channelDown space lo n || s.claimedBy owner space lo n || s.loggedElsewhere core space lo n

/-- An access of a lane must wait (`heldBy`). -/
def State.claimed (s : State) (me : Nat × Agent × Nat) (space lo n : Nat) : Bool := s.heldBy (.inl me) me.1 space lo n

/-- The core's own side log holds an entry on the lines of a range (R330). -/
def State.logged (s : State) (core space lo n : Nat) : Bool :=
  (s.core core).sideLog.any fun e => s.overlap e.space e.va e.size space lo n

/-- A unit that holds no claim, as the owner of none. -/
abbrev unitLane : Nat × Agent × Nat := (129, .ct, 0)

/-! Status blocks (R83, R224). -/

/-- No lane waits for the reply. -/
def ReplyForm.silent : ReplyForm → Bool
  | .nothing | .row _ | .posted => true
  | _ => false

/-- A row of copy `id` is on its way to another chip. -/
def State.rowsOut (s : State) (id : Nat) : Bool := s.ops.any fun o => match o.kind with
  | .remote r => r.form == .row id
  | _ => false

/-- An access that the part sends to another chip for a virtual interface: an operation of no lanes (R60). -/
def State.sendOutside (s : State) (a : Actor) (rank h off : Nat) (form : ReplyForm) (act : RemoteAct) : State :=
  let e : Entry := ⟨0x10, a.vi, 0, 0, 0, 0, 0, [], h, off, 0, 1, 0, none, false, false, 0, none⟩
  { s with
    ops := s.ops ++ [⟨s.opSeq, a.core, .grp (257 + s.opSeq), [], .remote ⟨rank, h, off, form, act, a.depth, s.opSeq, none⟩, none, some e, s.clk, false, 0, 0, none⟩]
    opSeq := s.opSeq + 1 }

/-- The address of a byte of a watch's status block. -/
def State.statusAt (s : State) (w : Watch) (byte : Nat) : Option Nat := s.lookup w.sRef.space (w.sRef.va + byte)

/-- One atomic on `n` bytes: 0 adds, 5 keeps and 6 sets the operand's bits, and 8 writes it (the numbers of `atomStep`). -/
def statusStep (n m : Nat) (x : Nat × Nat) : Nat :=
  match x.1 with
  | 0 => (m + x.2) % 256 ^ n
  | 5 => m &&& x.2
  | 8 => x.2
  | _ => m ||| x.2

/-- Atomics of the part on `n` bytes of a watch's status block, with the writes made here, if they can be performed now: a block behind a remote
window is changed by atomics sent there, and the part keeps its word [63:32]; one here needs its page, and waits for the accesses before it to
its line (R83, R97, R110, R328). -/
def State.statusTry (s : State) (w : Watch) (byte n : Nat) (xs : List (Nat × Nat)) (depth : Nat) : State × Option (List Wr) :=
  match w.sRef.remote with
  | some rank =>
    let s1 := if byte = 4 then s.modWatch w.id fun y => { y with far := xs.foldl (statusStep 4) y.far } else s
    let a : Actor := ⟨s.physCore w.vi 0, false, w.vi, depth⟩
    (xs.foldl (fun t x => t.sendOutside a rank (fld w.desc 256 32) (fld w.desc 288 32 + byte) .nothing
      (if x.1 = 8 then .store (leBytes x.2 n) else .atomic x.1 (if n = 8 then 3 else 1) [(0, x.2, 0)])) s1, some [])
  | none =>
    let s1 := s.fillPage w.sRef.space (w.sRef.va + byte) w.sRef.stack
    if s1.claimed unitLane w.sRef.space (w.sRef.va + byte) n then (s1, none)
    else match s1.statusAt w byte with
    | some pa =>
      if isMemory pa then
        let bs := leBytes (xs.foldl (statusStep n) (s1.physNat pa n)) n
        (s1.poke pa bs, some [⟨pa, bs, depth, 0, pa⟩])
      else (s1, some [])
    | none => (s1, none)

/-- The same, in the order of the watch's atomics: one that cannot be performed now waits behind those that wait. -/
def State.statusPut (s : State) (w : Watch) (byte n : Nat) (xs : List (Nat × Nat)) (depth : Nat) : State × List Wr :=
  let wait := fun (t : State) => ({ t with counts := t.counts ++ [⟨w.id, byte, n, xs, depth⟩] }, ([] : List Wr))
  if s.counts.any (·.watch == w.id) then wait s
  else match s.statusTry w byte n xs depth with
  | (t, some ws) => (t, ws)
  | (t, none) => wait t

/-- The watch's status block can be read now: it is here with its page, behind no other access, or on another chip (R228). -/
def State.statusReady (s : State) (w : Watch) : Bool :=
  w.sRef.remote.isSome || (s.counts.all (·.watch != w.id) && !s.claimed unitLane w.sRef.space (w.sRef.va + 4) 4 && (s.statusAt w 4).isSome)

/-- Word [63:32] of a watch's status block: SUSP, DROPPED and CAUSE (Table Mi-9), with the atomics on it that wait. -/
def State.statusWord (s : State) (w : Watch) : Nat :=
  if w.sRef.remote.isSome then w.far
  else
    let held := match s.statusAt w 4 with
      | some pa => s.physNat pa 4
      | none => 0
    (s.counts.filter (·.watch == w.id)).foldl (fun v x =>
      if x.byte = 4 then x.ops.foldl (statusStep 4) v
      else if x.byte = 0 ∧ x.n = 32 then ((x.ops.map (·.2)).headD 0) / 2 ^ 32 % 2 ^ 32 else v) held

/-- The watch is suspended (R227). -/
def State.suspended (s : State) (w : Watch) : Bool := bit (s.statusWord w) 0

/-- Triggers of a virtual interface that hold entries of a slice's pool (R438). -/
def State.pooled (s : State) (slice vi : Nat) : Nat :=
  (s.trigs.filter fun t => t.slice == slice && t.seq.isNone &&
    (match s.watch? t.watch with | some w => w.vi == vi | none => false)).length

/-- The pool of a slice takes one more trigger of a virtual interface (R81). -/
def State.poolRoom (s : State) (slice vi : Nat) : Bool :=
  let mine := s.pooled slice vi
  let total := (s.trigs.filter fun t => t.slice == slice && t.seq.isNone).length
  let unmet := ((List.range 64).map fun v => if v = vi then 0 else s.cfgGet Config.nTrigMin v - s.pooled slice v).sum
  decide (mine < s.cfgGet Config.nTrigCap vi) &&
    (decide (mine < s.cfgGet Config.nTrigMin vi) || decide (total + unmet < 1024))

/-- The ring holds entries that the slice spilled for the virtual interface (R81). -/
def State.hasSpilled (s : State) (slice vi : Nat) : Bool :=
  s.trigs.any fun t => t.slice == slice && t.seq.isSome && (match s.watch? t.watch with | some w => w.vi == vi | none => false)

/-- Entries of a virtual interface's spill ring (R439). -/
def State.ringSize (s : State) (vi : Nat) : Nat := 16384 * s.cfgGet Config.nTringSize vi

/-- The spill ring is full (R439). -/
def State.ringFull (s : State) (vi : Nat) : Bool :=
  decide (s.ringSize vi ≤
    (s.cfgGet Config.nTringTail vi + 4294967296 - s.cfgGet Config.nTringHead vi) % 4294967296)

/-- The 64 bytes of a spill-ring entry (Table Pk-1). -/
def spillEntry (w : Watch) (off slice depth seq st : Nat) : List Byte :=
  leBytes (off + w.dH * 2 ^ 32 + w.dOff * 2 ^ 64 + slice * 2 ^ 96 + depth * 2 ^ 104 + st * 2 ^ 108 + seq * 2 ^ 128) 64

/-- The state with a spill-ring entry written (R439). -/
def State.spillWrite (s : State) (w : Watch) (off slice depth seq st : Nat) : State :=
  if s.ringSize w.vi = 0 then s
  else s.poke (s.cfgGet Config.nTringBase w.vi * 1048576 + 64 * (seq % s.ringSize w.vi)) (spillEntry w off slice depth seq st)

/-- TRING_HEAD passes each leading entry that has been returned or discarded (R439). -/
def State.spillHead (s : State) (vi : Nat) : State :=
  let tail := s.cfgGet Config.nTringTail vi
  let out := s.trigs.filterMap fun t => match t.seq, s.watch? t.watch with
    | some q, some w => if w.vi = vi then some ((tail + 4294967296 - q) % 4294967296) else none
    | _, _ => none
  s.cfgPut Config.nTringHead vi ((tail + 4294967296 - out.foldl max 0) % 4294967296)

/-- The lead slice of a granule: the home slice of its first byte (R80). -/
def State.leadSlice (s : State) (w : Watch) (off : Nat) : Nat := s.homeSlice w.wRef off

/-- The state with slice `k`'s dispatch step due, once. -/
def State.kick (s : State) (k : Nat) : State :=
  if s.agenda.contains (.triggerDispatch k) then s else s.due (.triggerDispatch k)

/-- How the part changes a watch's status block: the bytes from a byte on, their number, the atomics, and the depth of the write. -/
abbrev Counter : Type := State → Watch → Nat → Nat → List (Nat × Nat) → Nat → State

/-- LIVE changes by `up` − `down` (R83). -/
def State.liveBy (cnt : Counter) (s : State) (w : Watch) (up down depth : Nat) : State :=
  if up = down then s else cnt s w 0 4 [(0, up + (4294967296 - down % 4294967296))] depth

/-- The watch whose spill ring a trigger finds full, and the home slice at which the access that produces it waits (R430). -/
structure RingFull where
  watch : Nat
  slice : Nat
  deriving DecidableEq, Repr

/-- A trigger of a granule is produced at its lead slice, or coalesces, or is spilled; an error says that the ring is full, for an access at
slice `home` (R80, R81, R430). -/
def State.queueTriggerBy (cnt : Counter) (s : State) (w : Watch) (off depth slice home : Nat) : Except RingFull State :=
  let same : Trigger → Bool := fun t => t.watch == w.id && t.off == off && t.slice == slice && t.seq.isNone
  let add := fun (t : State) (x : Trigger) => State.liveBy cnt { t with trigs := t.trigs ++ [x] } w 1 0 depth
  if s.trigs.any same then
    let s1 : State := { s with trigs := s.trigs.map fun t => if same t then { t with depth := max t.depth depth } else t }
    .ok (cnt s1 w 16 8 [(0, 1)] depth)
  else if !s.hasSpilled slice w.vi && s.poolRoom slice w.vi then
    .ok ((add s ⟨w.id, off, depth, slice, none⟩).kick slice)
  else if s.ringFull w.vi then .error ⟨w.id, home⟩
  else
    let seq := s.cfgGet Config.nTringTail w.vi
    let s1 := (s.spillWrite w off slice depth seq 1).cfgPut Config.nTringTail w.vi ((seq + 1) % 4294967296)
    .ok (add s1 ⟨w.id, off, depth, slice, some seq⟩)

/-- A changed granule: depth d + 1, not produced above CASCADE_MAX (R38, R39, R402). -/
def State.produceBy (cnt : Counter) (s : State) (w : Watch) (h : Hit) : Except RingFull State :=
  if s.cfgGet Config.nCascadeMax w.vi < h.depth + 1 then .ok (s.count Config.nTrigDrop w.vi 1)
  else s.queueTriggerBy cnt w h.off (h.depth + 1) (s.leadSlice w h.off) (s.homeSlice w.wRef h.first)

/-- What live watches make of the writes `ws`, which led from `before` to `s`: SILENT for a watch none of whose granules changed, and a
trigger for each changed granule, in ascending order of the access's own addresses (R77, R79, R83, R438). -/
def State.compareBy (cnt : Counter) (before s : State) (ws : List Wr) : Except RingFull State :=
  let hs := (before.watches.filter (!·.dropped)).map fun w => (w, w.hits before s ws)
  let s1 := hs.foldl (fun t h =>
    if h.2 != [] && h.2.all (!·.changed) then cnt t h.1 24 8 [(0, 1)] ((h.2.map (·.depth)).foldl max 0) else t) s
  let all := hs.flatMap fun h => (h.2.filter (·.changed)).map fun x => (h.1, x)
  (((all.map (·.2.key)).foldr addTo []).flatMap fun a => all.filter (·.2.key == a)).foldl (fun r x => match r with
    | .ok t => t.produceBy cnt x.1 x.2
    | .error e => .error e) (.ok s1)

/-- Atomics of the part on a status block, compared with live watches as R79 states: a trigger of theirs has the depth of the trigger or
access that they count, plus 1, as a push's has (R82), so that CASCADE_MAX ends a block's watch over itself. One whose trigger finds its
spill ring full waits unperformed (R430). The first argument bounds the nesting. -/
def State.countBy : Nat → Counter
  | 0 => fun s w byte n xs depth => (s.statusPut w byte n xs depth).1
  | k + 1 => fun s w byte n xs depth =>
    let (t, ws) := s.statusPut w byte n xs depth
    if ws = [] then t
    else match State.compareBy (State.countBy k) s t ws with
      | .ok u => u.monitors ws
      | .error _ => { s with counts := s.counts ++ [⟨w.id, byte, n, xs, depth⟩] }

/-- Atomics of the part on a status block (R83, R224). CASCADE_MAX is at most 15, which bounds the nesting. -/
def State.statusCount : Counter := State.countBy 16

/-- LIVE changes by `up` − `down` for a trigger of a depth (R83). -/
def State.liveAdd (s : State) (w : Watch) (up down depth : Nat) : State := State.liveBy State.statusCount s w up down depth

/-- SUSP := 1 with a cause (Table Mi-9), and WATCH_SUSPENDED is posted to the core of virtual core 0, or of the access (R430, R435). -/
def State.suspend (s : State) (core : Option Nat) (w : Watch) (cause slice : Nat) : State :=
  if s.suspended w then s
  else
    let s1 := s.statusCount w 4 4 [(5, 0xFFFFFFF2), (6, 1 + 4 * cause)] 0
    let ws := [w.dH, w.dOff, cause, slice]
    match core with
    | some c => s1.postEvent c 0x10 w.vi none ws
    | none => s1.postHome 0x10 w.vi ws

/-- Writes are performed as one access: memory and poison, the granules of every live watch, then the monitors. An error names a watch
whose trigger finds its spill ring full; the access is then not performed (R66, R79, R430). -/
def State.commit (s : State) (a : Actor) (clear : List Nat) (ws : List Wr) : Except RingFull State :=
  match State.compareBy State.statusCount s (ws.foldl (fun t w => t.poisonWrite a clear w) (s.store ws)) ws with
  | .ok t => .ok (t.monitors ws)
  | .error e => .error e

/-- Binding of a buffer, if it has one (R229). -/
def State.binding? (s : State) (vi index : Nat) : Option Binding := s.binds.find? fun b => b.vi == vi && b.index == index

/-- Pairs for a folio, in the order in which they were emitted (R72, R101). -/
def State.folioPairs (s : State) (folio : Nat) : List Pair := s.pairs.filter fun p => p.pa / 4096 == folio

/-- The writes that an apply of some pairs makes: one for each element, in ascending address order, with the greatest depth of its
pairs (R38, R75, R77). -/
def State.applyWrites (s : State) (ps : List Pair) : List Wr :=
  ((ps.map (·.pa)).foldr addTo []).map fun pa =>
    let mine := ps.filter (·.pa == pa)
    let opc := (mine.map (·.opc)).headD 0
    ⟨pa, leBytes (opcApply opc (s.physNat pa (opcBytes opc)) (mine.map (·.val))) (opcBytes opc), (mine.map (·.depth)).foldl max 0, 0, pa⟩

/-- The pairs `ps` are applied as one write and leave the bindery. An element in a poisoned granule is discarded, and the core that
emitted it hears of it; so is one whose entry is marked, which is poisoned (R73, R77, R102, Tables Fm-3 and Fm-4). -/
def State.applyOnce (s : State) (ps : List Pair) : Except RingFull State :=
  if ps = [] then .ok s
  else
    let s0 := ps.foldl (fun t p => t.detect p.pa (opcBytes p.opc)) s
    let isBad := fun (p : Pair) => (s0.poisonIn p.pa (opcBytes p.opc)).isSome
    let marked := fun (p : Pair) => s0.binBad.contains p.pa
    let bad := ps.filter fun p => isBad p || marked p
    let s1 := ((bad.map (·.pa)).foldr addTo []).foldl (fun t pa =>
      match bad.find? (·.pa == pa) with
      | some p =>
        let t1 : State := if isBad p then t.poisonUse (some p.vi) 5 pa
          else { t with poison := (sectors pa (opcBytes p.opc)).foldl (fun l k => addTo k l) t.poison }
        ({ t1 with binBad := t1.binBad.filter (· ≠ pa) } : State).postPoison ⟨p.core, false, p.vi, p.depth⟩ 0 pa 5 1
      | none => t) s0
    let good := ps.filter fun p => !(isBad p || marked p)
    let a : Actor := match ps with
      | p :: _ => ⟨p.core, false, p.vi, p.depth⟩
      | [] => ⟨0, false, 0, 0⟩
    match s1.commit a [] (s1.applyWrites good) with
    | .ok t => .ok { t with pairs := t.pairs.filter fun p => !ps.contains p }
    | .error e => .error e

/-- The value of an element after some of its pairs. -/
def State.elementAfter (s : State) (pa : Nat) (ps : List Pair) : Nat :=
  let opc := (ps.map (·.opc)).headD 0
  opcApply opc (s.physNat pa (opcBytes opc)) (ps.map (·.val))

/-- A pair's element holds the byte at `x`. -/
def Pair.holds (p : Pair) (x : Nat) : Bool := decide (p.pa ≤ x) && decide (x < p.pa + opcBytes p.opc)

/-- A condition's value after some pairs: of each byte, as its element has it then. -/
def State.valueAfter (s : State) (c : Cond) (ps : List Pair) : Nat :=
  leNat ((List.range c.bytes).map fun i => match ps.find? (·.holds (c.pa + i)) with
    | some p => ((leBytes (s.elementAfter p.pa (ps.filter (·.pa == p.pa))) (opcBytes p.opc))[c.pa + i - p.pa]?).getD 0
    | none => Mem.get s.mem (c.pa + i))

/-- How many of some pairs, in order, it takes for a condition on an element of theirs to hold, if it comes to hold (R214). -/
def State.pairsUntil (s : State) (c : Cond) (ps : List Pair) : Option Nat :=
  ((List.range ps.length).find? fun i => (match ps[i]? with
      | some p => (List.range c.bytes).any fun k => p.holds (c.pa + k)
      | none => false) &&
    (let v := s.valueAfter c (ps.take (i + 1))
     c.args.any fun x => intRel c.rel (typedInt c.ty v) (typedInt c.ty x.2))).map (· + 1)

/-- How many of some pairs an apply takes as its next write: those up to the first that meets the condition of an armed WAITC, else all
(R214). -/
def State.applyPrefix (s : State) (ps : List Pair) : Nat :=
  ((s.ops.filterMap fun o => match o.kind with | .waitc _ c true => s.pairsUntil c ps | _ => none).min?).getD ps.length

/-- The pairs `ps` are applied, in as many writes as armed WAITCs on their elements need (R73, R214). -/
def State.applyIn (s : State) : Nat → List Pair → Except RingFull State
  | 0, _ => .ok s
  | fuel + 1, ps =>
    if ps = [] then .ok s
    else
      let n := s.applyPrefix ps
      match s.applyOnce (ps.take n) with
      | .ok t => t.applyIn fuel (ps.drop n)
      | .error e => .error e

/-- The pairs `ps` are applied (`applyIn`). -/
def State.applyPairs (s : State) (ps : List Pair) : Except RingFull State := s.applyIn ps.length ps

/-- The gathering of a folio is applied, with its pairs on the way and its spilled runs (R72, R73, R74). -/
def State.applyFolio (s : State) (folio : Nat) : Except RingFull State := s.applyPairs (s.folioPairs folio)

/-- The same for an apply that no access asked for, which takes no pair of an xsum region (R73). -/
def State.applyUnasked (s : State) (folio : Nat) : Except RingFull State := s.applyPairs ((s.folioPairs folio).filter (·.opc != 3))

/-- Several folios are applied, in ascending order. -/
def State.applyFolios (s : State) (fs : List Nat) : Except RingFull State :=
  fs.foldl (fun r f => match r with
    | .ok t => t.applyFolio f
    | .error e => .error e) (.ok s)

/-- The folios with pairs that some physical runs touch. -/
def State.dueFolios (s : State) (rs : List (Nat × Nat)) : List Nat :=
  if s.pairs = [] then []
  else ((s.pairs.map fun p => p.pa / 4096).foldr addTo []).filter fun f =>
    rs.any fun r => decide (r.1 / 4096 ≤ f) && decide (f ≤ (r.1 + r.2 - 1) / 4096)

/-- Pairs of the folios that an access touches are applied before it (R73). -/
def State.applyFor (s : State) (rs : List (Nat × Nat)) : Except RingFull State := s.applyFolios (s.dueFolios rs)

/-- The bytes of physical runs. -/
def State.readRuns (s : State) (rs : List (Nat × Nat)) : List Byte := rs.flatMap fun r => Mem.bytes s.mem r.1 r.2

/-- The first poisoned sector of physical runs. -/
def State.poisonRuns (s : State) (rs : List (Nat × Nat)) : Option Nat := rs.findSome? fun r => s.poisonIn r.1 r.2

/-- Latent errors that a read of physical runs meets (R420). -/
def State.detectRuns (s : State) (rs : List (Nat × Nat)) : State := rs.foldl (fun t r => t.detect r.1 r.2) s

/-! Claims given up, and full spill rings. -/

/-- The claims of a lane are given up. -/
def State.unclaim (s : State) (me : Nat × Agent × Nat) : State := { s with claims := s.claims.filter (·.owner != .inl me) }

/-- The claims that operation `id` holds. -/
def State.opClaims (s : State) (id : Nat) : List Claim := s.claims.filter fun c => decide (c.owner = .inr id)

/-- The claims of operation `id` are given up. -/
def State.unclaimOp (s : State) (id : Nat) : State := { s with claims := s.claims.filter fun c => decide (c.owner ≠ .inr id) }

/-- A watch whose spill ring an access waits for is suspended, if it is not already (R430). -/
def State.ringStops (s : State) (core : Option Nat) (x : RingFull) : State :=
  match s.watch? x.watch with
  | some w => s.suspend core w 2 x.slice
  | none => s

/-- An access of a unit waits on a full spill ring; one that waits already suspends no watch again (R430). -/
def State.unitStops (s : State) (u : RingWaiter) (core : Option Nat) (x : RingFull) : State :=
  if s.rung.contains u then s else { s.ringStops core x with rung := s.rung ++ [u] }

/-- An access of a unit that waited on a spill ring has been performed. -/
def State.unitGoes (s : State) (u : RingWaiter) : State := { s with rung := s.rung.filter (· != u) }

/-- An access of a lane waits on a full spill ring: it claims its lines, and the watch is suspended unless the access was waiting
already (R430). Core number 128 stands for the part and what lies outside the cores. -/
def State.blockOn (s : State) (me : Nat × Agent × Nat) (space lo n : Nat) (x : RingFull) : State :=
  if s.claims.any (·.owner == .inl me) then s
  else
    let s1 := s.ringStops (if me.1 < 128 then some me.1 else none) x
    { s1 with claims := s1.claims ++ [⟨space, lo, lo + n, .inl me⟩] }

/-- Pairs issued before operation `id` stand in a side log for some folios: an apply of theirs comes after them (R102, R110). -/
def State.loggedOn (s : State) (fs : List Nat) (id : Nat) : Bool :=
  fs != [] && s.cores.any fun k => k.2.sideLog.any fun e => decide (e.id < id) && (match e.kind with | .pair _ _ _ => true | _ => false) &&
    (match s.lookup e.space e.va with | some pa => fs.contains (pa / 4096) | none => false)

/-- The folios whose pairs an access to some physical runs applies have earlier pairs in a side log, which the apply waits for (R102). -/
def State.pairsLogged (s : State) (rs : List (Nat × Nat)) : Bool := s.loggedOn (s.dueFolios rs) s.opSeq

end Sys2Proof.Machine
end

