-- ==== Sys2Proof/Machine/MemAccess.lean ====
section
/-!
DEFINITION. Accesses of threads: the checks made at issue with their faults (R389, R415, R416, R401), reads and writes of AB, WB and
global memory with their holds (R328 to R330, R418, R430), and what a reply brings (R387, R421, R431).
-/
namespace Sys2Proof.Machine

/-! Checks. -/

/-- The lanes that form an address: the lowest with U = 1, else all (R196). -/
def State.addrLanes (s : State) (u : Bool) : List Nat := if u then s.issue.lanes.take 1 else s.issue.lanes

/-- A fault of an access: code, INFO, FOFF, FH. -/
abbrev AccFault : Type := Nat × Nat × Nat × Nat

/-- The state after a fault of an access. -/
def State.raiseAcc (s : State) (f : AccFault) : State := s.raise f.1 f.2.1 f.2.2.1 f.2.2.2

/-- FH of an access through operand H: the slot's handle, or 0 for a local space (R381, R415). -/
def State.fhOf (s : State) (h : Nat) : Nat := if h < 12 then s.slotHandle h else 0

/-- The first lane, in ascending order, whose offset is not a multiple of 2^`k` (R199, Table Fe-1). -/
def State.misaligned (s : State) (h k : Nat) (offs : List (Nat × Nat)) : Option AccFault :=
  (offs.find? fun o => o.2 % 2 ^ k != 0).map fun o => (0x08, o.1 + k * 256, o.2, s.fhOf h)

/-- The first failing check of R55 over the lanes: the lowest check, and of it the lowest lane (R389). -/
def firstCheck (cs : List (Nat × Nat × Nat)) : Option (Nat × Nat × Nat) :=
  match (cs.map (·.2.2)).min? with
  | none => none
  | some c => cs.find? (·.2.2 == c)

/-- The failing check of a global access of `n` bytes by each lane at its offset, through handle `hd` (R415). DEDUCED: the lowest check
that some lane fails, and the lowest lane that fails it (R389, log 115). -/
def State.handleFault (s : State) (hd n : Nat) (rights : List Right) (offs : List (Nat × Nat)) : Option AccFault :=
  let cs := offs.filterMap fun o => match s.resolve s.actor hd o.2 n rights none with
    | .error c => some (o.1, o.2, c)
    | .ok _ => none
  (firstCheck cs).map fun x => (checkCode x.2.2, x.1 + x.2.2 * 256, x.2.1, hd)

/-- The same through a handle slot. -/
def State.globalFault (s : State) (h n : Nat) (rights : List Right) (offs : List (Nat × Nat)) : Option AccFault :=
  s.handleFault (s.slotHandle h) n rights offs

/-- The first of some 32-byte granules of local storage that holds poison, as a byte offset from `place`. -/
def granulePoison (poison : List Nat) (place n : Nat) : Option Nat :=
  if poison = [] then none else (sectors place n).find? poison.contains

/-- AB and WB reads meet poison at issue: a load's DATA_POISON names lane and offset of the granule (R421). -/
def State.localPoison (s : State) (h n : Nat) (offs : List (Nat × Nat)) : Option AccFault :=
  offs.findSome? fun o =>
    let hit := fun (poison : List Nat) (place : Nat) =>
      (granulePoison poison place n).map fun k => (0x20, o.1, o.2 + 32 * k - place, 0)
    if h = 12 then match s.myAb o.2 n with
      | some p => hit (s.core p.1).poisonAb p.2
      | none => none
    else if h = 13 then match s.myWb o.2 n with
      | some p => hit (s.core s.issue.core).poisonWb p
      | none => none
    else none

/-- The allocation check of AB and WB, and the owner tags of WB tiles, which bind only threads of teams (R61, R63, R314, R415). -/
def State.localFault (s : State) (h n : Nat) (offs : List (Nat × Nat)) : Option AccFault :=
  let outside := fun (o : Nat × Nat) => if h = 12 then (s.myAb o.2 n).isNone else (s.myWb o.2 n).isNone
  let tagged := fun (o : Nat × Nat) => match s.myWb o.2 n with
    | some p => (List.range ((p + n - 1) / 4096 + 1 - p / 4096)).any fun i =>
        Mem.get (s.core s.issue.core).wbTag (p / 4096 + i) != 0
    | none => false
  match offs.find? outside with
  | some o => some (0x11, o.1 + 1024, o.2, 0)
  | none =>
    if h = 13 && !s.isCt then (offs.find? tagged).map fun o => (0x15, o.1, o.2, 0) else none

/-- CASCADE_DEPTH of a write into a buffer with the watched flag (R401); through a local window, the buffer's own flag counts (log 135). -/
def State.cascadeFault (s : State) (h n : Nat) (offs : List (Nat × Nat)) : Option AccFault :=
  if s.isCt ∨ s.myDepth < s.cfgGet Config.nCascadeMax s.myVi ∨ 12 ≤ h then none
  else match offs with
  | o :: _ => match s.resolve s.actor (s.slotHandle h) o.2 n [] none with
    | .ok r => if entWatched r.entry then some (0x18, s.myDepth % 16, o.2, s.slotHandle h) else none
    | .error _ => none
  | [] => none

/-- The first fault of an access of `n` bytes per lane: alignment to 2^`k`, the checks of R55 or of the local space, cascade depth
(R389). -/
def State.accessFault (s : State) (h n k : Nat) (rights : List Right) (isWrite : Bool) (offs : List (Nat × Nat)) : Option AccFault :=
  match s.misaligned h k offs with
  | some f => some f
  | none =>
    match (if h < 12 then s.globalFault h n rights offs else s.localFault h n offs) with
    | some f => some f
    | none => if isWrite then s.cascadeFault h n offs else none

/-- The offsets of the lanes that form addresses (R196). -/
def State.offsets (s : State) (u : Bool) (a i z : Nat) : List (Nat × Nat) :=
  (s.addrLanes u).map fun l => (l, s.me.offset l a i z)

/-! Reads. -/

/-- What a read gives: nothing yet, with the reason; poison, in the granule at an offset, with its physical address; or the bytes as a
number. -/
inductive Got where
  | held (why : Why)
  | poison (off pa : Nat)
  | value (v : Nat)
  deriving DecidableEq, Repr

/-- A lane of the issuer as the owner of claims. -/
def State.meLane (s : State) (l : Nat) : Nat × Agent × Nat := (s.issue.core, s.issue.agent, l)

/-- The latest entry of a core's side log that holds a byte (R330). -/
def lastLogged (log : List LogEntry) (space va : Nat) : Option LogEntry :=
  log.reverse.find? fun e => decide (e.space = space ∧ e.va ≤ va ∧ va < e.va + e.size)

/-- A byte as the core's side log forwards it: none where the latest entry that holds it is a pair or an atomic, whose value memory gives
when it has replayed; the logged byte; or memory's, where no entry holds it (R89, R110, R330). -/
def forwardByte (log : List LogEntry) (space va : Nat) (old : Option Byte) : Option Byte :=
  match lastLogged log space va with
  | none => old
  | some e => match e.kind with
    | .store bs => bs[va - e.va]?
    | _ => none

/-- The side log's latest entries on every byte of a range are stores: the bytes, lowest first. -/
def forwardAll (log : List LogEntry) (space va n : Nat) : Option (List Byte) :=
  (List.range n).mapM fun i => forwardByte log space (va + i) none

/-- The bytes of a range as the core's loads see them, or none where one waits for an entry to replay. -/
def forwardBytes (log : List LogEntry) (space va : Nat) (bs : List Byte) : Option (List Byte) :=
  if log = [] then some bs else bs.zipIdx.mapM fun b => forwardByte log space (va + b.2) (some b.1)

/-- The first poisoned 32-byte granule of a present range, as an offset in the buffer, with its physical address (R421). -/
def State.poisonOff (s : State) (r : Ref) (n : Nat) : Option (Nat × Nat) :=
  if s.poison = [] ∧ s.cxlLost = [] then none
  else (sectors r.va n).findSome? fun k => match s.lookup r.space (32 * k) with
    | some pa => if s.poisoned (pa / 32) then some (r.off + 32 * k - r.va, pa) else none
    | none => none

/-- An entry of a core's own side log stands on the lines of a range under another name than the range's (R87, R110). -/
def State.aliased (s : State) (core space lo n : Nat) : Bool :=
  (s.core core).sideLog.any fun e => !(e.space == space && sameLine e.va e.size lo n) && s.overlap e.space e.va e.size space lo n

/-- A read of `n` bytes of local-chip global memory at its place in the order, by lane `me`: behind claims and what its core has logged
under another name, with its pages present, with its folios applied, and with the core's own logged stores forwarded (R73, R87, R89, R328 to
R330, R420). `kind` is MAP_REQUEST's. -/
def State.readAt (s0 : State) (a : Actor) (me : Nat × Agent × Nat) (r : Ref) (n kind : Nat) : State × Got :=
  let log := (s0.core a.core).sideLog
  let s := s0.touch me r a.core
  if s.claimed me r.space r.va n || s.aliased me.1 r.space r.va n then (s, .held .line)
  else match (if log = [] then none else forwardAll log r.space r.va n) with
  | some bs => (s, .value (leNat bs))
  | none =>
    let s1 := s.prepare r n
    match s1.missing r.space r.va n, s1.locate r.space r.va n with
    | some m, _ => (s1.mapRequest a r.space m kind, .held .page)
    | none, none => (s1, .held .page)
    | none, some rs =>
      if s1.pairsLogged rs then (s1, .held .line)
      else match s1.applyFor rs with
      | .error w => (s1.blockOn me r.space r.va n w, .held .spillRing)
      | .ok s2 =>
        let s3 := (s2.detectRuns rs).unclaim me
        match s3.poisonOff r n with
        | some o => (s3, .poison o.1 o.2)
        | none => match forwardBytes log r.space r.va (s3.readRuns rs) with
          | some bs => (s3, .value (leNat bs))
          | none => (s3, .held .line)

/-- An indivisible read of `n` bytes at the home slice, and a write of their first `k`: `f` gives the new value from the old one, which
is answered, or none for no write; poison leaves memory as it is (R33, R34, R206, R421). -/
def State.atomAt (s0 : State) (a : Actor) (me : Nat × Agent × Nat) (r : Ref) (n k h : Nat) (f : Nat → Option Nat) : State × Got :=
  let s := s0.touch me r a.core
  if s.claimed me r.space r.va n || s.logged me.1 r.space r.va n then (s, .held .line)
  else
    let s1 := s.prepare r n
    match s1.missing r.space r.va n, s1.locate r.space r.va n with
    | some m, _ => (s1.mapRequest a r.space m 0, .held .page)
    | none, none => (s1, .held .page)
    | none, some rs =>
      if s1.pairsLogged rs then (s1, .held .line)
      else match s1.applyFor rs with
      | .error w => (s1.blockOn me r.space r.va n w, .held .spillRing)
      | .ok s2 =>
        let s3 := s2.detectRuns rs
        match s3.poisonOff r n with
        | some o => (s3.unclaim me, .poison o.1 o.2)
        | none =>
          let old := leNat (s3.readRuns rs)
          match f old with
          | none => (s3.unclaim me, .value old)
          | some v => match s3.commit a [] (runWrites a.depth h r.off rs (leBytes v k)) with
            | .ok s4 => (s4.unclaim me, .value old)
            | .error w => (s1.blockOn me r.space r.va n w, .held .spillRing)

/-- An indivisible read and write of `n` bytes. -/
def State.rmwAt (s : State) (a : Actor) (me : Nat × Agent × Nat) (r : Ref) (n h : Nat) (f : Nat → Nat) : State × Got :=
  s.atomAt a me r n n h fun v => some (f v)

/-- A number read from AB. -/
def State.abNat (s : State) (c a n : Nat) : Nat := leNat (Mem.bytes (s.core c).ab a n)

/-! Writes. -/

/-- A BOWAIT whose object is complete ends: its lanes' registers receive PADDED (R219, R222). -/
def State.serveBowait (s : State) (c : Nat) : State :=
  s.ops.foldl (fun t o =>
    match o.kind with
    | .bowait d home addr =>
      let k := t.core c
      let w := fun i => k.abWord (addr + 4 * i)
      if home = c ∧ w 2 ≤ w 0 ∧ w 3 ≤ w 1 ∧ w 6 ≤ w 5 then
        (t.modGroup o.core o.agent fun g =>
          (o.lanes.foldl (fun h l => h.setReg l d (BitVec.ofNat 32 (w 4))) g).wake o.id).endOp o.id
      else t
    | _ => t) s

/-- Bytes written to core `c`'s AB from address `p` up; poison goes where one instruction covers a granule, `clear` (R423). -/
def State.abWrite (s : State) (c p : Nat) (bs : List Byte) (clear : List Nat) : State :=
  (s.modCore c fun k =>
    { k.abPut p bs with poisonAb := if k.poisonAb = [] then [] else k.poisonAb.filter (!clear.contains ·) }).serveBowait c

/-- The poisoned granules that the writes of one instruction to one local space cover wholly (R423). -/
def granulesCleared (poison : List Nat) (ws : List (Nat × Nat)) : List Nat :=
  poison.filter fun k => (List.range 32).all fun i =>
    ws.any fun w => decide (w.1 ≤ 32 * k + i) && decide (32 * k + i < w.1 + w.2)

/-- An access must enter the core's side log: its page is missing, or the log holds entries (R110, R330). -/
def State.mustLog (s : State) (core space va n : Nat) : Bool :=
  (s.core core).sideLog != [] || (s.missing space va n).isSome

/-- The side log takes `k` entries more from a lane: room, and its turn among the lanes that wait (R418). -/
def State.logTakes (s : State) (me : Nat × Agent × Nat) (k : Nat) : Bool :=
  let c := s.core me.1
  decide (c.sideLog.length + k ≤ 256) && (match c.slogWait with | [] => true | x :: _ => x == (me.2.1, me.2.2))

/-- A lane joins those that wait to enter the side log. -/
def State.logWait (s : State) (me : Nat × Agent × Nat) : State :=
  s.modCore me.1 fun k =>
    if k.slogWait.contains (me.2.1, me.2.2) then k else { k with slogWait := k.slogWait ++ [(me.2.1, me.2.2)] }

/-- Entries of a lane enter the side log, which may be full with them (R330, R418). -/
def State.logEnter (s : State) (me : Nat × Agent × Nat) (es : List LogEntry) : State :=
  s.modCore me.1 fun k =>
    { k with
      sideLog := k.sideLog ++ es
      slogFull := if k.sideLog.length + es.length = 256 then some s.clk else k.slogFull
      slogWait := k.slogWait.filter (· ≠ (me.2.1, me.2.2)) }

/-- How a write of a lane came out: performed, in the side log, or held. -/
inductive Put where
  | done
  | logged
  | held (why : Why)
  deriving DecidableEq, Repr

/-- The pieces of a store as side-log entries (R94, R330). -/
def storeEntries (a : Actor) (me : Nat × Agent × Nat) (ls : List Nat) (r : Ref) (id clk h : Nat) (bs : List Byte) : List LogEntry :=
  (pieces r.va bs.length bs.length).map fun p =>
    ⟨r.space, p.1, p.2, .store ((bs.drop (p.1 - r.va)).take p.2), id, r.vi, r.index, me.2.1, ls, a.depth, clk, h, r.off + (p.1 - r.va)⟩

/-- A write-like access of a lane goes to the side log or is performed by `go` on the located runs: behind claims, behind the log, with
folios applied where `apply` is set (R73, R110, R330, R418, R430). -/
def State.writeAt (s0 : State) (a : Actor) (me : Nat × Agent × Nat) (r : Ref) (n : Nat) (es : List LogEntry) (apply : Bool)
    (go : State → List (Nat × Nat) → Except RingFull State) : State × Put :=
  let s := s0.touch me r a.core
  if s.claimed me r.space r.va n then (s, .held .line)
  else
    let s1 := s.prepare r n
    if s1.mustLog me.1 r.space r.va n then
      if s1.logTakes me es.length then
        let s2 := match s1.missing r.space r.va n with
          | some m => s1.mapRequest a r.space m 1
          | none => s1
        (s2.logEnter me es, .logged)
      else (s1.logWait me, .held .sideLog)
    else match s1.locate r.space r.va n with
    | none => (s1, .held .page)
    | some rs =>
      if apply && s1.pairsLogged rs then (s1, .held .line)
      else match (match (if apply then s1.applyFor rs else .ok s1) with | .ok s2 => go s2 rs | .error w => .error w) with
      | .ok s3 => (s3.unclaim me, .done)
      | .error w => (s1.blockOn me r.space r.va n w, .held .spillRing)

/-- A store of bytes by a lane; `clear` are the sectors that the whole instruction covers (R203, R423). -/
def State.storeAt (s : State) (a : Actor) (me : Nat × Agent × Nat) (r : Ref) (id h : Nat) (clear : List Nat) (bs : List Byte) :
    State × Put :=
  s.writeAt a me r bs.length (storeEntries a me [me.2.2] r id s.clk h bs) true fun t rs => t.commit a clear (runWrites a.depth h r.off rs bs)

/-! Replies. -/

/-- A reply brings a fault: the group's core stops, and its control thread enters the handler at its next turn, when all that came in the cycle are
there; or a control thread's own fault is reported (R387, R413). -/
def State.lateFault (s : State) (o : Op) (e : Entry) : State :=
  match o.agent with
  | .ct =>
    let t : State := { s with issue := { s.issue with core := o.core, agent := .ct, pc := e.pc, iword := e.iword } }
    let u := t.ctFault e.code (ctReason e.code e.info)
    { u with issue := s.issue }
  | .grp _ => s.stopFor o.core { e with late := true, order := s.clk }

/-- The end of operation `id`: its completion flag counts one less and its lanes wait no longer (R30, R145). -/
def State.finishOp (s : State) (id : Nat) : State :=
  match s.op? id with
  | none => s
  | some o => (s.modGroup o.core o.agent (·.wake id)).endOp id

end Sys2Proof.Machine
end

