-- ==== Sys2Proof/Machine/Mem.lean ====
section
/-!
DEFINITION. Loads, stores and prefetches of the MEM class (R202 to R204), in every space and through remote windows.
-/
namespace Sys2Proof.Machine

/-- The rank that an access through slot `h` goes to, if the slot holds a remote window (R60). -/
def State.remoteRank (s : State) (h off : Nat) : Option Nat :=
  if 12 ≤ h then none
  else match s.resolve s.actor (s.slotHandle h) off 0 [] none with
    | .ok r => r.remote
    | .error _ => none

/-- What the lowest lane got, for every lane of the issue, with U = 1; else what each lane got. -/
def State.forLanes {α : Type} (s : State) (u : Bool) (xs : List (Nat × α)) : List (Nat × α) :=
  if u then match xs with
    | x :: _ => s.issue.lanes.map (·, x.2)
    | [] => []
  else xs

/-- One lane's read of `n` bytes at offset `o`, in the space that H names. The checks have passed. -/
def State.readLane (s : State) (h n : Nat) (o : Nat × Nat) : State × Got :=
  if h = 12 then match s.myAb o.2 n with
    | some p => if s.claimed (s.meLane o.1) (abSpace p.1) p.2 n then (s, .held .line) else (s, .value (s.abNat p.1 p.2 n))
    | none => (s, .held .line)
  else if h = 13 then match s.myWb o.2 n with
    | some p => if s.claimed (s.meLane o.1) (wbSpace s.issue.core) p n then (s, .held .line)
      else (s, .value (leNat (Mem.bytes (s.core s.issue.core).wb p n)))
    | none => (s, .held .line)
  else match s.resolve s.actor (s.slotHandle h) o.2 n [] none with
    | .ok r => s.readAt s.actor (s.meLane o.1) r n 0
    | .error _ => (s, .held .line)

/-- The lanes' reads in ascending order (R90). -/
def State.readLanes (s : State) (h n : Nat) : List (Nat × Nat) → State × List (Nat × Got)
  | [] => (s, [])
  | o :: os =>
    let (s1, g) := s.readLane h n o
    let (s2, gs) := s1.readLanes h n os
    (s2, (o.1, g) :: gs)

/-- The lanes that are held, with how each ends. -/
def heldEnds (gs : List (Nat × Got)) : List (Nat × LaneEnd) :=
  gs.filterMap fun g => match g.2 with
    | .held w => some (g.1, .hold w)
    | _ => none

/-- The lanes that have a reply coming. -/
def answered (gs : List (Nat × Got)) : List Nat :=
  (gs.filter fun g => match g.2 with | .held _ => false | _ => true).map (·.1)

/-- The lowest lane that met poison, with the granule's offset and physical address. -/
def firstPoison (gs : List (Nat × Got)) : Option (Nat × Nat × Nat) :=
  gs.findSome? fun g => match g.2 with
    | .poison o pa => some (g.1, o, pa)
    | _ => none

/-- The values that lanes got, written by `w` to their registers. -/
def Group.takeValues (g : Group) (gs : List (Nat × Got)) (w : Nat → Nat → List (Nat × Word)) : Group :=
  gs.foldl (fun h x => match x.2 with
    | .value v => h.setRegs x.1 (w x.1 v)
    | _ => h) g

/-- The end of a read of local storage: registers written, the flag of SETA tracking them, held lanes held (R305, Table En-2). -/
def State.localEnd (s : State) (gs : List (Nat × Got)) (w : Nat → Nat → List (Nat × Word)) : State :=
  let done := answered gs
  let s1 := s.modMe (·.takeValues gs w)
  let s2 := if done = [] then s1 else ({ s1 with issue := { s1.issue with lanes := done } }.track s1.setA)
  ({ s2 with issue := s.issue }).settle (heldEnds gs ++ done.map (·, LaneEnd.go))

/-- The end of a global read through handle `hd` whose reply is due: the answered lanes wait for it; poison is a fault that the reply
raises, with no register written; else the registers hold their values (R30, R421, R387). `flag` is the flag that tracks it, and
`consumer` POISON_USE's. -/
def State.replyEnd (s : State) (hd : Nat) (flag : Option Nat) (gs : List (Nat × Got)) (why : Why) (consumer : Nat)
    (w : Nat → Nat → List (Nat × Word)) : State :=
  let done := answered gs
  let ends := heldEnds gs ++ done.map (·, LaneEnd.wait (.op s.opSeq why))
  if done = [] then s.settle ends
  else match firstPoison gs with
    | some p =>
      let e := { s.faultEntry 0x20 p.1 p.2.1 hd with lanes := done }
      (((s.poisonUse s.actor.vi? consumer p.2.2).addOpDue done .reply flag (some e) (.accessReply · 0 0))).settle ends
    | none => ((s.modMe (·.takeValues gs w)).addOpDue done .reply flag none (.accessReply · 0 0)).settle ends

/-- The same through a handle slot, tracked by the flag of SETA. -/
def State.globalEnd (s : State) (h : Nat) (gs : List (Nat × Got)) (why : Why) (consumer : Nat)
    (w : Nat → Nat → List (Nat × Word)) : State :=
  s.replyEnd (s.slotHandle h) s.setA gs why consumer w

/-- Two lists share an element. -/
def meets (xs ys : List Nat) : Bool := xs.any ys.contains

/-- The chips that a job's rows lie on. -/
def CopyJob.ranks (j : CopyJob) : List Nat :=
  j.rows.flatMap fun r => (r.src.toList ++ r.dsts).filterMap fun p => match p with | .glob x => x.remote | _ => none

/-- A copy that lanes posted before operation `id` and that has bytes on chip `rank` is still to be performed: their later accesses there
come after it (R99, R111). -/
def State.farBehind (s : State) (c : Nat) (a : Agent) (ls : List Nat) (rank id : Nat) : Bool :=
  s.ops.any fun o => decide (o.core = c) && decide (o.agent = a) && decide (o.id < id) && meets o.lanes ls &&
    (match o.kind with
     | .copy r => (match r.job with | some j => j.ranks.contains rank | none => false)
     | _ => false)

/-- The accesses of lanes through handle `hd` of a remote window: one operation each, whose reply comes from outside (R60, R111, R431). Lanes wait for
a returning access, and in front of one that comes behind a copy to that chip (R111). `act` is what a lane asks (R348). -/
def State.remoteVia (s : State) (u : Bool) (hd rank : Nat) (offs : List (Nat × Nat)) (form : ReplyForm) (act : Nat → RemoteAct)
    (flag : Option Nat) : State :=
  let one := fun (t : State) (ls : List Nat) (o : Nat × Nat) =>
    t.addOp ls (.remote ⟨rank, hd, o.2, form, act o.1, s.myDepth, s.opSeq, none⟩) flag
      (some { s.faultEntry 0 (ls.headD 0) o.2 hd with lanes := ls })
  let why := fun (off : Nat) => match form with | .waitc _ _ => Why.waitc hd off | _ => .remote
  let waits := fun (id off : Nat) => if form = .nothing then LaneEnd.go else .wait (.op id (why off))
  if s.farBehind s.issue.core s.issue.agent s.issue.lanes rank s.opSeq then s.hold s.issue.lanes .line
  else if u then match offs with
    | o :: _ => (one s s.issue.lanes o).settle (s.issue.lanes.map fun l => (l, waits s.opSeq o.2))
    | [] => s
  else
    let base := s.opSeq
    (offs.foldl (fun t o => one t [o.1] o) s).settle
      ((List.range offs.length).zip offs |>.map fun x => (x.2.1, waits (base + x.1) x.2.2))

/-- The same through a handle slot. -/
def State.remoteOps (s : State) (u : Bool) (h rank : Nat) (offs : List (Nat × Nat)) (form : ReplyForm) (act : Nat → RemoteAct)
    (flag : Option Nat) : State :=
  s.remoteVia u (s.slotHandle h) rank offs form act flag

/-- A local space's poison that an instruction consumes is counted (R420). -/
def State.localUse (s : State) (consumer : Nat) : State :=
  (s.count Config.nErrPoison 0 1).machineCheck 0x03 5 s.issue.core s.actor.vi? 0 consumer

/-- A load of `n` bytes, whose registers `regs` receive what `w` makes of them (R202). -/
def loadOp (u : Bool) (a h i n : Nat) (regs : List Nat) (form : ReplyForm) (w : Nat → List (Nat × Word)) (s : State) : Out :=
  accessWith u [a] regs s fun t =>
    let offs := t.offsets u a i n
    match t.accessFault h n 0 [.read] false offs with
    | some f => .next (t.raiseAcc f)
    | none =>
      match t.localPoison h n offs with
      | some f => .next ((t.localUse 0).raiseAcc f)
      | none =>
        match t.remoteRank h ((offs.map (·.2)).headD 0) with
        | some rank => .next (t.remoteOps u h rank offs form (fun _ => .read n) t.setA)
        | none =>
          let (t1, gs) := t.readLanes h n offs
          let all := t1.forLanes u gs
          finish (if h < 12 then t1.globalEnd h all .load 0 fun _ => w else t1.localEnd all fun _ => w)

/-- A load of one register of `n` bytes, zero- or sign-extended. -/
def loadOne (u : Bool) (d a h i n : Nat) (sext : Bool) (s : State) : Out :=
  loadOp u a h i n [d] (.load d n sext) (fun v => [(d, if sext then BitVec.ofInt 32 (signed v (8 * n)) else BitVec.ofNat 32 v)]) s

/-- LDB (R202). -/
def execLdb (u : Bool) (d a h i : Nat) (s : State) : Out := loadOne u d a h i 1 false s

/-- LDBS (R202). -/
def execLdbs (u : Bool) (d a h i : Nat) (s : State) : Out := loadOne u d a h i 1 true s

/-- LDH (R202). -/
def execLdh (u : Bool) (d a h i : Nat) (s : State) : Out := loadOne u d a h i 2 false s

/-- LDHS (R202). -/
def execLdhs (u : Bool) (d a h i : Nat) (s : State) : Out := loadOne u d a h i 2 true s

/-- LDW (R202). -/
def execLdw (u : Bool) (d a h i : Nat) (s : State) : Out := loadOne u d a h i 4 false s

/-- LDD (R202). -/
def execLdd (u : Bool) (d a h i : Nat) (s : State) : Out :=
  loadOp u a h i 8 [d, d + 1] (.load d 8 false) (fun v => wordWrites d v 2) s

/-- LDQ (R202). -/
def execLdq (u : Bool) (d a h i : Nat) (s : State) : Out :=
  loadOp u a h i 16 [d, d + 1, d + 2, d + 3] (.load d 16 false) (fun v => wordWrites d v 4) s

/-! Stores. -/

/-- How lanes' writes came out, as ends of their lanes. -/
def putEnds (ps : List (Nat × Put)) : List (Nat × LaneEnd) :=
  ps.map fun p => match p.2 with
    | .held w => (p.1, .hold w)
    | _ => (p.1, .go)

/-- The lanes whose writes have left them. -/
def placed (ps : List (Nat × Put)) : List Nat :=
  (ps.filter fun p => match p.2 with | .held _ => false | _ => true).map (·.1)

/-- The side-log entries that the issue made as those of operation `id` are those of its operation, whose number is the next. -/
def State.renumber (s : State) (id : Nat) : State :=
  if id = s.opSeq then s
  else s.modCore s.issue.core fun k => { k with sideLog := k.sideLog.map fun e => if e.id = id then { e with id := s.opSeq } else e }

/-- The end of a store-like instruction, whose side-log entries bear the number `id`: one operation tracks the placed lanes until its
acknowledgement, which waits for side-log entries (R330, R457). `flag` is SETB's, or none where no flag tracks it. -/
def State.putEnd (s : State) (id : Nat) (ps : List (Nat × Put)) (flag : Option Nat) : State :=
  let ls := placed ps
  if ls = [] then s.settle (putEnds ps)
  else if ps.any (·.2 == .logged) then ((s.renumber id).addOp ls .store flag none).settle (putEnds ps)
  else (s.addOpDue ls .store flag none (.storeAck · 0)).settle (putEnds ps)

/-- The poisoned sectors that the lanes' stores of `n` bytes together cover (R423). -/
def State.storeClears (s : State) (h n : Nat) (offs : List (Nat × Nat)) : List Nat :=
  if s.poison = [] ∧ s.latentUe = [] ∧ s.latentCe = [] then []
  else s.cleared (offs.flatMap fun o => match s.resolve s.actor (s.slotHandle h) o.2 n [] none with
    | .ok r => match s.locate r.space r.va n with
      | some rs => runWrites 0 0 0 rs (List.replicate n 0)
      | none => []
    | .error _ => [])

/-- One lane's store of `bs` at offset `o.2`, in the space that H names. The checks have passed. -/
def State.storeLane (s : State) (h id : Nat) (clear : List Nat) (o : Nat × Nat) (bs : List Byte) : State × Put :=
  if h = 12 then match s.myAb o.2 bs.length with
    | some p => if s.claimed (s.meLane o.1) (abSpace p.1) p.2 bs.length then (s, .held .line)
      else (s.abWrite p.1 p.2 bs clear, .done)
    | none => (s, .held .line)
  else match s.resolve s.actor (s.slotHandle h) o.2 bs.length [] none with
    | .ok r => s.storeAt s.actor (s.meLane o.1) r id (s.slotHandle h) clear bs
    | .error _ => (s, .held .line)

/-- Accesses of `n` bytes at two offsets touch one line, or in AB one byte. -/
def State.sameBytes (s : State) (h n a b : Nat) : Bool :=
  if h = 12 then decide (a < b + n) && decide (b < a + n)
  else match s.resolve s.actor (s.slotHandle h) a n [] none, s.resolve s.actor (s.slotHandle h) b n [] none with
    | .ok x, .ok y => s.overlap x.space x.va n y.space y.va n
    | _, _ => false

/-- The lanes' stores in ascending order, each with its data: one that shares a line with a lower lane's that is held waits with it (R90).
`held` are the held stores so far. -/
def State.storeLanes (s : State) (h id : Nat) (clear : List Nat) (data : Nat → List Byte) :
    List (Nat × Why) → List (Nat × Nat) → State × List (Nat × Put)
  | _, [] => (s, [])
  | held, o :: os =>
    let (s1, p) := match held.find? fun x => s.sameBytes h (data o.1).length x.1 o.2 with
      | some x => (s, Put.held x.2)
      | none => s.storeLane h id clear o (data o.1)
    let (s2, ps) := s1.storeLanes h id clear data (match p with | .held w => held ++ [(o.2, w)] | _ => held) os
    (s2, (o.1, p) :: ps)

/-- AB granules that the lanes' stores together cover (R423). -/
def State.abClears (s : State) (n : Nat) (offs : List (Nat × Nat)) : List Nat :=
  let places := offs.filterMap fun o => s.myAb o.2 n
  match places with
  | [] => []
  | p :: _ => granulesCleared (s.core p.1).poisonAb ((places.filter (·.1 == p.1)).map fun q => (q.2, n))

/-- A store of `n` bytes held in registers `regs` (R203). -/
def storeOp (u : Bool) (a h i n : Nat) (regs : List Nat) (s : State) : Out :=
  accessWith u (a :: regs) [] s fun t =>
    let offs := t.offsets u a i n
    match t.accessFault h n 0 [.write] true offs with
    | some f => .next (t.raiseAcc f)
    | none =>
      let data := fun l => leBytes (t.me.words l (regs.headD 0) regs.length) n
      match t.remoteRank h ((offs.map (·.2)).headD 0) with
      | some rank => .next (t.remoteOps u h rank offs .nothing (fun l => .store (data l)) t.setB)
      | none =>
        let clear := if h < 12 then t.storeClears h n offs else t.abClears n offs
        let (t1, ps) := t.storeLanes h t.opSeq clear data [] offs
        finish (t1.putEnd t.opSeq (t1.forLanes u ps) t1.setB)

/-- STB (R203). -/
def execStb (u : Bool) (d a h i : Nat) (s : State) : Out := storeOp u a h i 1 [d] s

/-- STH (R203). -/
def execSth (u : Bool) (d a h i : Nat) (s : State) : Out := storeOp u a h i 2 [d] s

/-- STW (R203). -/
def execStw (u : Bool) (d a h i : Nat) (s : State) : Out := storeOp u a h i 4 [d] s

/-- STD (R203). -/
def execStd (u : Bool) (d a h i : Nat) (s : State) : Out := storeOp u a h i 8 [d, d + 1] s

/-- STQ (R203). -/
def execStq (u : Bool) (d a h i : Nat) (s : State) : Out := storeOp u a h i 16 [d, d + 1, d + 2, d + 3] s

/-- PFCH: it changes no value, and a failing check, a remote window, pending pairs or a missing page make it do nothing (R204). -/
def execPfch (u : Bool) (a _h _i : Nat) (s : State) : Out := accessWith u [a] [] s fun t => .next t.retire

end Sys2Proof.Machine
end

