-- ==== Sys2Proof/Machine/Atomic.lean ====
section
/-!
DEFINITION. Returning and non-returning atomics (R205 to R209, R397).
-/
namespace Sys2Proof.Machine

/-- One lane's operation on the value before it (Table Mi-5): `op` 0 AADD, 1 AINC, 2 ADEC, 3 AMIN, 4 AMAX, 5 AAND, 6 AOR, 7 AXOR,
8 ASWP, 9 ACAS; `ty` 0 `.i32`, 1 `.n32`, 2 `.i64`, 3 `.n64`, 4 `.f32`. -/
def atomStep (op ty m x c : Nat) : Nat :=
  let w := if ty = 2 ∨ ty = 3 then 2 ^ 64 else 2 ^ 32
  match op with
  | 0 => if ty = 4 then (Fmt.f32.sum .rne false false [Fmt.f32.decode false m, Fmt.f32.decode false x]).bits else (m + x) % w
  | 1 => if x ≠ 0 ∧ x ≤ m + 1 then 0 else (m + 1) % w
  | 2 => m - 1
  | 3 => if ty = 4 then (Fmt.f32.minMax false false false m x).bits else if typedInt ty x < typedInt ty m then x else m
  | 4 => if ty = 4 then (Fmt.f32.minMax false true false m x).bits else if typedInt ty m < typedInt ty x then x else m
  | 5 => m &&& x
  | 6 => m ||| x
  | 7 => m ^^^ x
  | 8 => x
  | _ => if m = c then x else m

/-- The value after the lanes of a set have acted in ascending order, each lane given as lane, operand and comparand (R206). -/
def atomFinal (op ty m : Nat) (xs : List (Nat × Nat × Nat)) : Nat := xs.foldl (fun v x => atomStep op ty v x.2.1 x.2.2) m

/-- The value that each lane found (R206). -/
def atomOlds (op ty m : Nat) : List (Nat × Nat × Nat) → List (Nat × Nat)
  | [] => []
  | x :: xs => (x.1, m) :: atomOlds op ty (atomStep op ty m x.2.1 x.2.2) xs

/-- Bytes of an atomic's type (R205). -/
def atomBytes (ty : Nat) : Nat := if ty = 2 ∨ ty = 3 then 8 else 4

/-- The registers of an operand of `n` bytes from `r` up. -/
def operandRegs (r n : Nat) : List Nat := if n = 8 then [r, r + 1] else [r]

/-- NONUNIFORM_ATOMIC: with UCHECK set, the lowest lane whose offset differs from the lowest active lane's (R397). -/
def State.nonuniform (s : State) (h a i z : Nat) : Option AccFault :=
  if s.isCt ∨ s.cfgGet Config.nUcheck s.myVi = 0 then none
  else
    let o0 := s.me.offset (s.issue.lanes.headD 0) a i z
    (s.issue.lanes.find? fun l => s.me.offset l a i z != o0).map fun l => (0x07, l, s.me.offset l a i z, s.fhOf h)

/-- The old values of lanes as register writes. -/
def oldWrites (d n : Nat) (olds : List (Nat × Nat)) (l : Nat) : List (Nat × Word) :=
  match olds.find? (·.1 == l) with
  | some o => wordWrites d o.2 (n / 4)
  | none => []

/-- An atomic on AB at the core that holds the address (R67); the new value is written there. -/
def State.abAtomic (s : State) (p : Nat × Nat) (op ty : Nat) (xs : List (Nat × Nat × Nat)) : State :=
  let n := atomBytes ty
  s.abWrite p.1 p.2 (leBytes (atomFinal op ty (s.abNat p.1 p.2 n) xs) n) []

/-- The atomic on AB, its address checked: returning with its values at once, or discarded in a poisoned granule (Table Fm-4). -/
def State.atomicLocal (s : State) (d op ty : Nat) (nr : Bool) (o : Nat × Nat) (xs : List (Nat × Nat × Nat)) : State :=
  let n := atomBytes ty
  match s.myAb o.2 n with
  | none => s
  | some p =>
    if s.claimed (s.meLane o.1) (abSpace p.1) p.2 n then s.hold s.issue.lanes .line
    else match granulePoison (s.core p.1).poisonAb p.2 n with
    | some k =>
      if nr then ((s.localUse 1).postPoison s.actor 0 (o.2 + 32 * k - p.2) 5 1).addOpDue s.issue.lanes .store none none (.storeAck · 0)
        |>.retire
      else (s.localUse 1).raise 0x20 o.1 (o.2 + 32 * k - p.2) 0
    | none =>
      let olds := atomOlds op ty (s.abNat p.1 p.2 n) xs
      let s1 := s.abAtomic p op ty xs
      if nr then (s1.addOpDue s.issue.lanes .store none none (.storeAck · 0)).retire
      else ((s1.modMe fun g => s.issue.lanes.foldl (fun g l => g.setRegs l (oldWrites d n olds l)) g).track s1.setA).retire

/-- A non-returning atomic on global memory: performed, in the side log, or discarded in a poisoned granule (R209, R330, Table Fm-4). -/
def State.atomicPut (s : State) (h op ty : Nat) (o : Nat × Nat) (r : Ref) (xs : List (Nat × Nat × Nat)) : State :=
  let n := atomBytes ty
  let me := s.meLane o.1
  let e : LogEntry := ⟨r.space, r.va, n, .atomic op ty xs, s.opSeq, r.vi, r.index, me.2.1, s.issue.lanes, s.myDepth, s.clk, s.slotHandle h, o.2⟩
  let (t, p) := s.writeAt s.actor me r n [e] true fun u rs =>
    let u1 := u.detectRuns rs
    match u1.poisonOff r n with
    | some g => .ok ((u1.poisonUse s.actor.vi? 1 g.2).postPoison s.actor (s.slotHandle h) g.1 5 1)
    | none => u1.commit s.actor [] (runWrites s.myDepth (s.slotHandle h) r.off rs (leBytes (atomFinal op ty (leNat (u1.readRuns rs)) xs) n))
  t.putEnd s.opSeq (s.issue.lanes.map (·, p)) none

/-- A returning atomic on global memory: the lanes wait for the reply (R206, R209, R421). -/
def State.atomicGet (s : State) (h d op ty : Nat) (o : Nat × Nat) (r : Ref) (xs : List (Nat × Nat × Nat)) : State :=
  let n := atomBytes ty
  let (t, g) := s.rmwAt s.actor (s.meLane o.1) r n (s.slotHandle h) fun m => atomFinal op ty m xs
  t.globalEnd h (s.issue.lanes.map (·, g)) .atomic 1 fun l v => oldWrites d n (atomOlds op ty v xs) l

/-- An atomic: the lowest lane's address, every lane's operand. DEDUCED: each lane counts as reading v[a] (log 18). -/
def atomicOp (op d a h i : Nat) (src cmp : Option Nat) (nr : Bool) (ty : Nat) (s : State) : Out :=
  let n := atomBytes ty
  let regs := fun (r : Option Nat) => match r with
    | some k => operandRegs k n
    | none => []
  accessSet (a :: (regs src ++ regs cmp)) (if nr then [] else operandRegs d n) s fun t =>
    let offs := t.offsets true a i n
    let o := offs.headD (0, 0)
    let num := fun (r : Option Nat) l => match r with
      | some k => t.me.words l k (n / 4)
      | none => 0
    let xs := t.issue.lanes.map fun l => (l, num src l, num cmp l)
    let k := if n = 8 then 3 else 2
    match t.misaligned h k offs with
    | some f => .next (t.raiseAcc f)
    | none =>
      match t.nonuniform h a i n with
      | some f => .next (t.raiseAcc f)
      | none =>
        match t.accessFault h n k [.atomic] true offs with
        | some f => .next (t.raiseAcc f)
        | none =>
          if h = 12 then finish (t.atomicLocal d op ty nr o xs)
          else match t.remoteRank h o.2 with
          | some rank => .next (t.remoteOps true h rank offs (if nr then .nothing else .atomic op ty d xs) (fun _ => .atomic op ty xs) (if nr then none else t.setA))
          | none =>
            match t.resolve t.actor (t.slotHandle h) o.2 n [] none with
            | .ok r => finish (if nr then t.atomicPut h op ty o r xs else t.atomicGet h d op ty o r xs)
            | .error _ => .next t

/-- AADD (R206, R207). -/
def execAadd (d a h i src : Nat) (nr : Bool) (ty : Nat) (s : State) : Out := atomicOp 0 d a h i (some src) none nr ty s

/-- AINC (R206, R207). -/
def execAinc (d a h i src : Nat) (nr : Bool) (ty : Nat) (s : State) : Out := atomicOp 1 d a h i (some src) none nr ty s

/-- ADEC, which has no operand (R205, R207). -/
def execAdec (d a h i : Nat) (nr : Bool) (ty : Nat) (s : State) : Out := atomicOp 2 d a h i none none nr ty s

/-- AMIN (R206, R207, R208). -/
def execAmin (d a h i src : Nat) (nr : Bool) (ty : Nat) (s : State) : Out := atomicOp 3 d a h i (some src) none nr ty s

/-- AMAX (R206, R207, R208). -/
def execAmax (d a h i src : Nat) (nr : Bool) (ty : Nat) (s : State) : Out := atomicOp 4 d a h i (some src) none nr ty s

/-- AAND (R206, R207). -/
def execAand (d a h i src : Nat) (nr : Bool) (ty : Nat) (s : State) : Out := atomicOp 5 d a h i (some src) none nr ty s

/-- AOR (R206, R207). -/
def execAor (d a h i src : Nat) (nr : Bool) (ty : Nat) (s : State) : Out := atomicOp 6 d a h i (some src) none nr ty s

/-- AXOR (R206, R207). -/
def execAxor (d a h i src : Nat) (nr : Bool) (ty : Nat) (s : State) : Out := atomicOp 7 d a h i (some src) none nr ty s

/-- ASWP (R206, R207). -/
def execAswp (d a h i src : Nat) (nr : Bool) (ty : Nat) (s : State) : Out := atomicOp 8 d a h i (some src) none nr ty s

/-- ACAS, with each lane's own comparand (R205, R207). -/
def execAcas (d a h i src cmp : Nat) (nr : Bool) (ty : Nat) (s : State) : Out := atomicOp 9 d a h i (some src) (some cmp) nr ty s

end Sys2Proof.Machine
end

