-- ==== Sys2Proof/Machine/FpFun.lean ====
section
/-!
DEFINITION. The special functions of FP32 (R183, Table Al-7). A result that is no dyadic number is computed in fixed point with 320
fraction bits, and one bit more below them marks it as inexact; then it is rounded once. DEDUCED: 320 bits settle every rounding
(log 11).
-/
namespace Sys2Proof.Machine

/-- Fraction bits of the fixed-point numbers. -/
abbrev fracBits : Nat := 320

/-- One in fixed point. -/
def fxOne : Int := 2 ^ fracBits

/-- The product of two fixed-point numbers. -/
def fxMul (x y : Int) : Int := x * y / fxOne

/-- The quotient of two fixed-point numbers. -/
def fxDiv (x y : Int) : Int := x * fxOne / y

/-- ± `m` × 2^`e` in fixed point. -/
def fxOf (neg : Bool) (m : Nat) (e : Int) : Int :=
  let k := e + fracBits
  let v : Int := if 0 ≤ k then (m * 2 ^ k.toNat : Nat) else (m / 2 ^ (-k).toNat : Nat)
  if neg then -v else v

/-- The sum of an alternating or plain power series: `term` × `step`, divided by `den i`, from index `i`, `fuel` terms. -/
def fxSeries (step : Int) (den : Nat → Nat) (term : Int) (i : Nat) : Nat → Int
  | 0 => 0
  | fuel + 1 => term + fxSeries step den (fxMul term step / (den i : Nat)) (i + 1) fuel

/-- The sum of `pow`·`sq`^k / (2k + 1), the series of the inverse tangents. -/
def fxAtanSeries (sq pow : Int) (i : Nat) : Nat → Int
  | 0 => 0
  | fuel + 1 => pow / ((2 * i + 1 : Nat) : Int) + fxAtanSeries sq (fxMul pow sq) (i + 1) fuel

/-- The inverse hyperbolic tangent of `z`, |z| ≤ 1/3. -/
def fxAtanh (z : Int) : Int := fxAtanSeries (fxMul z z) z 0 110

/-- The inverse tangent of 1/n. -/
def fxAtanInv (n : Nat) : Int := fxAtanSeries (-(fxOne / (n * n : Nat))) (fxOne / (n : Nat)) 0 110

/-- ln 2. -/
def fxLn2 : Int := 2 * fxAtanh (fxOne / 3)

/-- π, by Machin's formula. -/
def fxPi : Int := 16 * fxAtanInv 5 - 4 * fxAtanInv 239

/-- e^x for 0 ≤ x < 1. -/
def fxExp (x : Int) : Int := fxSeries x (· + 1) fxOne 0 90

/-- sin x for 0 ≤ x ≤ 2. -/
def fxSin (x : Int) : Int := fxSeries (-(fxMul x x)) (fun i => (2 * i + 2) * (2 * i + 3)) x 0 60

/-- A positive fixed-point number that is not the exact value, rounded to FP32 with its inexact mark. -/
def fxRound (ftz neg : Bool) (x : Int) (e : Int) : FRes :=
  Fmt.f32.round .rne ftz false neg (2 * x.toNat + 1) (e - fracBits - 1)

/-- The integer square root of `n` by bits: `r` so far, `b` the bit in turn. -/
def isqrtAux (n r : Nat) : Nat → Nat
  | 0 => r
  | b + 1 => if (r + 2 ^ b) * (r + 2 ^ b) ≤ n then isqrtAux n (r + 2 ^ b) b else isqrtAux n r b

/-- The integer square root. -/
def isqrt (n : Nat) : Nat := isqrtAux n 0 (bitLen n / 2 + 1)

/-- ± q with a mark below it when something was cut off. -/
def markRest (q : Nat) (exact : Bool) : Nat := 2 * q + (if exact then 0 else 1)

/-- A NaN operand's result (R183). -/
def nanRes (sg : Bool) : FRes := ⟨Fmt.f32.nan, if sg then flagIV else 0⟩

/-- FRCP: 1 / a (Table Al-7). -/
def frcp (rm : Rm) (ftz : Bool) (v : Nat) : FRes :=
  match Fmt.f32.decode ftz v with
  | .nan sg => nanRes sg
  | .inf n => ⟨n.toNat * 2147483648, 0⟩
  | .fin n 0 _ => ⟨Fmt.f32.inf n, flagDZ⟩
  | .fin n m e =>
    let k := 64 + bitLen m
    Fmt.f32.round rm ftz false n (markRest (2 ^ k / m) (2 ^ k % m == 0)) (-e - k - 1)

/-- FSQRT: the square root (Table Al-7). -/
def fsqrt (rm : Rm) (ftz : Bool) (v : Nat) : FRes :=
  match Fmt.f32.decode ftz v with
  | .nan sg => nanRes sg
  | .inf n => if n then ⟨Fmt.f32.nan, flagIV⟩ else ⟨Fmt.f32.inf false, 0⟩
  | .fin n 0 _ => ⟨n.toNat * 2147483648, 0⟩
  | .fin true _ _ => ⟨Fmt.f32.nan, flagIV⟩
  | .fin false m e =>
    -- m 2^e = (m 2^(64 + o)) 2^(e - 64 - o) with an even exponent
    let o : Nat := if e % 2 = 0 then 0 else 1
    let w := m * 2 ^ (64 + o)
    let r := isqrt w
    Fmt.f32.round rm ftz false false (markRest r (r * r == w)) ((e - 64 - o) / 2 - 1)

/-- FRSQ: 1 / the square root (Table Al-7). -/
def frsq (ftz : Bool) (v : Nat) : FRes :=
  match Fmt.f32.decode ftz v with
  | .nan sg => nanRes sg
  | .inf n => if n then ⟨Fmt.f32.nan, flagIV⟩ else ⟨0, 0⟩
  | .fin n 0 _ => ⟨Fmt.f32.inf n, flagDZ⟩
  | .fin true _ _ => ⟨Fmt.f32.nan, flagIV⟩
  | .fin false m e =>
    -- 1 / (m 2^e) = (2^k / m) 2^(-e - k) with e + k even
    let k : Nat := 160 + (if (e + 160) % 2 = 0 then 0 else 1)
    let w := 2 ^ k / m
    let r := isqrt w
    Fmt.f32.round .rne ftz false false (markRest r (r * r == w && 2 ^ k % m == 0)) ((-e - k) / 2 - 1)

/-- FEXP2: 2^a (Table Al-7). -/
def fexp2 (ftz : Bool) (v : Nat) : FRes :=
  match Fmt.f32.decode ftz v with
  | .nan sg => nanRes sg
  | .inf n => if n then ⟨0, 0⟩ else ⟨Fmt.f32.inf false, 0⟩
  | .fin _ 0 _ => ⟨0x3F800000, 0⟩
  | .fin n m e =>
    -- a beyond ±1,024 overflows or underflows in the same way as ±1,024
    let big := decide (11 ≤ e + bitLen m)
    let x : Int := if big then (if n then -1024 else 1024) * fxOne else fxOf n m e
    let cut := decide (e + fracBits < 0)
    let i := x / fxOne
    let f := x % fxOne
    if f = 0 ∧ ¬ cut then Fmt.f32.round .rne ftz false false 1 i
    else fxRound ftz false (fxExp (fxMul f fxLn2)) i

/-- FLOG2: log2 a (Table Al-7). -/
def flog2 (ftz : Bool) (v : Nat) : FRes :=
  match Fmt.f32.decode ftz v with
  | .nan sg => nanRes sg
  | .inf n => if n then ⟨Fmt.f32.nan, flagIV⟩ else ⟨Fmt.f32.inf false, 0⟩
  | .fin _ 0 _ => ⟨Fmt.f32.inf true, flagDZ⟩
  | .fin true _ _ => ⟨Fmt.f32.nan, flagIV⟩
  | .fin false m e =>
    let k := bitLen m - 1
    let ex : Int := e + k
    if m = 2 ^ k then
      if ex = 0 then ⟨0, 0⟩ else Fmt.f32.round .rne ftz false (decide (ex < 0)) ex.natAbs 0
    else
      let x := fxOf false m (-(k : Int))
      let y := ex * fxOne + fxDiv (2 * fxAtanh (fxDiv (x - fxOne) (x + fxOne))) fxLn2
      fxRound ftz (decide (y < 0)) y.natAbs 0

/-- sin(π x) for x in fixed point, 0 ≤ x < 2: the sign and the magnitude, exact at multiples of 1/2. -/
def sinPiCore (x : Int) : Bool × Int × Bool :=
  let neg := decide (fxOne ≤ x)
  let y := if neg then x - fxOne else x
  let z := if fxOne < 2 * y then fxOne - y else y
  if z = 0 then (neg, 0, true)
  else if 2 * z = fxOne then (neg, fxOne, true)
  else (neg, fxSin (fxMul z fxPi), false)

/-- `m` × 2^`e` modulo 2, in fixed point; a number of 2^24 or more is an even integer unless its last bit counts 1. -/
def mod2 (m : Nat) (e : Int) : Int :=
  if 1 ≤ e then 0 else fxOf false m e % (2 * fxOne)

/-- FSIN: sin(π a) (Table Al-7). -/
def fsin (ftz : Bool) (v : Nat) : FRes :=
  match Fmt.f32.decode ftz v with
  | .nan sg => nanRes sg
  | .inf _ => ⟨Fmt.f32.nan, flagIV⟩
  | .fin n m e =>
    if m = 0 then ⟨n.toNat * 2147483648, 0⟩
    else
      let (ng, y, exact) := sinPiCore (mod2 m e)
      if exact then
        if y = 0 then ⟨n.toNat * 2147483648, 0⟩ else Fmt.f32.round .rne ftz false (n ^^ ng) 1 0
      else fxRound ftz (n ^^ ng) y 0

/-- FCOS: cos(π a) (Table Al-7). -/
def fcos (ftz : Bool) (v : Nat) : FRes :=
  match Fmt.f32.decode ftz v with
  | .nan sg => nanRes sg
  | .inf _ => ⟨Fmt.f32.nan, flagIV⟩
  | .fin _ m e =>
    let (ng, y, exact) := sinPiCore ((mod2 m e + fxOne / 2) % (2 * fxOne))
    if exact then
      if y = 0 then ⟨0, 0⟩ else Fmt.f32.round .rne ftz false ng 1 0
    else fxRound ftz ng y 0

/-- FTANH: tanh a (Table Al-7). -/
def ftanh (ftz : Bool) (v : Nat) : FRes :=
  match Fmt.f32.decode ftz v with
  | .nan sg => nanRes sg
  | .inf n => ⟨(if n then 0xBF800000 else 0x3F800000), 0⟩
  | .fin n m e =>
    if m = 0 then ⟨n.toNat * 2147483648, 0⟩
    else if 6 ≤ e + bitLen m then fxRound ftz n (fxOne - 1) 0
    else
      let x := fxOf false (2 * m) e
      let i := x / fxLn2
      let t := fxExp (x - i * fxLn2) * 2 ^ i.toNat
      fxRound ftz n (fxDiv (t - fxOne) (t + fxOne)) 0

end Sys2Proof.Machine
end

