-- ==== Sys2Proof/Machine/IntAlu.lean ====
section
/-!
DEFINITION. Integer and logic instructions of the ALU class: arithmetic (R167), logic (R168), shifts (R169), bit counts and bit
fields (R170, R171), moves, immediates and selects (R172 to R175), compares and flag logic (R176, R178).
-/
namespace Sys2Proof.Machine

/-- A 32-bit result of v[a] and v[b]. -/
def alu2 (u : Bool) (d a b : Nat) (s : State) (f : Word → Word → Word) : Out :=
  laneOp u [a, b] [d] s fun g l => [(d, f (g.reg l a) (g.reg l b))]

/-- A 32-bit result of v[a]. -/
def alu1 (u : Bool) (d a : Nat) (s : State) (f : Word → Word) : Out :=
  laneOp u [a] [d] s fun g l => [(d, f (g.reg l a))]

/-- A 64-bit result of pairs a and b. -/
def aluPair (u : Bool) (d a b : Nat) (s : State) (f : Double → Double → Double) : Out :=
  laneOp u [a, a + 1, b, b + 1] [d, d + 1] s fun g l => pairWrites d (f (g.pair l a) (g.pair l b))

/-- `x` narrowed to its low 32 bits (R8). -/
def narrow (x : Int) : Word := BitVec.ofInt 32 x

/-- `x` saturated to the signed or unsigned 32-bit range (Table Al-2, IADDS). -/
def saturate32 (isSigned : Bool) (x : Int) : Word :=
  if isSigned then narrow (max (-2147483648) (min 2147483647 x)) else narrow (max 0 (min 4294967295 x))

/-- v[x] as a signed or unsigned integer. -/
def asInt (isSigned : Bool) (x : Word) : Int := if isSigned then x.toInt else (x.toNat : Int)

/-- IADD (R167). -/
def execIadd (u : Bool) (d a b : Nat) (s : State) : Out := alu2 u d a b s (· + ·)

/-- ISUB (R167). -/
def execIsub (u : Bool) (d a b : Nat) (s : State) : Out := alu2 u d a b s (· - ·)

/-- IADDI: v[a] plus the sign-extended IMM9 (R167). -/
def execIaddi (u : Bool) (d a i : Nat) (s : State) : Out := alu1 u d a s (· + narrow (signed i 9))

/-- IMUL (R167). -/
def execImul (u : Bool) (d a b : Nat) (s : State) : Out := alu2 u d a b s (· * ·)

/-- IMULH: bits 63 to 32 of the signed (M 0) or unsigned (M 1) product (R167). -/
def execImulh (u : Bool) (d a b m : Nat) (s : State) : Out :=
  alu2 u d a b s fun x y => narrow (asInt (m == 0) x * asInt (m == 0) y / 4294967296)

/-- IMAD: v[a] × v[b] + v[d], or with the pair d as addend for M 1 (signed) and M 2 (unsigned) (R167). -/
def execImad (u : Bool) (d a b m : Nat) (s : State) : Out :=
  if m = 0 then laneOp u [a, b, d] [d] s fun g l => [(d, g.reg l a * g.reg l b + g.reg l d)]
  else laneOp u [a, b, d, d + 1] [d, d + 1] s fun g l =>
    pairWrites d (BitVec.ofInt 64 (asInt (m == 1) (g.reg l a) * asInt (m == 1) (g.reg l b)) + g.pair l d)

/-- IMIN (R167). -/
def execImin (u : Bool) (d a b m : Nat) (s : State) : Out :=
  alu2 u d a b s fun x y => if asInt (m == 0) x ≤ asInt (m == 0) y then x else y

/-- IMAX (R167). -/
def execImax (u : Bool) (d a b m : Nat) (s : State) : Out :=
  alu2 u d a b s fun x y => if asInt (m == 0) x ≤ asInt (m == 0) y then y else x

/-- IABS: the magnitude of v[a]; 0x8000_0000 stays with M 0 and saturates with M 1 (R167). -/
def execIabs (u : Bool) (d a m : Nat) (s : State) : Out :=
  alu1 u d a s fun x => if m = 1 then saturate32 true x.toInt.natAbs else narrow x.toInt.natAbs

/-- IADDS: a saturated sum (M 0, 1) or difference (M 2, 3), signed (M 0, 2) or unsigned (M 1, 3) (R167). -/
def execIadds (u : Bool) (d a b m : Nat) (s : State) : Out :=
  alu2 u d a b s fun x y =>
    let sg := m == 0 || m == 2
    saturate32 sg (if m ≤ 1 then asInt sg x + asInt sg y else asInt sg x - asInt sg y)

/-- IADD64 (R167). -/
def execIadd64 (u : Bool) (d a b : Nat) (s : State) : Out := aluPair u d a b s (· + ·)

/-- ISUB64 (R167). -/
def execIsub64 (u : Bool) (d a b : Nat) (s : State) : Out := aluPair u d a b s (· - ·)

/-- IXADD: v[a] + v[b] × 1, 4, 8 or 16 for M 0 to 3 (R167). -/
def execIxadd (u : Bool) (d a b m : Nat) (s : State) : Out :=
  alu2 u d a b s fun x y => x + y * BitVec.ofNat 32 (match m with | 0 => 1 | 1 => 4 | 2 => 8 | _ => 16)

/-- AND (R168). -/
def execAnd (u : Bool) (d a b : Nat) (s : State) : Out := alu2 u d a b s (· &&& ·)

/-- OR (R168). -/
def execOr (u : Bool) (d a b : Nat) (s : State) : Out := alu2 u d a b s (· ||| ·)

/-- XOR (R168). -/
def execXor (u : Bool) (d a b : Nat) (s : State) : Out := alu2 u d a b s (· ^^^ ·)

/-- ANDN: v[a] and not v[b] (R168). -/
def execAndn (u : Bool) (d a b : Nat) (s : State) : Out := alu2 u d a b s fun x y => x &&& ~~~y

/-- ANDI, with zero-extended IMM9 (R168). -/
def execAndi (u : Bool) (d a i : Nat) (s : State) : Out := alu1 u d a s (· &&& BitVec.ofNat 32 i)

/-- ORI, with zero-extended IMM9 (R168). -/
def execOri (u : Bool) (d a i : Nat) (s : State) : Out := alu1 u d a s (· ||| BitVec.ofNat 32 i)

/-- XORI, with zero-extended IMM9 (R168). -/
def execXori (u : Bool) (d a i : Nat) (s : State) : Out := alu1 u d a s (· ^^^ BitVec.ofNat 32 i)

/-- `x` shifted left by a count of any size (R169). -/
def shiftLeft (x : Word) (n : Nat) : Word := if 32 ≤ n then 0 else x <<< n

/-- `x` shifted right by a count of any size (R169). -/
def shiftRight (x : Word) (n : Nat) : Word := if 32 ≤ n then 0 else x >>> n

/-- `x` shifted right with copies of its sign by a count of any size (R169). -/
def shiftRightSigned (x : Word) (n : Nat) : Word :=
  if 32 ≤ n then (if x.msb then 0xFFFFFFFF else 0) else x.sshiftRight n

/-- SHL (R169). -/
def execShl (u : Bool) (d a b : Nat) (s : State) : Out := alu2 u d a b s fun x y => shiftLeft x y.toNat

/-- SHR (R169). -/
def execShr (u : Bool) (d a b : Nat) (s : State) : Out := alu2 u d a b s fun x y => shiftRight x y.toNat

/-- SAR (R169). -/
def execSar (u : Bool) (d a b : Nat) (s : State) : Out := alu2 u d a b s fun x y => shiftRightSigned x y.toNat

/-- SHLI (R169). -/
def execShli (u : Bool) (d a i : Nat) (s : State) : Out := alu1 u d a s (shiftLeft · i)

/-- SHRI (R169). -/
def execShri (u : Bool) (d a i : Nat) (s : State) : Out := alu1 u d a s (shiftRight · i)

/-- SARI (R169). -/
def execSari (u : Bool) (d a i : Nat) (s : State) : Out := alu1 u d a s (shiftRightSigned · i)

/-- How many of the lowest `n` bits of `x` are 1. -/
def popCount (x : Nat) : Nat → Nat
  | 0 => 0
  | n + 1 => x % 2 + popCount (x / 2) n

/-- The number of 0 bits above the highest 1 bit among the lowest `n` bits of `x`. -/
def leadingZeros (x : Nat) : Nat → Nat
  | 0 => 0
  | n + 1 => if 2 ^ n ≤ x then 0 else leadingZeros x n + 1

/-- The lowest `n` bits of `x` in reverse order. -/
def reverseBits (x : Nat) : Nat → Nat
  | 0 => 0
  | n + 1 => x % 2 * 2 ^ n + reverseBits (x / 2) n

/-- POPC (R170). -/
def execPopc (u : Bool) (d a : Nat) (s : State) : Out := alu1 u d a s fun x => BitVec.ofNat 32 (popCount x.toNat 32)

/-- CLZ; 32 for 0 (R170). -/
def execClz (u : Bool) (d a : Nat) (s : State) : Out := alu1 u d a s fun x => BitVec.ofNat 32 (leadingZeros x.toNat 32)

/-- BREV (R170). -/
def execBrev (u : Bool) (d a : Nat) (s : State) : Out := alu1 u d a s fun x => BitVec.ofNat 32 (reverseBits x.toNat 32)

/-- POS and LEN of a bit-field instruction: from the extension word, or from v[b] (R171). -/
def fieldOf (m pos len : Nat) (vb : Word) : Nat × Nat :=
  if m = 1 then (vb.toNat % 256, min (vb.toNat / 256 % 256) 32) else (pos, len)

/-- The field of `n` bits of `x` from bit `p`, sign-extended with SGN where it is not empty (R171). -/
def extractField (sgn : Bool) (x : Word) (p n : Nat) : Word :=
  let f := x.toNat / 2 ^ p % 2 ^ n
  if sgn && n != 0 then narrow (signed f n) else BitVec.ofNat 32 f

/-- `x` with the low `n` bits of `y` at bit `p` (R171). -/
def insertField (x y : Word) (p n : Nat) : Word :=
  let m : Word := BitVec.ofNat 32 ((2 ^ n - 1) * 2 ^ p)
  (x &&& ~~~m) ||| (BitVec.ofNat 32 (y.toNat * 2 ^ p) &&& m)

/-- BFE (R171). -/
def execBfe (u : Bool) (d a b m pos len : Nat) (sgn : Bool) (s : State) : Out :=
  laneOp u (if m = 1 then [a, b] else [a]) [d] s fun g l =>
    let (p, n) := fieldOf m pos len (g.reg l b)
    [(d, extractField sgn (g.reg l a) p n)]

/-- BFI; v[d] is a source (R171). -/
def execBfi (u : Bool) (d a b m pos len : Nat) (s : State) : Out :=
  laneOp u (if m = 1 then [a, b, d] else [a, d]) [d] s fun g l =>
    let (p, n) := fieldOf m pos len (g.reg l b)
    [(d, insertField (g.reg l d) (g.reg l a) p n)]

/-- MOV: v[a], or pair a with M 1 (R172). -/
def execMov (u : Bool) (d a m : Nat) (s : State) : Out :=
  if m = 1 then laneOp u [a, a + 1] [d, d + 1] s fun g l => pairWrites d (g.pair l a)
  else alu1 u d a s id

/-- LI: IMM15, sign-extended (M 0) or zero-extended (M 1) (R173). -/
def execLi (u : Bool) (d m i : Nat) (s : State) : Out :=
  laneOp u [] [d] s fun _ _ => [(d, if m = 0 then narrow (signed i 15) else BitVec.ofNat 32 i)]

/-- LIX: the extension word, or with M 1 the pair it makes with the sign-extended IMM15 above it (R173). -/
def execLix (u : Bool) (d m i x : Nat) (s : State) : Out :=
  if m = 0 then laneOp u [] [d] s fun _ _ => [(d, BitVec.ofNat 32 x)]
  else laneOp u [] [d, d + 1] s fun _ _ => pairWrites d (BitVec.ofInt 64 (x + signed i 15 * 4294967296))

/-- SEL: v[a] where flag `cf`, inverted by INV, is 1, else v[b]; pairs with M 1 (R174). -/
def execSel (u : Bool) (d a b m cf : Nat) (inv : Bool) (s : State) : Out :=
  if m = 1 then laneOp u [a, a + 1, b, b + 1] [d, d + 1] s fun g l =>
    pairWrites d (if (g.flag l cf ^^ inv) then g.pair l a else g.pair l b)
  else laneOp u [a, b] [d] s fun g l => [(d, if (g.flag l cf ^^ inv) then g.reg l a else g.reg l b)]

/-- The lanes of an issue that must wait for a future keep what special register `n` holds at the issue (R175, R271). -/
def State.keepSpecial (s : State) (u : Bool) (writes : List Nat) (n : Nat) : State :=
  if s.futureLanes u [] writes = [] ∨ (s.me.lowestOutside writes).isSome then s
  else s.modMe fun g => s.issue.lanes.foldl (fun h l => h.modLane l fun x =>
    if x.saved = [] then { x with saved := [s.special l n] } else x) g

/-- What special register `n` held for lane `l` when its instruction issued (R175). -/
def State.specialAt (s : State) (l n : Nat) : Nat := ((s.me.lane l).saved.head?).getD (s.special l n)

/-- MOVS: a 32-bit special register (R175). -/
def execMovs (u : Bool) (d n : Nat) (s : State) : Out :=
  issueWith u [] [d] (s.keepSpecial u [d] n) fun t =>
    .next (t.writeLanes u fun _ l => [(d, BitVec.ofNat 32 (t.specialAt l n))]).retire

/-- MOVSW: a 64-bit special register into a pair (R175). -/
def execMovsw (u : Bool) (d n : Nat) (s : State) : Out :=
  issueWith u [] [d, d + 1] (s.keepSpecial u [d, d + 1] n) fun t =>
    .next (t.writeLanes u fun _ l => pairWrites d (BitVec.ofNat 64 (t.specialAt l n))).retire

/-- ICMP: c[CD] is relation `k` of v[a] to v[b] under type `m` (R176). -/
def execIcmp (u : Bool) (c k a b m : Nat) (s : State) : Out :=
  if m ≤ 1 then flagOp u [a, b] c s fun g l => intRel k (typedInt m (g.reg l a).toNat) (typedInt m (g.reg l b).toNat)
  else flagOp u [a, a + 1, b, b + 1] c s fun g l =>
    intRel k (typedInt m (g.pair l a).toNat) (typedInt m (g.pair l b).toNat)

/-- CLOG: c[CD] is bit 2x + y of CC (R178). -/
def execClog (u : Bool) (c k p q : Nat) (s : State) : Out :=
  flagOp u [] c s fun g l => truthTable k (g.flag l p) (g.flag l q)

end Sys2Proof.Machine
end

