-- ==== Sys2Proof/Machine/FpAlu.lean ====
section
/-!
DEFINITION. The floating-point instructions of the ALU class: FP32 arithmetic (R179 to R182), special functions (R183), packed 16-bit
arithmetic (R184), compares (R177), and the frame they share: flags, traps and verdict operands (R126, R127, R137, R166).
-/
namespace Sys2Proof.Machine

/-- What a floating-point instruction computes for a lane: register writes, a condition flag, the flags raised, the lane's next
stochastic-rounding state where it draws, and a byte written into a register (register, byte, value). -/
structure FpOut where
  writes : List (Nat × Word)
  cflag  : Option (Nat × Bool)
  flags  : FpFlags
  sr     : Option Word
  byte   : Option (Nat × Nat × Nat)
  deriving DecidableEq, Repr

/-- Byte `k` of a word. -/
def byteOf (v : Word) (k : Nat) : Nat := v.toNat / 256 ^ k % 256

/-- The word with byte `k` replaced. -/
def setByte (v : Word) (k x : Nat) : Word := BitVec.ofNat 32 (v.toNat - byteOf v k * 256 ^ k + x % 256 * 256 ^ k)

/-- The register writes of a lane whose registers are `old`: the results, then a word whose other bytes the lane keeps. -/
def FpOut.regs (o : FpOut) (old : Nat → Word) : List (Nat × Word) :=
  match o.byte with
  | some (r, k, x) => o.writes ++ [(r, setByte (old r) k x)]
  | none => o.writes

/-- FPCTL.RM (Table Nf-5). -/
def State.rm (s : State) : Rm := Rm.ofCode (s.fpctl.toNat % 4)

/-- FPCTL.FTZ. -/
def State.ftz (s : State) : Bool := s.fpctl.getLsbD 3

/-- FPCTL.VTRAP. -/
def State.vtrap (s : State) : Bool := s.fpctl.getLsbD 9

/-- The trap enables IVE to NXE of FPCTL, in the layout of `$fpf`. -/
def State.fpEnables (s : State) : FpFlags := s.fpctl.extractLsb' 4 5

/-- The lowest active lane with a verdict among its FP32 operands: the lane, the operand's code (0 A, 1 B, 2 D) and the verdict. -/
def State.verdictOperand (s : State) (u : Bool) (operands : List (Nat × Nat)) : Option (Nat × Nat × Word) :=
  let ls := if u then s.issue.lanes.take 1 else s.issue.lanes
  ls.findSome? fun l => operands.findSome? fun o =>
    if isVerdict (s.me.reg l o.2) then some (l, o.1, s.me.reg l o.2) else none

/-- The frame of a floating-point instruction: a verdict operand under VTRAP raises VERDICT_OPERAND; an enabled exception in any
lane sets its flags and raises FP_EXCEPTION; otherwise the lanes' results are written and the flags set (R126, R127, R137, R400).
`operands` are the FP32 operands with their codes; `a` is the register whose value FP_EXCEPTION reports. -/
def fpStep (u : Bool) (operands : List (Nat × Nat)) (a : Nat) (flag : State → Option Nat) (f : State → Nat → FpOut) (t : State) : Out :=
  match (if t.vtrap then t.verdictOperand u operands else none) with
  | some (l, o, v) => .next (t.raise 0x19 (l + o * 256) v.toNat 0)
  | none =>
    let src := if u then t.issue.lanes.take 1 else t.issue.lanes
    let outs := src.map fun l => (l, f t l)
    let raised := outs.foldl (fun x o => x ||| o.2.flags) 0
    let t1 := t.modMe fun g => { g with fpf := g.fpf ||| raised }
    match outs.find? (fun o => decide (o.2.flags &&& t.fpEnables ≠ 0)) with
    | some o =>
      .next (t1.raise 0x1A ((raised &&& t.fpEnables).toNat + o.1 * 256) (t.me.reg o.1 a).toNat 0)
    | none =>
      let get (l : Nat) : Option (Nat × FpOut) := outs.find? (fun o => o.1 == srcLane u t.issue.lanes l)
      let t2 := t1.modMe fun g => t.issue.lanes.foldl (fun h l =>
        match get l with
        | none => h
        | some o =>
          let h1 := h.setRegs l (o.2.regs (t.me.reg l))
          match o.2.cflag with
          | some (c, b) => h1.setFlag l c b
          | none => h1) g
      let t3 := t2.modMe fun g => outs.foldl (fun h o =>
        match o.2.sr with
        | some x => h.modLane o.1 ({ · with sr := x })
        | none => h) g
      .next ((t3.track (flag t)).retire)

/-- A floating-point instruction that lanes execute (`fpStep`). -/
def fpOp (u : Bool) (reads writes : List Nat) (operands : List (Nat × Nat)) (a : Nat) (flag : State → Option Nat) (s : State)
    (f : State → Nat → FpOut) : Out :=
  issueWith u reads writes s (fpStep u operands a flag f)

/-- A floating-point instruction over the whole set (`fpStep`, `issueSet`). -/
def fpSet (reads writes : List Nat) (operands : List (Nat × Nat)) (a : Nat) (flag : State → Option Nat) (s : State)
    (f : State → Nat → FpOut) : Out :=
  issueSet reads writes s (fpStep false operands a flag f)

/-- One register written with an encoding. -/
def FRes.out (r : FRes) (d : Nat) : FpOut := ⟨[(d, BitVec.ofNat 32 r.bits)], none, r.flags, none, none⟩

/-- No flag tracks the instruction. -/
def noFlag (_ : State) : Option Nat := none

/-- An FP32 instruction of v[a] and v[b]. -/
def fp2 (u : Bool) (d a b : Nat) (s : State) (f : State → Nat → Nat → FRes) : Out :=
  fpOp u [a, b] [d] [(0, a), (1, b)] a noFlag s fun t l => (f t (t.me.reg l a).toNat (t.me.reg l b).toNat).out d

/-- The rounding that M selects for FADD, FSUB, FMUL, FRCP and FSQRT: 0 FPCTL.RM, 1 RTZ, 2 RUP, 3 RDN (R179). -/
def State.rmOf (s : State) (m : Nat) : Rm := if m = 0 then s.rm else Rm.ofCode m

/-- FADD (R179). -/
def execFadd (u : Bool) (d a b m : Nat) (s : State) : Out :=
  fp2 u d a b s fun t x y => Fmt.f32.sum (t.rmOf m) t.ftz false [Fmt.f32.decode t.ftz x, Fmt.f32.decode t.ftz y]

/-- FSUB (R179). -/
def execFsub (u : Bool) (d a b m : Nat) (s : State) : Out :=
  fp2 u d a b s fun t x y => Fmt.f32.sum (t.rmOf m) t.ftz false [Fmt.f32.decode t.ftz x, (Fmt.f32.decode t.ftz y).flip]

/-- The rounded product of two FP32 encodings. -/
def fmulRes (rm : Rm) (ftz : Bool) (f : Fmt) (x y : Nat) : FRes :=
  let p := f.decode ftz x
  let q := f.decode ftz y
  if p.isNan || q.isNan then ⟨f.nan, if anySignalling [p, q] then flagIV else 0⟩
  else match p.mul q with
  | none => ⟨f.nan, flagIV⟩
  | some (.inf n) => ⟨f.inf n, 0⟩
  | some (.fin n m e) => f.round rm ftz false n m e
  | some (.nan _) => ⟨f.nan, 0⟩

/-- FMUL (R179). -/
def execFmul (u : Bool) (d a b m : Nat) (s : State) : Out :=
  fp2 u d a b s fun t x y => fmulRes (t.rmOf m) t.ftz .f32 x y

/-- FFMA: ±(a × b) ± c with c the old v[d], rounded once by FPCTL.RM (R179). -/
def execFfma (u : Bool) (d a b m : Nat) (s : State) : Out :=
  fpOp u [a, b, d] [d] [(0, a), (1, b), (2, d)] a noFlag s fun t l =>
    let x := Fmt.f32.decode t.ftz (t.me.reg l a).toNat
    let y := Fmt.f32.decode t.ftz (t.me.reg l b).toNat
    let c := Fmt.f32.decode t.ftz (t.me.reg l d).toNat
    (Fmt.f32.dot t.rm t.ftz [(if 2 ≤ m then x.flip else x, y)] [if m = 1 ∨ m = 3 then c.flip else c]).out d

/-- FMIN: minimumNumber (M 0) or minimum (M 1) (R180). -/
def execFmin (u : Bool) (d a b m : Nat) (s : State) : Out :=
  fp2 u d a b s fun t x y => Fmt.f32.minMax t.ftz false (m == 1) x y

/-- FMAX: maximumNumber (M 0) or maximum (M 1) (R180). -/
def execFmax (u : Bool) (d a b m : Nat) (s : State) : Out :=
  fp2 u d a b s fun t x y => Fmt.f32.minMax t.ftz true (m == 1) x y

/-- FCMP: c[CD] is relation `k`; M 1 signals any NaN (R177). -/
def execFcmp (u : Bool) (c k a b m : Nat) (s : State) : Out :=
  fpOp u [a, b] [] [(0, a), (1, b)] a noFlag s fun t l =>
    let (r, fl) := fpRel k (m == 1) (Fmt.f32.decode t.ftz (t.me.reg l a).toNat) (Fmt.f32.decode t.ftz (t.me.reg l b).toNat)
    ⟨[], some (c, r), fl, none, none⟩

/-- A special function of v[a], tracked by SETA (R183, Table En-2). -/
def fpFun (u : Bool) (d a : Nat) (s : State) (f : State → Nat → FRes) : Out :=
  fpOp u [a] [d] [(0, a)] a State.setA s fun t l => (f t (t.me.reg l a).toNat).out d

/-- FRCP (R183). -/
def execFrcp (u : Bool) (d a m : Nat) (s : State) : Out := fpFun u d a s fun t x => frcp (t.rmOf m) t.ftz x

/-- FRSQ (R183). -/
def execFrsq (u : Bool) (d a : Nat) (s : State) : Out := fpFun u d a s fun t x => frsq t.ftz x

/-- FSQRT (R183). -/
def execFsqrt (u : Bool) (d a m : Nat) (s : State) : Out := fpFun u d a s fun t x => fsqrt (t.rmOf m) t.ftz x

/-- FEXP2 (R183). -/
def execFexp2 (u : Bool) (d a : Nat) (s : State) : Out := fpFun u d a s fun t x => fexp2 t.ftz x

/-- FLOG2 (R183). -/
def execFlog2 (u : Bool) (d a : Nat) (s : State) : Out := fpFun u d a s fun t x => flog2 t.ftz x

/-- FSIN (R183). -/
def execFsin (u : Bool) (d a : Nat) (s : State) : Out := fpFun u d a s fun t x => fsin t.ftz x

/-- FCOS (R183). -/
def execFcos (u : Bool) (d a : Nat) (s : State) : Out := fpFun u d a s fun t x => fcos t.ftz x

/-- FTANH (R183). -/
def execFtanh (u : Bool) (d a : Nat) (s : State) : Out := fpFun u d a s fun t x => ftanh t.ftz x

/-- An FP32 encoding rounded to an integral value; NX is never raised (R181). -/
def frndRes (rm : Rm) (ftz : Bool) (v : Nat) : FRes :=
  match Fmt.f32.decode ftz v with
  | .nan sg => nanRes sg
  | .inf n => ⟨Fmt.f32.inf n, 0⟩
  | .fin n m e => ⟨(Fmt.f32.round .rtz false false n (roundAt rm n m e 0).1 0).bits, 0⟩

/-- FRND: M selects RNE, RTZ, RUP or RDN (R181). -/
def execFrnd (u : Bool) (d a m : Nat) (s : State) : Out :=
  fpOp u [a] [d] [(0, a)] a noFlag s fun t l => (frndRes (Rm.ofCode m) t.ftz (t.me.reg l a).toNat).out d

/-- FCPS: v[a] with bit 31 from v[b], its complement, or the exclusive-or of both; bits only (R182). -/
def execFcps (u : Bool) (d a b m : Nat) (s : State) : Out :=
  alu2 u d a b s fun x y =>
    let sign : Bool := match m with | 0 => y.msb | 1 => !y.msb | _ => x.msb ^^ y.msb
    (x &&& 0x7FFFFFFF) ||| (if sign then 0x80000000 else 0)

/-- The format that a packed instruction's M[0] selects (R184). -/
def packedFmt (bf : Bool) : Fmt := if bf then .bf16 else .f16

/-- A packed instruction: `f` on elements 0 and 1 of v[a], v[b] and v[d]; the flags of both count (R184). -/
def packedOp (u : Bool) (d a b : Nat) (readD : Bool) (s : State) (f : State → Nat → Nat → Nat → FRes) : Out :=
  fpOp u (if readD then [a, b, d] else [a, b]) [d] [] a noFlag s fun t l =>
    let x := (t.me.reg l a).toNat
    let y := (t.me.reg l b).toNat
    let z := (t.me.reg l d).toNat
    let r0 := f t (x % 65536) (y % 65536) (z % 65536)
    let r1 := f t (x / 65536) (y / 65536) (z / 65536)
    ⟨[(d, BitVec.ofNat 32 (r0.bits + 65536 * r1.bits))], none, r0.flags ||| r1.flags, none, none⟩

/-- HADD2 (R184). -/
def execHadd2 (u : Bool) (d a b : Nat) (bf : Bool) (s : State) : Out :=
  packedOp u d a b false s fun t x y _ =>
    (packedFmt bf).sum t.rm t.ftz false [(packedFmt bf).decode t.ftz x, (packedFmt bf).decode t.ftz y]

/-- HMUL2 (R184). -/
def execHmul2 (u : Bool) (d a b : Nat) (bf : Bool) (s : State) : Out :=
  packedOp u d a b false s fun t x y _ => fmulRes t.rm t.ftz (packedFmt bf) x y

/-- HFMA2 (R184). -/
def execHfma2 (u : Bool) (d a b : Nat) (bf : Bool) (s : State) : Out :=
  packedOp u d a b true s fun t x y z =>
    let f := packedFmt bf
    f.dot t.rm t.ftz [(f.decode t.ftz x, f.decode t.ftz y)] [f.decode t.ftz z]

/-- HMIN2 (R184). -/
def execHmin2 (u : Bool) (d a b : Nat) (bf : Bool) (s : State) : Out :=
  packedOp u d a b false s fun t x y _ => (packedFmt bf).minMax t.ftz false false x y

/-- HMAX2 (R184). -/
def execHmax2 (u : Bool) (d a b : Nat) (bf : Bool) (s : State) : Out :=
  packedOp u d a b false s fun t x y _ => (packedFmt bf).minMax t.ftz true false x y

/-- HDOT2: a0 × b0 + a1 × b1 + v[d], exact, rounded once to FP32; the addend may be a verdict (R184). -/
def execHdot2 (u : Bool) (d a b : Nat) (bf : Bool) (s : State) : Out :=
  fpOp u [a, b, d] [d] [(2, d)] a noFlag s fun t l =>
    let f := packedFmt bf
    let x := (t.me.reg l a).toNat
    let y := (t.me.reg l b).toNat
    (Fmt.f32.dot t.rm t.ftz
      [(f.decode t.ftz (x % 65536), f.decode t.ftz (y % 65536)), (f.decode t.ftz (x / 65536), f.decode t.ftz (y / 65536))]
      [Fmt.f32.decode t.ftz (t.me.reg l d).toNat]).out d

/-- VCLASS's class and fields of an encoding (Table Al-13). -/
def vclass (x : Word) : Word :=
  let v := x.toNat
  let cls := if isVerdict x then (if v / 4096 % 16 = 1 then 6 else 7)
    else match Fmt.f32.decode false v with
      | .nan sg => if sg then 5 else 4
      | .inf _ => 3
      | .fin _ m _ => if m = 0 then 0 else if m < 8388608 then 1 else 2
  BitVec.ofNat 32 (cls + v / 2147483648 * 16 + (if isVerdict x then v % 4096 * 65536 else 0))

/-- VCLASS (R191). -/
def execVclass (u : Bool) (d a : Nat) (s : State) : Out := alu1 u d a s vclass

/-- VZERO: +0 for a verdict, and with `.relu` for a negative value that is no NaN (R191). -/
def execVzero (u : Bool) (d a m : Nat) (s : State) : Out :=
  alu1 u d a s fun x =>
    if isVerdict x || (m == 1 && x.msb && !(Fmt.f32.decode false x.toNat).isNan) then 0 else x

/-- VFILL: v[b] for a verdict (R191). -/
def execVfill (u : Bool) (d a b : Nat) (s : State) : Out := alu2 u d a b s fun x y => if isVerdict x then y else x

end Sys2Proof.Machine
end

