-- ==== Sys2Proof/Machine/Convert.lean ====
section
/-!
DEFINITION. Conversions, quantisation, dequantisation, scaling and the Walsh-Hadamard transform (R117 to R122, R185 to R190).
-/
namespace Sys2Proof.Machine

/-- Element `k` of width `w` of a block packed in the number `v` (R185). -/
def elemOf (v w k : Nat) : Nat := fld v (w * k) w

/-- Elements of width `w` packed into one number, element 0 lowest (R185). -/
def packElems (w : Nat) : List Nat → Nat
  | [] => 0
  | x :: xs => x + 2 ^ w * packElems w xs

/-- The rounding mode that a conversion's RM code gives, with the draw of its element under code 4, and FPCTL.RM under code 5
(Table Nf-4). -/
def State.convRm (s : State) (rm : Nat) (draw : Word) : Rm :=
  match rm with
  | 4 => .sr draw.toNat
  | 5 => s.rm
  | c => Rm.ofCode c

/-- `f` on each element in ascending order, the stochastic-rounding state advancing once for each (R130). -/
def mapDraws {α : Type} (xs : List α) (sr : Word) (f : α → Word → FRes) : List FRes :=
  match xs with
  | [] => []
  | x :: t => f x (srNext sr) :: mapDraws t (srNext sr) f

/-- The stochastic-rounding state after `n` draws. -/
def srAfter (sr : Word) : Nat → Word
  | 0 => sr
  | n + 1 => srAfter (srNext sr) n

/-- The flags of several results together. -/
def allFlags (rs : List FRes) : FpFlags := rs.foldl (fun a r => a ||| r.flags) 0

/-- The FP32 source registers of a conversion, as operands that may be verdicts. -/
def f32Operands (src a n : Nat) : List (Nat × Nat) := if src = 0 then (List.range n).map fun k => (0, a + k) else []

/-- Registers `r` to `r + n - 1`. -/
def regRange (r n : Nat) : List Nat := (List.range n).map (r + ·)

/-- CVT: N elements of type `src` from v[a] converted to type `dst` from v[d] (R186). With an integer source it sets no flag and never
traps (R166; log 117). -/
def execCvt (u : Bool) (d a src dst rm : Nat) (satx : Bool) (ncnt : Nat) (s : State) : Out :=
  let n := cvtCount ncnt
  let ra := typeRegs n src
  let rd := typeRegs n dst
  fpOp u (regRange a ra) (regRange d rd) (f32Operands src a n) a noFlag s fun t l =>
    let v := t.me.words l a ra
    let sr := (t.me.lane l).sr
    let rs := mapDraws ((List.range n).map (elemOf v (typeWidth src))) sr fun x dr =>
      convertElem src dst (t.convRm rm dr) t.ftz ((dst == 3) ^^ satx) x
    ⟨wordWrites d (packElems (typeWidth dst) (rs.map (·.bits))) rd, none,
      if src ≤ 4 then allFlags rs else 0, if rm = 4 then some (srAfter sr n) else none, none⟩

/-- The exact sum of values as a value: NaN for a NaN or opposed infinities, which raise IV beside a NaN too (R190). DESIGN CHOICE: an
exactly zero sum is +0 in every rounding mode, also of terms −0 (log 118). -/
def sumVal (xs : List FVal) : FVal :=
  if anySignalling xs || opposed xs then .nan true
  else if xs.any (·.isNan) then .nan false
  else if xs.contains (.inf true) then .inf true
  else if xs.contains (.inf false) then .inf false
  else
    let (n, e) := exactSum xs
    .fin (decide (n < 0)) n.natAbs e

/-- Row `i` of the Walsh-Hadamard transform of a block (R122). -/
def hadamardRow (xs : List FVal) (i : Nat) : FVal :=
  sumVal (xs.zipIdx.map fun p => if popCount (Nat.land i p.2) 5 % 2 = 1 then p.1.flip else p.1)

/-- The unnormalised transform of a block (R122). -/
def hadamard (xs : List FVal) : List FVal := (List.range xs.length).map (hadamardRow xs)

/-- A value times 2^`k`. -/
def FVal.scale (x : FVal) (k : Int) : FVal :=
  match x with
  | .fin n m e => .fin n m (e + k)
  | y => y

/-- The magnitudes of a V4 code type in eighths, by index; type 00 has the integers up to 8 (Table Nf-3). -/
def v4Magnitudes (ty : Nat) : List Nat :=
  match ty with
  | 0 => [0, 8, 16, 24, 32, 40, 48, 56, 64]
  | 1 => [0, 4, 8, 12, 16, 24, 32, 48]
  | 2 => [0, 1, 2, 4, 8, 16, 32, 64]
  | _ => [0, 8, 16, 24, 32, 48, 64, 96]

/-- The value of a V4 code under its type (R118). -/
def v4Value (ty code : Nat) : FVal :=
  if ty = 0 then
    let i := signed code 4
    .fin (decide (i < 0)) i.natAbs 0
  else if code = 8 then .fin false 0 0
  else .fin (decide (8 ≤ code)) ((v4Magnitudes ty)[code % 8]?.getD 0) (-3)

/-- The magnitude index that ± `num` / `den` eighths rounds to among `ms` from index `i`: the index and whether it is inexact; a
magnitude beyond the last is none (R119, R130). -/
def v4Index (rm : Rm) (neg : Bool) (num den : Nat) : Nat → List Nat → Option (Nat × Bool)
  | i, lo :: hi :: t =>
    if num = lo * den then some (i, false)
    else if num < hi * den then
      let rem := num - lo * den
      let gap := (hi - lo) * den
      let up := match rm with
        | .rne => decide (gap < 2 * rem) || (decide (2 * rem = gap) && i % 2 == 1)
        | .rtz => false
        | .rup => !neg
        | .rdn => neg
        | .sr x => decide (x ≤ rem * 4294967296 / gap)
      some (if up then i + 1 else i, true)
    else v4Index rm neg num den (i + 1) (hi :: t)
  | i, [last] => if num = last * den then some (i, false) else none
  | _, [] => none

/-- The V4 code of the quotient `q` under type `ty` (R119): out of range it saturates, with OF and NX. -/
def v4Code (ty : Nat) (rm : Rm) (q : FVal) : FRes :=
  let code (neg : Bool) (i : Nat) : Nat := if i = 0 then 0 else if ty = 0 then (if neg then 16 - i else i) else neg.toNat * 8 + i
  let top (neg : Bool) : Nat := if ty = 0 then (if neg then 8 else 7) else 7
  match q with
  | .nan _ => ⟨0, flagIV⟩
  | .inf n => ⟨code n (top n), flagOF ||| flagNX⟩
  | .fin n m e =>
    let num := m * 2 ^ (e + 3).toNat
    let den := 2 ^ (-(e + 3)).toNat
    match v4Index rm n num den 0 ((v4Magnitudes ty).take (top n + 1)) with
    | some (i, inexact) => ⟨code n i, if inexact then flagNX else 0⟩
    | none => ⟨code n (top n), flagOF ||| flagNX⟩

/-- `m` × 2^`x` is at most `lmax` × 2^`e`. -/
def leScaled (m : Nat) (x : Int) (lmax : Nat) (e : Int) : Bool :=
  let k := min x e
  decide (m * 2 ^ (x - k).toNat ≤ lmax * 2 ^ (e - k).toNat)

/-- The least exponent e with `m` × 2^`x` ≤ `lmax` × 2^e; 0 for 0 (R187). -/
def leastExp (m : Nat) (x : Int) (lmax : Nat) : Int :=
  if m = 0 then 0
  else
    let e0 : Int := x + bitLen m - bitLen lmax - 1
    if leScaled m x lmax e0 then e0
    else if leScaled m x lmax (e0 + 1) then e0 + 1
    else if leScaled m x lmax (e0 + 2) then e0 + 2
    else e0 + 3

/-- The greatest finite magnitude of a block. -/
def maxMagnitude (xs : List FVal) : Nat × Int :=
  xs.foldl (fun a x => match x with
    | .fin _ m e => if (FVal.fin false a.1 a.2).lt (.fin false m e) then (m, e) else a
    | _ => a) (0, 0)

/-- Lmax of a target (R187). -/
def lmaxOf (dst vtype : Nat) : Nat :=
  if dst = 3 then 448 else if dst = 4 then 57344 else (match vtype with | 0 => 7 | 1 => 6 | 2 => 8 | _ => 12)

/-- The scale byte that CVTQ chooses for a block (R187). -/
def chooseScale (dst vtype : Nat) (xs : List FVal) : Nat :=
  let (m, x) := maxMagnitude xs
  let e := leastExp m x (lmaxOf dst vtype)
  if dst = 10 then vtype * 64 + (max 0 (min 63 (e + 32))).toNat else (max 0 (min 254 (e + 127))).toNat

/-- The codes of a block under its scale byte, with the draws of its elements (R187). -/
def quantise (t : State) (dst rm : Nat) (satx : Bool) (byte : Nat) (xs : List FVal) (sr : Word) : List FRes :=
  mapDraws xs sr fun x dr =>
    if dst = 10 then v4Code (byte / 64) (t.convRm rm dr) (x.scale (32 - (byte % 64 : Nat)))
    else if byte = 255 then ⟨(Fmt.ofCode dst).nan, 0⟩
    else
      let f := Fmt.ofCode dst
      let sat := (dst == 3) ^^ satx
      match x with
      | .nan sg => ⟨f.nan, if sg then flagIV else 0⟩
      | .inf n => ⟨if sat then f.maxFinite n else f.inf n, 0⟩
      | .fin n m e => f.round (t.convRm rm dr) t.ftz sat n m (e + 127 - byte)

/-- CVTQ: one block quantised per lane, its scale byte in byte SBYTE of v[b], whose other bytes each lane keeps; tracked by SETA
(R187). Where v[b] is one of the code registers the codes are written first and then v[b]: DESIGN CHOICE, log 119. -/
def execCvtq (u : Bool) (d a b src dst rm : Nat) (satx : Bool) (vtype : Nat) (blk had smode : Bool) (sbyte : Nat) (s : State) :
    Out :=
  let n := blockLen blk
  let ra := typeRegs n src
  let rd := typeRegs n dst
  fpOp u (regRange a ra ++ [b]) (regRange d rd ++ [b]) (f32Operands src a n) a State.setA s fun t l =>
    let v := t.me.words l a ra
    let vb := t.me.reg l b
    let sr := (t.me.lane l).sr
    let x0 := (List.range n).map fun k => (Fmt.ofCode src).decode t.ftz (elemOf v (typeWidth src) k)
    let xs := if had then hadamard x0 else x0
    let srOut := if rm = 4 then some (srAfter sr n) else none
    if xs.any (·.isNan) then
      ⟨wordWrites d 0 rd, none, flagIV, srOut, some (b, sbyte, if dst = 10 then vtype * 64 else 255)⟩
    else
      let byte := if smode then byteOf vb sbyte else chooseScale dst vtype xs
      let rs := quantise t dst rm satx byte xs sr
      ⟨wordWrites d (packElems (typeWidth dst) (rs.map (·.bits))) rd, none, allFlags rs, srOut, some (b, sbyte, byte)⟩

/-- The value of an FP8 or V4 element under its scale byte (R117, R120, R131). -/
def scaledValue (fmt byte code : Nat) (flush : Bool) : FVal :=
  if fmt = 10 then (v4Value (byte / 64) code).scale ((byte % 64 : Nat) - 32)
  else if byte = 255 then .nan false
  else ((Fmt.ofCode fmt).decode flush code).scale ((byte : Int) - 127)

/-- A value rounded to a floating-point format without saturation; NaNs become canonical (R128). -/
def Fmt.ofVal (f : Fmt) (rm : Rm) (ftz : Bool) (x : FVal) : FRes :=
  match x with
  | .nan sg => ⟨f.nan, if sg then flagIV else 0⟩
  | .inf n => ⟨f.inf n, 0⟩
  | .fin n m e => f.round rm ftz false n m e

/-- CVTD: one block dequantised per lane (R188). -/
def execCvtd (u : Bool) (d a b src dst rm : Nat) (blk had scl : Bool) (sbyte : Nat) (s : State) : Out :=
  let n := blockLen blk
  let ra := typeRegs n src
  let rd := typeRegs n dst
  fpOp u (regRange a ra ++ (if scl then [b] else [])) (regRange d rd) [] a noFlag s fun t l =>
    let v := t.me.words l a ra
    let sr := (t.me.lane l).sr
    let byte := if scl then byteOf (t.me.reg l b) sbyte else 127
    let x0 := (List.range n).map fun k => scaledValue src byte (elemOf v (typeWidth src) k) false
    let xs := if had then (hadamard x0).map (·.scale (if blk then -5 else -4)) else x0
    let rs := mapDraws xs sr fun x dr => (Fmt.ofCode dst).ofVal (t.convRm rm dr) t.ftz x
    ⟨wordWrites d (packElems (typeWidth dst) (rs.map (·.bits))) rd, none, allFlags rs,
      if rm = 4 then some (srAfter sr n) else none, none⟩

/-- BSCL: v[a] × 2^±k with k from a scale byte of v[b] (R189). -/
def execBscl (u : Bool) (d a b rm : Nat) (styp inv : Bool) (sbyte : Nat) (s : State) : Out :=
  fpOp u [a, b] [d] [(0, a)] a noFlag s fun t l =>
    let byte := byteOf (t.me.reg l b) sbyte
    if styp && byte == 255 then ⟨[(d, BitVec.ofNat 32 Fmt.f32.nan)], none, 0, none, none⟩
    else
      let k : Int := if styp then (byte : Int) - 127 else (byte % 64 : Nat) - 32
      (Fmt.f32.ofVal (t.convRm rm 0) t.ftz ((Fmt.f32.decode t.ftz (t.me.reg l a).toNat).scale (if inv then -k else k))).out d

/-- HADM: the transform of a block, divided by n with NRM, each result rounded once (R190). -/
def execHadm (u : Bool) (d a typ rm : Nat) (nrm blk : Bool) (s : State) : Out :=
  let n := blockLen blk
  let r := typeRegs n typ
  fpOp u (regRange a r) (regRange d r) (f32Operands typ a n) a noFlag s fun t l =>
    let v := t.me.words l a r
    let f := Fmt.ofCode typ
    let ys := hadamard ((List.range n).map fun k => f.decode t.ftz (elemOf v (typeWidth typ) k))
    let rs := ys.map fun y => f.ofVal (t.convRm rm 0) t.ftz (if nrm then y.scale (if blk then -5 else -4) else y)
    ⟨wordWrites d (packElems (typeWidth typ) (rs.map (·.bits))) r, none, allFlags rs, none, none⟩

end Sys2Proof.Machine
end

