-- ==== Sys2Proof/Machine/Update.lean ====
section
/-!
DEFINITION. Update pairs, binding regions, waits and fences (R210 to R215, R229 to R231), and the steps that complete them: replies and
acknowledgements (R30, R457), wake-ups (R105, R106), the bindery's batches (R72 to R74, R214, R429) and the side log's replay (R330).
-/
namespace Sys2Proof.Machine

/-! The bindery. -/

/-- The bindery that serves an address: that of its stack. DESIGN CHOICE: for a page outside HBM, stack number modulo 8 (log 19). -/
def binderyOf (pa : Nat) : Nat := stackOf pa % 8

/-- Bytes of a bin entry: 16, or 48 for xsum (R72). -/
def binBytes (opc : Nat) : Nat := if opc = 3 then 48 else 16

/-- Pairs of one element counted once. -/
def elements (ps : List Pair) : List Pair :=
  ((ps.map (·.pa)).foldr addTo []).filterMap fun pa => ps.find? (·.pa == pa)

/-- Bytes of the bin store that bindery `k`'s gatherings take (R72). -/
def State.binUse (s : State) (k : Nat) : Nat :=
  ((elements (s.pairs.filter fun p => binderyOf p.pa == k && p.stage == .gathered)).map fun p => binBytes p.opc).sum

/-- Bytes of a bin store (R72). -/
abbrev binStore : Nat := 4194304

/-- Bytes that a virtual interface's spilled runs take of its spill area (R74). DESIGN CHOICE: 16 bytes a pair, the size of a bin entry,
since the spec gives the runs no layout (log 20). -/
def State.spillUse (s : State) (vi : Nat) : Nat := 16 * (s.pairs.filter fun p => p.vi == vi && p.stage == .spilled).length

/-- Bindery `k` must spill and the virtual interface's area is full: new pairs of it wait at issue (R429). -/
def State.spillFull (s : State) (k vi : Nat) : Bool :=
  decide (95 * binStore < 100 * s.binUse k) && decide (s.cfgGet Config.nBspillSize vi * 1048576 < s.spillUse vi + 16)

/-- A pair is emitted: it has its place in the order and is on its way to the bindery (R100, R210). -/
def State.emit (s : State) (p : Pair) : State := ({ s with pairs := s.pairs ++ [p] }).due .updatePairArrival

/-- A pair of lanes `ls` for a located element, under the binding that stood at its issue; an element lies in one run, since it is
aligned. -/
def State.emitAt (s : State) (a : Actor) (core : Nat) (agent : Agent) (ls : List Nat) (b : Binding) (val : Nat) (rs : List (Nat × Nat)) :
    State :=
  match rs with
  | r :: _ => s.emit ⟨r.1, val, b.opc, a.depth, b.vi, b.index, b.eager, core, agent, ls, .flight, s.clk⟩
  | [] => s

/-- Update pairs need a binding region with a bound operator of their width (Table Ms-2, R210). -/
def State.bindFault (s : State) (h n : Nat) (offs : List (Nat × Nat)) : Option AccFault :=
  match offs with
  | [] => none
  | o :: _ =>
    match s.resolve s.actor (s.slotHandle h) o.2 n [] none with
    | .ok r =>
      if r.remote.isSome then none
      else if entBinding r.entry && entBinding r.outer && (match s.binding? r.vi r.index with | some b => opcBytes b.opc == n | none => false) then none
      else some (0x12, o.1 + 1280, o.2, s.slotHandle h)
    | .error _ => none

/-- The pair of lanes `ls` at the address of lane `o.1` (R90, R210, R330, R429). -/
def State.pairLane (s : State) (h n id : Nat) (ls : List Nat) (o : Nat × Nat) (val : Nat) : State × Put :=
  match s.resolve s.actor (s.slotHandle h) o.2 n [] none with
  | .error _ => (s, .held .line)
  | .ok r =>
    match s.binding? r.vi r.index with
    | none => (s, .held .line)
    | some b =>
      if (match s.lookup r.space r.va with | some pa => s.spillFull (binderyOf pa) r.vi | none => false) then (s, .held .spillArea)
      else s.writeAt s.actor (s.meLane o.1) r n
        [⟨r.space, r.va, n, .pair val b.opc b.eager, id, r.vi, r.index, s.issue.agent, ls, s.myDepth, s.clk, s.slotHandle h, o.2⟩] false
        fun t rs => .ok (t.emitAt s.actor s.issue.core s.issue.agent ls b val rs)

/-- The pairs in ascending lane order (R90); with U = 1 the one pair is every lane's. -/
def State.pairLanes (s : State) (u : Bool) (h n id : Nat) (val : Nat → Nat) : List (Nat × Nat) → State × List (Nat × Put)
  | [] => (s, [])
  | o :: os =>
    let (s1, p) := s.pairLane h n id (if u then s.issue.lanes else [o.1]) o (val o.1)
    let (s2, ps) := s1.pairLanes u h n id val os
    (s2, (o.1, p) :: ps)

/-- UPD and UPDD of `n` bytes (R210). -/
def updOp (u : Bool) (d a h i n : Nat) (s : State) : Out :=
  accessWith u (a :: operandRegs d n) [] s fun t =>
    let offs := t.offsets u a i n
    match t.misaligned h (if n = 8 then 3 else 2) offs with
    | some f => .next (t.raiseAcc f)
    | none =>
      match t.globalFault h n [.update] offs with
      | some f => .next (t.raiseAcc f)
      | none =>
        match t.bindFault h n offs with
        | some f => .next (t.raiseAcc f)
        | none =>
          match t.cascadeFault h n offs with
          | some f => .next (t.raiseAcc f)
          | none =>
            let val := fun l => t.me.words l d (n / 4)
            match t.remoteRank h ((offs.map (·.2)).headD 0) with
            | some rank => .next ((t.remoteOps u h rank offs .nothing (fun l => .pair n (val l)) t.setB).modMe
                (·.modLanes t.issue.lanes fun x => { x with farPairs := addTo rank x.farPairs }))
            | none =>
              let (t1, ps) := t.pairLanes u h n t.opSeq val offs
              finish (t1.putEnd t.opSeq (t1.forLanes u ps) t1.setB)

/-- UPD (R210). -/
def execUpd (u : Bool) (d a h i : Nat) (s : State) : Out := updOp u d a h i 4 s

/-- UPDD (R210). -/
def execUpdd (u : Bool) (d a h i : Nat) (s : State) : Out := updOp u d a h i 8 s

/-! Completion of UFLUSH, UAPPLY and FENCE. -/

/-- Pairs in memory's way that lanes of a group emitted. -/
def State.lanePairs (s : State) (c : Nat) (a : Agent) (ls : List Nat) : List Pair :=
  s.pairs.filter fun p => decide (p.core = c) && decide (p.agent = a) && meets ls p.lanes

/-- Pairs of lanes that stand in the side log. -/
def State.loggedPairs (s : State) (c : Nat) (a : Agent) (ls : List Nat) : Bool :=
  (s.core c).sideLog.any fun e => decide (e.agent = a) && meets ls e.lanes && (match e.kind with | .pair _ _ _ => true | _ => false)

/-- Pairs for a buffer stand in a side log (R110, R229). -/
def State.loggedOf (s : State) (vi index : Nat) : Bool :=
  s.cores.any fun k => k.2.sideLog.any fun e => e.vi == vi && e.index == index && (match e.kind with | .pair _ _ _ => true | _ => false)

/-- Operations of lanes, earlier than operation `id`, that a fence of a scope waits for: stores, pairs and non-returning atomics of this
chip; with system scope, remote ones and operations not performed yet as well (R111, R215). -/
def State.fenceWaits (s : State) (c : Nat) (a : Agent) (ls : List Nat) (scope id : Nat) : Bool :=
  s.ops.any fun o => decide (o.core = c) && decide (o.agent = a) && decide (o.id < id) && meets o.lanes ls &&
    (match o.kind with
     | .store => true
     | .remote _ => scope == 2
     | .copy r => scope == 2 && (r.job.isSome || s.rowsOut o.id)
     | .mma _ => scope == 2
     | _ => false)

/-- Remote pairs of lanes, or applies of them, that the home chip has not acknowledged (R211). -/
def State.remotePairs (s : State) (c : Nat) (a : Agent) (ls : List Nat) (id : Nat) : Bool :=
  s.ops.any fun o => decide (o.core = c) && decide (o.agent = a) && decide (o.id < id) && meets o.lanes ls &&
    (match o.kind with
     | .remote r => (match r.act with | .pair _ _ => true | .flush => true | _ => false)
     | _ => false)

/-- The applies that a fence-like operation asks for are made, once the pairs logged before it have been replayed; or they wait for a spill
ring. `k` goes on (R102, R430). -/
def State.fenceApply (s : State) (o : Op) (fs : List Nat) (k : State → State) : State :=
  if s.loggedOn fs o.id then s
  else match s.applyFolios fs with
  | .ok t => k (t.unitGoes (.op o.id))
  | .error w => s.unitStops (.op o.id) (some o.core) w

/-- LIVE increments of an operation's interface have still to be performed (R103). -/
def State.countsLeft (s : State) (o : Op) : Bool :=
  s.counts.any fun x => match s.watch? x.watch with | some w => (o.team.map (·.1)) == some w.vi | none => false

/-- A fence-like operation completes if what it waits for is done: the applies of UFLUSH and UAPPLY are made here, at their completion
point (R102, R103, R111, R212). -/
def State.tryFence (s : State) (o : Op) : State :=
  let done := fun (t : State) => (t.finishOp o.id).modGroup o.core o.agent (·.release (· == .flush))
  match o.kind with
  | .fence scope => if s.fenceWaits o.core o.agent o.lanes scope o.id then s else done s
  | .uflush =>
    let fs := ((s.lanePairs o.core o.agent o.lanes).map fun p => p.pa / 4096).foldr addTo []
    if s.loggedPairs o.core o.agent o.lanes || s.remotePairs o.core o.agent o.lanes o.id then s
    else s.fenceApply o fs fun t => if t.countsLeft o then t else done t
  | .uapply fs => s.fenceApply o fs done
  | _ => s

/-- Every fence-like operation that may complete does. -/
def State.settleFences (s : State) : State := s.ops.foldl (fun t o => t.tryFence o) s

/-- The applies that UFLUSH asks of the chips that its lanes have sent pairs to (R211). -/
def State.flushFar (s : State) : State :=
  let asks := s.issue.lanes.flatMap fun l => (s.me.lane l).farPairs.map (l, ·)
  (asks.foldl (fun t x => t.addOp [x.1] (.remote ⟨x.2, 0, 0, .nothing, .flush, s.myDepth, s.opSeq, none⟩) none (some { s.faultEntry 0 x.1 0 0 with lanes := [x.1] }))
    s).modMe (·.modLanes s.issue.lanes ({ · with farPairs := [] }))

/-- UFLUSH (R211). -/
def execUflush (u : Bool) (s : State) : Out :=
  accessWith u [] [] s fun t0 =>
    let t := t0.flushFar
    let c := t.issue.core
    let ls := t.issue.lanes
    if t.lanePairs c t.issue.agent ls = [] ∧ !t.loggedPairs c t.issue.agent ls ∧ !t.remotePairs c t.issue.agent ls t.opSeq then
      .next t.retire
    else
      let id := t.opSeq
      .next ((t.addOpDue ls .uflush t.setB none (.storeAck · 0)).modMe
        fun g => g.modLanes ls fun x => { x with flushing := x.flushing ++ [id] }).retire

/-- UAPPLY needs the binding-region flag beside the Update right (R212). -/
def State.uapplyFault (s : State) (h : Nat) (offs : List (Nat × Nat)) : Option AccFault :=
  match s.globalFault h 1 [.update] offs with
  | some f => some f
  | none => match offs with
    | o :: _ => match s.resolve s.actor (s.slotHandle h) o.2 1 [] none with
      | .ok r => if r.remote.isSome || (entBinding r.entry && entBinding r.outer) then none else some (0x12, o.1 + 1280, o.2, s.slotHandle h)
      | .error _ => none
    | [] => none

/-- UAPPLY: the folios of the lanes' bytes; a folio without pairs is applied already (R212). -/
def execUapply (u : Bool) (a h i : Nat) (s : State) : Out :=
  accessWith u [a] [] s fun t =>
    let offs := t.offsets u a i 4096
    match t.uapplyFault h offs with
    | some f => .next (t.raiseAcc f)
    | none =>
      match t.remoteRank h ((offs.map (·.2)).headD 0) with
      | some rank =>
        if t.farBehind t.issue.core t.issue.agent t.issue.lanes rank t.opSeq then .next (t.hold t.issue.lanes .line)
        else
        let id := t.opSeq
        .next ((t.modMe fun g => g.modLanes t.issue.lanes fun x =>
          { x with flushing := x.flushing ++ (List.range offs.length).map (id + ·) }).remoteOps u h rank offs .nothing (fun _ => .apply) t.setB)
      | none =>
        let t1 := offs.foldl (fun v o => match v.resolve v.actor (v.slotHandle h) o.2 1 [] none with
          | .ok r => v.prepare r 1
          | .error _ => v) t
        let found := offs.map fun o => match t1.resolve t1.actor (t1.slotHandle h) o.2 1 [] none with
          | .ok r => (o.1, (t1.lookup r.space r.va).map (· / 4096))
          | .error _ => (o.1, none)
        let all := t1.forLanes u found
        let go := (all.filter (·.2.isSome)).map (·.1)
        let ends := all.map fun x => (x.1, if x.2.isSome then LaneEnd.go else .hold .page)
        let fs := ((found.filterMap (·.2)).foldr addTo []).filter fun f => t1.folioPairs f != [] || t1.loggedOn [f] t1.opSeq
        if fs = [] then finish (t1.settle ends)
        else
          let id := t1.opSeq
          finish (((t1.addOpDue go (.uapply fs) t1.setB none (.storeAck · 0)).modMe
            fun g => g.modLanes go fun x => { x with flushing := x.flushing ++ [id] }).settle ends)

/-- FENCE of scope 0 team, 1 chip or 2 system; with system scope its lanes wait (R111, R215). -/
def execFence (u : Bool) (m : Nat) (s : State) : Out :=
  issueWith u [] [] s fun t =>
    let ls := t.issue.lanes
    if !t.fenceWaits t.issue.core t.issue.agent ls m t.opSeq then .next t.retire
    else
      let t1 := t.addOp ls (.fence m) t.setB none
      .next (if m = 2 then t1.retireWait (.op t.opSeq .fence) else t1.retire)

/-! WAITC. -/

/-- Monitors armed at a slice: of WAITC and of launch packets (R85, R297). -/
def State.armedAt (s : State) (slice : Nat) : Nat :=
  (s.ops.filter fun o => match o.kind with | .waitc _ c true => c.slice == slice | _ => false).length +
  ((s.lq.map fun q => (q.2.waits.filter (·.slice == slice)).length)).sum

/-- One lane's compare: it completes, or a monitor is armed in the same step, or it will be compared again (R105, R106, R213). A word that
the core's side log holds is compared as the log forwards it, and armed once it has replayed. -/
def State.waitcLane (s : State) (h d k ty n : Nat) (ls : List Nat) (o : Nat × Nat) (cmp : Nat) : State × List (Nat × LaneEnd) :=
  match s.resolve s.actor (s.slotHandle h) o.2 n [] none with
  | .error _ => (s, ls.map (·, .hold .line))
  | .ok r =>
    let e := { s.faultEntry 0x20 o.1 (o.2 / 32 * 32) (s.slotHandle h) with lanes := ls }
    let waits := fun (t : State) => ls.map (·, LaneEnd.wait (.op t.opSeq (.waitc (s.slotHandle h) o.2)))
    match s.readAt s.actor (s.meLane o.1) r n 0 with
    | (t, .held w) => (t, ls.map (·, .hold w))
    | (t, .poison _ pa) => ((t.poisonUse s.actor.vi? 2 pa).addOpDue ls .reply t.setA (some e) (.accessReply · 0 0), waits t)
    | (t, .value v) =>
      if intRel k (typedInt ty v) (typedInt ty cmp) then
        ((t.modMe fun g => ls.foldl (fun g l => g.setRegs l (typedWrites d ty v)) g).addOpDue ls .reply t.setA none
          (.accessReply · 0 0), waits t)
      else
        match t.lookup r.space r.va with
        | none => (t, ls.map (·, .hold .line))
        | some pa =>
          if t.logged s.issue.core r.space r.va n then (t, ls.map (·, .hold .line))
          else
            let sl := t.homeSlice r o.2
            let c : Cond := ⟨pa, sl, ty, k, [(o.1, cmp)], s.slotHandle h, o.2⟩
            (t.addOp ls (.waitc d c (decide (t.armedAt sl < 512))) t.setA (some e), waits t)

/-- The lanes' compares in ascending order. -/
def State.waitcLanes (s : State) (h d k ty n : Nat) (cmp : Nat → Nat) : List (Nat × Nat) → State × List (Nat × LaneEnd)
  | [] => (s, [])
  | o :: os =>
    let (s1, e) := s.waitcLane h d k ty n [o.1] o (cmp o.1)
    let (s2, es) := s1.waitcLanes h d k ty n cmp os
    (s2, e ++ es)

/-- WAITC by relation `k` (R213). -/
def execWaitc (u : Bool) (d a h i cmp k ty : Nat) (s : State) : Out :=
  let n := if ty < 2 then 4 else 8
  accessWith u (a :: operandRegs cmp n) (operandRegs d n) s fun t =>
    let offs := t.offsets u a i n
    match t.accessFault h n (if n = 8 then 3 else 2) [.read] false offs with
    | some f => .next (t.raiseAcc f)
    | none =>
      let cv := fun l => t.me.words l cmp (n / 4)
      match t.remoteRank h ((offs.map (·.2)).headD 0) with
      | some rank => .next (t.remoteOps u h rank offs (.waitc d ty) (fun l => .waitc ty k (cv l)) t.setA)
      | none =>
        let o := offs.headD (0, 0)
        let (t1, es) := if u then t.waitcLane h d k ty n t.issue.lanes o (cv o.1) else t.waitcLanes h d k ty n cv offs
        finish (t1.settle es)

/-! Replies, acknowledgements and wake-ups. -/

/-- The registers that a remote reply writes in a lane. -/
def ReplyForm.writes (f : ReplyForm) (data l : Nat) : List (Nat × Word) :=
  match f with
  | .nothing => []
  | .row _ => []
  | .ack => []
  | .load d n sx => if n ≤ 4 then [(d, if sx then BitVec.ofInt 32 (signed data (8 * n)) else BitVec.ofNat 32 (data % 2 ^ (8 * n)))]
    else wordWrites d data (n / 4)
  | .atomic op ty d xs => oldWrites d (atomBytes ty) (atomOlds op ty data xs) l
  | .waitc d ty => typedWrites d ty data
  | .pop => []
  | .stream _ _ => []
  | .image => []
  | .wake _ _ => []
  | .ret => []
  | .outside => []
  | .posted => []
  | .push _ _ _ => []
  | .wait _ _ => []
  | .code _ => []

/-- The group after a remote reply: registers of its lanes, the stream that it opens, or what the lanes' word needs when it issues again. -/
def ReplyForm.give (f : ReplyForm) (data : Nat) (ls : List Nat) (g : Group) : Group :=
  match f with
  | .stream z st => { g with streams := NMap.put g.streams z { st with pos := data % 2 ^ 32, fin := data / 2 ^ 32 % 2 ^ 32 } }
  | .image => g.modLanes ls fun x => { x with saved := x.saved ++ [data] }
  | .ret => g.modLanes ls fun x => { x with saved := [data] }
  | _ => ls.foldl (fun h l => h.setRegs l (f.writes data l)) g

/-- MONITOR_WAKEUP: a WAITC whose condition held at a write has its value; its lanes go on (R85, R105). -/
def execMonitorWakeup (id : Nat) (s : State) : Out :=
  match s.op? id with
  | none => .next s
  | some o =>
    match o.kind, o.fault with
    | .reply, some e => .next ((s.endOp id).lateFault o e)
    | .reply, none => .next (s.finishOp id)
    | _, _ => .next s

/-- The number of an agent in a step's arguments: a group slot, or 256 for the control thread. -/
def Agent.num : Agent → Nat
  | .ct => 256
  | .grp n => n

/-- The agent of a number. -/
def Agent.ofNum (n : Nat) : Agent := if n = 256 then .ct else .grp n

/-- A WAITC without a monitor compares again: it completes, or arms one where there is room (R85, R106). -/
def State.recompare (s : State) (o : Op) : State :=
  match o.kind with
  | .waitc d c false =>
    if s.claimed (o.core, o.agent, o.lanes.headD 0) physSpace c.pa c.bytes || s.logged o.core physSpace c.pa c.bytes ||
        s.pairsLogged [(c.pa, c.bytes)] then s
    else match s.applyFor [(c.pa, c.bytes)] with
    | .error w => s.unitStops (.op o.id) (some o.core) w
    | .ok u =>
      let t := (u.unitGoes (.op o.id)).detect c.pa c.bytes
      if t.condMet c then t.waitcTrue o d c
      else if t.armedAt c.slice < 512 then t.modOp o.id fun p => { p with kind := .waitc d c true } else t
  | _ => s

/-- WAITC_RECOMPARE (R106). -/
def execWaitcRecompare (core agent : Nat) (s : State) : Out :=
  .next (((s.opsOf core (Agent.ofNum agent)).filter fun o => (s.clk + 2 ^ 64 - o.clk) % 4096 = 0).foldl (fun t o => t.recompare o) s)

/-! The bindery's steps. -/

/-- Armed WAITCs on elements of a folio that a batch brought pairs for are evaluated pair by pair; the folio's pairs up to one that meets a
condition are applied as one write (R214). The first argument bounds how many. -/
def State.waitsOn (s : State) (folio : Nat) : Nat → State
  | 0 => s
  | fuel + 1 =>
    let here := (s.folioPairs folio).filter (·.stage != .flight)
    match (s.ops.filterMap fun o => match o.kind with | .waitc _ c true => s.pairsUntil c here | _ => none).min? with
    | none => s.unitGoes (.waits folio)
    | some n => match s.applyOnce (here.take n) with
      | .ok t => t.waitsOn folio fuel
      | .error w => s.unitStops (.waits folio) none w

/-- The waits on the elements of bindery `k`'s batch (R214). -/
def State.batchWaits (s : State) (k : Nat) : State :=
  let fs := ((s.pairs.filter fun p => binderyOf p.pa == k && p.stage == .batch).map fun p => p.pa / 4096).foldr addTo []
  fs.foldl (fun t f => t.waitsOn f t.pairs.length) s

/-- The pairs of a batch for which the spill areas of their virtual interfaces have room, in order (R74). -/
def State.fitting (s : State) (batch : List Pair) : List Pair :=
  batch.zipIdx.filterMap fun x =>
    if 16 * ((batch.take x.2).filter (·.vi == x.1.vi)).length + 16 + s.spillUse x.1.vi ≤ s.cfgGet Config.nBspillSize x.1.vi * 1048576 then
      some x.1 else none

/-- The pairs of bindery `k`'s batch join their gatherings, or go to the spill area as a sorted run above 95 %. What of a run does not fit
there stays in the bin store (R72, R74, R429). -/
def State.gather (s : State) (k : Nat) : State :=
  let batch := s.pairs.filter fun p => binderyOf p.pa == k && p.stage == .batch
  let joined : State := { s with pairs := s.pairs.map fun p => if batch.contains p then { p with stage := .gathered } else p }
  if 100 * joined.binUse k ≤ 95 * binStore then joined
  else
    let run := s.fitting batch
    { s with pairs := s.pairs.map fun p =>
      if run.contains p then { p with stage := .spilled, clk := s.clk } else if batch.contains p then { p with stage := .gathered } else p }

/-- The bindery applies a folio that no access asked for; one whose trigger finds a spill ring full waits for it (R73, R430). -/
def State.applyOwn (s : State) (f : Nat) : State :=
  match s.applyUnasked f with
  | .ok t => t.unitGoes (.folio f)
  | .error w => s.unitStops (.folio f) none w

/-- Folios of an EAGER region other than xsum, of which a batch of bindery `k` brought pairs, are applied (R73). -/
def State.eagerApply (s : State) (fs : List Nat) : State := fs.foldl State.applyOwn s

/-- The folio of bindery `k` with the most bin entries of a LAZY region other than xsum, the lower address at a tie (R73). -/
def State.fullestFolio (s : State) (k : Nat) : Option Nat :=
  let es := elements (s.pairs.filter fun p => binderyOf p.pa == k && p.stage == .gathered && !p.eager && p.opc != 3)
  let n := fun f => (es.filter fun p => p.pa / 4096 == f).length
  ((es.map fun p => p.pa / 4096).foldr addTo []).foldl (fun b f => match b with
    | none => some f
    | some x => if n x < n f then some f else some x) none

/-- Applies that the bin store starts: above 75 %, the fullest gatherings first, until occupancy falls below 60 % (R73). -/
def State.occupancyApply (s : State) (k : Nat) : Nat → State
  | 0 => s
  | fuel + 1 =>
    if 100 * s.binUse k < 60 * binStore then s
    else match s.fullestFolio k with
      | none => s
      | some f => match s.applyUnasked f with
        | .ok t => t.occupancyApply k fuel
        | .error _ => s.applyOwn f

/-- Applies that free a full spill area: the folios with the most spilled runs of a virtual interface, never xsum (R429). -/
def State.runsOf (s : State) (vi f : Nat) : Nat :=
  (((s.pairs.filter fun p => p.vi == vi && p.stage == .spilled && p.pa / 4096 == f).map (·.clk)).foldr addTo []).length

/-- The folio with the most spilled runs among pairs that `p` picks, the lower address at a tie (R429). -/
def State.mostRuns (s : State) (vi : Nat) (p : Pair → Bool) : Option Nat :=
  (((s.pairs.filter fun q => q.vi == vi && q.stage == .spilled && p q).map fun q => q.pa / 4096).foldr addTo []).foldl (fun b f =>
    match b with
    | none => some f
    | some x => if s.runsOf vi x < s.runsOf vi f then some f else some x) none

/-- A virtual interface whose new pairs wait frees its area by applies (R429). -/
def State.freeArea (s : State) (k vi : Nat) : Nat → State
  | 0 => s
  | fuel + 1 =>
    if !s.spillFull k vi then s
    else match s.mostRuns vi fun p => p.opc != 3 && binderyOf p.pa == k with
      | none => s
      | some f => match s.applyUnasked f with
        | .ok t => t.freeArea k vi fuel
        | .error _ => s.applyOwn f

/-- Bindery `k`'s batch closes: waits on its elements, gatherings or spilled runs, EAGER folios, occupancy, and the spill area (R72 to R74,
R214, R429). -/
def State.closeBatch (s : State) (k : Nat) : State :=
  let batch := s.pairs.filter fun p => binderyOf p.pa == k && p.stage == .batch
  let eager := ((batch.filter fun p => p.eager && p.opc != 3).map fun p => p.pa / 4096).foldr addTo []
  let s1 := ((s.batchWaits k).gather k).eagerApply eager
  let s2 := if 75 * binStore < 100 * s1.binUse k then s1.occupancyApply k s1.pairs.length else s1
  let s3 := ((s2.pairs.map (·.vi)).foldr addTo []).foldl (fun t v => t.freeArea k v t.pairs.length) s2
  (s3.release (· == .spillArea)).settleFences

/-- UPDATE_PAIR_ARRIVAL: the oldest pair on its way joins its bindery's batch, which closes when it holds 1,024 (R71, R72). -/
def execUpdatePairArrival (s : State) : Out :=
  match s.pairs.findIdx? (·.stage == .flight) with
  | none => .next s
  | some i =>
    let s1 : State := { s with pairs := modAt (fun p => { p with stage := .batch, clk := s.clk }) i s.pairs }
    let k := binderyOf (((s1.pairs[i]?).map (·.pa)).getD 0)
    if (s1.pairs.filter fun p => binderyOf p.pa == k && p.stage == .batch).length < 1024 then .next s1 else finish (s1.closeBatch k)

/-- BATCH_CLOSE of bindery `k` (R72). -/
def execBatchClose (k : Nat) (s : State) : Out := finish (s.closeBatch k)

/-- BINDERY_QUOTA: after BQ_WAIT cycles of waiting, one record names the folio with the most spilled runs of a bindery that takes no pairs
(R429, R435). -/
def execBinderyQuota (vi core team : Nat) (s : State) : Out :=
  match s.mostRuns vi fun p => s.spillFull (binderyOf p.pa) vi with
  | none => .next s
  | some f => .next (s.postEvent core 0x11 vi (some team)
      [binderyOf (4096 * f), 4096 * f % 2 ^ 32, 4096 * f / 2 ^ 32, s.runsOf vi f])

/-! The side log. -/

/-- Every core whose side log holds entries replays. -/
def State.replayDue (s : State) : State :=
  s.cores.foldl (fun t k => if k.2.sideLog = [] ∨ t.agenda.contains (.sideLogReplay k.1) then t else t.due (.sideLogReplay k.1)) s

/-- The engine operations that wait for a page try again (R329). -/
def State.stalledDue (s : State) : State :=
  s.ops.foldl (fun t o =>
    let e : Option Instr := match o.kind with
      | .mma _ => some (.matrixOpEnd o.id)
      | .copy r => if r.job.isSome then some (.tileCopyBatchDelivery o.id) else none
      | _ => none
    match e with
    | some i => if t.agenda.contains i then t else t.due i
    | none => t) s

/-- A spill ring has a free entry, or a watch is gone: what waited for a ring is tried again (R430). -/
def State.ringFreed (s : State) : State :=
  let s1 := ((((s.release fun y => y == .spillRing || y == .line).stalledDue).replayDue).settleFences)
  let s2 := s1.ops.foldl (fun t o => if t.rung.contains (.op o.id) then t.recompare o else t) s1
  s2.rung.foldl (fun t u => match u with
    | .waits f => t.waitsOn f t.pairs.length
    | .folio f => t.applyOwn f
    | _ => t) s2

/-- An access of a general-purpose core, a doorbell among them. -/
def fromGp : Instr → Bool
  | .gpPlainAccess _ _ _ _ | .apertureAccess _ _ _ _ _ _ | .launchQueueTailWrite _ _ | .configRegisterWrite _ _ _ _ => true
  | _ => false

/-- Pages have become present, or frames free: held accesses issue again, those from outside and engine operations go on, and the side
logs replay; the accesses of the general-purpose cores keep their order (R328 to R330, R342, R345). -/
def State.pagesChanged (s : State) : State :=
  (((({ s with
    inbox := s.gpHeld ++ s.inbox ++ s.retryNext.filter fromGp
    gpHeld := []
    retryNext := s.retryNext.filter fun e => !fromGp e } : State).release (· == .page)).replayDue).stalledDue)

/-- A side-log entry is performed at its home slice; poison goes where the stores of one instruction together cover a granule (R330, R423). -/
def State.replayEntry (s : State) (core : Nat) (e : LogEntry) (rs : List (Nat × Nat)) : Except RingFull State :=
  let a : Actor := ⟨core, false, e.vi, e.depth⟩
  match e.kind with
  | .pair v opc eager => .ok (s.emitAt a core e.agent e.lanes ⟨e.vi, e.index, opc, eager⟩ v rs)
  | .store bs =>
    match s.applyFor rs with
    | .error w => .error w
    | .ok t =>
      let all := ((t.core core).sideLog.filter (·.id == e.id)).flatMap fun x => match x.kind, t.locate x.space x.va x.size with
        | .store ys, some qs => runWrites 0 0 0 qs ys
        | _, _ => []
      t.commit a (t.cleared all) (runWrites e.depth e.handle e.off rs bs)
  | .atomic op ty xs =>
    match s.applyFor rs with
    | .error w => .error w
    | .ok t =>
      let t1 := t.detectRuns rs
      match t1.poisonRuns rs with
      | some k => .ok ((t1.poisonUse (some e.vi) 1 (32 * k)).postPoison a e.handle (e.off + 32 * k - (rs.headD (0, 0)).1) 5 1)
      | none => t1.commit a [] (runWrites e.depth e.handle e.off rs (leBytes (atomFinal op ty (leNat (t1.readRuns rs)) xs) e.size))

/-- SIDE_LOG_REPLAY: the head entry of a core's log is performed when its page is present, behind the pairs that its apply must take and any
channel that is down (R102, R330, R424). -/
def execSideLogReplay (core : Nat) (s : State) : Out :=
  match (s.core core).sideLog with
  | [] => .next s
  | e :: rest =>
    let s1 := (s.atCore core).prepare ⟨e.space, e.va, 0, e.vi, e.index, 0, 0, none⟩ e.size
    match s1.locate e.space e.va e.size with
    | none => finish s1
    | some rs =>
      let paired := match e.kind with | .pair _ _ _ => true | _ => false
      if s1.channelDown e.space e.va e.size || (!paired && s1.loggedOn (s1.dueFolios rs) e.id) then finish s1
      else match s1.replayEntry core e rs with
      | .error w => finish (s1.unitStops (.log core) (some core) w)
      | .ok s2 =>
        let s3 := (s2.modCore core fun k => { k with sideLog := rest, slogFull := none, slogTold := false }).unitGoes (.log core)
        let s4 := if rest.any (·.id == e.id) then s3 else s3.due (.storeAck e.id 0)
        finish ((s4.release fun w => w == .sideLog || w == .line).replayDue)

/-- SIDE_LOG_FULL: the head entry has stood for SLOG_WAIT cycles with the log full; one record is posted (R418, R435). -/
def execSideLogFull (core : Nat) (s : State) : Out :=
  match (s.core core).sideLog, (s.core core).slogFull with
  | e :: _, some t =>
    if (s.core core).slogTold ∨ s.clk < t + s.cfgGet Config.nSlogWait 0 then .next s
    else .next ((s.postEvent core 0x12 e.vi none [256, e.va % 2 ^ 32, e.va / 2 ^ 32, s.clk - t]).modCore core ({ · with slogTold := true }))
  | _, _ => .next s

/-! BIND and UNBIND. -/

/-- BIND and UNBIND need the binding-region flag beside Write (Table Ms-2, R229). -/
def State.bindRights (s : State) (h : Nat) : Option AccFault :=
  let l := s.issue.lanes.headD 0
  match s.globalFault h 1 [.write] [(l, 0)] with
  | some f => some f
  | none => match s.resolve s.actor (s.slotHandle h) 0 1 [] none with
    | .ok r => if r.remote.isSome || (entBinding r.entry && entBinding r.outer) then none else some (0x12, l + 1280, 0, s.slotHandle h)
    | .error _ => none

/-- The buffer's gatherings are applied, then it is bound anew or left unbound (R229, R231). -/
def State.rebind (s : State) (vi index : Nat) (b : Option Binding) : Except RingFull State :=
  match s.applyPairs (s.pairs.filter fun p => p.vi == vi && p.index == index) with
  | .error w => .error w
  | .ok t => .ok { t with binds := t.binds.filter (fun x => !(x.vi == vi && x.index == index)) ++ b.toList }

/-- BIND or UNBIND: performed at its place; its lanes wait for its completion (R30, R229, R231). -/
def bindOp (u : Bool) (h : Nat) (b : Nat → Nat → Option Binding) (s : State) : Out :=
  accessWith u [] [] s fun t =>
    match t.bindRights h with
    | some f => .next (t.raiseAcc f)
    | none =>
      match t.resolve t.actor (t.slotHandle h) 0 1 [] none with
      | .error _ => .next t
      | .ok r =>
        match r.remote with
        | some rank => .next (t.remoteOps true h rank [(t.issue.lanes.headD 0, 0)] .ack
            (fun _ => .bind ((b 0 0).map fun x => (x.opc, x.eager))) none)
        | none =>
          if t.loggedOf r.vi r.index then .next (t.hold t.issue.lanes .line)
          else match t.rebind r.vi r.index (b r.vi r.index) with
          | .error w =>
            finish ((t.blockOn (t.meLane (t.issue.lanes.headD 0)) r.space r.va 1 w).hold t.issue.lanes .spillRing)
          | .ok t1 =>
            if b r.vi r.index = none ∧ t.binding? r.vi r.index = none then .next t.retire
            else finish (((t1.unclaim (t.meLane (t.issue.lanes.headD 0))).addOpDue t.issue.lanes .bind none none
              fun _ => .bindComplete t.issue.core t.issue.agent.num).retireWait (.op t1.opSeq .bind))

/-- BIND (R229, R230). -/
def execBind (u : Bool) (h opc : Nat) (eager : Bool) (s : State) : Out := bindOp u h (fun v x => some ⟨v, x, opc, eager⟩) s

/-- UNBIND (R231). -/
def execUnbind (u : Bool) (h : Nat) (s : State) : Out := bindOp u h (fun _ _ => none) s

/-- BIND_COMPLETE: the group's BIND or UNBIND has completed (R229, R231). -/
def execBindComplete (core agent : Nat) (s : State) : Out :=
  .next ((s.opsOf core (Agent.ofNum agent)).foldl (fun t o => if o.kind = .bind then t.finishOp o.id else t) s)

end Sys2Proof.Machine
end

