-- ==== Sys2Proof/Machine/Sync.lean ====
section
/-!
DEFINITION. Mailboxes (R216, R217), barrier objects (R218 to R222), watches (R223 to R228) and handle slots (R232).
-/
namespace Sys2Proof.Machine

/-! Mailboxes. -/

/-- Messages in a mailbox or on their way to it. -/
def Core.mboxCount (k : Core) (m : Nat) : Nat := ((k.mbox ++ k.mboxFly).filter (·.1 == m)).length

/-- The 16 words of a lane's registers from `a` up. -/
def Group.message (g : Group) (l a : Nat) : List Word := (List.range 16).map fun i => g.reg l (a + i)

/-- The physical core that a core number of the issuer means; a control thread numbers cores physically (R9, R320). -/
def State.coreOf (s : State) (v : Nat) : Nat := if s.isCt then v else s.physCore s.myVi v

/-- One message sent by source lane `l`: 1 when it is placed, 0 when the mailbox is full, 2 for a core number of 128 or more (R216). -/
def State.sendOne (s : State) (a b mbox l : Nat) : State × Nat :=
  let v := (s.me.reg l b).toNat
  if 128 ≤ v then (s, 2)
  else
    let c := s.coreOf v
    if 4 ≤ (s.core c).mboxCount mbox then (s, 0)
    else
      let msg := s.me.message l a
      ((s.modCore c fun k => { k with mboxFly := k.mboxFly ++ [(mbox, msg)] }).due (.mailboxDelivery c mbox), 1)

/-- The messages of several lanes, in ascending order, with their statuses. -/
def State.sendAll (s : State) (a b mbox : Nat) : List Nat → State × List (Nat × Nat)
  | [] => (s, [])
  | l :: ls =>
    let (s1, x) := s.sendOne a b mbox l
    let (s2, xs) := s1.sendAll a b mbox ls
    (s2, (l, x) :: xs)

/-- MBSEND (R216). -/
def execMbsend (u : Bool) (d a b mbox : Nat) (s : State) : Out :=
  accessWith u (b :: (List.range 16).map (a + ·)) [d] s fun t =>
    let (t1, xs) := t.sendAll a b mbox (t.addrLanes u)
    let t2 := t1.modMe fun g => (t1.forLanes u xs).foldl (fun h x => h.setReg x.1 d (BitVec.ofNat 32 x.2)) g
    .next (t2.addOpDue t2.issue.lanes .store t2.setB none (.storeAck · 0)).retire

/-- The oldest message of mailbox `m` of core `c`, and the state without it. -/
def State.takeMessage (s : State) (c m : Nat) : Option (List Word × State) :=
  match (s.core c).mbox.findIdx? (·.1 == m) with
  | none => none
  | some i => some ((((s.core c).mbox[i]?).map (·.2)).getD [], s.modCore c fun k => { k with mbox := k.mbox.eraseIdx i })

/-- The oldest lane that waits in MBRECV on a mailbox receives the oldest message there (R217). -/
def State.serveMailbox (s : State) (c m : Nat) : State :=
  match s.ops.find? (fun o => o.core == c && (match o.kind with | .mbrecv _ b _ => b == m | _ => false)) with
  | none => s
  | some o =>
    match o.kind, s.takeMessage c m with
    | .mbrecv d _ _, some (msg, t) =>
      (t.modGroup c o.agent fun g => (o.lanes.foldl (fun h l => h.setRegs l (blockWrites d msg)) g).wake o.id).endOp o.id
    | _, _ => s

/-- One receipt for the lanes `ls`: a message at once, or a wait (R217). -/
def State.recvOne (s : State) (d mbox : Nat) (u : Bool) (ls : List Nat) : State × List (Nat × LaneEnd) :=
  match s.takeMessage s.issue.core mbox with
  | some (msg, t) =>
    ((t.modMe fun g => ls.foldl (fun h l => h.setRegs l (blockWrites d msg)) g).addOpDue ls .writeback t.setA none .registerWriteback,
      ls.map (·, .go))
  | none => (s.addOp ls (.mbrecv d mbox u) s.setA none, ls.map (·, .wait (.op s.opSeq .mbrecv)))

/-- The receipts of several lanes, in ascending order. -/
def State.recvAll (s : State) (d mbox : Nat) : List Nat → State × List (Nat × LaneEnd)
  | [] => (s, [])
  | l :: ls =>
    let (s1, e) := s.recvOne d mbox false [l]
    let (s2, es) := s1.recvAll d mbox ls
    (s2, e ++ es)

/-- MBRECV (R217). -/
def execMbrecv (u : Bool) (d mbox : Nat) (s : State) : Out :=
  accessWith u [] ((List.range 16).map (d + ·)) s fun t =>
    let (t1, es) := if u then t.recvOne d mbox true t.issue.lanes else t.recvAll d mbox t.issue.lanes
    .next (t1.settle es)

/-- One poll for the lanes `ls` (R217). DESIGN CHOICE: where v[a] is one of the message's registers it holds the result of the poll (log 145). -/
def State.pollOne (s : State) (d a mbox : Nat) (ls : List Nat) : State :=
  match s.takeMessage s.issue.core mbox with
  | some (msg, t) => t.modMe fun g => ls.foldl (fun h l => (h.setRegs l (blockWrites d msg)).setReg l a 1) g
  | none => s.modMe fun g => ls.foldl (fun h l => h.setReg l a 0) g

/-- MBPOLL (R217). -/
def execMbpoll (u : Bool) (d a mbox : Nat) (s : State) : Out :=
  accessWith u [] (a :: (List.range 16).map (d + ·)) s fun t =>
    let t1 := if u then t.pollOne d a mbox t.issue.lanes else t.issue.lanes.foldl (fun v l => v.pollOne d a mbox [l]) t
    .next (t1.track t1.setA).retire

/-- MAILBOX_DELIVERY: the oldest message on its way to a mailbox arrives, and the oldest waiting receiver is served; a swapped-out team
that waits there becomes ready to come back (R86, R217, R317). -/
def execMailboxDelivery (core mbox : Nat) (s : State) : Out :=
  match (s.core core).mboxFly.findIdx? (·.1 == mbox) with
  | none => .next s
  | some i =>
    let msg := (((s.core core).mboxFly[i]?).map (·.2)).getD []
    let s1 := s.modCore core fun k => { k with mboxFly := k.mboxFly.eraseIdx i, mbox := k.mbox ++ [(mbox, msg)] }
    let s2 : State := { s1 with swapped := s1.swapped.map fun w =>
      if (core, mbox) ∈ w.mboxes then { w with ready := true } else w }
    .next ((s2.serveMailbox core mbox).due .teamPlacement)

/-! Barrier objects: words of Table Mi-7. -/

/-- A count that saturates at 0xFFFF_FFFF (R218). -/
def satAdd (x y : Nat) : Nat := min (x + y) 0xFFFFFFFF

/-- Word `i` of the barrier object at byte `p` of core `c`'s AB: 0 BYTES_ARR, 1 ROWS_ARR, 2 BYTES_EXP, 3 ROWS_EXP, 4 PADDED, 5 ARRIVALS,
6 ARR_EXP, 7 GEN. -/
def State.boWord (s : State) (c p i : Nat) : Nat := (s.core c).abWord (p + 4 * i)

/-- The object's eight words written at once; a BOWAIT that it completes ends (R218, R222). -/
def State.boWrite (s : State) (c p : Nat) (ws : List Nat) : State := s.abWrite c p (ws.flatMap (leBytes · 4)) []

/-- The object is complete (R219). -/
def State.boComplete (s : State) (c p : Nat) : Bool :=
  decide (s.boWord c p 2 ≤ s.boWord c p 0) && decide (s.boWord c p 3 ≤ s.boWord c p 1) && decide (s.boWord c p 6 ≤ s.boWord c p 5)

/-- Counts added to an object: bytes, rows, padded rows, arrivals (R218, R221, R268). -/
def State.boAdd (s : State) (c p bytes rows padded arrivals : Nat) : State :=
  let w := s.boWord c p
  s.boWrite c p [satAdd (w 0) bytes, satAdd (w 1) rows, w 2, w 3, satAdd (w 4) padded, satAdd (w 5) arrivals, w 6, w 7]

/-- BOINIT of an object (R220). -/
def State.boInit (s : State) (c p bytes rows arrivals : Nat) : State :=
  s.boWrite c p [0, 0, bytes, rows, 0, 0, arrivals, s.boWord c p 7 + 1]

/-- The frame of a barrier-object instruction: the lanes' objects, aligned and inside the allocation, in ascending order; lanes whose
object is being written by a copy are held (R197, R199, R218). -/
def boOp (u : Bool) (a h i : Nat) (reads writes : List Nat) (s : State)
    (f : State → Nat → List Nat → Nat × Nat → State × List (Nat × LaneEnd)) (fin : State → State) : Out :=
  accessWith u (a :: reads) writes s fun t =>
    let offs := t.offsets u a i 32
    match t.accessFault h 32 5 [] false offs with
    | some e => .next (t.raiseAcc e)
    | none =>
      let (t1, es) := offs.foldl (fun (acc : State × List (Nat × LaneEnd)) o =>
        let ls := if u then t.issue.lanes else [o.1]
        match acc.1.myAb o.2 32 with
        | some p =>
          if acc.1.claimed (acc.1.meLane o.1) (abSpace p.1) p.2 32 then (acc.1, acc.2 ++ ls.map (·, LaneEnd.hold .line))
          else
            let (v, e) := f acc.1 o.1 ls p
            (v, acc.2 ++ e)
        | none => acc) (t, [])
      .next ((fin t1).settle es)

/-- BOINIT (R220). -/
def execBoinit (u : Bool) (d a h i : Nat) (s : State) : Out :=
  boOp u a h i [d, d + 1, d + 2] [] s (fun t l ls p =>
    (t.boInit p.1 p.2 (t.me.reg l d).toNat (t.me.reg l (d + 1)).toNat (t.me.reg l (d + 2)).toNat, ls.map (·, .go))) id

/-- BOARR (R221). -/
def execBoarr (u : Bool) (d a h i : Nat) (s : State) : Out :=
  boOp u a h i [d] [] s (fun t l ls p => (t.boAdd p.1 p.2 (t.me.reg l d).toNat 0 0 1, ls.map (·, .go)))
    fun t => t.addOpDue t.issue.lanes .store t.setB none (.storeAck · 0)

/-- BOWAIT (R222). -/
def execBowait (u : Bool) (d a h i : Nat) (s : State) : Out :=
  boOp u a h i [] [d] s (fun t _ ls p =>
    if t.boComplete p.1 p.2 then
      (t.modMe fun g => ls.foldl (fun h l => h.setReg l d (BitVec.ofNat 32 (t.boWord p.1 p.2 4))) g, ls.map (·, .go))
    else (t.addOp ls (.bowait d p.1 p.2) none none, ls.map (·, .wait (.op t.opSeq .bowait)))) id

/-- BOTST (R222). -/
def execBotst (u : Bool) (d a h i : Nat) (s : State) : Out :=
  boOp u a h i [] [d] s (fun t _ ls p =>
    (t.modMe fun g => ls.foldl (fun h l => h.setReg l d (if t.boComplete p.1 p.2 then 1 else 0)) g, ls.map (·, .go))) id

/-! Watches. -/

/-- The lowest bit of the first descriptor field outside its range, given the watched buffer's length if its handle names a buffer
(R223, R403). -/
def descBad (desc : Nat) (len : Option Nat) : Option Nat :=
  let g := 2 ^ fld desc 96 4
  let ring := fld desc 100 2 == 1
  let woff := fld desc 32 32
  let wlen := fld desc 64 32
  ([(32, woff % g == 0),
    (64, wlen != 0 && wlen % g == 0 && (match len with | some n => decide (woff + wlen ≤ n) | none => true)),
    (96, decide (2 ≤ fld desc 96 4) && decide (fld desc 96 4 ≤ 12)),
    (100, decide (fld desc 100 2 ≤ 1)),
    (102, decide (fld desc 102 2 ≤ 2)),
    (288, fld desc 288 32 % 32 == 0),
    (352, !ring || fld desc 352 32 % 64 == 0),
    (384, !ring || (decide (4 ≤ fld desc 384 5) && decide (fld desc 384 5 ≤ 24))),
    (389, decide (fld desc 389 11 ≤ 1024)),
    (400, decide (fld desc 400 9 ≤ 256)),
    (432, decide (1 ≤ fld desc 432 4) && decide (fld desc 432 4 ≤ 8)),
    (480, decide (fld desc 480 18 ≤ 131072))].find? fun x => !x.2).map (·.1)

/-- A live watch at a descriptor address (R226). -/
def State.watchAt (s : State) (r : Ref) : Option Watch :=
  s.watches.find? fun w => !w.dropped && w.dRef.space == r.space && w.dRef.va == r.va

/-- The virtual interface that a watch belongs to: the issuer's; DESIGN CHOICE for a control thread, the watched buffer's, or 0 for
physical memory (log 21). -/
def State.watchVi (s : State) (r : Ref) : Nat := if s.isCt then (if r.vi < 64 then r.vi else 0) else s.myVi

/-- The frame of a watch instruction: the lowest lane's descriptor, 64-byte aligned, with Read; `k` gets it resolved (R199, R225). DEDUCED:
through a remote window the home chip carries the instruction out, as instruction `op` of 0 WATCH, 1 WDROP, 2 WRESUME, 3 WSTAT (log 121). -/
def watchOp (op a h i : Nat) (susp : Bool) (writes : List Nat) (n : Nat) (s : State) (k : State → Nat × Nat → Ref → Out) : Out :=
  accessWith true [a] writes s fun t =>
    let offs := t.offsets true a i 64
    match t.accessFault h 64 6 [.read] false offs, offs with
    | some f, _ => .next (t.raiseAcc f)
    | none, [] => .next t
    | none, o :: _ =>
      match t.resolve t.actor (t.slotHandle h) o.2 64 [.read] none with
      | .error _ => .next t
      | .ok r =>
        match r.remote with
        | some rank => .next (t.remoteOps true h rank offs (.load (writes.headD 0) n false) (fun _ => .watch op susp.toNat) none)
        | none => k t o r

/-- A value for every lane of the issue. -/
def State.giveAll (s : State) (ws : List (Nat × Word)) : State := s.modMe fun g => s.issue.lanes.foldl (fun h l => h.setRegs l ws) g

/-- The checks of WATCH on the buffers that the descriptor names: watched range, status block, ring; of several failures the lowest check's is
raised, at a tie the first buffer's (R225, R389, R403). DESIGN CHOICE: a WH that
is a remote window is accepted; no write of this chip touches its bytes, so the watch never fires (log 122). -/
def State.watchBuffers (s : State) (a : Actor) (desc l : Nat) : Except AccFault (Ref × Ref) :=
  let wh := fld desc 0 32
  let range := s.resolve a wh (fld desc 32 32) (fld desc 64 32) [] none
  let status := s.resolve a (fld desc 256 32) (fld desc 288 32) 32 [] none
  let ring := if fld desc 100 2 = 1 then s.resolve a (fld desc 320 32) (fld desc 352 32) (64 + 4 * 2 ^ fld desc 384 5) [] none else status
  let fails := (match range with
      | .error c => [(c, fld desc 32 32, wh)]
      | .ok w => if entWatched w.entry && entWatched w.outer then [] else [(5, fld desc 32 32, wh)]) ++
    (match status with | .error c => [(c, fld desc 288 32, fld desc 256 32)] | .ok _ => []) ++
    (match ring with | .error c => [(c, fld desc 352 32, fld desc 320 32)] | .ok _ => [])
  match range, status, (fails.map (·.1)).min? with
  | .ok w, .ok st, none => .ok (w, st)
  | _, _, low =>
    let x := (fails.find? fun f => some f.1 == low).getD (1, 0, wh)
    .error (checkCode x.1, l + x.1 * 256, x.2.1, x.2.2)

/-- The status block of a new watch: counts 0, and SUSP and CAUSE as WATCH asks (R225). -/
def State.statusInit (s : State) (x : Watch) (susp depth : Nat) : State := s.statusCount x 0 32 [(8, 5 * susp * 2 ^ 32)] depth

/-- The bytes of a descriptor's or block's buffer length (R60): that of the buffer that a local window stands for. -/
def Ref.bufLen (r : Ref) : Nat := entLen r.entry

/-- A watch is made live, unless the virtual interface holds 256 or one with this descriptor address: its status (R225).
DESIGN CHOICE: the slices take the watch's first place from the lowest on (log 123). -/
def State.makeWatchFor (s : State) (vi depth dH : Nat) (d w st : Ref) (desc susp : Nat) : State × Nat :=
  if 256 ≤ (s.watches.filter fun x => x.vi == vi && !x.dropped).length then (s, 1)
  else if (s.watches.any fun x => !x.dropped && x.vi == vi && x.dRef.space == d.space && x.dRef.va == d.va) then (s, 2)
  else
    let x : Watch := ⟨s.watchSeq, vi, dH, d.off, d, desc, w, st, 0, 255, false, 5 * susp⟩
    let s1 : State := { s with watches := s.watches ++ [x], watchSeq := s.watchSeq + 1 }
    (s1.statusInit x susp depth, 0)

/-- The same for the issuer (R225). -/
def State.makeWatch (s : State) (dH : Nat) (d w st : Ref) (desc susp : Nat) : State × Nat :=
  s.makeWatchFor (s.watchVi w) s.myDepth dH d w st desc susp

/-- WATCH (R225). -/
def execWatch (_u : Bool) (d a h i : Nat) (susp : Bool) (s : State) : Out :=
  watchOp 0 a h i susp [d] 4 s fun t o r =>
    match t.readAt t.actor (t.meLane o.1) r 64 0 with
    | (t1, .held w) => finish (t1.hold t1.issue.lanes w)
    | (t1, .poison g pa) => finish ((t1.poisonUse t1.actor.vi? 0 pa).raise 0x20 o.1 g (t1.slotHandle h))
    | (t1, .value desc) =>
      let len := match t1.resolve t1.actor (fld desc 0 32) 0 0 [] none with
        | .ok w => some w.bufLen
        | .error _ => none
      match descBad desc len with
      | some b => finish (t1.reserved 6 b o.2)
      | none =>
        match t1.watchBuffers t1.actor desc o.1 with
        | .error f => finish (t1.raiseAcc f)
        | .ok (w, st) =>
          let t2 := if st.remote.isSome then t1 else t1.prepare st 32
          match (if st.remote.isSome then none else t2.missing st.space st.va 32) with
          | some m => finish ((t2.mapRequest t2.actor st.space m 1).hold t2.issue.lanes .page)
          | none =>
            let (t3, x) := t2.makeWatch (t2.slotHandle h) r w st desc susp.toNat
            finish (t3.giveAll [(d, BitVec.ofNat 32 x)]).retire

/-- Triggers of a watch that wait in pools (false) or in the spill ring (true). -/
def State.waiting (s : State) (id : Nat) (spilled : Bool) : Nat := (s.trigs.filter fun t => t.watch == id && t.seq.isSome == spilled).length

/-- A dropped watch with no group running, no item in a ring and no atomic waiting is forgotten. -/
def State.reap (s : State) (id : Nat) : State :=
  { s with watches := s.watches.filter fun w => !(w.id == id && w.dropped && w.live == 0 && s.pushed.all (·.2.2 != id) && s.counts.all (·.watch != id)) }

/-- Every slice with a waiting trigger looks for one to dispatch, and spilled triggers for room. -/
def State.kickAll (s : State) : State :=
  let s1 := (((s.trigs.filter (·.seq.isNone)).map (·.slice)).foldr addTo []).foldl (fun t k => t.kick k) s
  let vis := ((s1.trigs.filter (·.seq.isSome)).filterMap fun t => (s1.watch? t.watch).map (·.vi)).foldr addTo []
  vis.foldl (fun t v => if t.agenda.contains (.triggerSpillReturn v) then t else t.due (.triggerSpillReturn v)) s1

/-- The page of a watch's status block is asked for where the tables lack it (R328). -/
def State.statusAsk (s : State) (w : Watch) : State :=
  if w.sRef.remote.isSome then s
  else
    let s1 := s.fillPage w.sRef.space w.sRef.va w.sRef.stack
    match s1.missing w.sRef.space w.sRef.va 32 with
    | some m => s1.mapRequest ⟨s.physCore w.vi 0, false, w.vi, 0⟩ w.sRef.space m 2
    | none => s1

/-- The oldest waiting atomic on a watch's status block is tried again (R83, R430). -/
def State.retryCount (s : State) (x : StatusAtom) : State :=
  if s.counts.find? (·.watch == x.watch) != some x then s
  else
    let s0 : State := { s with counts := s.counts.erase x }
    match s.watch? x.watch with
    | none => s0
    | some w => match s0.statusTry w x.byte x.n x.ops x.depth with
      | (t, none) => { t.statusAsk w with counts := s.counts }
      | (t, some ws) => match (if ws = [] then .ok t else State.compareBy State.statusCount s0 t ws) with
        | .ok u => ((u.monitors ws).unitGoes (.count x.watch)).reap x.watch
        | .error e => s.unitStops (.count x.watch) none e

/-- Waiting atomics on status blocks are tried again; what they held up goes on (R83, R103). -/
def State.settleCounts (s : State) : State :=
  if s.counts = [] then s
  else
    let t := s.counts.foldl State.retryCount s
    if t.counts.length < s.counts.length then t.kickAll.settleFences else t

/-- WDROP of a live watch: its waiting triggers are discarded (R226, R439); accesses held by the ring go on (R430). -/
def State.dropWatch (s : State) (w : Watch) (depth : Nat := s.myDepth) : State :=
  let mine := s.trigs.filter (·.watch == w.id)
  let s1 := mine.foldl (fun t x => match x.seq with
    | some q => t.spillWrite w x.off x.slice x.depth q 3
    | none => t) s
  let s2 := ({ s1 with trigs := s1.trigs.filter (·.watch != w.id) } : State).spillHead w.vi
  let s3 := (s2.liveAdd w 0 mine.length depth).statusCount w 4 4 [(6, 2)] depth
  let s4 := (s3.modWatch w.id fun x => { x with dropped := true }).reap w.id
  s4.ringFreed.kickAll

/-- WDROP (R226). -/
def execWdrop (_u : Bool) (d a h i : Nat) (s : State) : Out :=
  watchOp 1 a h i false [d] 4 s fun t _ r =>
    match t.watchAt r with
    | none => .next (t.giveAll [(d, 0xFFFFFFFF)]).retire
    | some w =>
      let n := (t.trigs.filter (·.watch == w.id)).length
      finish ((t.dropWatch w).giveAll [(d, BitVec.ofNat 32 n)]).retire

/-- SUSP := 0 and CAUSE := 0, and dispatch resumes (R227). -/
def State.resumeWatch (s : State) (w : Watch) (depth : Nat) : State := (s.statusCount w 4 4 [(5, 0xFFFFFFF2)] depth).kickAll

/-- The four words that WSTAT reads (R228). -/
def State.watchWords (s : State) (w : Watch) : List Nat :=
  [s.statusWord w, s.waiting w.id false, s.waiting w.id true, if w.ring then 0 else w.live]

/-- WRESUME (R227). -/
def execWresume (_u : Bool) (d a h i : Nat) (s : State) : Out :=
  watchOp 2 a h i false [d] 4 s fun t _ r =>
    match t.watchAt r with
    | none => .next (t.giveAll [(d, 0xFFFFFFFF)]).retire
    | some w =>
      if !t.statusReady w then finish ((t.statusAsk w).hold t.issue.lanes .line)
      else
      let x := t.statusWord w
      finish ((t.resumeWatch w t.myDepth).giveAll [(d, BitVec.ofNat 32 x)]).retire

/-- WSTAT (R228). -/
def execWstat (_u : Bool) (d a h i : Nat) (s : State) : Out :=
  watchOp 3 a h i false [d, d + 1, d + 2, d + 3] 16 s fun t _ r =>
    match t.watchAt r with
    | none => .next (t.giveAll ((List.range 4).map fun m => (d + m, 0xFFFFFFFF))).retire
    | some w =>
      if !t.statusReady w then finish ((t.statusAsk w).hold t.issue.lanes .line)
      else .next (t.giveAll ((t.watchWords w).zipIdx.map fun x => (d + x.2, BitVec.ofNat 32 x.1))).retire

/-! Handle slots (R232). -/

/-- HSET: the slot of the group, from the lowest lane, whatever U holds. -/
def execHset (_u : Bool) (a k : Nat) (s : State) : Out :=
  issueWith true [a] [] s fun t =>
    .next (t.modMe fun g => { g with slots := Mem.set g.slots k (g.reg (t.issue.lanes.headD 0) a) }).retire

/-- HGET. -/
def execHget (u : Bool) (d k : Nat) (s : State) : Out := laneOp u [] [d] s fun g _ => [(d, Mem.get g.slots k)]

/-- HLEN: the length of the slot's buffer, or 0 where a check fails. -/
def execHlen (u : Bool) (d k : Nat) (s : State) : Out :=
  issueWith u [] [d, d + 1] s fun t =>
    let n := match t.resolve t.actor (t.slotHandle k) 0 0 [] none with
      | .ok r => r.bufLen
      | .error _ => 0
    .next (t.giveAll (wordWrites d n 2)).retire

end Sys2Proof.Machine
end

