-- ==== Sys2Proof/Machine/Matrix.lean ====
section
/-!
DEFINITION. The MTX class (R233 to R259): operand records, matrix steps with the verdict monitor, thresholds, and moves between the
accumulator store and registers. Every operation is performed at its issue point (R96); its end frees an entry of the engine's queue.
-/
namespace Sys2Proof.Machine

/-! The engine's queue. -/

/-- The team slot of the issuer. -/
def State.mySlot? (s : State) : Option Nat := if s.isCt then none else some s.me.team

/-- Operations of core `c` that the matrix engine holds (R251). -/
def State.mtxQueued (s : State) (c : Nat) : Nat :=
  (s.ops.filter fun o => o.core == c && (match o.kind with | .mtx _ => true | .mma _ => true | _ => false)).length

/-- An operation of core `c` earlier than operation `id` waits for its B operand: it holds the engine's progress (R251, R329). -/
def State.mtxStalled (s : State) (c id : Nat) : Bool :=
  s.ops.any fun o => o.core == c && decide (o.id < id) && (match o.kind with | .mma _ => true | _ => false)

/-- The bytes of ACS from tile `t` on, `n` tiles, that a copy or a matrix step not yet performed holds against the issuer (R97). -/
def State.acsClaimed (s : State) (t n : Nat) : Bool :=
  s.claims.any fun c => c.space == acsSpace s.issue.core && decide (c.lo < 32768 * (t + n)) && decide (32768 * t < c.hi)

/-- The frame of an engine operation on `n` tiles from core tile `t`: the engine's queue has room, or else the word has not issued; and
nothing holds the tiles. -/
def engineWith (t n : Nat) (s : State) (k : State → Out) : Out :=
  if 8 ≤ s.mtxQueued s.issue.core then .next (s.holdBefore .mtxQueue)
  else if s.acsClaimed t n then .next (s.hold s.issue.lanes .line)
  else k s

/-- An engine operation has been performed; its end is due (R251). -/
def State.engineOp (s : State) (flag : Option Nat) : State := (s.addOpDue s.issue.lanes (.mtx s.mySlot?) flag none .matrixOpEnd).retire

/-! The accumulator store. -/

/-- The number of an ACS element (R233). -/
def acsElem (tile row col : Nat) : Nat := 8192 * tile + 64 * row + col

/-- The threshold of row `r` of pair `p` (R234). -/
def Core.threshold (k : Core) (p r : Nat) : Word := Mem.get k.thr (128 * p + r) ^^^ 0xFF800000

/-- The core with a threshold written. -/
def Core.setThreshold (k : Core) (p r : Nat) (v : Word) : Core := { k with thr := Mem.set k.thr (128 * p + r) (v ^^^ 0xFF800000) }

/-- The step count of row `r` of pair `p` (R234). -/
def Core.steps (k : Core) (p r : Nat) : Nat := (Mem.get k.ncount (128 * p + r)).toNat

/-- The core with a step count written. -/
def Core.setSteps (k : Core) (p r n : Nat) : Core := { k with ncount := Mem.set k.ncount (128 * p + r) (BitVec.ofNat 16 n) }

/-- The core with an ACS element written; a written element holds no poison (R420). -/
def Core.setAcs (k : Core) (e : Nat) (v : Word) : Core :=
  { k with acs := Mem.set k.acs e v, poisonAcs := if k.poisonAcs = [] then [] else k.poisonAcs.filter (· ≠ e) }

/-- The 512 bits of operand record `o` of a core (R242). -/
def Core.record (k : Core) (o : Nat) : Nat :=
  ((List.range 16).map fun m => (Mem.get k.recs (16 * o + m)).toNat * 2 ^ (32 * m)).sum

/-! ORSET and ORGET. -/

/-- A record outside the team's: OPERAND_RECORD, check 3 (R395). -/
def State.recordFault (s : State) (o : Nat) : Option State :=
  if o < s.records.2 then none else some (s.raise 0x14 (3 + 0x1FF * 65536) o 0)

/-- ORSET: record d from v[a] to v[a + 15] of the lowest active lane (R245). -/
def execOrset (d a : Nat) (s : State) : Out :=
  accessWith true (regRange a 16) [] s fun t =>
    match t.recordFault d with
    | some x => .next x
    | none =>
      let l := t.issue.lanes.headD 0
      .next (t.modCore t.issue.core fun k =>
        { k with recs := (List.range 16).foldl (fun m i => Mem.set m (16 * (t.records.1 + d) + i) (t.me.reg l (a + i))) k.recs }).retire

/-- ORGET: v[d] to v[d + 15] from record a, in every active lane (R245). -/
def execOrget (d a : Nat) (s : State) : Out :=
  accessSet [] (regRange d 16) s fun t =>
    match t.recordFault a with
    | some x => .next x
    | none =>
      let k := t.core t.issue.core
      .next (t.giveAll ((List.range 16).map fun i => (d + i, Mem.get k.recs (16 * (t.records.1 + a) + i)))).retire

/-! Matrix steps. -/

/-- A format of Table Mx-1: class 1 V4, 2 FP8, 3 16-bit, 4 INT8; 0 for none. -/
def mxClass (f : Nat) : Nat :=
  match f with
  | 10 => 1 | 3 => 2 | 4 => 2 | 1 => 3 | 2 => 3 | 5 => 4 | _ => 0

/-- The fields of an operand record (Table Mx-2). -/
def recA (r : Nat) : Nat := fld r 0 4
/-- BFMT. -/
def recB (r : Nat) : Nat := fld r 4 4
/-- N as NSEL gives it. -/
def recN (r : Nat) : Nat := 16 * 2 ^ fld r 8 2
/-- The block length BLK gives. -/
def recBlock (r : Nat) : Nat := blockLen (bit r 10)
/-- BSRC. -/
def recSrc (r : Nat) : Nat := fld r 13 2
/-- ROFF in rows. -/
def recRow (r : Nat) : Nat := 32 * fld r 20 2
/-- GRANT0 to GRANT3, those that are not 0. -/
def recGrants (r : Nat) : List Nat := ((List.range 4).map fun n => fld r (192 + 16 * n) 16).filter (· != 0)

/-- Positions K of one step: 256 bits of A a lane (R236). -/
def recK (r : Nat) : Nat := 256 / typeWidth (recA r)

/-- Scale bytes of a row or a column in one step (R240). -/
def scaleBytes (r : Nat) : Nat := max 1 (recK r / recBlock r)

/-- Registers that a column-wise operand of `n` columns takes in a group of width `w` (R240, R241). -/
def perColumn (n w : Nat) : Nat := (n + w - 1) / w

/-- The register ranges that a step reads, each with its first register, its length and the bit of its field. Without a usable record
the lengths that do not depend on it. -/
def mxRanges (r : Option Nat) (w a b ssel v sb sa : Nat) (isV : Bool) : List (Nat × Nat × Nat) :=
  match r with
  | none => [(a, 8, 16)] ++ (if isV then [(v, 2, 35)] else [])
  | some r =>
    let q := (ssel + scaleBytes r - 1) / 4 + 1
    let n := perColumn (recN r) w
    [(a, 8, 16)] ++ (if recSrc r = 0 then [(b, (8 * recN r + w - 1) / w, 9)] else [])
      ++ (if bit r 11 then [(sa, q, 57)] else []) ++ (if bit r 12 then [(sb, q * n, 50)] else [])
      ++ (if isV then [(v, 1 + n, 35)] else [])

/-- The record and instruction fields of check 4 of Table Mx-3, each by its lowest bit of the record, 0x1FF for an instruction's. -/
def mxFields (r w b ssel xz : Nat) (acc : Bool) (v sb sa : Nat) (isV : Bool) : List Check :=
  let c := mxClass (recA r)
  let scaled := fun (x : Bool) => if c = 1 then x else c = 2 || !x
  let seg := bit r 15
  let x := fun (p : Bool) => (⟨0x1FF, 4, p⟩ : Check)
  [⟨0, 4, c != 0⟩, ⟨4, 4, mxClass (recB r) == c⟩, ⟨8, 4, fld r 8 2 != 3⟩, ⟨11, 4, scaled (bit r 11)⟩, ⟨12, 4, scaled (bit r 12)⟩,
    ⟨13, 4, recSrc r != 3⟩, ⟨15, 4, !seg || recSrc r == 1⟩, ⟨18, 4, (bit r 18 == (c == 4)) && !(isV && bit r 18)⟩,
    ⟨19, 4, c == 4 || !bit r 19⟩, ⟨20, 4, recRow r + w ≤ 128⟩,
    ⟨22, 4, if isV then fld r 22 2 == 1 || fld r 22 2 == 2 else fld r 22 2 == 0⟩, ⟨24, 4, c != 4 || fld r 24 4 == 0⟩,
    ⟨28, 4, fld r 28 4 == 0⟩, ⟨32, 4, !seg || fld r 32 10 == 0⟩, ⟨42, 4, !(seg && bit r 42)⟩, ⟨43, 4, !bit r 43⟩,
    ⟨44, 4, recSrc r != 2 || fld r 44 4 ≤ 11⟩, ⟨48, 4, fld r 48 16 == 0⟩, ⟨64, 4, recSrc r != 2 || fld r 64 5 == 0⟩,
    ⟨96, 4, fld r 96 96 == 0⟩] ++ (List.range (w / 8)).map (fun s => ⟨267 + 16 * s, 4, fld r (267 + 16 * s) 5 == 0⟩) ++
  [x (xz == 0), x (acc || !isV), x (bit r 11 || sa == 0), x (bit r 12 || sb == 0), x (bit r 11 || bit r 12 || ssel == 0),
    x (recSrc r == 0 || b == 0), x (isV || v == 0)]

/-- The WB tile and half that each 8-row segment of a group of width `w` takes B from (R243). -/
def mxTiles (r w : Nat) : List (Nat × Nat) :=
  if recSrc r = 1 then
    if bit r 15 then (List.range ((w + 7) / 8)).map fun s => (fld r (256 + 16 * s) 10, fld r (266 + 16 * s) 1)
    else [(fld r 32 10, fld r 42 1)]
  else []

/-- How checks 1 to 7 of Table Mx-3 come out: a fault, or the buffer that BSRC 2 names (R244, R398). -/
def State.mxCheck (s : State) (a b o ssel xz : Nat) (acc : Bool) (v t sb sa : Nat) (isV : Bool) : Except AccFault (Option Ref) :=
  let g := s.me
  let r := (s.core s.issue.core).record (s.records.1 + o)
  let known := decide (o < s.records.2)
  let usable := known && mxClass (recA r) != 0 && fld r 8 2 != 3
  let regs := mxRanges (if usable then some r else none) g.width a b ssel v sb sa isV
  let missing := (List.range g.width).filter (!s.issue.lanes.contains ·)
  let past := regs.filter fun x => 128 < x.1 + x.2.1
  let outside := (regs.flatMap fun x => regRange x.1 x.2.1).filter (16 * g.blocks ≤ ·)
  let wb := match s.myTeam? with | some m => (m.wbFirst, m.wbN) | none => (0, Config.wbTiles)
  let tiles := mxTiles r g.width
  let tagBad := fun (x : Nat × Nat) =>
    let tag := (Mem.get (s.core s.issue.core).wbTag (wb.1 + x.1)).toNat
    tag != 0 && !(recGrants r).contains tag
  if missing ≠ [] then .error (0x06, missing.headD 0, 0, 0)
  else if past ≠ [] then .error (0x03, 3 + 65536 * ((past.map (·.2.2)).min?.getD 0), 0, 0)
  else if outside ≠ [] then .error (0x05, outside.min?.getD 0 + g.blocks * 256, 0, 0)
  else if !known then .error (0x14, 3 + 0x1FF * 65536, o, 0)
  else match lowestFailure (mxFields r g.width b ssel xz acc v sb sa isV) with
  | some c => .error (0x14, 4 + c.bit * 65536, o, 0)
  | none =>
    if s.acsTiles.2 ≤ t || (isV && t % 2 == 1) then .error (0x14, 5 + 0x1FF * 65536, o, 0)
    else if tiles.any (fun x => decide (wb.2 ≤ x.1)) then .error (0x14, 6 + 0x1FF * 65536, o, 0)
    else match (recGrants r).find? (fun n => s.isCt || (s.grant? s.myVi n).isNone) with
    | some n => .error (0x13, 768, n, 0)
    | none =>
      match tiles.find? tagBad with
      | some x => .error (0x15, 0, 4096 * x.1, 0)
      | none =>
        if recSrc r ≠ 2 then .ok none
        else
          let h := s.slotHandle (fld r 44 4)
          let tries := (none :: (recGrants r).map some).map fun n => s.resolve s.actor h (fld r 64 32) (32 * recN r) [.read] n
          match tries.find? (fun x => match x with | .error 3 => false | _ => true) with
          | some (.ok x) => .ok (some x)
          | some (.error c) => .error (checkCode c, c * 256, fld r 64 32, h)
          | none => .error (0x13, 768, fld r 64 32, h)

/-- Element `k` of packed words, and its value under a scale byte (R131, R238, R239). -/
def mxValue (fmt : Nat) (flush : Bool) (byte : Nat) (words : Nat → Nat) (k : Nat) : FVal :=
  let w := typeWidth fmt
  let code := fld (words (k * w / 32)) (w * (k % (32 / w))) w
  if fmt = 5 then .fin (decide (signed code 8 < 0)) (signed code 8).natAbs 0 else scaledValue fmt byte code flush

/-- The products of a row and a column: +0 where either factor is zero (R132). -/
def mxTerm (x y : FVal) : FVal := if x.isZero || y.isZero then .fin false 0 0 else (x.mul y).getD (.nan false)

/-- P after a step, and whether its rounding was inexact: an exact zero sum leaves it, NaN becomes canonical (R132). -/
def mxAdd (p : Word) (s : FVal) : Word × Bool :=
  let x := Fmt.f32.decode false p.toNat
  if s.isNan || x.isNan then (0x7FC00000, false)
  else if s.isZero then (p, false)
  else
    let r := Fmt.f32.sum .rne false false [x, s]
    (BitVec.ofNat 32 r.bits, r.flags &&& flagNX != 0)

/-- The magnitude of a value. -/
def FVal.abs : FVal → FVal
  | .nan s => .nan s
  | .inf _ => .inf false
  | .fin _ m e => .fin false m e

/-- A value rounded toward +∞ to FP32, as a value (R138). -/
def roundUp (x : FVal) : FVal := Fmt.f32.decode false (Fmt.f32.ofVal .rup false x).bits

/-- A sum rounded toward +∞ to FP32. -/
def sumUp (x y : FVal) : FRes := Fmt.f32.sum .rup false false [x, y]

/-- The monitor of R138 on an element: the new bound E, and whether the element is abandoned. `p` is P after the step's addition. -/
def monitor (p : Word) (inexact : Bool) (e tA tB thr : Word) (c kind : Nat) : Word × Bool :=
  let x := Fmt.f32.decode false p.toNat
  let t0 := (Fmt.f32.ofVal .rup false (x.abs.scale (-24))).bits
  let t := if inexact && t0 == 0 then 1 else t0
  let e1 := (sumUp (Fmt.f32.decode false e.toNat) (Fmt.f32.decode false t)).bits
  let norm := match (Fmt.f32.decode false tA.toNat).abs.mul (Fmt.f32.decode false tB.toNat).abs with
    | some n => n
    | none => .nan false
  let b := roundUp ((roundUp norm).scale (-(c : Int)))
  let y := Fmt.f32.decode false (sumUp (Fmt.f32.decode false (sumUp x (Fmt.f32.decode false e1)).bits) b).bits
  let bound := if kind = 1 then .fin false 0 0 else Fmt.f32.decode false thr.toNat
  (BitVec.ofNat 32 e1, !y.isNan && !bound.isNan && y.lt bound)

/-- A step's operands beside the record: the issuing group, its core, the core tile, the fields of the instruction, B's packed words and
poisoned words by segment, and VMON_EN. -/
structure MxStep where
  g     : Group
  core  : Nat
  rcd   : Nat
  tile  : Nat
  isV   : Bool
  a     : Nat
  ssel  : Nat
  acc   : Bool
  v     : Nat
  sb    : Nat
  sa    : Nat
  vmon  : Bool
  bs    : List (List Nat × List Nat)

/-- B of lane `i`'s segment: its words, and the words that are poisoned. -/
def MxStep.bOf (m : MxStep) (i : Nat) : List Nat × List Nat :=
  (if m.bs.length ≤ 1 then m.bs[0]? else m.bs[i / 8]?).getD ([], [])

/-- Row `i` of A (R238, R240). -/
def MxStep.row (m : MxStep) (i : Nat) : List FVal :=
  (List.range (recK m.rcd)).map fun k =>
    let q := m.ssel + k / recBlock m.rcd
    let byte := if bit m.rcd 11 then byteOf (m.g.reg i (m.sa + q / 4)) (q % 4) else 127
    mxValue (recA m.rcd) (bit m.rcd 16) byte (fun j => (m.g.reg i (m.a + j)).toNat) k

/-- Column `j` of B of some packed words (R239, R240). -/
def MxStep.column (m : MxStep) (words : List Nat) (j : Nat) : List FVal :=
  let w := m.g.width
  (List.range (recK m.rcd)).map fun k =>
    let q := m.ssel + k / recBlock m.rcd
    let byte := if bit m.rcd 12 then byteOf (m.g.reg (j % w) (m.sb + q / 4 * perColumn (recN m.rcd) w + j / w)) (q % 4) else 127
    mxValue (recB m.rcd) (bit m.rcd 16) byte (fun i => (words[8 * j + i]?).getD 0) k

/-- One element's step: P and E after it, whether it was abandoned, and whether poison reached it (R247, R248, R132, R133, R138, Table
Fm-4). `thr` is the captured threshold and `n` the step count. -/
def MxStep.element (m : MxStep) (k : Core) (poisonB : Bool) (x y : List FVal) (i j : Nat) (thr : Word) (n : Nat) :
    Word × Word × Bool × Bool :=
  let r := recRow m.rcd + i
  let pe := acsElem m.tile r j
  let ee := acsElem (m.tile + 1) r j
  let p0 := Mem.get k.acs pe
  let e0 := Mem.get k.acs ee
  let badE := m.isV && k.poisonAcs.contains ee
  if m.isV && !badE && e0.msb then (p0, e0, false, false)
  else if poisonB || badE || ((m.isV || m.acc) && k.poisonAcs.contains pe) then
    (if bit m.rcd 18 then 0x80000000 else 0x7FC00000, e0, false, true)
  else
    let p := if m.isV || m.acc then p0 else 0
    let s := sumVal (List.zipWith mxTerm x y)
    if bit m.rcd 18 then
      let d : Int := match s with | .fin ng mm e => (if ng then -1 else 1) * (mm * 2 ^ e.toNat : Nat) | _ => 0
      let sum := p.toInt + d
      let out := if bit m.rcd 19 then max (-2147483648) (min sum 2147483647) else sum
      (BitVec.ofInt 32 out, e0, false, false)
    else
      let (p1, inexact) := mxAdd p (s.scale (-(fld m.rcd 24 4 : Int)))
      if !m.isV then (p1, e0, false, false)
      else
        let (e1, drop) := monitor p1 inexact e0 (m.g.reg i m.v) (m.g.reg (j % m.g.width) (m.v + 1 + j / m.g.width)) thr
          (fld m.rcd 24 4) (fld m.rcd 22 2)
        if drop && m.vmon then
          (BitVec.ofNat 32 (0xFFB50000 + fld m.rcd 22 2 * 4096 + min n 4095), e1 ||| 0x80000000, true, false)
        else (p1, e1, false, false)

/-- Live units of a step: how many there are, and how many zero skipping and abandonment spare (R250, R257). DESIGN
CHOICE: a group whose width is no multiple of 8, a control thread's of 1, has W/8 segments rounded up (log 146). -/
def MxStep.units (m : MxStep) (k : Core) : Nat × Nat × Nat :=
  let w := m.g.width
  let segs := (w + 7) / 8
  let cols := recN m.rcd / 8
  let ks := (recK m.rcd + 31) / 32
  let rows := (List.range w).map m.row
  let zero := fun (s q : Nat) => ((rows.drop (8 * s)).take 8).all fun x => ((x.drop (32 * q)).take 32).all (·.isZero)
  let gone := fun (s c : Nat) => m.isV && (List.range (min 8 (w - 8 * s))).all fun i => (List.range 8).all fun j =>
    (Mem.get k.acs (acsElem (m.tile + 1) (recRow m.rcd + 8 * s + i) (8 * c + j))).msb
  let all := (List.range segs).flatMap fun s => (List.range cols).flatMap fun c => (List.range ks).map fun q =>
    if gone s c then 2 else if bit m.rcd 17 && zero s q then 1 else 0
  (all.length, all.count 1, all.count 2)

/-- A counter's amount in a team's MSTAT counters (Table Mx-7). -/
def Team.countStat (t : Team) (i n : Nat) : Team := { t with stats := Mem.set t.stats i (Mem.get t.stats i + BitVec.ofNat 64 n) }

/-- A step performed on its core: thresholds are captured first, step counts rise, every element is computed from the state before the
step, and the counters of the team rise (R247 to R250, R257). -/
def State.mxPerform (s : State) (m : MxStep) (team : Option Nat) (a : Actor) : State :=
  let k := s.core m.core
  let w := m.g.width
  let pair := m.tile / 2
  let counts := (List.range w).map fun i => min (k.steps pair (recRow m.rcd + i) + 1) 65535
  let bcols := m.bs.map fun b => (List.range (recN m.rcd)).map fun j =>
    (m.column b.1 j, (List.range 8).any fun i => b.2.contains (8 * j + i))
  let results := (List.range w).flatMap fun i =>
    let x := m.row i
    let cs := (if bcols.length ≤ 1 then bcols[0]? else bcols[i / 8]?).getD []
    let thr := k.threshold pair (recRow m.rcd + i)
    cs.zipIdx.map fun c => (i, c.2, m.element k c.1.2 x c.1.1 i c.2 thr ((counts[i]?).getD 0))
  let k1 := results.foldl (fun q r =>
    let row := recRow m.rcd + r.1
    let pe := acsElem m.tile row r.2.1
    let ee := acsElem (m.tile + 1) row r.2.1
    let q1 := if m.isV && !k.poisonAcs.contains ee && (Mem.get k.acs ee).msb then q else q.setAcs pe r.2.2.1
    if m.isV && !r.2.2.2.2.2 then { q1 with acs := Mem.set q1.acs ee r.2.2.2.1 } else q1) k
  let k2 := if m.isV then counts.zipIdx.foldl (fun q c => q.setSteps pair (recRow m.rcd + c.2) c.1) k1 else k1
  let (total, zseg, vskip) := m.units k
  let c0 := if typeWidth (recA m.rcd) = 16 then 8 else 4
  let cost := fun (live : Nat) => max 1 ((c0 * w * recN m.rcd * live + 8192 * total - 1) / (8192 * total))
  let s1 := s.modCore m.core fun _ => k2
  let s2 := match team with
    | some t => s1.modTeam m.core t fun x =>
        ((((((x.countStat 0 1).countStat 1 (cost (total - zseg - vskip))).countStat 2 (cost total)).countStat 3
          (results.countP fun r => r.2.2.2.2.1)).countStat 4 zseg).countStat 5 vskip)
    | none => s1
  let hurt := results.filter fun r => r.2.2.2.2.2
  match hurt with
  | [] => s2
  | h :: _ =>
    ((s2.count Config.nErrPoison 0 1).machineCheck 0x03 5 m.core a.vi? 0 4).postPoison a 0
      (4 * acsElem m.tile (recRow m.rcd + h.1) h.2.1) 2 hurt.length

/-- The words of some little-endian bytes. -/
def bytesNats : List Byte → List Nat
  | a :: b :: c :: d :: t => leNat [a, b, c, d] :: bytesNats t
  | _ => []

/-- B from registers (R239). -/
def Group.packedB (g : Group) (b n : Nat) : List Nat := (List.range (8 * n)).map fun w => (g.reg (w % g.width) (b + w / g.width)).toNat

/-- B of WB tile `t` of the core, its half `h`: the packed words, and those in poisoned granules (R239). -/
def Core.tileB (k : Core) (t h n : Nat) : List Nat × List Nat :=
  let p := 4096 * t + 2048 * h
  (bytesNats (Mem.bytes k.wb p (32 * n)), if k.poisonWb = [] then [] else (List.range (8 * n)).filter fun w =>
    k.poisonWb.contains ((p + 4 * w) / 32))

/-- An access of a unit, not of a lane: its claims are an operation's, so those of every lane hold it. -/
abbrev noLane (c : Nat) : Nat × Agent × Nat := (c, .ct, 1)

/-- What reading a B operand in global memory gives `owner`: held, missing, waiting for a spill ring, or its words and the poisoned ones
(R73, R102, R328, R430). -/
def State.mxRead (s : State) (a : Actor) (owner : (Nat × Agent × Nat) ⊕ Nat) (r : Ref) (n : Nat) :
    State × Except Why (List Nat × List Nat) :=
  let stop := fun (t : State) (x : RingFull) => match owner with
    | .inl me => t.blockOn me r.space r.va (32 * n) x
    | .inr id => t.unitStops (.op id) (some a.core) x
  let go := fun (t : State) => match owner with
    | .inl me => t.unclaim me
    | .inr id => t.unitGoes (.op id)
  if s.heldBy owner a.core r.space r.va (32 * n) || s.logged a.core r.space r.va (32 * n) then (s, .error .line)
  else
    let s1 := (match owner with | .inl _ => s.autoTouch r a.core | .inr _ => s).prepare r (32 * n)
    match s1.missing r.space r.va (32 * n), s1.locate r.space r.va (32 * n) with
    | some m, _ => (s1.mapRequest a r.space m 2, .error .page)
    | none, none => (s1, .error .page)
    | none, some rs =>
      if s1.pairsLogged rs then (s1, .error .line)
      else match s1.applyFor rs with
      | .error x => (stop s1 x, .error .spillRing)
      | .ok s2 =>
        let s3 := go (s2.detectRuns rs)
        let bad := if s3.poison = [] ∧ s3.cxlLost = [] then [] else (List.range (8 * n)).filter fun w =>
          match s3.lookup r.space (r.va + 4 * w) with
          | some pa => s3.poisoned (pa / 32)
          | none => false
        (s3, .ok (bytesNats (s3.readRuns rs), bad))

/-- The step of an instruction as `s` stands, with B given. DESIGN CHOICE: a control thread, which belongs to no team, has VMON_EN = 1 (Table Ov-5 gives the
setting per team only; R14, R248, log 140). -/
def State.mxStepOf (s : State) (a ssel : Nat) (acc : Bool) (v t sb sa r : Nat) (isV : Bool) (bs : List (List Nat × List Nat)) :
    MxStep :=
  ⟨s.me, s.issue.core, r, s.acsTiles.1 + t, isV, a, ssel, acc, v, sb, sa,
    (match s.myTeam? with | some m => m.vmon | none => true), bs⟩

/-- Copies ordered before the issue have still to write WB tiles that its record names: neither the tiles nor their tags stand yet (R96,
R244). -/
def State.tilesClaimed (s : State) (g : Group) (o : Nat) : Bool :=
  let r := (s.core s.issue.core).record (s.records.1 + o)
  let wb := match s.myTeam? with | some m => m.wbFirst | none => 0
  s.claims != [] && decide (o < s.records.2) && recSrc r == 1 && (mxTiles r g.width).any fun x =>
    s.claimed (noLane s.issue.core) (wbSpace s.issue.core) (4096 * (wb + x.1)) 4096

/-- MMA and MMAV: the checks of Table Mx-3, then the whole step (R244, R246 to R248). A B operand in global memory whose page is missing
holds the engine's progress and not the lanes; one behind a remote window is awaited (R60, R329). -/
def mmaOp (a b o ssel xz : Nat) (acc : Bool) (v t sb sa : Nat) (isV : Bool) (s : State) : Out :=
  match s.me? with
  | none => .fault .noIssue
  | some g =>
    if s.tilesClaimed g o then .next (s.hold s.issue.lanes .line)
    else match s.mxCheck a b o ssel xz acc v t sb sa isV with
    | .error f => .next (s.raiseAcc f)
    | .ok bref =>
      let r := (s.core s.issue.core).record (s.records.1 + o)
      let regs := (mxRanges (some r) g.width a b ssel v sb sa isV).flatMap fun x => regRange x.1 x.2.1
      accessSet regs [] s fun u =>
        engineWith (u.acsTiles.1 + t) 2 u fun w =>
          let wb := match w.myTeam? with | some m => m.wbFirst | none => 0
          let k := w.core w.issue.core
          let step := w.mxStepOf a ssel acc v t sb sa r isV
          match bref with
          | none =>
            if recSrc r = 0 then .next ((w.mxPerform (step [(g.packedB b (recN r), [])]) w.mySlot? w.actor).engineOp w.setA)
            else
              .next ((w.mxPerform (step ((mxTiles r g.width).map fun x => k.tileB (wb + x.1) x.2 (recN r))) w.mySlot? w.actor).engineOp
                w.setA)
          | some x =>
            let job : MmaJob := ⟨g, w.mySlot?, r, w.issue.iword + w.issue.xword * 4294967296, w.acsTiles.1 + t,
              (step []).vmon, x⟩
            let tiles := { space := acsSpace w.issue.core, lo := 32768 * job.tile, hi := 32768 * (job.tile + 2),
                           owner := .inr w.opSeq : Claim }
            if let some rank := x.remote then
              if w.farBehind w.issue.core w.issue.agent w.issue.lanes rank w.opSeq then .next (w.hold w.issue.lanes .line)
              else .next { ((w.addOp w.issue.lanes (.mma job) w.setA
                (some { w.faultEntry 0 0 x.off (w.slotHandle (fld r 44 4)) with lanes := w.issue.lanes })).retireWait
                  (.op w.opSeq .remote)) with claims := w.claims ++ [tiles] }
            else match w.mxRead w.actor (.inl (w.meLane (w.issue.lanes.headD 0))) x (recN r) with
            | (w1, .ok bw) => finish ((w1.mxPerform (step [bw]) w.mySlot? w.actor).engineOp w.setA)
            | (w1, .error .page) =>
              finish { (w1.addOp w.issue.lanes (.mma job) w.setA none).retire with
                claims := w1.claims ++ [tiles, ⟨x.space, x.va, x.va + 32 * recN r, .inr w.opSeq⟩] }
            | (w1, .error h) => finish (w1.hold w.issue.lanes h)

/-- MMA (R246, R247). -/
def execMma (a b o ssel xz : Nat) (acc : Bool) (v t sb sa : Nat) (s : State) : Out := mmaOp a b o ssel xz acc v t sb sa false s

/-- MMAV (R246, R248). -/
def execMmav (a b o ssel xz : Nat) (acc : Bool) (v t sb sa : Nat) (s : State) : Out := mmaOp a b o ssel xz acc v t sb sa true s

/-- The step of a waiting operation, with B given. -/
def MmaJob.step (j : MmaJob) (core : Nat) (b : List Nat × List Nat) : MxStep :=
  let w := j.word
  ⟨j.g, core, j.rcd, j.tile, fld w 24 8 == 1, fld w 16 7, fld w 0 2, bit w 34, fld w 35 7, fld w 50 7, fld w 57 7, j.vmon, [b]⟩

/-- The ends of the operations that core `c`'s engine has performed are due. -/
def State.engineDue (s : State) (c : Nat) : State :=
  s.ops.foldl (fun t o => match o.kind with
    | .mtx _ => if o.core = c ∧ !t.agenda.contains (.matrixOpEnd o.id) then t.due (.matrixOpEnd o.id) else t
    | _ => t) s

/-- An operation whose B operand has come is performed; its end is due. -/
def State.mxFinish (s : State) (o : Op) (j : MmaJob) (b : List Nat × List Nat) : State :=
  let a : Actor := ⟨o.core, decide (o.agent = .ct), j.bref.vi, 0⟩
  let s1 := (s.mxPerform (j.step o.core b) j.team a).modOp o.id fun p => { p with kind := .mtx j.team, fault := none }
  ((s1.unclaimOp o.id).engineDue o.core).modGroup o.core o.agent (·.wake o.id)

/-! ACCZ, ACCRD, ACCWR. -/

/-- ACCZ: the covered rows of tiles `t` to `t` + `d` hold zero, with thresholds −∞ and step counts 0 (R254). -/
def execAccz (d q t : Nat) (s : State) : Out :=
  fieldWith (.accz d q t) s fun s =>
  accessSet [] [] s fun u =>
    let t0 := u.acsTiles.1 + t
    engineWith t0 (d + 1) u fun w =>
      let rowIn := fun (r : Nat) => bit q (r / 32)
      .next ((w.modCore w.issue.core fun k =>
        { k with
          acs := k.acs.filter fun c => !(decide (8192 * t0 ≤ c.1) && decide (c.1 < 8192 * (t0 + d + 1)) && rowIn (c.1 / 64 % 128)),
          poisonAcs := k.poisonAcs.filter fun c =>
            !(decide (8192 * t0 ≤ c) && decide (c < 8192 * (t0 + d + 1)) && rowIn (c / 64 % 128)),
          thr := k.thr.filter fun c => !(decide (t0 / 2 ≤ c.1 / 128) && decide (c.1 / 128 ≤ (t0 + d) / 2) && rowIn (c.1 % 128)),
          ncount := k.ncount.filter fun c =>
            !(decide (t0 / 2 ≤ c.1 / 128) && decide (c.1 / 128 ≤ (t0 + d) / 2) && rowIn (c.1 % 128)) }).engineOp none)

/-- ACCRD: v[d + m] := element (row0 + l, col0 + m) of tile t; a poisoned element gives the canonical NaN (R255, Table Fm-4). -/
def execAccrd (d t row0 col0 nreg : Nat) (s : State) : Out :=
  fieldWith (.accrd d t row0 col0 nreg) s fun s =>
  accessSet [] (regRange d (nreg + 1)) s fun u =>
    let tile := u.acsTiles.1 + t
    engineWith tile 1 u fun w =>
      let k := w.core w.issue.core
      let elem := fun (l m : Nat) => acsElem tile (row0 + l) (col0 + m)
      let bad := if k.poisonAcs = [] then [] else w.issue.lanes.flatMap fun l =>
        ((List.range (nreg + 1)).map (elem l)).filter k.poisonAcs.contains
      let w1 := w.modMe fun g => w.issue.lanes.foldl (fun h l => h.setRegs l ((List.range (nreg + 1)).map fun m =>
        (d + m, if bad.contains (elem l m) then 0x7FC00000 else Mem.get k.acs (elem l m)))) g
      let w2 := match bad with
        | [] => w1
        | e :: _ => (w1.localUse 4).postPoison w1.actor 0 (4 * e) 2 bad.length
      .next (w2.engineOp w2.setB)

/-- ACCWR: element (row0 + l, col0 + m) of tile t := v[d + m] (R255). -/
def execAccwr (d t row0 col0 nreg : Nat) (s : State) : Out :=
  fieldWith (.accwr d t row0 col0 nreg) s fun s =>
  accessSet (regRange d (nreg + 1)) [] s fun u =>
    let tile := u.acsTiles.1 + t
    engineWith tile 1 u fun w =>
      .next ((w.modCore w.issue.core fun k => w.issue.lanes.foldl (fun q l => (List.range (nreg + 1)).foldl (fun p m =>
        p.setAcs (acsElem tile (row0 + l) (col0 + m)) (w.me.reg l (d + m))) q) k).engineOp w.setB)

/-! MTHR, MVST, MSTAT, MSYNC. -/

/-- One lane's offer to a threshold (R252). -/
def Core.offer (k : Core) (p r : Nat) (v : Word) : Core :=
  let x := Fmt.f32.decode false v.toNat
  let t := Fmt.f32.decode false (k.threshold p r).toNat
  if !x.isNan && !t.isNan && t.lt x then k.setThreshold p r v else k

/-- MTHR: thresholds of pair d are raised to v[a], or with `.set` written with the step counts (R252). -/
def execMthr (d a b m : Nat) (s : State) : Out :=
  fieldWith (.mthr d a b m) s fun s =>
  accessSet (if m = 1 then [a, a + 1] else [a]) [] s fun u =>
    let tile := u.acsTiles.1 + 2 * d
    engineWith tile 2 u fun w =>
      .next ((w.modCore w.issue.core fun k => w.issue.lanes.foldl (fun q l =>
        if m = 1 then (q.setThreshold (tile / 2) (b + l) (w.me.reg l a)).setSteps (tile / 2) (b + l) (w.me.reg l (a + 1)).toNat
        else q.offer (tile / 2) (b + l) (w.me.reg l a)) k).engineOp none)

/-- The abandoned flags of a row of 64 elements as a mask (R256). -/
def Core.abandoned (k : Core) (tile r : Nat) : Nat :=
  ((List.range 64).map fun j => if (Mem.get k.acs (acsElem tile r j)).msb then 2 ^ j else 0).sum

/-- MVST: the abandoned bitmap of each lane's row, or its threshold and step count (R256). -/
def execMvst (d a b m : Nat) (s : State) : Out :=
  fieldWith (.mvst d a b m) s fun s =>
  accessSet [] [d, d + 1] s fun u =>
    let tile := u.acsTiles.1 + 2 * a
    engineWith tile 2 u fun w =>
      let k := w.core w.issue.core
      .next ((w.modMe fun g => w.issue.lanes.foldl (fun h l => h.setRegs l (
        if m = 1 then [(d, k.threshold (tile / 2) (b + l)), (d + 1, BitVec.ofNat 32 (k.steps (tile / 2) (b + l)))]
        else wordWrites d (k.abandoned (tile + 1) (b + l)) 2)) g).engineOp none)

/-- MSTAT: a counter of the issuing team (R257). The spec gives the control thread no counters: its value is free (log 22). -/
def execMstat (d k : Nat) (s : State) : Out :=
  issueWith false [] [d, d + 1] s fun t =>
    match t.myTeam? with
    | some m => .next (t.giveAll (pairWrites d (Mem.get m.stats k))).retire
    | none =>
      let (i, t1) := t.nextFree
      let (j, t2) := t1.nextFree
      .next (t2.giveAll [(d, Config.freeWord i), (d + 1, Config.freeWord j)]).retire

/-- The matrix-class operations that an MSYNC waits for: the group's, or with `.team` the team's on the core (R258). -/
def State.msyncIds (s : State) (team : Bool) : List Nat :=
  (s.ops.filter fun o => o.core == s.issue.core && (match o.kind with
    | .mtx t => o.agent == s.issue.agent || (team && t.isSome && t == s.mySlot?)
    | .mma j => o.agent == s.issue.agent || (team && j.team.isSome && j.team == s.mySlot?)
    | _ => false)).map (·.id)

/-- MSYNC (R258). -/
def execMsync (m : Nat) (s : State) : Out :=
  issueWith false [] [] s fun t =>
    match t.msyncIds (m == 1) with
    | [] => .next t.retire
    | ids => .next ((t.addOp t.issue.lanes (.msync ids) none none).retireWait (.op t.opSeq .msync))

/-- The MSYNCs whose operations have all ended complete. -/
def State.settleMsync (s : State) : State :=
  s.ops.foldl (fun t o => match o.kind with
    | .msync ids => if ids.any (fun i => (t.op? i).isSome) then t else t.finishOp o.id
    | _ => t) s

/-- Matrix operations that wait for their B operands are given up, and the engine goes on with those behind them (R251). -/
def State.dropMma (s : State) (p : Op → Bool) : State :=
  let gone := s.ops.filter fun o => p o && (match o.kind with | .mma _ => true | _ => false)
  gone.foldl (fun t o => (((((t.unclaimOp o.id).finishOp o.id).engineDue o.core).settleMsync).release (· == .mtxQueue))) s

/-- MATRIX_OP_END: an engine operation reaches its end point, and its queue entry frees (R251, Table Mx-4); one that waits for its B
operand tries to read it again. -/
def execMatrixOpEnd (id : Nat) (s : State) : Out :=
  match s.op? id with
  | none => .next s
  | some o =>
    match o.kind with
    | .mtx _ => .next (if s.mtxStalled o.core id then s else ((s.finishOp id).settleMsync).release (· == .mtxQueue))
    | .mma j =>
      if j.bref.remote.isSome then .next s
      else
        let a : Actor := ⟨o.core, decide (o.agent = .ct), j.bref.vi, 0⟩
        match (s.atCore o.core).mxRead a (.inr id) j.bref (recN j.rcd) with
        | (s1, .ok b) => finish ((s1.mxFinish o j b).release (fun w => w == .mtxQueue || w == .line))
        | (s1, .error _) => finish s1
    | _ => .next s

end Sys2Proof.Machine
end

