-- ==== Sys2Proof/Machine/Copy.lean ====
section
/-!
DEFINITION. Tile copies and futures (R260 to R273, R96 to R98): request blocks and their checks, rows and their places, the one-step
copy, batches, barrier objects and completion words.
-/
namespace Sys2Proof.Machine

/-! The request block (Table Ec-1). -/

/-- SSP. -/
def blkSsp (b : Nat) : Nat := fld b 0 2
/-- DSP. -/
def blkDsp (b : Nat) : Nat := fld b 2 2
/-- CVTT. -/
def blkCvtt (b : Nat) : Nat := fld b 16 4
/-- SOFF. -/
def blkSoff (b : Nat) : Nat := fld b 32 32
/-- DOFF. -/
def blkDoff (b : Nat) : Nat := fld b 64 32
/-- ROWS. -/
def blkRows (b : Nat) : Nat := fld b 96 16
/-- ROWB. -/
def blkRowb (b : Nat) : Nat := fld b 112 16
/-- SSTR. -/
def blkSstr (b : Nat) : Nat := fld b 128 32
/-- DSTR. -/
def blkDstr (b : Nat) : Nat := fld b 160 32
/-- IOFF. -/
def blkIoff (b : Nat) : Nat := fld b 192 32
/-- TROWS. -/
def blkTrows (b : Nat) : Nat := fld b 224 32
/-- BO. -/
def blkBo (b : Nat) : Nat := fld b 256 21
/-- RBO. -/
def blkRbo (b : Nat) : Nat := fld b 288 21
/-- GRANT. -/
def blkGrant (b : Nat) : Nat := fld b 320 16
/-- BOEN. -/
def blkBoen (b : Nat) : Bool := bit b 287
/-- RBOEN. -/
def blkRboen (b : Nat) : Bool := bit b 286

/-- The post has an index list: TGATH or TSCAT. -/
def indexed (op : Nat) : Bool := op == 2 || op == 3

/-- The space pair that a form accepts (Table Ec-2); TFILL has no source, and its SSP is 0. -/
def spacesOk (op ssp dsp : Nat) : Bool × Bool :=
  match op with
  | 0 => (ssp ≤ 1, dsp == 1 || dsp == 2)
  | 1 => (ssp == 1 || ssp == 2, dsp == 0)
  | 2 => (ssp ≤ 1, dsp == 1 || dsp == 2)
  | 3 => (ssp == 1, dsp ≤ 1)
  | 4 => (ssp ≤ 1, dsp == 1 || dsp == 2)
  | _ => (ssp == 0, dsp ≤ 2)

/-- The field conditions of a post, each with the field's lowest bit (R261, R264, R265, R403). -/
def blockChecks (op b acsN : Nat) : List Check :=
  let ssp := blkSsp b
  let dsp := blkDsp b
  let acs := op == 1 && ssp == 2
  let zero := fun (lo n : Nat) => fld b lo n == 0
  let c := fun (lo : Nat) (p : Bool) => (⟨lo, 6, p⟩ : Check)
  let sp := spacesOk op ssp dsp
  let cvt := if bit b 20 then [0, 5, 6].contains (blkCvtt b) else [0, 1, 2, 3, 4, 6].contains (blkCvtt b)
  [c 0 sp.1, c 2 sp.2,
    c 4 (if ssp == 0 && op != 5 then fld b 4 4 ≤ 11 else zero 4 4), c 8 (if dsp == 0 then fld b 8 4 ≤ 11 else zero 8 4),
    c 12 (!bit b 12 || (dsp == 1 && blkRowb b % 128 == 0 && blkDstr b % 128 == 0 && blkDoff b % 16 == 0)),
    c 16 (if acs then cvt else zero 16 4), c 20 (acs || zero 20 1), c 21 (if acs then fld b 21 3 ≤ 3 else zero 21 3),
    c 24 (if acs then !(bit b 24 && 5 ≤ blkCvtt b) else zero 24 1),
    c 32 (if op == 5 then zero 32 32 else !acs || fld b 32 8 < acsN), c 40 (!acs || fld b 40 7 + blkRows b ≤ 128),
    c 47 (!acs || fld b 47 6 + blkRowb b / 4 ≤ 64), c 53 (!acs || zero 53 11), c 96 (!indexed op || blkRows b ≤ 4096),
    c 112 (!acs || blkRowb b % 4 == 0), c 128 (!(acs || op == 5) || zero 128 32), c 192 (indexed op || zero 192 32),
    c 224 (indexed op || zero 224 32), c 286 (op == 4 || zero 286 1), c 288 (op == 4 || zero 288 21), c 352 (op == 5 || zero 352 32),
    c 384 (op == 4 || zero 384 128)]

/-- Bytes of a destination row (R262, R265). -/
def destBytes (op b : Nat) : Nat :=
  if op = 1 ∧ blkSsp b = 2 then blkRowb b / 4 * typeWidth (blkCvtt b) / 8 else blkRowb b

/-- The request moves nothing (R269). -/
def emptyPost (b : Nat) : Bool := blkRows b == 0 || blkRowb b == 0

/-! Rows and their places. -/

/-- What placing rows gives: a place, or a failing check of R55 with its offset and handle. -/
abbrev Placed : Type := Except (Nat × Nat × Nat × Nat) Place

/-- A place in AB: outside the allocation it fails as check 4 (R61). -/
def abPlaced (p : Option (Nat × Nat)) (off : Nat) : Placed :=
  match p with
  | some x => .ok (.ab x.1 x.2)
  | none => .error (4, 0x11, off, 0)

/-- A row of global memory through slot `h` (R262). -/
def State.globPlaced (s : State) (h off n : Nat) (right : Right) (grant : Nat) : Placed :=
  match s.resolve s.actor (s.slotHandle h) off n [right] (if grant = 0 then none else some grant) with
  | .ok r => .ok (.glob r)
  | .error c => .error (c, checkCode c, off, s.slotHandle h)

/-- A place in WB. -/
def wbPlaced (core : Nat) (p : Option Nat) (off : Nat) : Placed :=
  match p with
  | some x => .ok (.wb core x)
  | none => .error (4, 0x11, off, 0)

/-- The recipients of a TCAST that are resident: cores and team slots, in the order of cores and slots (R266). -/
def State.recipients (s : State) (b : Nat) : List (Nat × Nat) :=
  match s.myTeam? with
  | none => []
  | some m => (List.range 128).flatMap fun c =>
      if bit b (384 + c) then
        let k := s.physCore m.vi c
        (s.core k).teams.filterMap fun t =>
          if t.2.grid = m.grid ∧ (if blkDsp b = 1 then 0 < t.2.abLen else 0 < t.2.wbN) then some (k, t.1) else none
      else []

/-- The recipients that were swapped out from such a core, each with the core it left, and a split team's halves each with its own
(R266). -/
def State.awayRecipients (s : State) (b : Nat) : List Swapped :=
  match s.myTeam? with
  | none => []
  | some m =>
    let masked := fun (k : Nat) => (List.range 128).any fun c => bit b (384 + c) && s.physCore m.vi c == k
    (s.swapped.filter fun w => w.away && decide (w.grid = m.grid) &&
      (if blkDsp b = 1 then decide (0 < w.abLen) else decide (0 < w.wbN))).flatMap fun w =>
        ((w.core :: w.half.toList).filter masked).map fun k => { w with core := k }

/-- The destinations of a row at offset `off` of `n` bytes: one, or one in each resident recipient. -/
def State.destPlaced (s : State) (op b off n : Nat) (recs : List (Nat × Nat)) : List Placed :=
  if op = 4 then recs.map fun x => match s.team? x.1 x.2 with
    | some t =>
      if blkDsp b = 1 then abPlaced (s.abPlace x.1 { t with half := none } off n) off
      else wbPlaced x.1 (if off + n ≤ t.wbN * 4096 then some (t.wbFirst * 4096 + off) else none) off
    | none => .error (4, 0x11, off, 0)
  else match blkDsp b with
  | 0 => [s.globPlaced (fld b 8 4) off n .write (blkGrant b)]
  | 1 => [abPlaced (s.myAb off n) off]
  | _ => [wbPlaced s.issue.core (s.myWb off n) off]

/-- A swapped-out recipient's allocation holds the row (R61, R266). -/
def awayFits (b off n : Nat) (w : Swapped) : Bool := off + n ≤ if blkDsp b = 1 then w.abLen else w.wbN * 4096

/-- Row `p`: its source and its destinations, placed (Table Ec-2, R263, R264). With index `x`; `recs` and `away` are a TCAST's
recipients. -/
def State.rowPlaced (s : State) (op b p x : Nat) (recs : List (Nat × Nat)) (away : List Swapped) :
    Option Placed × List Placed × Bool :=
  let pad := indexed op && decide (blkTrows b ≤ x)
  let so := blkSoff b + (if op = 2 then x else p) * blkSstr b
  let doff := blkDoff b + (if op = 3 then x else p) * blkDstr b
  let src : Option Placed :=
    if op = 5 then some (.ok .fill)
    else if pad then (if op = 2 then some (.ok .zero) else none)
    else some (match blkSsp b with
      | 0 => s.globPlaced (fld b 4 4) so (blkRowb b) .read (blkGrant b)
      | 1 => abPlaced (s.myAb so (blkRowb b)) so
      | _ => .ok (.acs (s.acsTiles.1 + fld b 32 8) (fld b 40 7 + p) (fld b 47 6)))
  let dsts := if pad && op == 3 then [] else s.destPlaced op b doff (destBytes op b) recs
  let far := if away.all (awayFits b doff (destBytes op b)) then [] else [.error (4, 0x11, doff, 0)]
  (src, dsts ++ far, pad)

/-- The failing check of least number among some placings, the first of that number (R389). -/
def placeFault (ps : List Placed) : Option (Nat × Nat × Nat × Nat) :=
  let fs := ps.filterMap fun p => match p with | .error f => some f | .ok _ => none
  match (fs.map (·.1)).min? with
  | none => none
  | some c => fs.find? (·.1 == c)

/-- A post of one lane, checked: the lane, its block, the block's offset, index list, and placed rows. -/
structure Post where
  lane : Nat
  off  : Nat
  blk  : Nat
  idx  : List Nat
  rows : List (Option Placed × List Placed × Bool)
  recs : List (Nat × Nat)
  away : List Swapped

/-- The words of an index list (R263). -/
def State.indexList (s : State) (op b : Nat) : Option (List Nat) :=
  if !indexed op || emptyPost b then some []
  else match s.myAb (blkIoff b) (4 * blkRows b) with
  | some p => some (bytesNats (Mem.bytes (s.core p.1).ab p.2 (4 * blkRows b)))
  | none => none

/-- The barrier objects that a post names lie in their allocations (R61, R268). -/
def State.objectFault (s : State) (op b : Nat) (recs : List (Nat × Nat)) (away : List Swapped) : Option (Nat × Nat × Nat × Nat) :=
  let fits := fun (x : Nat × Nat) => match s.team? x.1 x.2 with | some t => blkRbo b + 32 ≤ t.abLen | none => false
  if blkBoen b && (s.myAb (blkBo b) 32).isNone then some (4, 0x11, blkBo b, 0)
  else if op == 4 && blkRboen b && !(recs.all fits && away.all fun w => blkRbo b + 32 ≤ w.abLen) then some (4, 0x11, blkRbo b, 0)
  else none

/-- The post of lane `l` with its block at offset `off`, whose block has been read. -/
def State.postOf (s : State) (op l off b : Nat) : Post :=
  let recs := if op = 4 then s.recipients b else []
  let away := if op = 4 then s.awayRecipients b else []
  let idx := (s.indexList op b).getD []
  let rows := if emptyPost b then [] else (List.range (blkRows b)).map fun p => s.rowPlaced op b p ((idx[p]?).getD 0) recs away
  ⟨l, off, b, idx, rows, recs, away⟩

/-- The accesses of a post that fail a check: objects, index list, then rows (R262, R268, R415). -/
def State.postFault (s : State) (op : Nat) (p : Post) : Option (Nat × Nat × Nat × Nat) :=
  placeFault ((match s.objectFault op p.blk p.recs p.away with | some f => [.error f] | none => []) ++
    (if (s.indexList op p.blk).isNone then [.error (4, 0x11, blkIoff p.blk, 0)] else []) ++
    p.rows.flatMap fun r => (match r.1 with | some x => [x] | none => []) ++ r.2.1)

/-- The alignment that a block field lacks: the lane, log2 of the alignment, the value (R403). -/
def objectAlign (op b : Nat) : Option (Nat × Nat) :=
  if blkBo b % 32 != 0 then some (5, blkBo b)
  else if op == 4 && blkRbo b % 32 != 0 then some (5, blkRbo b)
  else if indexed op && blkIoff b % 4 != 0 then some (2, blkIoff b)
  else none

/-- The offset of a post's first row in a destination buffer with the watched flag, which the descriptor alone tells, whatever rows the post has; DOFF
where it has none there (R401). -/
def State.watchedDest (s : State) (b : Nat) (rows : List (Option Placed × List Placed × Bool)) : Option Nat :=
  if blkDsp b ≠ 0 then none
  else match s.resolve s.actor (s.slotHandle (fld b 8 4)) 0 0 [] (if blkGrant b = 0 then none else some (blkGrant b)) with
    | .ok x => if !entWatched x.entry then none
      else some ((rows.findSome? fun r => r.2.1.findSome? fun p => match p with
        | .ok (.glob y) => some y.off
        | _ => none).getD (blkDoff b))
    | .error _ => none

/-- The first fault of an instruction's posts, in the order of R389, or the checked posts. -/
def State.checkPosts (s : State) (op : Nat) (offs : List (Nat × Nat)) : Except AccFault (List Post) :=
  match offs.find? (fun o => o.2 % 64 != 0) with
  | some o => .error (0x08, o.1 + 1536, o.2, 0)
  | none =>
    match offs.find? (fun o => (s.myAb o.2 64).isNone) with
    | some o => .error (0x11, o.1 + 1024, o.2, 0)
    | none =>
      let blocks := offs.map fun o => (o.1, o.2, match s.myAb o.2 64 with | some p => s.abNat p.1 p.2 64 | none => 0)
      match blocks.findSome? (fun x => (lowestFailure (blockChecks op x.2.2 s.acsTiles.2)).map (x.2.1, ·)) with
      | some (off, c) => .error (0x03, 6 + c.bit * 65536, off, 0)
      | none =>
        match blocks.findSome? (fun x => (objectAlign op x.2.2).map (x.1, ·)) with
        | some (l, k) => .error (0x08, l + k.1 * 256, k.2, 0)
        | none =>
          let posts := blocks.map fun x => s.postOf op x.1 x.2.1 x.2.2
          let fs := posts.filterMap fun p => (s.postFault op p).map fun f => (p.lane, f)
          match (fs.map (·.2.1)).min? with
          | some c =>
            match fs.find? (·.2.1 == c) with
            | some f => .error (f.2.2.1, f.1 + f.2.1 * 256, f.2.2.2.1, f.2.2.2.2)
            | none => .ok posts
          | none =>
            let deep := if s.isCt ∨ s.myDepth < s.cfgGet Config.nCascadeMax s.myVi then none
              else posts.findSome? fun p => (s.watchedDest p.blk p.rows).map (p.blk, ·)
            match deep with
            | some (b, off) => .error (0x18, s.myDepth % 16, off, s.slotHandle (fld b 8 4))
            | none => .ok posts

/-! The copy itself. -/

/-- A row whose places are all good. -/
def goodRow (r : Option Placed × List Placed × Bool) : CopyRow :=
  let ok := fun (p : Placed) => match p with | .ok x => some x | .error _ => none
  ⟨r.1.bind ok, r.2.1.filterMap ok, r.2.2⟩

/-- The global references of a job, with their lengths. -/
def CopyJob.refs (j : CopyJob) : List (Ref × Nat) :=
  j.rows.flatMap fun r =>
    (match r.src with | some (.glob x) => [(x, blkRowb j.block)] | _ => []) ++
    r.dsts.filterMap fun p => match p with | .glob x => some (x, destBytes j.op j.block) | _ => none

/-- The ranges a job reads and writes: space, first byte and length (R97). -/
def CopyJob.ranges (j : CopyJob) (core : Nat) : List (Nat × Nat × Nat) :=
  let rng := fun (n : Nat) (p : Place) => match p with
    | .glob r => if r.remote.isSome then none else some (r.space, r.va, n)
    | .ab c a => some (abSpace c, a, n)
    | .wb c a => some (wbSpace c, a, n)
    | .acs t r c => some (acsSpace core, 4 * acsElem t r c, n)
    | _ => none
  j.rows.flatMap fun r => (match r.src with | some p => (rng (blkRowb j.block) p).toList | none => []) ++
    r.dsts.filterMap (rng (destBytes j.op j.block))

/-- Some range of the job of operation `id` is held by an access that stands before it and is not performed yet (R97, R330, R430). -/
def State.jobHeld (s : State) (core id : Nat) (j : CopyJob) : Bool :=
  if s.claims = [] ∧ s.hbmDown = [] ∧ s.cores.all (fun k => k.2.sideLog = []) then false
  else (j.ranges core).any fun x =>
    s.heldBy (.inr id) core x.1 x.2.1 x.2.2 || (decide (x.1 ≤ 64) && s.logged core x.1 x.2.1 x.2.2)

/-- The blocks and index lists of posts lie where an access not performed yet holds bytes: they cannot be read yet (R97, R99). -/
def State.blocksHeld (s : State) (op : Nat) (offs : List (Nat × Nat)) : Bool :=
  let held := fun (o n : Nat) => match s.myAb o n with
    | some p => s.claimed (noLane s.issue.core) (abSpace p.1) p.2 n
    | none => false
  s.claims != [] && offs.any fun o => held o.2 64 || (indexed op && (match s.myAb o.2 64 with
    | some p => let b := s.abNat p.1 p.2 64; held (blkIoff b) (4 * blkRows b)
    | none => false))

/-- The claims a job holds while it waits (R97, R329). -/
def CopyJob.claims (j : CopyJob) (core id : Nat) : List Claim := (j.ranges core).map fun x => ⟨x.1, x.2.1, x.2.1 + x.2.2, .inr id⟩

/-- Poisoned bytes of a range, as indices in it. -/
def badBytes (poison : List Nat) (a n : Nat) : List Nat :=
  if poison = [] then [] else (List.range n).filter fun i => poison.contains ((a + i) / 32)

/-- One ACS row converted to the block's target, with the bytes that poison reaches (R265). -/
def Core.acsRow (k : Core) (b t r c : Nat) : List Byte × List Nat :=
  let src := if bit b 20 then 6 else 0
  let n := typeWidth (blkCvtt b) / 8
  let one := fun (i : Nat) =>
    let v := (Mem.get k.acs (acsElem t r (c + i))).toNat
    leBytes (if blkCvtt b = src then v else (convertElem src (blkCvtt b) (Rm.ofCode (fld b 21 3)) false ((blkCvtt b == 3) ^^ bit b 24) v).bits) n
  ((List.range (blkRowb b / 4)).flatMap one,
    if k.poisonAcs = [] then [] else (List.range (blkRowb b / 4 * n)).filter fun i => k.poisonAcs.contains (acsElem t r (c + i / n)))

/-- The byte at AB address `x` of a core as earlier rows of the command left it, newest first (R98). -/
def earlier (ws : List (Nat × Nat × List Byte)) (c x : Nat) : Option Byte :=
  ws.findSome? fun w => if w.1 = c ∧ w.2.1 ≤ x then w.2.2[x - w.2.1]? else none

/-- The bytes of an AB source row: where an earlier row of the command wrote, each aligned 8-byte piece is read as at issue or as that
row left it, by a free choice (R98). Answers the next free index too. -/
def State.abRow (s : State) (c a n free : Nat) (ws : List (Nat × Nat × List Byte)) : List Byte × Nat :=
  let old := Mem.bytes (s.core c).ab a n
  if ws.any (fun w => decide (w.1 = c ∧ w.2.1 < a + n ∧ a < w.2.1 + w.2.2.length)) then
    (old.zipIdx.map fun x => match earlier ws c (a + x.2) with
      | some b => if Config.freeBool (free + ((a + x.2) / 8 - a / 8)) then b else x.1
      | none => x.1, free + n / 8 + 2)
  else (old, free)

/-- FILL's bytes for a row (Table Ec-1). -/
def fillBytes (b n : Nat) : List Byte := (List.range n).map fun i => BitVec.ofNat 8 (fld b 352 32 / 256 ^ (i % 4))

/-- Chunk order of a swizzled row at position `p` (R264). -/
def swizzle (p : Nat) (bs : List Byte) : List Byte :=
  (List.range bs.length).map fun i => (bs[16 * (Nat.xor (i / 16) (p % 8)) + i % 16]?).getD 0

/-- Rows read in order: each row's bytes and poisoned indices, and the free index and remote bytes left. -/
structure Reading where
  out    : List (List Byte × List Nat)
  writes : List (Nat × Nat × List Byte)
  free   : Nat
  far    : List (Byte × Bool)

/-- One source row read (R96, R98). -/
def State.readRow (s : State) (core : Nat) (j : CopyJob) (acc : Reading) (r : CopyRow) : Reading :=
  let n := blkRowb j.block
  let (bs, bad, free, far) : List Byte × List Nat × Nat × List (Byte × Bool) := match r.src with
    | none => ([], [], acc.free, acc.far)
    | some .fill => (fillBytes j.block n, [], acc.free, acc.far)
    | some .zero => (List.replicate n 0, [], acc.free, acc.far)
    | some (.acs t row c) => let x := (s.core core).acsRow j.block t row c; (x.1, x.2, acc.free, acc.far)
    | some (.wb _ _) => ([], [], acc.free, acc.far)
    | some (.ab c a) =>
      let x := s.abRow c a n acc.free acc.writes
      (x.1, badBytes (s.core c).poisonAb a n, x.2, acc.far)
    | some (.glob g) =>
      if g.remote.isSome then ((acc.far.take n).map (·.1), (List.range n).filter (fun i => ((acc.far[i]?).map (·.2)).getD false), acc.free, acc.far.drop n)
      else
        let rs := (s.locate g.space g.va n).getD []
        let bad := if s.poison = [] ∧ s.cxlLost = [] then []
          else (rs.foldl (fun (x : Nat × List Nat) q => (x.1 + q.2, x.2 ++ ((List.range q.2).filter fun i =>
            s.poisoned ((q.1 + i) / 32)).map (x.1 + ·))) (0, [])).2
        (s.readRuns rs, bad, acc.free, acc.far)
  let mine := r.dsts.filterMap fun p => match p with
    | .ab c a => some (c, a, if bit j.block 12 then swizzle acc.out.length bs else bs)
    | _ => none
  ⟨acc.out ++ [(bs, bad)], mine ++ acc.writes, free, far⟩

/-- WB tiles that writes of `n` bytes touch take tag `g`; where the tag changes the tile is zeroed first (R63, R267). -/
def Core.tagTiles (k : Core) (g : Nat) (ts : List Nat) : Core :=
  ts.foldl (fun q t =>
    if (Mem.get q.wbTag t).toNat = g then q
    else { q with wb := Mem.clear q.wb (4096 * t) 4096, wbTag := Mem.set q.wbTag t (BitVec.ofNat 16 g),
                  poisonWb := q.poisonWb.filter fun x => x / 128 ≠ t }) k

/-- The tiles that a range touches. -/
def tilesOf (a n : Nat) : List Nat := (List.range ((a + n + 4095) / 4096 - a / 4096)).map (a / 4096 + ·)

/-- Granules that poisoned bytes of a row reach at address `a`. -/
def granulesOf (a : Nat) (bad : List Nat) : List Nat := (bad.map fun i => (a + i) / 32).foldr addTo []

/-- A row as AB receives it at position `p`: its bytes and poisoned indices, swizzled where the request asks for it. -/
def swizzleRow (j : CopyJob) (p : Nat) (x : List Byte × List Nat) : List Byte × List Nat :=
  if bit j.block 12 then (swizzle p x.1, x.2.map fun i => 16 * (Nat.xor (i / 16) (p % 8)) + i % 16) else x

/-- Bytes with their poisoned indices put in AB from byte `a` up. -/
def Core.abRowPut (k : Core) (a : Nat) (x : List Byte × List Nat) : Core :=
  { k.abPut a x.1 with poisonAb := (granulesOf a x.2).foldl (fun l g => addTo g l) k.poisonAb }

/-- Bytes with their poisoned indices put in WB from byte `a` up. -/
def Core.wbRowPut (k : Core) (a : Nat) (x : List Byte × List Nat) : Core :=
  { k with wb := Mem.setBytes k.wb a x.1, poisonWb := (granulesOf a x.2).foldl (fun l g => addTo g l) k.poisonWb }

/-- The local writes of one row: AB with the swizzle, and WB. `p` is the row's position. -/
def State.writeRow (s : State) (j : CopyJob) (p : Nat) (x : List Byte × List Nat) (d : Place) : State :=
  match d with
  | .ab c a => s.modCore c (·.abRowPut a (swizzleRow j p x))
  | .wb c a => s.modCore c (·.wbRowPut a x)
  | _ => s

/-- The cores of some local places, once each. -/
def placeCores (rows : List CopyRow) : List Nat :=
  (rows.flatMap fun r => r.dsts.filterMap fun p => match p with | .ab c _ => some c | .wb c _ => some c | _ => none).foldr addTo []

/-- Poison that the command's local writes take away: granules they cover wholly; and owner tags of the WB tiles they touch (R63,
R423). -/
def State.beforeRows (s : State) (j : CopyJob) : State :=
  let n := destBytes j.op j.block
  (placeCores j.rows).foldl (fun t c => t.modCore c fun k =>
    let abs := j.rows.flatMap fun r => r.dsts.filterMap fun p => match p with
      | .ab c' a => if c' = c then some (a, n) else none
      | _ => none
    let wbs := j.rows.flatMap fun r => r.dsts.filterMap fun p => match p with
      | .wb c' a => if c' = c then some (a, n) else none
      | _ => none
    let k1 := k.tagTiles (blkGrant j.block) ((wbs.flatMap fun w => tilesOf w.1 w.2).foldr addTo [])
    let gone := granulesCleared k1.poisonAb abs
    let goneW := granulesCleared k1.poisonWb wbs
    { k1 with poisonAb := k1.poisonAb.filter (!gone.contains ·), poisonWb := k1.poisonWb.filter (!goneW.contains ·) }) s

/-- The batches of eight rows that deliveries count: rows, bytes, padded rows (R268). -/
def CopyJob.batches (j : CopyJob) : List (Nat × Nat × Nat) :=
  (List.range ((j.rows.length + 7) / 8)).map fun b =>
    let rs := (j.rows.drop (8 * b)).take 8
    (rs.length, rs.length * destBytes j.op j.block, rs.countP (·.pad))

/-- The chip's hold area has no room for the deliveries of a job (R266). -/
def State.holdFull (s : State) (j : CopyJob) : Bool :=
  j.away != [] && decide (Config.holdBytes < (s.held.map fun h => (h.rows.map (·.2.1.length)).sum).sum +
    j.away.length * blkRows j.block * destBytes j.op j.block)

/-- Held deliveries of a TCAST for its swapped-out recipients (R266). -/
def CopyJob.heldFor (j : CopyJob) (id : Nat) (bo : Option BoRef) (xs : List (List Byte × List Nat)) : List Held :=
  j.away.map fun w => ⟨id, w.1, w.2.1, w.2.2, blkDsp j.block == 2,
    xs.zipIdx.map fun x => (blkDoff j.block + x.2 * blkDstr j.block, swizzleRow j x.2 x.1),
    blkGrant j.block, if blkRboen j.block then some (blkRbo j.block) else none, bo, j.batches⟩

/-- A job finds a watch's spill ring full: the watch is suspended, unless the job waits for a ring already (R430). -/
def State.jobStops (s : State) (a : Actor) (rung : Bool) (x : RingFull) : State := if rung then s else s.ringStops (some a.core) x

/-- Pages, folios and latent errors of a job's global rows: the state with them ready, or why it waits. `kind` 2 of MAP_REQUEST is an
engine's (R73, R102, R328, R329). -/
def State.jobReady (s : State) (a : Actor) (id : Nat) (rung : Bool) (j : CopyJob) : State × Option Why :=
  let refs := j.refs.filter fun x => x.1.remote.isNone
  let s1 := refs.foldl (fun t x => t.prepare x.1 x.2) s
  match refs.findSome? (fun x => (s1.missing x.1.space x.1.va x.2).map (x.1, ·)) with
  | some (r, m) => (s1.mapRequest a r.space m 2, some .page)
  | none =>
    let rs := refs.flatMap fun x => (s1.locate x.1.space x.1.va x.2).getD []
    if s1.loggedOn (s1.dueFolios rs) id then (s1, some .line)
    else match s1.applyFor rs with
    | .error w => (s1.jobStops a rung w, some .spillRing)
    | .ok s2 =>
      let srcs := j.rows.flatMap fun r => match r.src with
        | some (.glob x) => if x.remote.isSome then [] else (s2.locate x.space x.va (blkRowb j.block)).getD []
        | _ => []
      (s2.detectRuns srcs, none)

/-- The team of core `c` that holds byte `p` of AB, or with `wb` of WB: the first byte of its allocation. -/
def State.ownBase (s : State) (c p : Nat) (wb : Bool) : Nat :=
  ((s.core c).teams.findSome? fun t =>
    let (lo, n) := if wb then (4096 * t.2.wbFirst, 4096 * t.2.wbN) else (t.2.abBase, t.2.abLen)
    if lo ≤ p ∧ p < lo + n then some lo else none).getD 0

/-- The granules that poisoned bytes `bad` of the row at position `p` reach at one of its places: the storage, the handle or 0, and the offset in the
buffer or in the team's allocation (R435). -/
def State.hurtAt (s : State) (j : CopyJob) (p : Nat) (bad : List Nat) (d : Place) : List ((Nat × Nat) × Nat × Nat) :=
  match d with
  | .glob r => bad.map fun i => ((0, r.remote.getD 64), j.dstH, r.off + (r.va + i) / 32 * 32 - r.va)
  | .ab c a => ((swizzleRow j p ([], bad)).2).map fun i => ((1, c), 0, (a + i) / 32 * 32 - s.ownBase c a false)
  | .wb c a => bad.map fun i => ((2, c), 0, (a + i) / 32 * 32 - s.ownBase c a true)
  | _ => []

/-- The first poisoned sector of a row's source on this chip. -/
def State.poisonedSource (s : State) (j : CopyJob) (x : Place) : Option Nat :=
  match x with
  | .glob r => if r.remote.isSome then none else ((s.locate r.space r.va (blkRowb j.block)).bind s.poisonRuns)
  | _ => none

/-- The job performed as one step: every source read, then every destination written, or sent to its chip (R60, R96, R263 to R268). Answers
the state and whether poison came with it, or why it waits. `far` are the bytes that a remote source sent, and `rung` says that it waits for a spill ring. -/
def State.jobRun (s : State) (a : Actor) (id : Nat) (bo : Option BoRef) (rung : Bool) (j : CopyJob) (far : List (Byte × Bool)) :
    State × Except Why Bool :=
  if s.holdFull j then (s, .error .line)
  else match s.jobReady a id rung j with
  | (s1, some w) => (s1, .error w)
  | (s1, none) =>
    let rd := j.rows.foldl (s1.readRow a.core j) ⟨[], [], s1.freeCtr, far⟩
    let xs := rd.out
    let s2 := { s1 with freeCtr := rd.free }.beforeRows j
    let rows := j.rows.zip xs
    let s3 := rows.zipIdx.foldl (fun t x => x.1.1.dsts.foldl (fun u d => u.writeRow j x.2 x.1.2 d) t) s2
    let s4 := (placeCores j.rows).foldl (fun t c => t.serveBowait c) s3
    let globs := rows.flatMap fun x => x.1.dsts.filterMap fun d => match d with
      | .glob r => if r.remote.isSome then none else some (r, x.2)
      | _ => none
    let sent := rows.flatMap fun x => x.1.dsts.filterMap fun d => match d with
      | .glob r => r.remote.map fun k => (k, r.off, x.2)
      | _ => none
    let ws := globs.flatMap fun g => runWrites a.depth j.dstH g.1.off ((s4.locate g.1.space g.1.va g.2.1.length).getD []) g.2.1
    let hurt := globs.flatMap fun g => (g.2.2.filterMap fun i => (s4.lookup g.1.space (g.1.va + i)).map (· / 32)).foldr addTo []
    let clear := (s4.cleared ws).filter (!hurt.contains ·)
    let badRows := rows.filter fun x => x.2.2 != []
    let s5 : State := { s4 with poison := hurt.foldl (fun l k => addTo k l) s4.poison, held := s4.held ++ j.heldFor id bo xs }
    match (if ws = [] then .ok s5 else s5.commit a clear ws) with
    | .error w => (s1.jobStops a rung w, .error .spillRing)
    | .ok s7 =>
      let s6 := sent.foldl (fun t x => t.sendOutside a x.1 j.dstH x.2.1 (.row id)
        (if x.2.2.2 = [] then .store x.2.2.1 else .rowOf x.2.2.1 x.2.2.2)) s7
      match (rows.zipIdx.flatMap fun x => x.1.1.dsts.flatMap (s6.hurtAt j x.2 x.1.2.2)).eraseDups, badRows with
      | g :: gs, x :: _ =>
        let used := match x.1.src.bind (s1.poisonedSource j) with
          | some k => s6.poisonUse a.vi? 4 (32 * k)
          | none => (s6.count Config.nErrPoison 0 1).machineCheck 0x03 5 a.core a.vi? 0 4
        (used.postPoison a g.2.1 g.2.2 1 (gs.length + 1), .ok true)
      | _, _ :: _ => (s6, .ok true)
      | _, [] => (s6, .ok false)

/-! Futures and delivery. -/

/-- The completion word of a delivered copy (Table Ec-4). -/
def completionWord (st rows : Nat) : Nat := st * 2 ^ 30 + min rows 0xFFFFFF

/-- Counts added to a barrier object whose team is still there (R268). -/
def State.boCount (s : State) (b : BoRef) (n : Nat) (x : Nat × Nat × Nat) : State :=
  let alive := match b.owner with
    | none => true
    | some (slot, order) => match s.team? b.core slot with | some t => t.order == order | none => false
  if alive then s.boAdd b.core b.addr (n * x.2.1) (n * x.1) (n * x.2.2) 0 else s

/-- An object in a team's AB as the issuer names it. -/
def State.boRef (s : State) (p : Nat × Nat) : BoRef :=
  let owner := match s.myTeam? with
    | none => none
    | some m => if p.1 = s.issue.core then some (s.me.team, m.order)
      else m.half.bind fun h => (s.team? h.core h.slot).map fun o => (h.slot, o.order)
  ⟨p.1, p.2, owner⟩

/-- The copy job and run of a checked post, with what room the queue has for it (R266, R268). -/
def State.runOf (s : State) (op : Nat) (p : Post) (room : Option Bool) : CopyJob × CopyRun :=
  let b := p.blk
  let j : CopyJob := ⟨op, b, (if s.isCt then 0 else s.myVi), s.myDepth, s.slotHandle (fld b 4 4), s.slotHandle (fld b 8 4), p.rows.map goodRow,
    p.away.map fun w => (w.grid, w.team, w.core)⟩
  let nrec := if op = 4 then p.recs.length else 1
  let rbo := if op = 4 && blkRboen b then p.recs.filterMap fun x => (s.team? x.1 x.2).map fun t =>
    ⟨x.1, t.abBase + blkRbo b, some (x.2, t.order)⟩ else []
  let bo := if blkBoen b then (s.myAb (blkBo b) 32).map s.boRef else none
  (j, ⟨none, j.batches, bo, nrec, rbo, completionWord 0 (j.rows.length * (nrec + j.away.length)), room == some true, s.mySlot?, room.isSome, b, none, none⟩)

/-- A future handle in v[d] of some lanes, and the register pending (R271). -/
def State.setFuture (s : State) (ls : List Nat) (d id : Nat) : State :=
  s.modMe fun g =>
    let h := ls.foldl (fun h l => h.setReg l d (BitVec.ofNat 32 (0xF0000000 + id % 2 ^ 28))) g
    { h with pend := h.pend ++ ls.map fun l => ⟨l, d, id⟩ }

/-- The tile-copy queue of a team slot takes a request in its pool, in the AB queue, or not at all (R270, R303). -/
def State.tcqRoom (s : State) (c t : Nat) : Option Bool :=
  match s.team? c t with
  | none => some true
  | some m =>
    let k := s.core c
    let areaEmpty := qcwDepth m.qcw1 == 0 || k.areaHeld (m.abBase + qcwBase m.qcw1) == 0
    if areaEmpty && s.poolTakes c 2 t (s.tcqCount c t) (s.poolMin Config.nTcqMin c) (s.cfgGet Config.nTcqCap c) then some true
    else if 0 < qcwDepth m.qcw1 ∧ k.areaHeld (m.abBase + qcwBase m.qcw1) < qcwDepth m.qcw1 then some false
    else none

/-- A copy of core `c` whose request has found no room in its queue yet. -/
def Op.unplaced (o : Op) (c : Nat) : Option CopyRun :=
  match o.kind with
  | .copy r => if o.core = c ∧ !r.placed then some r else none
  | _ => none

/-- The room for the issuer's next request: none while an earlier one of its queue waits (R270, R303). -/
def State.copyRoom (s : State) : Option Bool :=
  match s.mySlot? with
  | none => some true
  | some t => if s.ops.any (fun o => ((o.unplaced s.issue.core).map (·.slot)) == some (some t)) then none else s.tcqRoom s.issue.core t

/-- A request put in the AB queue of a team slot (R270). -/
def State.queueRequest (s : State) (c t blk : Nat) : State :=
  s.modCore c fun k => match NMap.find k.teams t with
    | some m => k.areaPut (m.abBase + qcwBase m.qcw1) (qcwDepth m.qcw1) (leBytes blk 64)
    | none => k

/-- A request moves nothing, or goes to nobody: it takes no entry of the queue (R266, R269). -/
def Post.idle (op : Nat) (p : Post) : Bool := emptyPost p.blk || (op == 4 && p.recs.isEmpty && p.away.isEmpty)

/-- The job's bytes come from another chip. -/
def CopyJob.farSrc (j : CopyJob) : Bool := j.rows.any fun x => match x.src with | some (.glob g) => g.remote.isSome | _ => false

/-- An operation's kind changed to a copy's new run. -/
def State.setRun (s : State) (id : Nat) (r : CopyRun) : State := s.modOp id fun o => { o with kind := .copy r }

/-- A copy's completion word where it has failed: ST = 2 (Table Ec-4). -/
def failedWord (w : Nat) : Nat := if 2 ^ 31 ≤ w then w else w + 2 ^ 31

/-- A copy of some lanes comes behind another of theirs with bytes on one of its chips (R99, R111). -/
def State.copyBehind (s : State) (core id : Nat) (j : CopyJob) : Bool :=
  match s.op? id with
  | some o => j.ranks.any fun k => s.farBehind core o.agent o.lanes k id
  | none => false

/-- The job `j` of copy `id`, whose run is `r`, is performed at its place behind the accesses before it, or waits with its claims. -/
def State.tryCopy (s : State) (a : Actor) (core id : Nat) (r : CopyRun) (j : CopyJob) (far : List (Byte × Bool)) : State :=
  if s.jobHeld core id j || s.copyBehind core id j then s
  else match s.jobRun a id r.bo (r.wait == some .spillRing) j far with
  | (s1, .error w) => s1.setRun id { r with wait := some w }
  | (s1, .ok bad) =>
    ((s1.unclaimOp id).setRun id { r with job := none, far := none, word := if bad then failedWord r.word else r.word }).due (.tileCopyBatchDelivery id)

/-- One lane's post (R260, R269, R270): its future, and the copy performed at its place, or waiting with its claims behind those before
it. Where the queue has no room for the request, the lane waits for it. -/
def State.postOne (s : State) (op d : Nat) (ls : List Nat) (p : Post) : State × LaneEnd :=
  if p.idle op then (s.modMe fun g => ls.foldl (fun h l => h.setReg l d 0) g, .go)
  else
    let room := s.copyRoom
    let (j, r) := s.runOf op p room
    let id := s.opSeq
    let s0 := (j.refs.filter fun x => x.1.remote.isNone).foldl (fun t x => t.autoTouch x.1 s.issue.core) (match room, s.mySlot? with
      | some false, some t => s.queueRequest s.issue.core t p.blk
      | _, _ => s)
    let late := j.ranks.any fun k => s0.farBehind s.issue.core s.issue.agent ls k id
    let x : CopyRun := { r with job := some j, wait := if j.farSrc then some (if late then .line else .remote) else none }
    let t := { s0 with claims := s0.claims ++ j.claims s.issue.core id }.addOp ls (.copy x) s.setB none
    let s1 := if j.farSrc then t else t.tryCopy s.actor s.issue.core id x j []
    (s1.setFuture ls d id, if room.isSome then .go else .wait (.op id .copyQueue))

/-- The posts of the lanes, in ascending order. -/
def State.postAll (s : State) (u : Bool) (op d : Nat) : List Post → State × List (Nat × LaneEnd)
  | [] => (s, [])
  | p :: ps =>
    let ls := if u then s.issue.lanes else [p.lane]
    let (s1, e) := s.postOne op d ls p
    let (s2, es) := s1.postAll u op d ps
    (s2, ls.map (·, e) ++ es)

/-- A tile-copy instruction (R260): blocks and index lists are read and checked whole, then posted in lane order. A full queue holds the word
before it issues (R270, R306). -/
def copyOp (op : Nat) (u : Bool) (d a n : Nat) (s : State) : Out :=
  accessWhole u [a] [d] s fun t =>
    let offs := (t.addrLanes u).map fun l => (l, (t.me.reg l a).toNat + 64 * n)
    if t.blocksHeld op offs then .next (t.hold t.issue.lanes .line)
    else match t.checkPosts op offs with
    | .error f => .next (t.raiseAcc f)
    | .ok posts =>
      if posts.any (!·.idle op) && t.copyRoom.isNone then .next (t.holdBefore .copyQueue)
      else
        let (t1, es) := t.postAll u op d posts
        let t2 := match t1.setA with
          | some f => t1.addOpDue t.issue.lanes .read (some f) none .registerWriteback
          | none => t1
        finish (t2.settle es)

/-- TLOAD (R260). -/
def execTload (u : Bool) (d a n : Nat) (s : State) : Out := copyOp 0 u d a n s

/-- TSTORE (R260, R265). -/
def execTstore (u : Bool) (d a n : Nat) (s : State) : Out := copyOp 1 u d a n s

/-- TGATH (R260, R263). -/
def execTgath (u : Bool) (d a n : Nat) (s : State) : Out := copyOp 2 u d a n s

/-- TSCAT (R260, R263). -/
def execTscat (u : Bool) (d a n : Nat) (s : State) : Out := copyOp 3 u d a n s

/-- TCAST (R260, R266). -/
def execTcast (u : Bool) (d a n : Nat) (s : State) : Out := copyOp 4 u d a n s

/-- TFILL (R260). -/
def execTfill (u : Bool) (d a n : Nat) (s : State) : Out := copyOp 5 u d a n s

/-- A copy with nothing left to deliver: its future is to be written (R266, R268). -/
def State.copyDone (s : State) (id : Nat) (r : CopyRun) : State :=
  if r.batches = [] ∧ s.held.all (·.id != id) ∧ s.boWaits.all (·.1 != id) then (s.modOp id fun o => { o with kind := .future r.word }).due (.futureWritten id)
  else s

/-- Objects that copies count, once nothing before the counts holds their bytes (R97, R268). -/
def State.boTell (s : State) (id : Nat) (b : BoRef) (n : Nat) (x : Nat × Nat × Nat) : State :=
  if s.claimed unitLane (abSpace b.core) b.addr 32 || s.boWaits.any (fun w => decide (w.2.1 = b)) then
    { s with boWaits := s.boWaits ++ [(id, b, n, x.1, x.2.1, x.2.2)] }
  else s.boCount b n x

/-- Counts that waited are tried again; the copies go on whose last count has been made. -/
def State.settleObjects (s : State) : State :=
  if s.boWaits = [] then s
  else s.boWaits.foldl (fun t w => (t.boTell w.1 w.2.1 w.2.2.1 w.2.2.2).due (.tileCopyBatchDelivery w.1)) { s with boWaits := [] }

/-- A waiting job is tried again (R329). `far` are a remote source's bytes. -/
def State.retryCopy (s : State) (o : Op) (r : CopyRun) (j : CopyJob) (far : List (Byte × Bool)) : State :=
  (((s.atCore o.core).tryCopy ⟨o.core, decide (o.agent = .ct), j.vi, j.depth⟩ o.core o.id r j far).release (· == .line)).settleFences

/-- Requests that wait for room in a core's queues enter them, the oldest of each queue first (R270, R303). -/
def State.placeCopies (s : State) (c : Nat) : State :=
  s.ops.foldl (fun t o => match o.unplaced c with
    | none => t
    | some r =>
      match (match r.slot with | none => some true | some n => t.tcqRoom c n) with
      | none => t
      | some pooled =>
        let t1 := match pooled, r.slot with
          | false, some n => t.queueRequest c n r.block
          | _, _ => t
        let t2 := t1.modOp o.id fun x => match x.kind with
          | .copy y => { x with kind := .copy { y with placed := true, pooled := pooled } }
          | _ => x
        (t2.modGroup o.core o.agent (·.wake o.id)).due (.tileCopyBatchDelivery o.id)) s

/-- TILE_COPY_BATCH_DELIVERY: the next batch's counts reach the barrier objects, and after the last the future is due; a job that waits
for a page is tried again, and one that reads another chip asks it once no earlier copy of its lanes is to go there (R111, R268, R329). -/
def execTileCopyBatchDelivery (id : Nat) (s : State) : Out :=
  match s.op? id with
  | none => .next s
  | some o =>
    match o.kind with
    | .copy r =>
      match r.job, r.batches with
      | some j, _ =>
        if !j.farSrc then finish (s.retryCopy o r j [])
        else if let some bs := r.far then finish (s.retryCopy o r j bs)
        else if r.wait = some .remote ∨ s.copyBehind o.core id j then .next s
        else .next ((s.setRun id { r with wait := some .remote }).modOp id ({ · with clk := s.clk }))
      | none, x :: rest =>
        if s.rowsOut id || !r.pooled then .next s
        else
          let s1 := match r.bo with | some b => s.boTell id b r.nrec x | none => s
          let s2 := r.rbo.foldl (fun t b => t.boTell id b 1 x) s1
          let r2 := { r with batches := rest }
          .next (if rest = [] then (s2.setRun id r2).copyDone id r2 else (s2.setRun id r2).due (.tileCopyBatchDelivery id))
      | none, [] => .next (if r.pooled then s.copyDone id r else s)
    | _ => .next s

/-- Groups' lanes that FWAIT and register reads held for a future issue again. -/
def Group.releaseFuture (g : Group) : Group := g.release fun w => match w with | .future _ | .fwait => true | _ => false

/-! FWAIT, FTEST, FCANCEL. -/

/-- FWAIT: lanes whose register, or with `.all` any register, is pending are held (R272). -/
def execFwait (u : Bool) (a m : Nat) (s : State) : Out :=
  issueWith u (if m = 0 then [a] else []) [] s fun t =>
    let held := t.issue.lanes.filter fun l => m = 1 && t.me.pend.any (·.lane == l)
    .next (t.settle (t.issue.lanes.map fun l => (l, if held.contains l then .hold .fwait else .go)))

/-- FTEST: whether v[a] is not pending, read without waiting (R272). DEDUCED: where v[d] is itself pending, its write waits as every write of a
pending register does (R271, log 139). -/
def execFtest (u : Bool) (d a : Nat) (s : State) : Out :=
  match s.me.lowestOutside [a, d] with
  | some r => .next (s.raise 0x05 (r + s.me.blocks * 256) 0 0)
  | none =>
    issueWith u [] [d] s fun t =>
      .next (t.writeLanes u fun g l => [(d, if g.pend.any (fun p => p.lane == l && p.reg == a) then 0 else 1)]).retire

/-- FCANCEL: a pending v[a] is written with ST = 1 at once; the copy goes on (R273). With U = 1 the lowest lane's v[a] decides for all (R26). DESIGN
CHOICE: the flag that SETB has set for the copy stays set until the copy itself writes its future (R145, log 138). -/
def execFcancel (u : Bool) (a : Nat) (s : State) : Out :=
  match s.me.lowestOutside [a] with
  | some r => .next (s.raise 0x05 (r + s.me.blocks * 256) 0 0)
  | none =>
    issueWith false [] [] s fun t =>
      .next (t.modMe fun g => t.issue.lanes.foldl (fun h l =>
        if g.pend.any (fun p => p.lane == srcLane u t.issue.lanes l && p.reg == a) then
          { h.setReg l a 0x40000000 with pend := h.pend.filter fun p => !(p.lane == l && p.reg == a) }.releaseFuture
        else h) g).retire

end Sys2Proof.Machine
end

