-- ==== Sys2Proof/Machine/Teams.lean ====
section
/-!
DEFINITION. Teams while they run and as they end: barriers (R31, R285), register blocks (R28, R29, R286), work queues and new threads
(R20, R33 to R36, R405), and the ends of groups, teams and grids (R43, R53, R293, R406).
-/
namespace Sys2Proof.Machine

/-! Barriers (R31, R285). -/

/-- The core and team slot of a team, and of its other half. -/
def State.halves (s : State) (c t : Nat) : List (Nat × Nat) :=
  (c, t) :: match (s.team? c t).bind (·.half) with
    | some h => [(h.core, h.slot)]
    | none => []

/-- Where a team's barriers stand: in the lower half of a split team. -/
def State.barHome (s : State) (c t : Nat) : Nat × Nat :=
  match (s.team? c t).bind (·.half) with
  | some h => if h.high then (h.core, h.slot) else (c, t)
  | none => (c, t)

/-- The groups of a team: core, group slot, group. -/
def State.teamGroups (s : State) (c t : Nat) : List (Nat × Nat × Group) :=
  (s.halves c t).flatMap fun h => (((s.core h.1).groups.filter fun g => g.2.team == h.2).map fun g => (h.1, g.1, g.2))

/-- The lanes of a group that are not vacant. -/
def Group.live (g : Group) : List Nat := (List.range g.lanes.length).filter fun l => !(g.lane l).vacant

/-- Barrier `b` of a team. -/
def State.bar (s : State) (c t b : Nat) : Bar :=
  let h := s.barHome c t
  (((s.team? h.1 h.2).map (·.bars)).getD [])[b]?.getD ⟨0, [], 0⟩

/-- Barrier `b` of a team changed. -/
def State.modBar (s : State) (c t b : Nat) (f : Bar → Bar) : State :=
  let h := s.barHome c t
  s.modTeam h.1 h.2 fun m => { m with bars := modAt f b m.bars }

/-- Threads of a team that have not exited and are not named among the arrivals at barrier `b`. -/
def State.absentAt (s : State) (c t b : Nat) : List (Nat × Nat) :=
  let x := (s.bar c t b).arrived
  (s.teamGroups c t).flatMap fun g => ((g.2.2.live.map fun l => (g.2.2.grp, l)).filter fun y => !x.contains y)

/-- Threads of a team that have not exited and have not arrived at barrier `b`: the absent ones, but for the arrivals without a name. -/
def State.missingAt (s : State) (c t b : Nat) : List (Nat × Nat) := (s.absentAt c t b).drop (s.bar c t b).more

/-- The lanes of a group that wait at barrier `b` for phase `p`, when that phase has completed: BARW and BAR go on; a second arrival is
made in the next phase, and BAR then waits for it (R285). -/
def Group.passBar (g : Group) (b p : Nat) : Group :=
  { g with lanes := g.lanes.map fun x =>
      match x.wait with
      | .bar k q w =>
        if k = b ∧ q = p then
          match w with
          | .bara => { x with wait := .none, back := none, arrived := NMap.put x.arrived b (p + 1) }
          | .bar => { x with wait := .bar b (p + 1) .barw, arrived := NMap.put x.arrived b (p + 1) }
          | _ => { x with wait := .none, back := none }
        else x
      | _ => x }

/-- The lanes of a group that arrive again at barrier `b` once phase `p` has completed. -/
def Group.again (g : Group) (b p : Nat) : List (Nat × Nat) :=
  (List.range g.lanes.length).filterMap fun l => match (g.lane l).wait with
    | .bar k q w => if k = b ∧ q = p ∧ (w = .bara ∨ w = .bar) then some (g.grp, l) else none
    | _ => none

/-- Barrier `b` completes if every thread that has not exited has arrived; so may the next phase, when those that arrive again are
all there are (R31, R285). -/
def State.settleBar (s : State) (c t b : Nat) : Nat → State
  | 0 => s
  | fuel + 1 =>
    let x := s.bar c t b
    if (x.arrived = [] ∧ x.more = 0) ∨ s.missingAt c t b ≠ [] then s
    else
      let gs := s.teamGroups c t
      let back := gs.flatMap fun g => g.2.2.again b x.phase
      let s1 := s.modBar c t b fun _ => ⟨x.phase + 1, back, 0⟩
      let s2 := gs.foldl (fun u g => u.modGroup g.1 (.grp g.2.1) (·.passBar b x.phase)) s1
      s2.settleBar c t b fuel

/-- Every barrier of a team that may complete does (R31). -/
def State.settleBars (s : State) (c t : Nat) : State := (List.range 8).foldl (fun u b => u.settleBar c t b 2) s

/-! Register blocks (R28, R29). -/

/-- Blocks of width 1 that the groups of a core hold; 32,768 make the vector register file. -/
def Core.blocksUsed (k : Core) : Nat := (k.groups.map fun g => g.2.blocks * g.2.width).sum

/-- The team is the oldest resident one of its core (R29). -/
def Core.oldest (k : Core) (t : Nat) : Bool :=
  match NMap.find k.teams t with
  | some m => k.teams.all fun x => decide (m.order ≤ x.2.order)
  | none => false

/-- A group of team slot `t` and width `w` may take `n` blocks more: outside the reserve of eight blocks of width 128, or from it for
the oldest team (R29). -/
def Core.blocksFree (k : Core) (t n w : Nat) : Bool :=
  decide (k.blocksUsed + n * w ≤ if k.oldest t then 32768 else 31744)

/-- RACQs waiting on a core, in the order they issued. -/
def State.racqs (s : State) (c : Nat) : List Op :=
  s.ops.filter fun o => decide (o.core = c) && (match o.kind with | .racq _ => true | _ => false)

/-- The allocation of a group raised to `n` blocks; new blocks hold zero (R286). -/
def Group.grow (g : Group) (n : Nat) : Group := { g with blocks := max g.blocks n }

/-- A waiting RACQ can be served, `first` in the queue or not (R29). -/
def State.racqServable (s : State) (c : Nat) (first : Bool) (o : Op) : Bool :=
  match o.kind, s.group? c o.agent with
  | .racq n, some g =>
    decide (n ≤ g.blocks) || ((first || (s.core c).oldest g.team) && (s.core c).blocksFree g.team (n - g.blocks) g.width)
  | _, _ => false

/-- The waiting RACQ of a core to be served next: of the oldest team, ahead of the others, or the head of the queue (R29). -/
def State.racqNext (s : State) (c : Nat) : Option Op :=
  let q := s.racqs c
  match q.find? fun o => match s.group? c o.agent with
      | some g => (s.core c).oldest g.team && s.racqServable c false o
      | none => false with
  | some o => some o
  | none => match q with
    | o :: _ => if s.racqServable c true o then some o else none
    | [] => none

/-- RACQ_GRANT: waiting RACQs are served as blocks are free to them (R29, R286). -/
def State.grantRacqs (s : State) (c : Nat) : Nat → State
  | 0 => s
  | fuel + 1 =>
    match s.racqNext c with
    | none => s
    | some o =>
      match o.kind with
      | .racq n => ((s.modGroup c o.agent (·.grow n)).finishOp o.id).grantRacqs c fuel
      | _ => s

/-- RACQ_GRANT (R29). -/
def execRacqGrant (core : Nat) (s : State) : Out := .next (s.grantRacqs core s.ops.length)

/-- Steps that free resources of core `c` make due: waiting RACQs and placement. -/
def State.freed (s : State) (c : Nat) : State :=
  let s1 := if s.racqs c = [] ∨ s.agenda.contains (.racqGrant c) then s else s.due (.racqGrant c)
  if s1.agenda.contains .teamPlacement then s1 else s1.due .teamPlacement

/-! Ends of grids (R43, R406). -/

/-- The grid of number `num`, changed. -/
def State.modGrid (s : State) (num : Nat) (f : Grid → Grid) : State :=
  { s with grids := s.grids.map fun g => if g.num = num then f g else g }

/-- Grid `num`. -/
def State.grid? (s : State) (num : Nat) : Option Grid := s.grids.find? (·.num == num)

/-- JOIN_FAILED: number, JH, JOFF, code and check (R406). -/
def State.joinFailed (s : State) (vi num jh joff check : Nat) : State :=
  s.postHome 0x17 vi [num, jh, joff, checkCode check + 256 * check]

/-- The join counter of a grid is decremented, and whether that is done: an atomic by the part, checked for Read. One behind a remote
window is sent to its chip (R43, R406). -/
def State.joinGrid (s : State) (g : Grid) : State × Bool :=
  let jh := fld g.bits 160 32
  let joff := fld g.bits 192 32
  if jh = 0 then (s, true)
  else
    let a : Actor := ⟨s.physCore g.vi 0, false, g.vi, g.depth⟩
    match s.resolve a jh joff 4 [.read] none with
    | .error c => (s.joinFailed g.vi g.num jh joff c, true)
    | .ok r =>
      match r.remote with
      | some rank =>
        let e : Entry := ⟨0, g.vi, 0, 0, g.num, 0, 0, [], jh, joff, 0, 0, 0, none, false, false, 0, none⟩
        ({ s with ops := s.ops ++ [⟨s.opSeq, a.core, .grp (257 + s.opSeq), [],
            .remote ⟨rank, jh, joff, .nothing, .join, g.depth, s.opSeq, none⟩, none, some e, s.clk, false, 0, 0, none⟩], opSeq := s.opSeq + 1 }, true)
      | none =>
        match s.atomAt a (noLane a.core) r 4 4 jh fun v => some ((v + 4294967295) % 4294967296) with
        | (t, .held _) => (t, false)
        | (t, .poison _ pa) => (t.poisonUse (some g.vi) 1 pa, true)
        | (t, .value _) => (t, true)

/-- A grid whose teams have all been placed and have ended. -/
def Grid.over (g : Grid) : Bool := decide (g.next = g.last) && decide (g.live = 0) && !g.held

/-- An access that has no place in the order yet, or whose place another chip has still to acknowledge (R43, R111). -/
def State.unplaced (s : State) (o : Op) : Bool :=
  match o.kind with
  | .remote r => r.form.silent
  | .copy r => r.job.isSome || s.rowsOut o.id
  | _ => false

/-- A grid is over, and every access of its threads has its place: the join counter's decrement comes after them (R43). -/
def State.gridOver (s : State) (g : Grid) : Bool :=
  g.over && s.ops.all fun o => !((o.team.map (·.2.1)) == some g.num && s.unplaced o)

/-- A grid completes: a triggered group's watch counts one less; else the join counter is decremented, and a launch queue's grid is
reported (R37, R43, R83, R382). -/
def State.completeGrid (s : State) (g : Grid) : State :=
  let gone := fun (t : State) => { t with grids := t.grids.filter (·.num != g.num) }
  match g.watch with
  | some id =>
    let s1 := match s.watch? id with
      | some w => ((s.liveAdd w 0 1 g.depth).modWatch id fun x => { x with live := x.live - 1 }).reap id
      | none => s
    (gone s1).kickAll
  | none =>
    match s.joinGrid g with
    | (t, false) => t
    | (t, true) => match g.queue with
      | some q => gone (t.postHome 0x01 g.vi [q, g.num])
      | none => gone t

/-- Every grid that is over completes. -/
def State.completeGrids (s : State) : State := s.grids.foldl (fun t g => if t.gridOver g then t.completeGrid g else t) s

/-! Ends of groups and teams (R53). -/

/-- What an operation still does once its group is gone: accesses, applies and engine operations keep their place. -/
def OpKind.outlives : OpKind → Bool
  | .store | .uflush | .uapply _ | .mtx _ | .mma _ | .copy _ | .future _ | .launch _ => true
  | .remote r => r.form.silent
  | _ => false

/-- The operations, pairs and side-log entries of an ended group, under a name that no group has. -/
def State.disown (s : State) (c n : Nat) : State :=
  let a : Agent := .grp (257 + s.opSeq)
  let was := fun (d : Nat) (x : Agent) => decide (d = c) && decide (x = .grp n)
  { s.modCore c fun k =>
      { k with sideLog := k.sideLog.map fun e => if e.agent = .grp n then { e with agent := a } else e,
               slogWait := k.slogWait.filter (·.1 != .grp n) } with
    opSeq := s.opSeq + 1
    ops := (s.ops.filter fun o => !was o.core o.agent || o.kind.outlives).map fun o =>
      if was o.core o.agent then { o with agent := a, flag := none } else o
    pairs := s.pairs.map fun p => if was p.core p.agent then { p with agent := a } else p
    claims := s.claims.filter fun x => match x.owner with | .inl o => !was o.1 o.2.1 | .inr _ => true }

/-- A team's overflow queues hold no entry: launches and copies that stand in AB (R53, R364). -/
def State.queuesEmpty (s : State) (c t : Nat) : Bool :=
  (s.core c).launchOver.all (·.team != t) &&
  s.ops.all fun (o : Op) => o.core != c || (match o.kind with | .copy r => r.pooled || !r.placed || r.slot != some t | _ => true)

/-- A team slot is free again: its barriers, AB, WB, ACS and records with it. An MMA of its that still waits for its B operand has nothing left to
write (R53, R234). -/
def State.freeTeam (s0 : State) (c t : Nat) : State :=
  let s := s0.dropMma fun o => o.core == c && (match o.kind with | .mma j => j.team == some t | _ => false)
  let s1 := s.modCore c fun k => { k with teams := NMap.drop k.teams t }
  ({ s1 with ops := s1.ops.map fun (o : Op) => match o.kind with
      | .copy r => if o.core = c ∧ r.slot = some t then { o with kind := .copy { r with slot := none } } else o
      | .mtx n => if o.core = c ∧ n = some t then { o with kind := .mtx none } else o
      | .launch x => if o.core = c ∧ x.team = t then { o with kind := .launch { x with team := 256 } } else o
      | _ => o }).freed c

/-- A team whose groups have all ended ends, once its queues are empty (R43, R53). -/
def State.endTeam (s : State) (c t : Nat) : State :=
  match s.team? c t with
  | none => s
  | some m =>
    if s.teamGroups c t ≠ [] then s
    else if (s.halves c t).all fun h => s.queuesEmpty h.1 h.2 then
      let s1 : State := { s with swapped := s.swapped.filter fun w => !(w.grid == m.grid && w.team == m.team) }
      (((s.halves c t).foldl (fun u h => u.freeTeam h.1 h.2) s1).modGrid m.grid fun g => { g with live := g.live - 1 }).completeGrids
    else (s.halves c t).foldl (fun u h => u.modTeam h.1 h.2 ({ · with ending := true })) s

/-- A group that has ended leaves its core: all lanes vacant, its futures written, no item on its way (R53). -/
def State.endGroup (s : State) (c n : Nat) : State :=
  match NMap.find (s.core c).groups n with
  | none => s
  | some g =>
    let popping := (s.opsOf c (.grp n)).any fun o => match o.kind with | .remote r => r.form == .pop | _ => false
    if g.live ≠ [] ∨ g.pend ≠ [] ∨ popping then s
    else
      let s1 := (s.disown c n).modCore c fun k =>
        let rest := NMap.drop k.groups n
        { k with groups := rest, slots := k.slots.zipIdx.map fun x =>
            if rest.all (·.2.islot != x.2) then ⟨none, false, []⟩ else x.1 }
      (s1.endTeam c g.team).freed c

/-- Exited threads of a group count as arrived no longer, so that threads that refill their lanes do not either (R31, R285). -/
def State.unarrive (s : State) (c t grp : Nat) (ls : List Nat) : State :=
  let h := s.barHome c t
  s.modTeam h.1 h.2 fun m => { m with bars := m.bars.map fun b =>
    { b with arrived := b.arrived.filter fun x => !(x.1 == grp && ls.contains x.2) } }

/-- Lanes become vacant: as EXIT leaves them (R35, R284), with barriers and the group's end. -/
def State.vacate (s : State) (c n : Nat) (ls : List Nat) : State :=
  match NMap.find (s.core c).groups n with
  | none => s
  | some g =>
    let s1 := s.modGroup c (.grp n) (·.modLanes ls fun x =>
      { x with vacant := true, wait := .none, back := none, clause := none, rstack := [], spilled := 0, flushing := [],
               counted := false })
    ((s1.unarrive c g.team g.grp ls).settleBars c g.team).endGroup c n

/-- The operations of a group that do nothing more once its lanes are gone end, and so do its claims and its turns at the side log
(R293). -/
def State.abandon (s : State) (c n : Nat) : State :=
  let was := fun (d : Nat) (x : Agent) => decide (d = c) && decide (x = .grp n)
  { s.modCore c fun k => { k with slogWait := k.slogWait.filter (·.1 != .grp n) } with
    ops := s.ops.filter fun o => !was o.core o.agent || o.kind.outlives
    claims := s.claims.filter fun x => match x.owner with | .inl o => !was o.1 o.2.1 | .inr _ => true }

/-- A group is killed: every lane vacant at once, without refill; a reply that comes for it is discarded (R293, R432). -/
def State.killGroup (s : State) (c n : Nat) : State :=
  match NMap.find (s.core c).groups n with
  | none => s
  | some g =>
    let v := ((s.team? c g.team).map (·.vi)).getD 0
    let s1 := s.trace c v ([5, n, 1] ++ maskBytes g.width g.live)
    let s2 := (s1.abandon c n).dropMma fun o => decide (o.core = c ∧ o.agent = .grp n) &&
      (match o.kind with | .mma j => j.bref.remote.isSome | _ => false)
    s2.vacate c n (List.range g.lanes.length)

/-- A team is killed, on both cores (R293). -/
def State.killTeam (s : State) (c t : Nat) : State :=
  let gs := s.teamGroups c t
  let s1 := gs.foldl (fun u g => u.killGroup g.1 g.2.1) s
  if gs = [] then s1.endTeam c t else s1

/-! Threads that start (R20, R33 to R36, R129). -/

/-- Lane `l` of a group starts as a new thread of team `m` at offset `pc`, with an item (R20). DESIGN CHOICE: a future still pending in a
register of the thread that left stays pending (log 116). -/
def Group.newThread (g : Group) (m : Team) (l pc : Nat) (item : Word) : Group :=
  let tid := BitVec.ofNat 32 (g.grp * g.width + l)
  let h : Group := { g with regs := Mem.clear g.regs (128 * l) 128, poison := g.poison.filter (·.1 != l) }
  (h.setReg l 0 (BitVec.ofNat 32 m.argOff)).modLane l fun _ =>
    { Lane.start pc with item := item, sr := srSeed m.srseed (BitVec.ofNat 32 m.team) tid item, lastIssue := g.issues }

/-- The work queue's buffer checked once before pops: checks 1 to 4 of R55 on the counter's word or the whole ring (R405). -/
def State.queueRef (s : State) (a : Actor) (q : WorkQueue) : Except Nat Ref :=
  s.resolve a q.qh q.qoff (if q.kind = 1 then 4 else 64 + 4 * q.limit) [] none

/-- A ring's name where pushed items are recorded (R82). -/
def Ref.ringKey (r : Ref) : Nat := r.space * 2 ^ 64 + r.va

/-- An item of a watch has been popped: LIVE goes down, and a place is free (R82, R83). -/
def State.itemPopped (s : State) (id : Nat) : State :=
  (match s.watch? id with
    | some w => ((s.liveAdd w 0 1 0).modWatch w.id fun y => { y with live := y.live - 1 }).reap w.id
    | none => s : State).kickAll

/-- The position popped lowers LIVE of the watch that pushed it, whose chip hears of it (R82, R83). -/
def State.popped (s : State) (key pos : Nat) : State :=
  let mine := fun (x : Nat × Nat × Nat) => decide (x.1 = key ∧ x.2.1 = pos)
  match s.pushed.find? mine with
  | none => s.kickAll
  | some x =>
    let s1 : State := { s with pushed := s.pushed.filter (!mine ·) }
    if x.2.2 < 2 ^ 32 then s1.itemPopped x.2.2
    else (s1.sendOutside ⟨s.physCore 0 0, false, 0, 0⟩ (x.2.2 / 2 ^ 32 - 1) 0 0 .nothing (.popped (x.2.2 % 2 ^ 32))).kickAll

/-- A trigger leaves its pool as dispatched (R83). -/
def State.dispatched (s : State) (w : Watch) (t : Trigger) : State :=
  let s1 : State := { s with trigs := s.trigs.erase t }
  (s1.statusCount w 8 8 [(0, 1)] t.depth).modWatch w.id fun (x : Watch) => { x with live := x.live + 1, slice := t.slice }

/-- Push of an item into a ring of `cap` items: held, with what must be ready first; no room; or the position taken. The item and TAIL + 1
are two writes at the depth of `a` (R34, R40, R82). -/
def State.ringPush (s : State) (a : Actor) (me : Nat × Agent × Nat) (r : Ref) (cap item : Nat) : State × Except Why (Option Nat) :=
  match s.readAt a me r 8 0 with
  | (u, .held w) => (u, .error w)
  | (u, .poison _ pa) => (u.poisonUse (some a.vi) 0 pa, .ok none)
  | (u, .value v) =>
    let tail := v / 4294967296
    if cap ≤ (tail + 4294967296 - v % 4294967296) % 4294967296 then (u, .ok none)
    else
      let ir : Ref := { r with va := r.va + 64 + 4 * (tail % cap), off := r.off + 64 + 4 * (tail % cap) }
      let x := u.prepare ir 4
      if x.claimed me ir.space ir.va 4 || x.logged me.1 ir.space ir.va 4 then (x, .error .line)
      else match x.locate ir.space ir.va 4, x.locate r.space (r.va + 4) 4 with
      | some rs, some ts =>
        let wrote : Except RingFull State := match x.applyFor (rs ++ ts) with
          | .error e => .error e
          | .ok y => match y.commit a [] (runWrites a.depth 0 ir.off rs (leBytes item 4)) with
            | .error e => .error e
            | .ok z => z.commit a [] (runWrites a.depth 0 (r.off + 4) ts (leBytes (tail + 1) 4))
        match wrote with
        | .error id => (x.blockOn me r.space r.va 8 id, .error .spillRing)
        | .ok z => (z.unclaim me, .ok (some tail))
      | _, _ => match x.missing ir.space ir.va 4 with
        | some m => (x.mapRequest a ir.space m 2, .error .page)
        | none => (x, .error .page)

/-- One pop: held, with the range that must be ready first; or the item, if there is one (R33, R34). -/
def State.popOne (s : State) (a : Actor) (q : WorkQueue) (r : Ref) : State × Except Why (Option Nat) :=
  let me := noLane a.core
  if q.kind = 1 then
    match s.atomAt a me r 4 4 q.qh fun v => if v < q.limit then some (v + 1) else none with
    | (t, .held w) => (t, .error w)
    | (t, .poison _ pa) => (t.poisonUse (some a.vi) 1 pa, .ok none)
    | (t, .value v) => (t, .ok (if v < q.limit then some v else none))
  else
    match s.readAt a me r 8 0 with
    | (t, .held w) => (t, .error w)
    | (t, .poison _ pa) => (t.poisonUse (some a.vi) 1 pa, .ok none)
    | (t, .value v) =>
      let head := v % 4294967296
      if head = v / 4294967296 then (t, .ok none)
      else
        let ir : Ref := { r with va := r.va + 64 + 4 * (head % q.limit), off := r.off + 64 + 4 * (head % q.limit) }
        match t.readAt a me ir 4 0 with
        | (u, .held w) => (u, .error w)
        | (u, .poison _ pa) => (u.poisonUse (some a.vi) 1 pa, .ok none)
        | (u, .value item) =>
          match u.atomAt a me r 8 4 q.qh fun _ => some (head + 1) with
          | (x, .value _) => (x.popped r.ringKey head, .ok (some item))
          | (x, _) => (x, .error .line)

/-- The pops of lanes, in ascending order; where one is held, the reason, with nothing popped. -/
def State.popAll (s0 s : State) (a : Actor) (q : WorkQueue) (r : Ref) : List Nat → List (Nat × Option Nat) →
    State × Except Why (List (Nat × Option Nat))
  | [], acc => (s, .ok acc)
  | l :: ls, acc =>
    match s.popOne a q r with
    | (t, .ok x) => s0.popAll t a q r ls (acc ++ [(l, x)])
    | (t, .error w) => ({ s0 with cores := t.cores, agenda := t.agenda }, .error w)

/-- The vacant lanes of a group that popped an item become new threads at `pc` (R36). -/
def Group.refilled (g : Group) (m : Team) (pc : Nat) (xs : List (Nat × Option Nat)) : Group :=
  xs.foldl (fun h x => match x.2 with
    | some i => h.newThread m x.1 pc (BitVec.ofNat 32 i)
    | none => h) g

end Sys2Proof.Machine
end

