-- ==== Sys2Proof/Machine/Place.lean ====
section
/-!
DEFINITION. The distributor: where a team fits (R17, R47), which core it gets (R300, R301), the order of placement (R298, R299), how its
groups start (R20, R302, R367), and who leaves to make room (R310 to R313, R317).
-/
namespace Sys2Proof.Machine

/-! What a team needs. -/

/-- A width code's width. -/
def codeWidth (c : Nat) : Nat := if c = 0 then 32 else if c = 1 then 64 else 128

/-- What a team, or its half, takes of one core: groups, threads, register blocks of width 1, bytes of AB, WB tiles and ACS tiles. -/
structure Need where
  groups  : Nat
  threads : Nat
  units   : Nat
  ab      : Nat
  wb      : Nat
  acs     : Nat
  deriving DecidableEq, Repr

/-- A work-queue descriptor's queue, if it names one (Table Ex-5). -/
def queueOf (d : Nat) : Option WorkQueue :=
  if fld d 0 2 = 0 then none else some ⟨fld d 0 2, fld d 96 32, fld d 64 32, fld d 32 32⟩

/-- The next team of a grid, before it has a place: from the launch record (Table Ec-5), or for a triggered group from the watch's
descriptor (Table Mi-8). -/
def Grid.nextTeam (g : Grid) (w : Option Watch) : Team :=
  let b := g.bits
  let t : Team :=
    { vi := g.vi, grid := g.num, team := g.next % 2 ^ 32, nteam := g.nteam % 2 ^ 32, groups := fld b 308 7 + 1,
      width := codeWidth (fld b 230 2), regs := fld b 226 4, prio := g.prio, depth := g.depth, gen := g.gen, vcore := 0,
      codeH := fld b 0 32, eoff := fld b 32 32, argH := fld b 64 32, argOff := fld b 96 32, argB1 := 0, argB2 := 0,
      fpctl := BitVec.ofNat 16 (fld b 240 10), srseed := BitVec.ofNat 32 (fld b 320 32), vmon := !bit b 233, persist := bit b 232,
      wq := queueOf (b / 2 ^ 384), watch := none, wh := 0, woff := 0, abBase := 0, abLen := 16 * fld b 256 19, wbFirst := 0,
      wbN := fld b 288 11, acsFirst := 0, acsN := fld b 299 9, recFirst := 0, recN := (fld b 299 9 + 1) / 2,
      bars := List.replicate 8 ⟨0, [], 0⟩, frozen := false, undrained := false, imaged := false, half := none, wdog := 0, qcw0 := 0,
      qcw1 := 0, qcw0Next := none, qcw1Next := none, stats := [], order := 0, idle := 0, slices := 0, victim := 0, ending := false }
  match w with
  | none => t
  | some x =>
    let d := x.desc
    { t with
      team := 0, nteam := 1, groups := 1, width := codeWidth (fld d 102 2), regs := fld d 432 4, codeH := fld d 128 32,
      eoff := fld d 160 32, argH := fld d 0 32, argB1 := fld d 256 32, argB2 := fld d 192 32, argOff := fld d 224 32,
      fpctl := BitVec.ofNat 16 (fld d 416 10), srseed := BitVec.ofNat 32 (fld d 448 32), vmon := !bit d 104, persist := false,
      wq := none, watch := some x.id, wh := fld d 0 32, woff := g.woff, abLen := 16 * fld d 480 18, wbN := fld d 389 11,
      acsN := fld d 400 9, recN := (fld d 400 9 + 1) / 2 }

/-- The part of a team on each core: all of it, or the lower and the higher half of a split team (R47, R48). -/
def Team.needs (m : Team) (split : Bool) : List Need :=
  let need := fun (g ab : Nat) => (⟨g, g * m.width, g * m.regs * m.width, ab, m.wbN, m.acsN⟩ : Need)
  if split then
    let lo := (m.groups + 1) / 2
    let ab := (m.abLen / 16 + 1) / 2 * 16
    [need lo ab, need (m.groups - lo) ab]
  else [need m.groups m.abLen]

/-- The same of a swapped-out team, whose groups may hold different blocks (R317, R318). -/
def Swapped.needs (w : Swapped) : List Need :=
  let need := fun (g b : Nat) => (⟨g, g * w.width, b * w.width, w.abLen, w.wbN, w.acsN⟩ : Need)
  match w.half with
  | none => [need w.groups w.blocks]
  | some _ => [need ((w.groups + 1) / 2) ((w.blocks + 1) / 2), need (w.groups - (w.groups + 1) / 2) (w.blocks - (w.blocks + 1) / 2)]

/-! Where it fits (R17). -/

/-- The lowest place of `size` units, at a multiple of `align`, that no used range touches. -/
def firstFit (used : List (Nat × Nat)) (size align total : Nat) : Option Nat :=
  if size = 0 then some 0
  else
    let tries := 0 :: used.map fun u => (u.1 + u.2 + align - 1) / align * align
    (tries.filter fun p => decide (p + size ≤ total) && used.all fun u => decide (p + size ≤ u.1) || decide (u.1 + u.2 ≤ p)).min?

/-- Where the local allocations of a need go on a core: AB base, first WB tile, first ACS tile, first record, if it fits (R17). -/
def Core.places (k : Core) (n : Need) : Option (Nat × Nat × Nat × Nat) :=
  let ts := k.teams.map (·.2)
  if Config.numSlots < k.groups.length + n.groups ∨ Config.numSlots ≤ ts.length ∨
      Config.threadSlots < (k.groups.map (·.2.width)).sum + n.threads ∨ 31744 < k.blocksUsed + n.units then none
  else
    match firstFit ((ts.filter (0 < ·.abLen)).map fun m => (m.abBase, m.abLen)) n.ab 64 Config.abBytes,
      firstFit ((ts.filter (0 < ·.wbN)).map fun m => (m.wbFirst, m.wbN)) n.wb 1 Config.wbTiles,
      firstFit ((ts.filter (0 < ·.acsN)).map fun m => (m.acsFirst, (m.acsN + 1) / 2 * 2)) ((n.acs + 1) / 2 * 2) 2 Config.acsTiles,
      firstFit ((ts.filter (0 < ·.recN)).map fun m => (m.recFirst, m.recN)) ((n.acs + 1) / 2) 1 Config.numRecords with
    | some a, some w, some t, some r => some (a, w, t, r)
    | _, _, _, _ => none

/-- A core's or cluster's cores with the needs that go there. -/
def State.sites (ns : List Need) (c : Nat) : List (Nat × Need) := ns.zipIdx.map fun x => (c + x.2, x.1)

/-- The core is excluded by temperature or droop (R300). -/
def Core.excluded (k : Core) : Bool := k.hot || k.droopEnd.isSome

/-- The lowest virtual number of interface `vi` that maps to core `c` (R320). -/
def State.vcoreOf (s : State) (vi c : Nat) : Option Nat := (List.range 128).find? fun v => s.physCore vi v == c

/-- The needs fit on core `c`, or on it and its cluster's other core, which may receive teams of `vi` (R17, R300, R320). -/
def State.fitsAt (s : State) (vi : Nat) (ns : List Need) (c : Nat) : Bool :=
  (State.sites ns c).all fun x =>
    !(s.core x.1).excluded && (s.vcoreOf vi x.1).isSome && ((s.core x.1).places x.2).isSome

/-- The core-clock frequency of the power mode, in cycles a microsecond (Table Ov-6). -/
def State.mhz (s : State) : Nat :=
  match s.pwrNow with
  | 0 => 2100 | 1 => 1900 | 2 => 1600 | _ => 1400

/-- Droop events of a core in the last 1 ms (R300). -/
def State.droopsOf (s : State) (c : Nat) : Nat := ((s.core c).droops.filter fun t => s.clk < t + 1000 * s.mhz).length

/-- Steps 2 and 3 of R301 for one core: class, droops, temperature, threads, number. -/
def State.coreKey (s : State) (cls : Nat → Nat) (c : Nat) : List Nat :=
  [cls c, s.droopsOf c, (s.core c).celsius, ((s.core c).groups.map (·.2.width)).sum, c]

/-- `a` comes before `b` in the order of their first difference. -/
def lexLt : List Nat → List Nat → Bool
  | x :: xs, y :: ys => decide (x < y) || (decide (x = y) && lexLt xs ys)
  | _, _ => false

/-- The place with the least key; of a pair, each part of the key is the worse of its two cores' (R301). -/
def State.best (s : State) (cls : Nat → Nat) (pair : Bool) (cs : List Nat) : Option Nat :=
  let key := fun c => if pair then
      (List.zipWith max (s.coreKey cls c) (s.coreKey cls (c + 1))).take 4 ++ [c]
    else s.coreKey cls c
  cs.foldl (fun b c => match b with
    | none => some c
    | some d => if lexLt (key c) (key d) then some c else b) none

/-- The lower cores of the clusters. -/
def clusters : List Nat := (List.range 64).map (2 * ·)

/-- The lower cores of the clusters with a core that `ok` allows. -/
def pairsOf (ok : Nat → Bool) : List Nat := clusters.filter fun c => ok c || ok (c + 1)

/-- A place for needs in one piece or, failing that, in two, among the cores that `ok` allows: the core, and whether it is a pair
(R301). -/
def State.placeFor (s : State) (vi : Nat) (whole split : Option (List Need)) (cls : Nat → Nat) (ok : Nat → Bool) : Option (Nat × Bool) :=
  let one := match whole with
    | some ns => ((List.range 128).filter fun c => ok c && s.fitsAt vi ns c)
    | none => []
  match s.best cls false one with
  | some c => some (c, false)
  | none => match split with
    | some ns => (s.best cls true ((pairsOf ok).filter (s.fitsAt vi ns))).map (·, true)
    | none => none

/-- The locality classes of a grid's teams (R301). -/
def Grid.class (g : Grid) (c : Nat) : Nat :=
  match g.slice, g.src with
  | some sl, _ => if c / 32 = sl / 64 then 0 else 1
  | none, some l => if c = l then 0 else if c / 2 = l / 2 then 1 else if c / 32 = l / 32 then 2 else 3
  | none, none => 0

/-! Groups start (R20, R302, R367). -/

/-- The issue slot with the fewest groups, the lowest at a tie (R302). -/
def Core.slotFor (k : Core) : Nat :=
  let n := fun i => (k.groups.filter (·.2.islot == i)).length
  (List.range 4).foldl (fun b i => if n i < n b then i else b) 0

/-- The lowest of `n` numbers that `used` does not hold. -/
def lowestFree (used : List Nat) (n : Nat) : Option Nat := (List.range n).find? (!used.contains ·)

/-- A group joins a core: the lowest free group slot, an issue slot, an age (R302, R304, R367). DESIGN CHOICE: its lanes take the lowest
free thread slots (log 25). -/
def Core.addGroup (k : Core) (g : Group) : Core :=
  match lowestFree (k.groups.map (·.1)) Config.numSlots with
  | none => k
  | some n =>
    let i := k.slotFor
    let used := k.groups.flatMap (·.2.units)
    let units := ((List.range 256).filter (!used.contains ·)).take (g.width / 32)
    { k with groups := NMap.put k.groups n { g with order := k.resident, islot := i, units := units }, resident := k.resident + 1,
             slots := modAt (fun x => { x with yield := x.yield || decide (x.last = some n), active := x.active.filter (· ≠ n) }) i k.slots }

/-- Group `j` of a team, at its entry clause (R20, R125, R129). -/
def Team.newGroup (m : Team) (slot j : Nat) : Group :=
  let g : Group := { Group.ctReset with
    team := slot, grp := j, width := m.width, blocks := m.regs, fresh := true,
    slots := [(0, m.argH), (1, m.argB1), (2, m.argB2)].foldl (fun x y => Mem.set x y.1 (BitVec.ofNat 32 y.2)) [],
    lanes := List.replicate m.width (Lane.start m.eoff) }
  (List.range m.width).foldl (fun h l => h.newThread m l m.eoff 0) g

/-- Local storage given to a team holds zero, and its tags are 0 (R64, R234, R315). -/
def Core.zeroFor (k : Core) (m : Team) : Core :=
  let inAb := fun (i : Nat) => m.abBase ≤ 32 * i + 31 && 32 * i < m.abBase + m.abLen
  let inWb := fun (i : Nat) => m.wbFirst ≤ i / 128 && i / 128 < m.wbFirst + m.wbN
  let tiles := (m.acsN + 1) / 2 * 2
  { k with
    ab := Mem.clear k.ab m.abBase m.abLen
    wb := Mem.clear k.wb (4096 * m.wbFirst) (4096 * m.wbN)
    wbTag := Mem.clear k.wbTag m.wbFirst m.wbN
    acs := Mem.clear k.acs (8192 * m.acsFirst) (8192 * tiles)
    thr := Mem.clear k.thr (64 * m.acsFirst) (64 * tiles)
    ncount := Mem.clear k.ncount (64 * m.acsFirst) (64 * tiles)
    recs := Mem.clear k.recs (16 * m.recFirst) (16 * m.recN)
    poisonAb := k.poisonAb.filter (!inAb ·)
    poisonWb := k.poisonWb.filter (!inWb ·)
    poisonAcs := k.poisonAcs.filter fun i => decide (i < 8192 * m.acsFirst) || decide (8192 * (m.acsFirst + tiles) ≤ i) }

/-- A team, or one half of it, becomes resident on a core in the lowest free team slot, with its allocations placed (R17). -/
def State.addTeam (s : State) (m : Team) (c : Nat) (n : Need) (half : Option Half) : State × Nat :=
  let k := s.core c
  match k.places n, lowestFree (k.teams.map (·.1)) Config.numSlots with
  | some p, some slot =>
    let t : Team := { m with
      vcore := (s.vcoreOf m.vi c).getD 0, abBase := p.1, abLen := n.ab, wbFirst := p.2.1, acsFirst := p.2.2.1,
      recFirst := p.2.2.2, half := half, order := k.resident }
    (s.modCore c fun k => { k.zeroFor t with teams := NMap.put k.teams slot t, resident := k.resident + 1 }, slot)
  | _, _ => (s, 0)

/-- Both halves of a team, linked, or the whole of it; the slots it takes (R47). -/
def State.seatTeam (s : State) (m : Team) (c : Nat) (ns : List Need) : State × List (Nat × Nat) :=
  match ns with
  | [n] =>
    let (s1, t) := s.addTeam m c n none
    (s1, [(c, t)])
  | [lo, hi] =>
    let (s1, t0) := s.addTeam m c lo none
    let (s2, t1) := s1.addTeam m (c + 1) hi (some ⟨c, t0, true⟩)
    (s2.modTeam c t0 ({ · with half := some ⟨c + 1, t1, false⟩ }), [(c, t0), (c + 1, t1)])
  | _ => (s, [])

/-- The next team of a grid starts at a place: its groups become resident in ascending order (R299, R367). -/
def State.startTeam (s : State) (g : Grid) (c : Nat) (split : Bool) : State :=
  let m := g.nextTeam (g.watch.bind s.watch?)
  let (s1, seats) := s.seatTeam m c (m.needs split)
  let lo := if split then (m.groups + 1) / 2 else m.groups
  let s2 := (List.range m.groups).foldl (fun t j =>
    match (if j < lo then seats.head? else seats[1]?) with
    | some x => t.modCore x.1 fun k => k.addGroup (m.newGroup x.2 j)
    | none => t) s1
  s2.modGrid g.num fun x => { x with next := x.next + 1, live := x.live + 1 }

/-! Who leaves (R310 to R313). -/

/-- A core without some of its teams. -/
def Core.without (k : Core) (ts : List Nat) : Core :=
  { k with teams := k.teams.filter (!ts.contains ·.1), groups := k.groups.filter (!ts.contains ·.2.team) }

/-- A team with an access outstanding past REMOTE_TO is never a victim (R432). -/
def State.stuckRemote (s : State) (c t : Nat) : Bool :=
  (s.teamGroups c t).any fun g => (s.opsOf g.1 (.grp g.2.1)).any (·.timedOut)

/-- A team that is leaving already, or may be made to leave, by `p`; a new victim's overflow queues hold no entry (R310, R364). -/
def State.removable (s : State) (p : Team → Bool) (c : Nat) : List (Nat × Team) :=
  (s.core c).teams.filter fun t => t.2.victim != 0 || (p t.2 && !t.2.frozen && !t.2.ending && !s.stuckRemote c t.1 &&
    (s.halves c t.1).all fun h => s.queuesEmpty h.1 h.2)

/-- The first of some teams, in order, whose leaving makes a need fit on a core; those already leaving come first and are free. -/
def Core.victims (k : Core) (n : Need) : List (Nat × Team) → List Nat → Option (List Nat)
  | [], gone => if ((k.without gone).places n).isSome then some gone else none
  | t :: ts, gone => if ((k.without gone).places n).isSome then some gone else k.victims n ts (gone ++ [t.1])

/-- The victims on the cores of a place, with those not yet leaving counted: none where no choice makes room. -/
def State.victimsAt (s : State) (vi : Nat) (ns : List Need) (c : Nat) (p : Team → Bool) (before : Team → Team → Bool) :
    Option (List (Nat × Nat)) :=
  (State.sites ns c).foldl (fun acc x =>
    match acc with
    | none => none
    | some vs =>
      if (s.core x.1).excluded || (s.vcoreOf vi x.1).isNone then none
      else
        let ts := s.removable p x.1
        let sorted := ts.mergeSort fun a b => if a.2.victim = b.2.victim then before a.2 b.2 else decide (a.2.victim ≠ 0)
        match (s.core x.1).victims x.2 sorted [] with
        | some gone => some (vs ++ gone.map (x.1, ·))
        | none => none) (some [])

/-- How many teams some victims are that are not leaving already: a split team's halves are one (R310). -/
def State.newVictims (s : State) (vs : List (Nat × Nat)) : Nat :=
  let ids := (vs.filterMap fun v => s.team? v.1 v.2).filterMap fun (m : Team) => if m.victim = 0 then some (m.grid, m.team) else none
  (ids.foldl (fun l i => if l.contains i then l else i :: l) []).length

/-- The place that needs the fewest new victims, the lowest at a tie (R310). -/
def State.fewestVictims (s : State) (vi : Nat) (ns : List Need) (cs : List Nat) (p : Team → Bool) (before : Team → Team → Bool) :
    Option (List (Nat × Nat)) :=
  cs.foldl (fun b c => match s.victimsAt vi ns c p before, b with
    | some vs, none => some vs
    | some vs, some ws => if s.newVictims vs < s.newVictims ws then some vs else b
    | none, _ => b) none

/-- A victim's control threads are entered with reason PREEMPT, once (R313). `why` is 1, or 2 for an idle swap. -/
def State.evict (s : State) (why c t : Nat) : State :=
  match s.team? c t with
  | none => s
  | some m =>
    if m.victim ≠ 0 then s
    else (s.halves c t).foldl (fun u h =>
      ((u.modTeam h.1 h.2 ({ · with victim := why })).enqueue h.1 ⟨0x30, m.vi, 0, h.2, 0, 0, 0, [], 0, 0, 0, 0, 0, none, false, false, 0, none⟩).deliver
        h.1) s

/-- Every lane of a team waits in WAITC, MBRECV, BAR or BOWAIT, and no group is halted (R30, R312, R412). -/
def Lane.parkedIdle (x : Lane) : Bool :=
  x.vacant || (match x.wait with
    | .op _ (.waitc _ _) | .op _ .mbrecv | .op _ .bowait | .bar _ _ _ => true
    | _ => false)

/-- The team is idle in the sense of R312; a WAITC behind a remote window waits as any does. -/
def State.teamIdle (s : State) (c t : Nat) : Bool :=
  (s.teamGroups c t).all fun g => !g.2.2.halted && g.2.2.lanes.all (·.parkedIdle)

/-- Victims for a need on behalf of interface `vi` at priority `p`, on the cores that `ok` allows: of its own teams of lower priority, lowest
first, then youngest (R310). -/
def State.preempt (s : State) (vi p : Nat) (whole split : Option (List Need)) (ok : Nat → Bool) : State :=
  let own := fun (m : Team) => decide (m.vi = vi) && decide (m.prio < p)
  let before := fun (a b : Team) => decide (a.prio < b.prio) || (decide (a.prio = b.prio) && decide (b.order < a.order))
  let found := match whole.bind fun ns => s.fewestVictims vi ns ((List.range 128).filter ok) own before with
    | some vs => some vs
    | none => split.bind fun ns => s.fewestVictims vi ns (pairsOf ok) own before
  (found.getD []).foldl (fun u v => u.evict 1 v.1 v.2) s

/-- Teams that have been idle for SWAP_IDLE cycles on a core where their leaving makes room are to be swapped (R312). -/
def State.wakeIdleSwap (s : State) (vi : Nat) (whole split : Option (List Need)) (ok : Nat → Bool) : State :=
  let idle := fun (c : Nat) (m : Team) => decide (s.cfgGet Config.nSwapIdle c ≤ m.idle)
  let before := fun (a b : Team) => decide (a.order < b.order)
  let find := fun (cs : List Nat) (ns : Option (List Need)) => ns.bind fun n =>
    cs.findSome? fun c => s.victimsAt vi n c (idle c) before
  let found := match find ((List.range 128).filter ok) whole with
    | some vs => some vs
    | none => find (pairsOf ok) split
  (found.getD []).foldl (fun u v =>
    if ((u.team? v.1 v.2).map (·.victim)).getD 1 = 0 then u.due (.idleSwap v.1 v.2) else u) s

/-- IDLE_SWAP: a team still idle becomes a victim (R312, R313, R412). -/
def execIdleSwap (core team : Nat) (s : State) : Out :=
  match s.team? core team with
  | none => .next s
  | some m =>
    if s.teamIdle core team && decide (s.cfgGet Config.nSwapIdle core ≤ m.idle) && !m.frozen && !m.ending && !s.stuckRemote core team &&
        (s.halves core team).all (fun h => s.queuesEmpty h.1 h.2) then
      .next (s.evict 2 core team)
    else .next s

/-! The order of placement (R298, R299, R317). -/

/-- What waits to be placed: a swapped-out team, or the next team of a grid. -/
inductive Cand where
  | back (w : Swapped)
  | fresh (g : Grid)
  deriving DecidableEq, Repr

/-- A candidate's priority. -/
def Cand.prio : Cand → Nat
  | .back w => w.prio
  | .fresh g => g.prio

/-- A TCAST that waits to be performed has a swapped-out team among its recipients (R266). -/
def State.castWaits (s : State) (grid team : Nat) : Bool := s.ops.any fun o => match o.kind with
  | .copy r => (r.job.map fun j => j.away.any fun x => decide (x.1 = grid ∧ x.2.1 = team)).getD false
  | _ => false

/-- A TCAST has a delivery for a swapped-out team (R266). -/
def State.delivers (s : State) (grid team : Nat) : Bool :=
  s.held.any (fun h => decide (h.grid = grid ∧ h.team = team)) || s.castWaits grid team

/-- A swapped-out team may be placed: it has left, no record is out for it, and it is not idle without a reason to come back (R317). -/
def State.mayReturn (s : State) (w : Swapped) : Bool :=
  w.away && !w.posted && (!w.idle || w.ready || s.delivers w.grid w.team)

/-- What interface `vi` has to place: swapped-out teams ahead of new ones, the highest priority first (R299, R317). -/
def State.candidate (s : State) (vi : Nat) : Option Cand :=
  let cs := (s.swapped.filter fun w => w.vi == vi && s.mayReturn w).map Cand.back ++
    (s.grids.filter fun g => decide (g.vi = vi) && !g.held && decide (g.next < g.last)).map Cand.fresh
  cs.foldl (fun b c => match b with
    | none => some c
    | some d => if d.prio < c.prio then some c else b) none

/-- A candidate's needs, in one piece and in two. -/
def State.candNeeds (s : State) : Cand → Option (List Need) × Option (List Need)
  | .back w => if w.half.isSome then (none, some w.needs) else (some w.needs, none)
  | .fresh g =>
    let m := g.nextTeam (g.watch.bind s.watch?)
    (some (m.needs false), some (m.needs true))

/-- The cores that a candidate may go to: a team that a delivery or a mailbox ties to the core it left goes nowhere else (R266, R317). -/
def State.candCore (s : State) (c : Cand) (x : Nat) : Bool :=
  match c with
  | .back w => (w.mboxes == [] && !s.delivers w.grid w.team) || x == w.core || some x == w.half
  | .fresh _ => true

/-- A place for a candidate (R301). -/
def State.candPlace (s : State) (vi : Nat) (c : Cand) : Option (Nat × Bool) :=
  let n := s.candNeeds c
  let cls := match c with
    | .back w => (match s.grid? w.grid with | some g => g.class | none => fun _ => 0)
    | .fresh g => g.class
  s.placeFor vi n.1 n.2 cls (s.candCore c)

/-- RESTORE is posted to the chosen core (R317, R382). -/
def State.postRestore (s : State) (w : Swapped) (c : Nat) : State :=
  ({ s with swapped := s.swapped.map fun (x : Swapped) => if x.grid = w.grid ∧ x.team = w.team then { x with posted := true } else x }).postEvent
    c 0x02 w.vi none [w.grid, w.team, if w.idle then 1 else 0]

/-- One placement turn of interface `vi`: its candidate is placed, or room is made for it; and whether it was placed. -/
def State.placeTurn (s : State) (vi : Nat) : State × Bool :=
  match s.candidate vi with
  | none => (s, false)
  | some c =>
    match s.candPlace vi c, c with
    | some p, .back w => (s.postRestore w p.1, true)
    | some p, .fresh g => (s.startTeam g p.1 p.2, true)
    | none, _ =>
      let n := s.candNeeds c
      ((s.preempt vi c.prio n.1 n.2 (s.candCore c)).wakeIdleSwap vi n.1 n.2 (s.candCore c), false)

/-- The turns of the interfaces, from the one after the last served, until one places a team (R299). -/
def State.placeTurns (s : State) : List Nat → State × Bool
  | [] => (s, false)
  | v :: vs =>
    match s.placeTurn v with
    | (t, true) => ({ t with turns := NMap.put t.turns 0 v }, true)
    | (t, false) => t.placeTurns vs

/-- TEAM_PLACEMENT: grids that are over complete, and one team is placed; more are tried while one was (R43, R299, R301). -/
def execTeamPlacement (s : State) : Out :=
  let s1 := s.completeGrids
  let last := (NMap.find s1.turns 0).getD 63
  let busy := (List.range 64).map fun i => (last + 1 + i) % 64
  match s1.placeTurns (busy.filter fun v => (s1.candidate v).isSome) with
  | (t, true) => .next (if t.agenda.contains .teamPlacement then t else t.due .teamPlacement)
  | (t, false) => .next t

/-- Groups that take what a need gives them, in a team slot. -/
def Core.seatGroups (k : Core) (n : Need) (w t : Nat) : Core :=
  (List.range n.groups).foldl (fun q j =>
    q.addGroup { Group.ctReset with team := t, grp := j, width := w, blocks := if j = 0 then n.units / w else 0 }) k

/-- A place for a candidate, taken in thought only: the state in which it stands there, with its groups' share of the core. -/
def State.suppose (s : State) (c : Cand) (p : Nat × Bool) : State :=
  match c with
  | .fresh g => s.startTeam g p.1 p.2
  | .back w =>
    let m : Team := { (⟨0, 0, w.vi, w.prio, 0, 0, none, none, 0, 0, 0, 0, 0, false, none, none⟩ : Grid).nextTeam none with
      vi := w.vi, prio := w.prio, wbN := w.wbN, acsN := w.acsN, recN := (w.acsN + 1) / 2, frozen := true }
    let (s1, seats) := ({ s with swapped := s.swapped.map fun (x : Swapped) =>
      if x.grid = w.grid ∧ x.team = w.team then { x with posted := true } else x } : State).seatTeam m p.1 w.needs
    (seats.zip w.needs).foldl (fun (u : State) x => u.modCore x.1.1 (·.seatGroups x.2 w.width x.1.2)) s1

/-- The victims for the teams that interface `v` has to place, one team after the other, as long as room can be made for them; `h` is the
part as it would be with the rooms made and taken (R311). The first argument bounds the teams. -/
def State.sliceVictims (v : Nat) (p : Team → Bool) : Nat → State → List (Nat × Nat)
  | 0, _ => []
  | fuel + 1, h =>
    match h.candidate v with
    | none => []
    | some c =>
      match h.candPlace v c with
      | some q => State.sliceVictims v p fuel (h.suppose c q)
      | none =>
        let n := h.candNeeds c
        let before := fun (a b : Team) => decide (a.order < b.order)
        match (match n.1.bind fun ns => h.fewestVictims v ns ((List.range 128).filter (h.candCore c)) p before with
          | some vs => some vs
          | none => n.2.bind fun ns => h.fewestVictims v ns (pairsOf (h.candCore c)) p before) with
        | none => []
        | some vs =>
          let h1 := (vs.flatMap fun x => h.halves x.1 x.2).foldl (fun (u : State) x => u.modCore x.1 (·.without [x.2])) h
          match h1.candPlace v c with
          | some q => vs ++ State.sliceVictims v p fuel (h1.suppose c q)
          | none => vs

/-- QUANTUM_EXPIRY: the next interface with a team it cannot place takes its turn; the oldest teams of others that have been resident
for a slice make room for its teams, and its idle teams may come back (R311, R317). -/
def execQuantumExpiry (s : State) : Out :=
  let last := (NMap.find s.turns 1).getD 63
  let next := ((List.range 64).map fun i => (last + 1 + i) % 64).find? fun v => match s.candidate v with
    | some c => (s.candPlace v c).isNone
    | none => false
  let s1 : State := match next with
    | none => s
    | some v =>
      let s0 : State := { s with turns := NMap.put s.turns 1 v, swapped := s.swapped.map fun (w : Swapped) =>
        if w.vi = v then { w with ready := true } else w }
      let others := fun (m : Team) => decide (m.vi ≠ v) && decide (1 ≤ m.slices)
      (State.sliceVictims v others 1024 s0).foldl (fun (u : State) w => u.evict 1 w.1 w.2) s0
  .next { s1 with cores := s1.cores.map fun k => (k.1, { k.2 with teams := k.2.teams.map fun t =>
    (t.1, { t.2 with slices := t.2.slices + 1 }) }) }

end Sys2Proof.Machine
end

