-- ==== Sys2Proof/Machine/Launch.lean ====
section
/-!
DEFINITION. Launches: launch records (R274, R403), LAUNCH with the pending-launch queue and its overflow (R41, R275, R279), replicated
launches and start barriers (R44, R45, R433), and launch queues with their packets (R295 to R298, R344, R345, R404, R434).
-/
namespace Sys2Proof.Machine

/-- The lowest bit of the first launch-record field outside its range (R274, R403). -/
def recordBad (b : Nat) : Option Nat :=
  let kind := fld b 384 2
  let limit := fld b 416 32
  ([(192, fld b 192 32 % 4 == 0),
    (226, decide (1 ≤ fld b 226 4) && decide (fld b 226 4 ≤ 8)),
    (230, decide (fld b 230 2 ≤ 2)),
    (256, decide (fld b 256 19 ≤ 262144)),
    (288, decide (fld b 288 11 ≤ 1024)),
    (299, decide (fld b 299 9 ≤ 256)),
    (308, decide ((fld b 308 7 + 1) * codeWidth (fld b 230 2) ≤ 4096)),
    (384, decide (kind ≤ 2)),
    (416, kind != 2 || ((List.range 21).any fun i => limit == 2 ^ (i + 4))),
    (448, kind == 0 || fld b 448 32 % 64 == 0)].find? fun x => !x.2).map (·.1)

/-! Grids from launches (R42 to R45, R458). -/

/-- The next grid number: 0 is skipped (R458). -/
def State.takeNumber (s : State) : Nat × State :=
  (s.gridCnt, { s with gridCnt := if s.gridCnt = 2 ^ 32 - 1 then 1 else s.gridCnt + 1 })

/-- The ranks of a chip mask. -/
def ranksOf (chips : Nat) : List Nat := (List.range 64).filter (bit chips)

/-- This chip's share of a grid of `t` teams: first team, and the one past the last (R45). -/
def State.share (s : State) (t chips : Nat) : Nat × Nat :=
  if chips = 0 then (0, t)
  else
    let n := (ranksOf chips).length
    let q := (t + n - 1) / n
    let p := ((ranksOf chips).filter (· < s.cfgGet Config.nFabRank 0)).length
    (min t (p * q), min t ((p + 1) * q))

/-- Teams in the grid of a record: NTEAM, and 2^32 for 0 (R274). -/
def recordTeams (b : Nat) : Nat := if fld b 128 32 = 0 then 2 ^ 32 else fld b 128 32

/-- The distributor takes a grid for placement, with its number (R299, R458). -/
def State.takeGrid (s : State) (b vi prio depth gen chips : Nat) (queue src : Option Nat) : State :=
  let (num, s1) := s.takeNumber
  let t := recordTeams b
  let sh := s.share t chips
  let g : Grid := ⟨num, b, vi, prio, depth, gen, queue, none, 0, sh.1, sh.2, t, 0, decide (chips ≠ 0), src, none⟩
  { s1 with grids := s1.grids ++ [g] }.due .teamPlacement

/-- A start barrier whose whole set has accepted is passed (R44). -/
def State.checkBarrier (s : State) (gen : Nat) : State :=
  match s.barriers.find? (·.gen == gen) with
  | some b => if (ranksOf b.chips).all (bit b.accepted) then s.due (.startBarrierPass gen) else s
  | none => s

/-- This chip's part in a replicated launch: its share, if it is of the set, held at the start barrier (R44, R45). -/
def State.joinLaunch (s : State) (b vi prio depth gen chips : Nat) (queue src core : Option Nat) : State :=
  let rank := s.cfgGet Config.nFabRank 0
  let mine := bit chips rank
  let s1 := if mine then s.takeGrid b vi prio depth gen chips queue src else s
  let x : StartBarrier := ⟨gen, chips, if mine then 2 ^ rank else 0, if mine then some s.gridCnt else none, s.clk, false, core, vi, b, prio, depth⟩
  ({ s1 with barriers := s1.barriers ++ [x] }).checkBarrier gen

/-- The generation of the next replicated launch of this chip, and its count (R275). -/
def State.nextGen (s : State) : Nat × Nat :=
  let c := if s.replCnt + 1 = 2 ^ 26 then 1 else s.replCnt + 1
  (s.cfgGet Config.nFabRank 0 * 2 ^ 26 + c, c)

/-- A grid of this chip's own launch is taken for placement, replicated or not; none while the generation's earlier start barrier has not
been passed (R275). -/
def State.beginGrid (s : State) (b vi prio depth chips : Nat) (queue src core : Option Nat) : Option State :=
  if chips = 0 then some (s.takeGrid b vi prio depth 0 0 queue src)
  else
    let (gen, c) := s.nextGen
    if s.barriers.any (·.gen == gen) then none
    else some (({ s with replCnt := c }).joinLaunch b vi prio depth gen chips queue src core)

/-! LAUNCH (R41, R274, R275). -/

/-- QCW 0 of a team slot holds an area with room for one entry more. -/
def State.launchArea (s : State) (c t : Nat) : Bool :=
  match s.team? c t with
  | some m => decide (0 < qcwDepth m.qcw0) &&
      decide ((s.core c).areaHeld (m.abBase + qcwBase m.qcw0) < qcwDepth m.qcw0)
  | none => false

/-- A launch joins the pending-launch queue, or its team's overflow area; none where it must wait (R41, R303). -/
def State.enqueueLaunch (s : State) (c : Nat) (x : Launch) : Option State :=
  let k := s.core c
  if k.launchOver = [] ∧ k.launchQ.length < 4 then
    some ((s.modCore c fun k => { k with launchQ := k.launchQ ++ [x] }).due (.launchDispatch c))
  else if s.launchArea c x.team then
    some (s.modCore c fun k => match NMap.find k.teams x.team with
      | some m => { k.areaPut (m.abBase + qcwBase m.qcw0) (qcwDepth m.qcw0) (leBytes x.bits 64) with
          launchOver := k.launchOver ++ [x] }
      | none => k)
  else none

/-- The launch that operation `o` of core `c` keeps until there is room for it. -/
def Op.launch? (o : Op) (c : Nat) : Option Launch :=
  match o.kind with
  | .launch x => if o.core = c then some x else none
  | _ => none

/-- A new launch of a core; behind one that waits for room it waits too, since they are dispatched in the order of issue (R41). -/
def State.placeLaunch (s : State) (c : Nat) (x : Launch) : Option State :=
  if s.ops.any fun o => (o.launch? c).isSome then none else s.enqueueLaunch c x

/-- The launches of a core that wait for room find it, the oldest first, and their lanes go on (R41). -/
def State.placeWaiting (s : State) (c : Nat) : State :=
  (s.ops.foldl (fun (r : State × Bool) o => match o.launch? c with
    | none => r
    | some x =>
      if r.2 then r
      else match r.1.enqueueLaunch c x with
        | some t => (((t.modGroup o.core o.agent (·.wake o.id)).endOp o.id), false)
        | none => (r.1, true)) (s, false)).1

/-- The launches of several lanes in ascending order: lane, record, chip mask; a lane whose copy finds no room waits with it. -/
def State.placeLaunches (s : State) (u : Bool) : List (Nat × Nat × Nat) → State × List (Nat × LaneEnd)
  | [] => (s, [])
  | (l, b, chips) :: rest =>
    let ls := if u then s.issue.lanes else [l]
    let vi := if s.isCt then s.cfgGet Config.nCfgVi s.issue.core else s.myVi
    let prio := match s.myTeam? with | some m => m.prio | none => 0
    let x : Launch := ⟨b, vi, prio, s.myDepth, chips, 0, if s.isCt then 256 else s.me.team⟩
    match s.placeLaunch s.issue.core x with
    | some t =>
      let (t1, es) := t.placeLaunches u rest
      (t1, ls.map (·, LaneEnd.go) ++ es)
    | none =>
      let (t1, es) := (s.addOp ls (.launch x) none none).placeLaunches u rest
      (t1, ls.map (·, LaneEnd.wait (.op s.opSeq .launchQueue)) ++ es)

/-- The pending-launch queue takes no launch of the issuer now: the word does not issue (R41, R306). -/
def State.launchFull (s : State) : Bool :=
  (s.placeLaunch s.issue.core ⟨0, 0, 0, 0, 0, 0, if s.isCt then 256 else s.me.team⟩).isNone

/-- The records of a LAUNCH lie where an access not performed yet holds bytes (R97). -/
def State.recordsHeld (s : State) (offs : List (Nat × Nat)) : Bool :=
  s.claims != [] && offs.any fun o => match s.myAb o.2 64 with
    | some p => s.claimed (s.meLane o.1) (abSpace p.1) p.2 64
    | none => false

/-- LAUNCH: the lanes' records are read and checked whole, then placed; a full queue holds the word before it issues. DESIGN
CHOICE: a control thread's launch belongs to the interface that its CFG_VI names, at priority 0 (log 23). -/
def execLaunch (u : Bool) (d a n : Nat) (repl : Bool) (s : State) : Out :=
  issueWhole u (a :: if repl then [d, d + 1] else []) [] s fun t =>
    let offs := (t.addrLanes u).map fun l => (l, (t.me.reg l a).toNat + 64 * n)
    let mask := fun (l : Nat) => if repl then (t.me.pair l d).toNat else 0
    if repl && offs.any (fun o => mask o.1 == 0) then .next (t.reserved 2 16 0)
    else match t.misaligned 12 6 offs with
    | some f => .next (t.raiseAcc f)
    | none => match t.localFault 12 64 offs with
      | some f => .next (t.raiseAcc f)
      | none =>
      if t.recordsHeld offs then .next (t.hold t.issue.lanes .line)
      else match t.localPoison 12 64 offs with
        | some f => .next (((t.count Config.nErrPoison 0 1).machineCheck 0x03 5 t.issue.core t.actor.vi? 0 0).raiseAcc f)
        | none =>
          let recs := offs.map fun o => (o.1, o.2, match t.myAb o.2 64 with
            | some p => t.abNat p.1 p.2 64
            | none => 0)
          match recs.findSome? fun x => (recordBad x.2.2).map (·, x.2.1) with
          | some (b, off) => .next (t.reserved 6 b off)
          | none =>
            if t.launchFull then .next (t.holdBefore .launchQueue)
            else
              let (t1, es) := t.placeLaunches u (recs.map fun x => (x.1, x.2.2, mask x.1))
              let t2 := match t1.setA with
                | some f => t1.addOpDue t.issue.lanes .read (some f) none .registerWriteback
                | none => t1
              .next (t2.settle es)

/-- A team's queue control words that wait for an empty area take effect (R280). -/
def State.settleQcws (s : State) (c t : Nat) : State :=
  s.modCore c fun k => match NMap.find k.teams t with
    | none => k
    | some m =>
      let empty := fun (q : Double) => qcwDepth q == 0 || k.areaHeld (m.abBase + qcwBase q) == 0
      let m1 := match m.qcw0Next with
        | some q => if empty m.qcw0 then { m with qcw0 := q, qcw0Next := none } else m
        | none => m
      let m2 := match m1.qcw1Next with
        | some q => if empty m1.qcw1 then { m1 with qcw1 := q, qcw1Next := none } else m1
        | none => m1
      { k with teams := NMap.put k.teams t m2 }

/-- LAUNCH_DISPATCH: the oldest pending launch of a core becomes a grid; room frees behind it (R41, R42). -/
def execLaunchDispatch (core : Nat) (s : State) : Out :=
  match (s.core core).launchQ with
  | [] => .next s
  | x :: rest =>
    match s.beginGrid x.bits x.vi x.prio x.depth x.chips none (some core) (some core) with
    | none => .next s
    | some s1 =>
      let s2 := (s1.modCore core fun k => { k with launchQ := rest }).release (· == .launchQueue)
      let s3 := match (s2.core core).launchOver with
        | y :: _ => s2.due (.overflowEntryReturn core y.team 0)
        | [] => s2.placeWaiting core
      .next (if rest = [] then s3 else s3.due (.launchDispatch core))

/-- OVERFLOW_ENTRY_RETURN: the oldest entry of an AB overflow area moves back into its queue: 0 launches, 1 tile copies, 2 event records
(R41, R53, R270, R279, R303). -/
def execOverflowEntryReturn (core team queue : Nat) (s : State) : Out :=
  match queue with
  | 0 =>
    match (s.core core).launchOver with
    | [] => .next (s.placeWaiting core)
    | x :: rest =>
      if 4 ≤ (s.core core).launchQ.length then .next (s.placeWaiting core)
      else
        let s1 := s.modCore core fun k =>
          let k1 := match NMap.find k.teams x.team with
            | some m => (k.areaTake (m.abBase + qcwBase m.qcw0) (qcwDepth m.qcw0)).2
            | none => k
          { k1 with launchOver := rest, launchQ := k1.launchQ ++ [x] }
        let s2 := ((s1.settleQcws core x.team).due (.launchDispatch core)).placeWaiting core
        .next (if ((s2.team? core x.team).map (·.ending)).getD false then s2.endTeam core x.team else s2)
  | 1 =>
    let s0 := s.release (· == .copyQueue)
    match s0.ops.find? (fun o => o.core == core && (match o.kind with
        | .copy r => r.placed && !r.pooled && r.slot == some team
        | _ => false)) with
    | none => .next (s0.placeCopies core)
    | some o =>
      if s0.poolTakes core 2 team (s0.tcqCount core team) (s0.poolMin Config.nTcqMin core) (s0.cfgGet Config.nTcqCap core) then
        let s1 := s0.modCore core fun k => match NMap.find k.teams team with
          | some m => (k.areaTake (m.abBase + qcwBase m.qcw1) (qcwDepth m.qcw1)).2
          | none => k
        let s2 := match o.kind with
          | .copy r => (s1.setRun o.id { r with pooled := true }).due (.tileCopyBatchDelivery o.id)
          | _ => s1
        let s3 := (s2.settleQcws core team).placeCopies core
        .next (if ((s3.team? core team).map (·.ending)).getD false then s3.endTeam core team else s3)
      else .next (s0.placeCopies core)
  | _ => .next ((s.refillEvents core).serveEvpop core)

/-! Replicated launches (R44, R433). -/

/-- LAUNCH_REPLICA_ARRIVAL: rank `rank` has accepted its copy, or a copy that another chip launched arrives here and is accepted (R44).
DEDUCED: with no port enabled nothing arrives (log 134). -/
def execLaunchReplicaArrival (gen rank : Nat) (accepted : Bool) (bits vi prio depth chips : Nat) (s : State) : Out :=
  if s.cfgGet Config.nFabEn 0 = 0 then .next s
  else if accepted then
    .next (({ s with barriers := s.barriers.map fun b =>
      if b.gen = gen then { b with accepted := b.accepted ||| 2 ^ (rank % 64) } else b } : State).checkBarrier gen)
  else if s.aborted.contains gen then .next { s with aborted := s.aborted.filter (· ≠ gen) }
  else if s.barriers.any (·.gen == gen) then .next s
  else .next (s.joinLaunch bits vi prio depth gen chips none none none)

/-- START_BARRIER_PASS: every chip of the set has accepted; the grid's teams may start (R44, R45). -/
def execStartBarrierPass (gen : Nat) (s : State) : Out :=
  match s.barriers.find? (·.gen == gen) with
  | none => .next s
  | some b =>
    if (ranksOf b.chips).all (bit b.accepted) then
      let s1 : State := { s with barriers := s.barriers.filter (·.gen != gen) }
      let s2 := match b.grid with
        | some n => s1.modGrid n fun g => { g with held := false }
        | none => s1
      let s3 := s2.cores.foldl (fun t k => if k.2.launchQ = [] then t else t.due (.launchDispatch k.1)) s2
      .next ((s3.due .packetDispatch).due .teamPlacement)
    else .next s

/-- REPLICATION_TIMEOUT: REMOTE_TO cycles after the launch its start barrier has not been passed (R433, R435). -/
def execReplicationTimeout (gen : Nat) (s : State) : Out :=
  match s.barriers.find? (·.gen == gen) with
  | none => .next s
  | some b =>
    if b.posted ∨ gen / 2 ^ 26 ≠ s.cfgGet Config.nFabRank 0 ∨ s.clk < b.clk + s.cfgGet Config.nRemoteTo 0 then .next s
    else
      let s1 : State := { s with barriers := s.barriers.map fun x => if x.gen = gen then { x with posted := true } else x }
      let rank := ((ranksOf b.chips).find? fun r => !bit b.accepted r).getD 0
      .next (s1.postEvent (b.core.getD (s1.physCore b.vi 0)) 0x13 b.vi none [rank, 2, 2, 0, gen])

/-- REPL_ABORT written with a generation (R433). -/
def State.replAbort (s : State) (gen : Nat) : State :=
  let s0 := s.cfgPut Config.nReplAbort 0 (gen % 4294967296)
  match s0.barriers.find? (·.gen == gen) with
  | none => if gen / 2 ^ 26 = s.cfgGet Config.nFabRank 0 then s0 else { s0 with aborted := s0.aborted ++ [gen] }
  | some b => ({ s0 with barriers := s0.barriers.filter (·.gen != gen),
                         grids := s0.grids.filter fun g => some g.num != b.grid } : State).due .packetDispatch

/-- REPL_ABORT_WRITE (R433). -/
def execReplAbortWrite (gen : Nat) (s : State) : Out := .next (s.replAbort gen)

/-! Launch queues (R295 to R298, R344, R345). -/

/-- The registers of launch queue `q`, counted 16 × interface + queue; QLOG resets to 4 (Table Sy-1). -/
def State.queue (s : State) (q : Nat) : LaunchQueue := (NMap.find s.lq q).getD ⟨0, 0, 4, 0, 0, none, [], [], []⟩

/-- Launch queue `q` changed. -/
def State.modQueue (s : State) (q : Nat) (f : LaunchQueue → LaunchQueue) : State := { s with lq := NMap.put s.lq q (f (s.queue q)) }

/-- Packets appended and not read. -/
def LaunchQueue.ahead (x : LaunchQueue) : Nat := (x.tail + 4294967296 - x.head) % 4294967296

/-- Every wait of the head packet is met (R297). -/
def LaunchQueue.met (x : LaunchQueue) : Bool := x.waits == [] && x.todo == [] && x.polls == []

/-- LAUNCH_REJECTED for the packet of a ring index (R404, R434). -/
def State.launchRejectedAt (s : State) (q index code info : Nat) : State := s.postHome 0x16 (q / 16) [q % 16, index, code, info]

/-- The same for the packet at HEAD. -/
def State.launchRejected (s : State) (q code info : Nat) : State := s.launchRejectedAt q (s.queue q).head code info

/-- A general-purpose core's access that a doorbell follows is not performed yet: it waits, an earlier doorbell too, or it is on its way to another
chip (R345). -/
def State.gpBusy (s : State) : Bool :=
  (s.gpHeld ++ s.retryNext).any fromGp || s.ops.any fun o => match o.kind with
    | .remote r => r.form == .outside || r.form == .posted
    | _ => false

/-- The doorbell: a tail that moves backward, or runs more than the ring ahead, is ignored and reported (R345, R434). -/
def State.tailWrite (s : State) (queue value : Nat) : State :=
  let x := s.queue queue
  let v := value % 4294967296
  let ahead := (v + 4294967296 - x.head) % 4294967296
  if 2 ^ x.qlog < ahead ∨ ahead < x.ahead then s.launchRejected queue 0xFF v
  else (s.modQueue queue ({ · with tail := v })).due (.launchPacketRead queue)

/-- LAUNCH_QUEUE_TAIL_WRITE, acted on behind the accesses that its core made before it (R345, R434). -/
def execLaunchQueueTailWrite (queue value : Nat) (s : State) : Out :=
  .next (if s.gpBusy then { s with retryNext := s.retryNext ++ [.launchQueueTailWrite queue value] } else s.tailWrite queue value)

/-- The lowest bit of the first header field of an enabled wait outside its range (R404). -/
def headerBad (h : Nat) : Option Nat :=
  let on := (List.range 4).filter fun n => bit h (400 + n)
  (((on.filter fun n => fld h (96 * n + 32) 32 % 4 != 0).map fun n => 96 * n + 32) ++
    ((on.filter fun n => decide (5 < fld h (384 + 4 * n) 4)).map fun n => 384 + 4 * n)).min?

/-- What arming the waits of a packet comes to: one must wait, for a page or for an access before it; a check fails; or all are compared (R297,
R404). -/
inductive Armed where
  | held (page : Bool)
  | fails (check : Nat)
  | done
  deriving DecidableEq, Repr

/-- A condition of queue `q`'s packet not met: a monitor is armed, or it is compared again where the table is full (R105, R106). -/
def State.armWait (s : State) (q : Nat) (c : Cond) : State :=
  if s.armedAt c.slice < 512 then s.modQueue q fun y => { y with waits := y.waits ++ [c] }
  else s.modQueue q fun y => { y with polls := y.polls ++ [c] }

/-- The waits of queue `q`'s packet with header `h` that are still to be compared, one after the other; one that is met stays met (R297).
A wait behind a remote window is compared and armed by its chip (R213). -/
def State.armWaits (s : State) (a : Actor) (q h : Nat) : List Nat → State × Armed
  | [] => (s, .done)
  | n :: ns =>
    let wh := fld h (96 * n + 64) 32
    let off := fld h (96 * n + 32) 32
    let rel := fld h (384 + 4 * n) 4
    let val := fld h (96 * n) 32
    let pass := fun (t : State) => t.modQueue q fun y => { y with todo := ns }
    let arm := fun (t : State) (r : Ref) (pa : Nat) => (pass t).armWait q ⟨pa, t.homeSlice r off, 1, rel, [(0, val)], wh, off⟩
    match s.resolve a wh off 4 [.read] none with
    | .error c => (s, .fails c)
    | .ok r =>
      match r.remote with
      | some rank =>
        let t := (pass s).modQueue q fun y => { y with waits := y.waits ++ [⟨n, 0, 1, rel, [], wh, off⟩] }
        (t.sendOutside a rank wh off (.wait q n) (.waitc 1 rel val)).armWaits a q h ns
      | none =>
        match s.readAt a (noLane 128) r 4 0 with
        | (t, .held w) => (t, .held (w == .page))
        | (t, .value v) =>
          if intRel rel (typedInt 1 v) (typedInt 1 val) then (pass t).armWaits a q h ns
          else match t.lookup r.space r.va with
            | some pa => (arm t r pa).armWaits a q h ns
            | none => (t, .held false)
        | (t, .poison _ pa0) => match t.lookup r.space r.va with
            | some pa => (arm (t.poisonUse (some a.vi) 2 pa0) r pa).armWaits a q h ns
            | none => (t, .held false)

/-- The waits of queue `q`'s head packet `p` are compared and armed; a packet whose wait fails a check is dropped (R297, R404). -/
def State.armPacket (s : State) (q p : Nat) : State :=
  let vi := q / 16
  match s.armWaits ⟨s.physCore vi 0, false, vi, 0⟩ q (p / 2 ^ 512) (s.queue q).todo with
  | (t, .held page) => if page then { t with gpHeld := t.gpHeld ++ [.launchPacketRead q] } else { t with retryNext := t.retryNext ++ [.launchPacketRead q] }
  | (t, .fails c) =>
    ((t.modQueue q fun y => { y with packet := none, waits := [], todo := [], polls := [] }).launchRejectedAt q
      (((t.queue q).head + 4294967295) % 4294967296) (checkCode c) (c * 256)).due (.launchPacketRead q)
  | (t, .done) => if (t.queue q).met then t.due .packetDispatch else t

/-- The conditions of queue `q`'s packet that no monitor watches are compared again, at every 4,096th cycle of the clock (R106; the phase
is DEDUCED, log 126). -/
def State.recompareQueue (s : State) (q : Nat) : State :=
  let t := (s.queue q).polls.foldl (fun t c =>
    if t.claimed (noLane 128) physSpace c.pa c.bytes then t
    else match t.applyFor [(c.pa, c.bytes)] with
      | .error _ => t
      | .ok u =>
        let v := u.modQueue q fun y => { y with polls := y.polls.filter (· != c) }
        if u.condHolds c then v else if u.armedAt c.slice < 512 then v.armWait q c else u) s
  if (t.queue q).met && (t.queue q).packet.isSome then t.due (.launchWaitMet q) else t

/-- LAUNCH_PACKET_READ: the part reads the packet at HEAD once, which HEAD passes, checks it and arms its waits (R295, R297, R345,
R404). -/
def execLaunchPacketRead (queue : Nat) (s : State) : Out :=
  let x := s.queue queue
  match x.packet with
  | some p => if x.todo = [] then finish (s.recompareQueue queue) else finish (s.armPacket queue p)
  | none =>
    if x.ahead = 0 then .next s
    else
      let p := s.physNat (x.qbase * 4096 + 128 * (x.head % 2 ^ x.qlog)) 128
      let h := p / 2 ^ 512
      let pass := fun (t : State) => t.modQueue queue fun y => { y with head := (y.head + 1) % 4294967296 }
      let reject := fun (info : Nat) => .next ((pass (s.launchRejected queue 0x03 info)).due (.launchPacketRead queue))
      match recordBad (p % 2 ^ 512), headerBad h with
      | some b, _ => reject (6 + b * 65536)
      | none, some b => reject (6 + b * 65536 + 2 ^ 25)
      | none, none =>
        let waits := (List.range 4).filter fun n => bit h (400 + n)
        finish (((pass s).modQueue queue fun y => { y with packet := some p, waits := [], todo := waits, polls := [] }).armPacket queue p)

/-- LAUNCH_WAIT_MET: the head packet's last wait is met (R297). -/
def execLaunchWaitMet (queue : Nat) (s : State) : Out :=
  .next (if (s.queue queue).met ∧ (s.queue queue).packet.isSome then s.due .packetDispatch else s)

/-- A wait that another chip has compared is met, or refused: its packet makes no grid (R297, R404, R431). -/
def State.waitReply (s : State) (q n code : Nat) : State :=
  if code = 0 then
    let t := s.modQueue q fun y => { y with waits := y.waits.filter fun c => !(c.args == [] && c.pa == n) }
    t.due (.launchWaitMet q)
  else ((s.modQueue q fun y => { y with packet := none, waits := [], todo := [], polls := [] }).launchRejectedAt q
    (((s.queue q).head + 4294967295) % 4294967296) (checkCode code) (code * 256)).due (.launchPacketRead q)

/-- Head packets that are ready: queue number and priority. -/
def State.readyQueues (s : State) (vi : Nat) : List (Nat × Nat) :=
  (s.lq.filter fun q => q.1 / 16 == vi && q.2.packet.isSome && q.2.met).map fun q => (q.1 % 16, q.2.prio)

/-- The queue of an interface that dispatches next: the highest priority, and of equal ones the next in turn (R298). -/
def State.nextQueue (s : State) (vi : Nat) : Option (Nat × Nat) :=
  let rs := s.readyQueues vi
  match (rs.map (·.2)).max? with
  | none => none
  | some p =>
    let last := (NMap.find s.turns (100 + 8 * vi + p)).getD 15
    (((List.range 16).map fun i => (last + 1 + i) % 16).find? fun q => rs.contains (q, p)).map (·, p)

/-- PACKET_DISPATCH: one ready head packet of each interface in turn becomes a grid; its queue's next packet is read before another dispatch
(R298, R345, R458). -/
def execPacketDispatch (s : State) : Out :=
  match (List.range 64).findSome? fun v => (s.nextQueue v).map (v, ·) with
  | none => .next s
  | some (v, q, p) =>
    let x := s.queue (16 * v + q)
    let b := x.packet.getD 0
    match s.beginGrid (b % 2 ^ 512) v x.prio 0 (fld b 960 64) (some q) none none with
    | none => .next s
    | some s1 =>
      let s2 := s1.modQueue (16 * v + q) fun y => { y with packet := none }
      .next { s2 with
        turns := NMap.put s2.turns (100 + 8 * v + p) q
        agenda := s2.agenda.filter (· ≠ .packetDispatch) ++ [.launchPacketRead (16 * v + q), .packetDispatch] }

end Sys2Proof.Machine
end

