-- ==== Sys2Proof/Machine/Replies.lean ====
section
/-!
DEFINITION. What comes back to the cores: writebacks, replies and acknowledgements (R30, R145, R387, R431, R457), remote timeouts
(R432), and futures (R268, R271).
-/
namespace Sys2Proof.Machine

/-- REGISTER_WRITEBACK: a fixed-latency operation, or the read of a block or record, reaches its end (R145, R305). -/
def execRegisterWriteback (id : Nat) (s : State) : Out :=
  match s.op? id with
  | none => .next s
  | some o => match o.kind with
    | .writeback | .read => .next (s.finishOp id)
    | _ => .next s

/-- REMOTE_TIMEOUT's record (R431, R432, R435): cause, 0 returning or 1 not, and the trap code of a refusal. -/
def State.postRemote (s : State) (core vi rank cause kind h off code : Nat) : State :=
  s.postEvent core 0x13 vi none [rank, cause, kind, h, off, code]

/-- The sync packet of a group that starts while it is traced (R453). -/
def State.traceStart (s : State) (c n : Nat) (m : Team) (g : Group) : State :=
  if s.cfgGet Config.nTrcCtl c ≠ 256 * m.vi + 1 then s
  else
    s.traceWrite c m.vi 0 (g.syncPacket n m.vi)

/-- All pops of a group's start or refill have come back from another chip: each lane with an item becomes a new thread, the others stay
vacant, and the lanes go on together (R35, R36). -/
def State.popsDone (s : State) (c n : Nat) (g : Group) (m : Team) : State :=
  let xs := (List.range g.lanes.length).filterMap fun l => match (g.lane l).saved, (g.lane l).wait with
    | d :: _, .retry .remote => some (l, d)
    | _, _ => none
  let came := (xs.filter (·.2 != 0)).map (·.1)
  let none_ := (xs.filter (·.2 == 0)).map (·.1)
  let h := (xs.filter (·.2 != 0)).foldl (fun h x => h.newThread m x.1 (g.lane x.1).pc (BitVec.ofNat 32 (x.2 - 1)))
    (g.modLanes none_ ({ · with saved := [], wait := .none }))
  let h1 : Group := { h.release (· == .remote) with fresh := false, noRefill := !g.fresh }
  let s1 := s.modGroup c (.grp n) fun _ => h1
  if g.fresh then (s1.traceStart c n m h1).vacate c n none_
  else if came = [] then s1 else s1.trace c m.vi ([5, n, 0] ++ maskBytes g.width came)

/-- The pop is one of a group's. -/
def Op.pops (o : Op) (c : Nat) (a : Agent) : Bool :=
  decide (o.core = c ∧ o.agent = a) && (match o.kind with | .remote r => r.form == .pop | _ => false)

/-- What another chip's queue gives a lane: an item plus 1, or 0. Once all have come the lanes go on; a refused pop faults on the first word of
the clause, which has not issued (R35, R36, R405, R431). -/
def State.popReply (s : State) (o : Op) (code data : Nat) : State :=
  match o.agent, s.group? o.core o.agent with
  | .grp n, some g =>
    let mine := fun (x : Op) => x.pops o.core o.agent
    if code ≠ 0 then
      let ls := (s.ops.filter mine).flatMap (·.lanes)
      let s1 := ({ s with ops := s.ops.filter (!mine ·) } : State).modGroup o.core o.agent fun x =>
        (x.modLanes ls ({ · with saved := [], wait := .none })).modLanes ((List.range x.lanes.length).filter fun l =>
          (x.lane l).wait == .retry .remote) ({ · with saved := [], wait := .none })
      match o.fault with
      | some e => s1.takeFault o.core { e with code := checkCode code, info := o.lanes.headD 0 + code * 256 }
      | none => s1
    else
      let s1 := (s.endOp o.id).modGroup o.core o.agent (·.modLanes o.lanes ({ · with saved := [data], wait := .retry .remote }))
      if s1.ops.any mine then s1
      else match s1.group? o.core o.agent, s1.team? o.core g.team with
        | some h, some m => s1.popsDone o.core n h m
        | _, _ => s1
  | _, _ => s.endOp o.id

/-- What another chip says of an item pushed into a ring there: refused, which suspends the watch; no room; or the position it took
(R82). -/
def State.pushReply (s : State) (id slice off code data : Nat) : State :=
  match s.watch? id with
  | none => s
  | some w =>
    if code ≠ 0 then s.suspend none w 3 slice
    else if data = 0 then { s with retryNext := s.retryNext ++ [.triggerDispatch slice] }
    else match s.trigs.find? fun t => t.watch == id && t.slice == slice && t.off == off && t.seq.isNone with
      | none => s
      | some t => ((s.dispatched w t).kickAll : State)

/-- A part of an image has reached its home chip: the control thread's word waits for the parts still on their way (R292). -/
def State.ackCame (s : State) (o : Op) : State :=
  match s.ops.find? fun p => decide (p.id ≠ o.id ∧ p.core = o.core ∧ p.agent = o.agent) && (match p.kind with
      | .remote r => r.form == .ack
      | _ => false) with
  | none => s.finishOp o.id
  | some p => (s.endOp o.id).modGroup o.core o.agent fun g =>
      { g with lanes := g.lanes.map fun x => match x.wait with
          | .op id w => if id = o.id then { x with wait := .op p.id w } else x
          | _ => x }

/-- The entry of a remote access whose home chip has refused it, by its check, or has met poison as 6 (R387, R421, R431). -/
def Entry.refusedAs (e : Entry) (code : Nat) : Entry :=
  if code = 6 then { e with code := 0x20, foff := e.foff / 32 * 32 } else { e with code := checkCode code, info := e.info + code * 256 }

/-- The accesses of the other lanes of a remote access's instruction. -/
def State.siblings (s : State) (o : Op) (r : Remote) : List Op :=
  s.ops.filter fun p => decide (p.id ≠ o.id ∧ p.core = o.core ∧ p.agent = o.agent) && (match p.kind with
    | .remote q => q.first == r.first
    | _ => false)

/-- What an operation's reply was, with its form. -/
def Op.reply? (o : Op) : Option (ReplyForm × Nat × Nat) :=
  match o.kind with
  | .remote r => r.got.map (r.form, ·)
  | _ => none

/-- One lane's reply of an instruction that several chips' accesses make has come: with the last one all lanes receive their registers, or, where one
was refused or met poison, the instruction faults in all of them (R387). -/
def State.partCame (s : State) (o : Op) (r : Remote) (code data : Nat) : State :=
  let s1 := s.modOp o.id fun p => { p with kind := .remote { r with got := some (code, data) } }
  let all := { o with kind := .remote { r with got := some (code, data) } } :: s.siblings o r
  if all.any (·.reply?.isNone) then s1
  else
    let with_ := fun (p : Nat → Bool) => (all.filter fun x => (x.reply?.map fun y => p y.2.1).getD false)
    let first := fun (xs : List Op) => xs.foldl (fun (b : Option Op) x => match b with
      | none => some x
      | some y => if x.lanes.headD 0 < y.lanes.headD 0 then some x else some y) none
    match (first (with_ fun k => k != 0 && k != 6)).or (first (with_ (· == 6))) with
    | none => all.foldl (fun t x => match x.reply? with
        | some (form, _, v) => (t.modGroup x.core x.agent (form.give v x.lanes)).finishOp x.id
        | none => t) s1
    | some x =>
      let s2 := all.foldl (fun t y => t.endOp y.id) s1
      match x.fault, x.reply? with
      | some e, some (_, k, _) => s2.lateFault x { e.refusedAs k with lanes := (all.flatMap (·.lanes)).foldr addTo [] }
      | _, _ => s2

/-- ACCESS_REPLY: a reply's lanes go on, or its fault is raised. A remote access's data, or the check that its home chip refused, come with
it: `code` is 0 for none, 1 to 5 the check, 6 poison. Poison of an MMA's B operand or of a copy's source comes with the data, and above them a bit for
each poisoned word or byte (R30, R387, R421, R431). -/
def execAccessReply (id code data : Nat) (s : State) : Out :=
  match s.op? id with
  | none => .next s
  | some o =>
    let late := fun (t : State) (e : Entry) => t.lateFault o (e.refusedAs code)
    match o.kind, o.fault with
    | .reply, some e => .next ((s.endOp id).lateFault o e)
    | .reply, none => .next (s.finishOp id)
    | .remote r, f =>
      if r.form.silent then .next s
      else if let .wait q n := r.form then .next ((s.endOp id).waitReply q n code)
      else if let .push w k off := r.form then .next ((s.endOp id).pushReply w k off code data)
      else if let .wake g t := r.form then
        .next { s.endOp id with swapped := s.swapped.map fun (w : Swapped) => if w.grid = g ∧ w.team = t then { w with ready := true } else w }
      else if r.form = .outside then .next { s.endOp id with gpValue := data, gpFault := code != 0 }
      else if r.form = .pop then .next (s.popReply o code data)
      else if r.form = .ack ∧ code = 0 then .next (s.ackCame o)
      else if r.form = .ret then
        .next ((s.modGroup o.core o.agent (r.form.give (if code = 0 then data % 2 ^ 32 else 2 ^ 32 + code) o.lanes)).finishOp id)
      else if let .code off := r.form then
        .next ((s.endOp id).modGroup o.core o.agent fun g =>
          ({ g with code := g.code ++ [(off, if code = 0 ∨ code = 6 then data % 2 ^ 32 else 2 ^ 32 + code)] } : Group).release (· == .page))
      else match f with
      | some e =>
        if s.siblings o r ≠ [] then .next (s.partCame o r code data)
        else if code = 0 then
          .next ((s.modGroup o.core o.agent (r.form.give data o.lanes)).finishOp id)
        else .next (late (s.endOp id) e)
      | none => .next (s.finishOp id)
    | .mma j, f =>
      if j.bref.remote.isNone then .next s
      else
        let n := 8 * recN j.rcd
        if code = 0 ∨ code = 6 then
          .next (s.mxFinish o j ((List.range n).map fun i => data / 2 ^ (32 * i) % 2 ^ 32,
            if code = 6 then (List.range n).filter fun i => bit data (32 * n + i) else []))
        else
          let s1 := s.dropMma fun p => p.id == id
          match f with
          | some e => .next (late s1 e)
          | none => .next s1
    | .copy r, _ =>
      match r.job with
      | some j =>
        if j.farSrc then
          if r.wait ≠ some .remote ∨ r.far.isSome then .next s
          else if code = 0 ∨ code = 6 then
            let n := blkRows j.block * blkRowb j.block
            let bs := (leBytes data n).zipIdx.map fun b => (b.1, code == 6 && bit data (8 * n + b.2))
            let r1 : CopyRun := { r with far := some bs, wait := some .line }
            finish ((s.setRun id r1).retryCopy o r1 j bs)
          else
            let rank := (j.rows.findSome? fun x => match x.src with | some (.glob g) => g.remote | _ => none).getD 0
            let r1 : CopyRun := { r with job := none, batches := [], word := completionWord 2 0 }
            .next (((((s.unclaimOp id).setRun id r1).postRemote o.core j.vi rank 1 0 j.srcH (blkSoff j.block) (checkCode code)).due
              (.tileCopyBatchDelivery id)).release (· == .line))
        else .next s
      | none => .next s
    | _, _ => .next s

/-- Another chip has acknowledged a row of copy `id`, or refused it (R268, R431). -/
def State.rowAcked (s : State) (id : Nat) (refused : Bool) : State :=
  let s1 := if refused then s.modOp id fun o => match o.kind with
      | .copy r => { o with kind := .copy { r with word := failedWord r.word } }
      | _ => o
    else s
  if s1.rowsOut id then s1 else s1.due (.tileCopyBatchDelivery id)

/-- STORE_ACK: a store, pair or non-returning atomic is placed and acknowledged, or refused by its home chip; fences complete (R111,
R406, R431, R457). -/
def execStoreAck (id code : Nat) (s : State) : Out :=
  match s.op? id with
  | none => .next s
  | some o =>
    match o.kind with
    | .store => .next (s.endOp id).settleFences
    | .remote r =>
      if r.form.silent then
        let s1 := match code, o.fault with
          | 0, _ => s
          | _, some e => if e.code = 0 ∧ o.lanes = [] ∧ e.pc ≠ 0 ∧ e.iword = 0 then s.joinFailed e.vi e.pc e.fh e.foff code
            else s.postRemote o.core e.vi r.rank 1 1 r.handle r.off (checkCode code)
          | _, none => s.postRemote o.core 0 r.rank 1 1 r.handle r.off (checkCode code)
        let s2 := (s1.endOp id).modGroup o.core o.agent (·.release (· == .flush))
        .next (match r.form with
          | .row k => s2.rowAcked k (code != 0)
          | _ => s2).settleFences
      else .next s
    | .uflush => .next s.settleFences
    | .uapply _ => .next s.settleFences
    | _ => .next s

/-- The rank, handle and offset that an outstanding operation waits for on another chip, and whether it returns something. -/
def Op.far (o : Op) : Option (Nat × Nat × Nat × Nat) :=
  match o.kind with
  | .remote r => match r.form with
    | .wake _ _ => none
    | f => some (r.rank, r.handle, r.off, f.silent.toNat)
  | .mma j => j.bref.remote.map (·, (o.fault.map (·.fh)).getD 0, j.bref.off, 0)
  | .copy r => match r.job with
    | some j => (j.rows.findSome? fun x => match x.src with | some (.glob g) => g.remote | _ => none).map (·, j.srcH, blkSoff j.block, 0)
    | none => none
  | _ => none

/-- REMOTE_TIMEOUT: a remote access without reply or acknowledgement for REMOTE_TO cycles is reported once, and stays outstanding (R432,
R435, R436). -/
def execRemoteTimeout (id : Nat) (s : State) : Out :=
  match s.op? id with
  | none => .next s
  | some o =>
    match o.far with
    | none => .next s
    | some (rank, h, off, kind) =>
      if o.timedOut ∨ s.clk < o.clk + s.cfgGet Config.nRemoteTo 0 then .next s
      else
        let late := fun (t : State) (k : Nat) => t.modOp k ({ · with timedOut := true })
        let s0 := match o.kind with
          | .remote r => (match r.form with | .row k => late (late s id) k | _ => late s id)
          | _ => late s id
        let s1 := s0.postRemote o.core (o.vi?.getD 0) rank 0 kind h off 0
        .next ((s1.machineCheck 0x0A 3 (s.route rank) o.vi? 0 rank).due (.gstopDrainComplete o.core))

/-- FUTURE_WRITTEN: the registers still pending on a copy receive its completion word, its queue entry frees, and a group that waited for
it to end ends (R53, R270, R271). -/
def execFutureWritten (id : Nat) (s : State) : Out :=
  match s.op? id with
  | none => .next s
  | some o =>
    match o.kind with
    | .future w =>
      let s1 := s.modGroup o.core o.agent fun g =>
        let mine := g.pend.filter (·.id == id)
        let h := mine.foldl (fun h p => h.setReg p.lane p.reg (BitVec.ofNat 32 w)) g
        { h with pend := h.pend.filter (·.id != id) }.releaseFuture
      let t := match s.group? o.core o.agent with | some g => g.team | none => 0
      let s2 := ((s1.endOp id).placeCopies o.core).modCore o.core fun k => k.release fun w => w == .copyQueue || w == .line || w == .rrel
      let s3 := match o.agent with
        | .grp n => s2.endGroup o.core n
        | .ct => s2
      .next ((s3.settleFences).due (.overflowEntryReturn o.core t 1))
    | _ => .next s

end Sys2Proof.Machine
end

