-- ==== Sys2Proof/Machine/Stream.lean ====
section
/-!
DEFINITION. Streams (R276 to R278), the event queue (R281) and queue control words (R279, R280, R413).
-/
namespace Sys2Proof.Machine

/-! Streams. -/

/-- Each active lane with rank(l), the number of active lanes below it; with U = 1 the lowest lane's serves all (R277, R278). -/
def State.ranks (s : State) (u : Bool) : List (Nat × Nat) :=
  s.issue.lanes.zipIdx.map fun x => (x.1, if u then 0 else x.2)

/-- The lowest bit of the first stream-descriptor field outside its range. DEDUCED: a slot number above 11 names no slot (log 24). -/
def streamBad (d : Nat) : Option Nat :=
  ([(0, decide (fld d 0 4 ≤ 11)), (4, decide (fld d 4 4 ≤ 11)), (8, decide (fld d 8 4 ≤ 11)),
    (12, fld d 12 2 == 1 || fld d 12 2 == 2)].find? fun x => !x.2).map (·.1)

/-- The stream that a descriptor opens, but for POS and END (R276). -/
def State.streamOf (s : State) (d : Nat) : Stream :=
  ⟨0, 0, s.slotHandle (fld d 0 4), s.slotHandle (fld d 4 4), s.slotHandle (fld d 8 4), fld d 64 32, fld d 96 32, fld d 12 2⟩

/-- The reads of the lanes at the offsets given, through a checked handle; the first that is held ends them. -/
def State.readEach (s : State) (hd n : Nat) : List (Nat × Nat) → State × Except Why (List (Nat × Got))
  | [] => (s, .ok [])
  | o :: os =>
    match s.resolve s.actor hd o.2 n [] none with
    | .error _ => (s, .ok [])
    | .ok r =>
      match s.readAt s.actor (s.meLane o.1) r n 0 with
      | (t, .held w) => (t, .error w)
      | (t, g) =>
        match t.readEach hd n os with
        | (v, .ok gs) => (v, .ok ((o.1, g) :: gs))
        | (v, .error w) => (v, .error w)

/-- The row pointers of a stream being opened are read: one load of 8 bytes (R277, R278). -/
def State.openStream (s : State) (l z row : Nat) (st : Stream) (rpoff : Nat) : Out :=
  let off := rpoff + 4 * row
  match s.handleFault st.rpH 8 [.read] [(l, off)] with
  | some f => .next (s.raiseAcc f)
  | none =>
    match s.resolve s.actor st.rpH off 8 [] none with
    | .error _ => .next s
    | .ok r =>
      match r.remote with
      | some rank => .next (s.remoteVia true st.rpH rank [(l, off)] (.stream z st) (fun _ => .read 8) none)
      | none =>
        match s.readAt s.actor (s.meLane l) r 8 0 with
        | (t, .held w) => finish (t.hold t.issue.lanes w)
        | (t, .poison o pa) => finish (t.replyEnd st.rpH none (t.issue.lanes.map (·, Got.poison o pa)) .load 0 fun _ _ => [])
        | (t, .value v) =>
          let t1 := t.modMe ((ReplyForm.stream z st).give v [])
          finish (t1.replyEnd st.rpH none (t1.issue.lanes.map (·, Got.value v)) .load 0 fun _ _ => [])

/-- ZOPEN (R276, R277, R403). -/
def execZopen (_u : Bool) (z a : Nat) (s : State) : Out :=
  accessWith true [a] [] s fun t =>
    let l := t.issue.lanes.headD 0
    let off := (t.me.reg l a).toNat
    match t.accessFault 12 32 5 [] false [(l, off)] with
    | some f => .next (t.raiseAcc f)
    | none => match t.localPoison 12 32 [(l, off)] with
      | some f => .next ((t.localUse 0).raiseAcc f)
      | none => match t.readLane 12 32 (l, off) with
        | (_, .value d) => match streamBad d with
          | some b => .next (t.reserved 6 b off)
          | none => t.openStream l z (fld d 128 32) (t.streamOf d) (fld d 32 32)
        | (_, .held w) => .next (t.hold t.issue.lanes w)
        | (_, .poison _ _) => .next t

/-- The frame of a read of open stream `z`, whose field the closed one offends: its lanes go together, since each takes its rank among them (R277). -/
def streamWith (i : Instr) (u : Bool) (writes : List Nat) (z : Nat) (s : State) (k : State → Stream → Out) : Out :=
  fieldWith i s fun t => accessWhole u [] writes t fun v => match NMap.find v.me.streams z with
    | some st => k v st
    | none => .next v

/-- The group with stream `z` changed. -/
def Group.putStream (g : Group) (z : Nat) (st : Stream) : Group := { g with streams := NMap.put g.streams z st }

/-- ZADV (R277). -/
def execZadv (u : Bool) (z n : Nat) (s : State) : Out :=
  fieldWith (.zadv u z n) s fun v => issueWith u [] [] v fun t => match NMap.find t.me.streams z with
    | none => .next t
    | some st =>
      let k := if n = 0 then t.issue.lanes.length else n
      .next (t.modMe (·.putStream z { st with pos := min (st.pos + k) st.fin })).retire

/-- ZEND (R277). -/
def execZend (u : Bool) (c z : Nat) (s : State) : Out :=
  fieldWith (.zend u c z) s fun v => issueWith u [] [] v fun t => match NMap.find t.me.streams z with
    | none => .next t
    | some st =>
      .next (t.modMe fun g => (t.ranks u).foldl (fun h x => h.setFlag x.1 c (decide (st.fin ≤ st.pos + x.2))) g).retire

/-- ZCLOSE (R277). -/
def execZclose (u : Bool) (z : Nat) (s : State) : Out :=
  fieldWith (.zclose u z) s fun v => issueWith u [] [] v fun t =>
    .next (t.modMe fun g => { g with streams := NMap.drop g.streams z }).retire

/-- Some lanes of an issue that is counted already stand at the next word. -/
def State.passLanes (s : State) (ls : List Nat) : State :=
  s.modMe fun g => g.modLanes ls fun x => { s.pastIssue x with counted := false, back := none }

/-- The reads of ZLD and ZCRD: elements of `n` bytes from `base` up, at the lanes' positions below END; a lane past it gets `past` (R277,
R278). All lanes go on together, so that a rank is that of the issue. -/
def State.streamRead (s : State) (u : Bool) (d hd base n past : Nat) (st : Stream) : Out :=
  let here := (s.ranks u).filter fun x => decide (st.pos + x.2 < st.fin)
  let out := ((s.ranks u).filter fun x => !decide (st.pos + x.2 < st.fin)).map (·.1)
  let offs := here.map fun x => (x.1, base + n * (st.pos + x.2))
  let mine := if u then offs.take 1 else offs
  let give := fun (t : State) => t.modMe fun g => out.foldl (fun h l => h.setReg l d (BitVec.ofNat 32 past)) g
  match s.handleFault hd n [.read] mine with
  | some f => .next (s.raiseAcc f)
  | none =>
    match mine with
    | [] => .next (give s).retire
    | o :: _ =>
      match (match s.resolve s.actor hd o.2 n [] none with | .ok r => r.remote | .error _ => none) with
      | some rank =>
        let s1 : State := { give s with issue := { s.issue with lanes := here.map fun x => x.1 } }
        .next ((s1.remoteVia u hd rank mine (.load d n false) (fun _ => .read n) none).passLanes out)
      | none =>
        match s.readEach hd n mine with
        | (t, .error w) => finish (t.hold t.issue.lanes w)
        | (t, .ok gs) =>
          let all := if u then match gs with
            | g :: _ => offs.map fun o => (o.1, g.2)
            | [] => []
          else gs
          finish (t.replyEnd hd none (all ++ out.map (·, Got.value past)) .load 0 fun _ v => [(d, BitVec.ofNat 32 v)])

/-- ZLD (R277, R278). -/
def execZld (u : Bool) (d z : Nat) (s : State) : Out :=
  streamWith (.zld u d z) u [d] z s fun t st => t.streamRead u d st.vaH st.vaOff (2 * st.vw) 0 st

/-- ZCRD (R277, R278). -/
def execZcrd (u : Bool) (d z : Nat) (s : State) : Out :=
  streamWith (.zcrd u d z) u [d] z s fun t st => t.streamRead u d st.coH st.coOff 4 0xFFFFFFFF st

/-! The control thread's privilege (R49). -/

/-- A privileged instruction of another group is ILLEGAL_OPCODE with reason 2 (R49, R393). -/
def privWith (s : State) (k : State → Out) : Out := if s.isCt then k s else .next (s.raise 0x02 2 0 0)

/-! The event queue. -/

/-- EVPOP (R281). -/
def execEvpop (u : Bool) (d : Nat) (wait : Bool) (s : State) : Out :=
  privWith s fun v => issueWith u [] ((List.range 16).map (d + ·)) v fun t =>
    match t.takeEvent t.issue.core with
    | some (r, t1) => .next (t1.giveAll (blockWrites d r)).retire
    | none =>
      if wait then .next ((t.addOp t.issue.lanes (.evpop d) none none).retireWait (.op t.opSeq .evpop))
      else .next (t.giveAll [(d, 0)]).retire

/-- EVPEEK (R281). -/
def execEvpeek (u : Bool) (d : Nat) (s : State) : Out :=
  privWith s fun v => issueWith u [] ((List.range 16).map (d + ·)) v fun t =>
    match (t.core t.issue.core).events with
    | r :: _ => .next (t.giveAll (blockWrites d r)).retire
    | [] => .next (t.giveAll [(d, 0)]).retire

/-! Queue control words. -/

/-- What R413 refuses of QCFG's operands, as a trap code and its reason: a reserved bit, a size or base, a slot or an area; and an area
that leaves AB or the team's allocation (R61). -/
def State.qcfgBad (s : State) (q sel : Nat) : Option (Nat × Nat) :=
  let k := s.core s.issue.core
  let id := fld sel 8 2
  let base := fld q 0 21
  let bytes := 64 + 64 * fld q 32 16
  let team := NMap.find k.teams (fld sel 0 8)
  let inTeam := fun (t : Nat × Team) => decide (base < t.2.abBase + t.2.abLen) && decide (t.2.abBase < base + bytes)
  if fld q 54 10 ≠ 0 ∨ fld q 21 11 ≠ 0 ∨ fld sel 10 22 ≠ 0 ∨ (id = 2 ∧ fld sel 0 8 ≠ 0) then some (0x03, 1)
  else if id = 3 ∨ fld q 48 6 ≠ 6 ∨ (fld q 32 16 ≠ 0 ∧ base % 64 ≠ 0) then some (0x03, 2)
  else if id ≠ 2 ∧ team.isNone then some (0x03, 7)
  else if fld q 32 16 = 0 then none
  else if id = 2 ∧ k.teams.any inTeam then some (0x03, 7)
  else if (if id = 2 then Config.abBytes else (team.map (·.abLen)).getD 0) < base + bytes then some (0x11, 1024)
  else none

/-- The state block of a new area at byte `p` of core `c`'s AB (R280). -/
def State.areaInit (s : State) (c p depth : Nat) : State :=
  if depth = 0 then s else s.abWrite c p ([0, 0, 0, depth].flatMap (leBytes · 4)) []

/-- A queue control word applied to a queue of team slot `t`, or to the event queue (R280). -/
def State.applyQcw (s : State) (c id t : Nat) (q : Double) : State :=
  if id = 2 then
    let s1 := s.areaInit c (qcwBase q) (qcwDepth q)
    s1.modCore c fun k => if (s.core c).eventAreaEmpty then { k with qcw2 := q, qcw2Next := none } else { k with qcw2Next := some q }
  else match s.team? c t with
    | none => s
    | some m =>
      let s1 := s.areaInit c (m.abBase + qcwBase q) (qcwDepth q)
      let empty := fun (old : Double) => qcwDepth old == 0 || (s.core c).areaHeld (m.abBase + qcwBase old) == 0
      s1.modTeam c t fun x =>
        if id = 0 then if empty x.qcw0 then { x with qcw0 := q, qcw0Next := none } else { x with qcw0Next := some q }
        else if empty x.qcw1 then { x with qcw1 := q, qcw1Next := none } else { x with qcw1Next := some q }

/-- QCFG (R280, R413). -/
def execQcfg (u : Bool) (d a : Nat) (s : State) : Out :=
  privWith s fun v => issueWith u [d, d + 1, a] [] v fun t =>
    let l := t.issue.lanes.headD 0
    let q := t.me.pair l d
    let sel := (t.me.reg l a).toNat
    match t.qcfgBad q.toNat sel with
    | some r => .next (t.raise r.1 r.2 (fld q.toNat 0 21) 0)
    | none => .next (((t.applyQcw t.issue.core (fld sel 8 2) (fld sel 0 8) q).release
        fun w => w == .launchQueue || w == .copyQueue).refillEvents t.issue.core).retire

end Sys2Proof.Machine
end

