-- ==== Sys2Proof/Machine/Control.lean ====
section
/-!
DEFINITION. Fetching code (R52, R56, R143, R153, R416), transfers of control and the return stack (R282, R283, R395, R408), EXIT (R284),
and barriers, register blocks, progress, SLEEP, TRAP, BKPT and NOP (R285 to R288).
-/
namespace Sys2Proof.Machine

/-! Fetching code. -/

/-- The code handle of an agent, and the actor that its fetches are. -/
def State.codeOf (s : State) (c : Nat) (a : Agent) : Nat × Actor :=
  match a with
  | .ct => (s.cfgGet Config.nCtCodeh c, ⟨c, true, 0, 0⟩)
  | .grp n => match (NMap.find (s.core c).groups n).bind (fun g => s.team? c g.team) with
    | some t => (t.codeH, ⟨c, false, t.vi, t.depth⟩)
    | none => (0, ⟨c, false, 0, 0⟩)

/-- What a fetch gives: the number of the check of R55 that fails, nothing yet, or a word. -/
inductive Fetched where
  | fails (check : Nat)
  | held
  | word (w : Nat)
  deriving DecidableEq, Repr

/-- A code word is asked of another chip, once (R60). -/
def State.askCode (s : State) (c : Nat) (a : Agent) (x : Actor) (rank h off : Nat) : State :=
  if s.ops.any (fun o => decide (o.core = c ∧ o.agent = a) && (match o.kind with | .remote r => r.form == .code off | _ => false)) then s
  else
    let team := (s.group? c a).bind fun g => if a = .ct then none else (s.team? c g.team).map fun m => (m.vi, m.grid, m.team)
    { s with
      ops := s.ops ++ [⟨s.opSeq, c, a, [], .remote ⟨rank, h, off, .code off, .code, x.depth, s.opSeq, none⟩, none, none, s.clk, false, off, 0, team⟩]
      opSeq := s.opSeq + 1 }

/-- The code word at offset `off` of an agent's code buffer, with the eXecute right (Table Ms-2). A page that is missing, a channel that is
down, and a word that another chip has not sent yet hold the fetch (R60, R329, R424). -/
def State.fetch (s : State) (c : Nat) (a : Agent) (off : Nat) : State × Fetched :=
  let (h, x) := s.codeOf c a
  match s.resolve x h off 4 [.execute] none with
  | .error k => (s, .fails k)
  | .ok r =>
    if let some rank := r.remote then
      match (s.group? c a).bind fun g => g.code.find? (·.1 == off) with
      | some w => (s, if w.2 < 2 ^ 32 then .word w.2 else .fails (w.2 - 2 ^ 32))
      | none => (s.askCode c a x rank h off, .held)
    else
      let s1 := s.prepare r 4
      match s1.missing r.space r.va 4, s1.locate r.space r.va 4 with
      | some m, _ => (s1.mapRequest x r.space m 0, .held)
      | none, none => (s1, .held)
      | none, some rs => (s1, if s1.channelDown r.space r.va 4 then .held else .word (leNat (s1.readRuns rs)))

/-! The ends of a transfer. -/

/-- Where a lane goes: on to the next word, to a header with its return stack changed, nowhere while it is held, or nowhere until its return
address has come from another chip. -/
inductive Flow where
  | on
  | to (t : Nat) (f : Lane → Lane)
  | hold (why : Why)
  | ask (rank h off : Nat)

/-- The return addresses of lanes asked of another chip; the lanes stand at the word meanwhile, which issues again with them (R60, R283). -/
def State.askReturns (s : State) (fs : List (Nat × Flow)) : State :=
  fs.foldl (fun t e => match e.2 with
    | .ask rank h off =>
      (t.addOp [e.1] (.remote ⟨rank, h, off, .ret, .read 4, t.myDepth, t.opSeq, none⟩) none (some { t.faultEntry 0 e.1 off h with lanes := [e.1] })).modMe
        (·.modLane e.1 fun x => { x with wait := .op t.opSeq .remote, pc := t.issue.pc, clause := some t.issue.clause })
    | _ => t) s

/-- The issue is counted, and each of some lanes takes its way (R24, R143). -/
def State.flow (s : State) (fs : List (Nat × Flow)) : State :=
  (s.countIssue.modMe fun g => fs.foldl (fun h e => h.modLane e.1 fun x =>
    match e.2 with
    | .on => { s.pastIssue x with counted := false, back := none }
    | .to t f => { f x with pc := t, clause := none, counted := false, back := none, saved := [] }
    | .hold w => { x with wait := .retry w, pc := s.issue.pc, clause := some s.issue.clause }
    | .ask _ _ _ => x) g).askReturns fs

/-- A fault of a transfer with its rank in R389, the check's number, and its lane. -/
abbrev FlowFault : Type := Nat × Nat × Nat × AccFault

/-- Two flow faults in the order of R389: rank, check, lane. -/
def FlowFault.first (a b : FlowFault) : FlowFault :=
  if b.1 < a.1 ∨ (b.1 = a.1 ∧ (b.2.1 < a.2.1 ∨ (b.2.1 = a.2.1 ∧ b.2.2.1 < a.2.2.1))) then b else a

/-- The first of some faults (R389). -/
def firstFlow : List FlowFault → Option FlowFault
  | [] => none
  | f :: fs => some (fs.foldl FlowFault.first f)

/-- A lane's target: a fault, a hold, or a header (R153, R395). -/
def State.target (s : State) (l t : Nat) : State × Except FlowFault Bool :=
  if t % 4 ≠ 0 then (s, .error (6, 0, l, 0x04, l, t, 0))
  else match s.fetch s.issue.core s.issue.agent t with
    | (u, .fails c) => (u, .error (9, c, l, checkCode c, l + c * 256, t, (s.codeOf s.issue.core s.issue.agent).1))
    | (u, .held) => (u, .ok false)
    | (u, .word w) => if w / 2 ^ 29 = 6 then (u, .ok true) else (u, .error (6, 0, l, 0x04, l, t, 0))

/-- The targets of lanes in order: faults, lanes held, lanes that may go. -/
def State.targets (s : State) : List (Nat × Nat) → State × List FlowFault × List (Nat × Flow)
  | [] => (s, [], [])
  | (l, t) :: rest =>
    let (s1, r) := s.target l t
    let (s2, fs, ws) := s1.targets rest
    match r with
    | .error f => (s2, f :: fs, ws)
    | .ok b => (s2, fs, (l, if b then .to t id else .hold .page) :: ws)

/-- The header offset that a signed count of words reaches from the clause's header (R150). -/
def State.relative (s : State) (o n : Nat) : Nat := (((s.issue.clause.off : Int) + 4 * signed o n) % 4294967296).toNat

/-- The trace packets of an issue's indirect targets, one for each (Table Dt-7). -/
def State.traceTargets (s : State) (ts : List (Nat × Nat)) : State :=
  match s.issue.agent with
  | .ct => s
  | .grp n => ((ts.map (·.2)).foldr addTo []).foldl (fun u t =>
      u.trace s.issue.core s.myVi ([4, n] ++ natBytes t 4 ++ maskBytes s.me.width ((ts.filter (·.2 == t)).map (·.1)))) s

/-- The lanes that a flow moves, with where they go. -/
def wentTo (fs : List (Nat × Flow)) : List (Nat × Nat) :=
  fs.filterMap fun f => match f.2 with | .to t _ => some (f.1, t) | _ => none

/-- BR (R282). -/
def execBr (c : Nat) (sense : Bool) (o : Nat) (s : State) : Out :=
  issueWith false [] [] s fun t =>
    let taken := t.issue.lanes.filter fun l => t.me.flag l c == sense
    match t.targets (taken.map (·, t.relative o 19)) with
    | (u, fs, ws) => match firstFlow fs with
      | some f => finish (u.raiseAcc f.2.2.2)
      | none =>
        let on := (t.issue.lanes.filter (!taken.contains ·)).map (·, Flow.on)
        let v := u.flow (ws ++ on)
        finish (match t.issue.agent with
          | .grp n => v.trace t.issue.core t.myVi ([3, n] ++ maskBytes t.me.width ((wentTo ws).map (·.1)))
          | .ct => v)

/-- JMP (R282). -/
def execJmp (o : Nat) (s : State) : Out :=
  issueWith false [] [] s fun t =>
    match t.targets (t.issue.lanes.map (·, t.relative o 23)) with
    | (u, fs, ws) => match firstFlow fs with
      | some f => finish (u.raiseAcc f.2.2.2)
      | none => finish (u.flow ws)

/-- JMPI (R282). -/
def execJmpi (a : Nat) (s : State) : Out :=
  issueWith false [a] [] s fun t =>
    match t.targets (t.issue.lanes.map fun l => (l, (t.me.reg l a).toNat)) with
    | (u, fs, ws) => match firstFlow fs with
      | some f => finish (u.raiseAcc f.2.2.2)
      | none => finish ((u.flow ws).traceTargets (wentTo ws))

/-! The return stack (R283, R408). -/

/-- PIN set in the leaf entry of a page that the part uses: of a stack area or a work queue's state block (R333). -/
def State.pin (s : State) (space va : Nat) : State :=
  if space = physSpace ∨ s.inHeap space va then s
  else match s.walk space va with
    | .page ea _ _ => if bit (s.physNat ea 8) 7 then s else s.putEntry ea (s.physNat ea 8 + 128)
    | _ => s

/-- The handle of the issuer's stack-area buffer, and the offset of lane `l`'s area (R283). -/
def State.stackArea (s : State) (l : Nat) : Nat × Nat :=
  match s.myTeam? with
  | none => (s.cfgGet Config.nCtStkh s.issue.core, s.cfgGet Config.nCtStkoff s.issue.core)
  | some t =>
    let slot := 32 * (s.me.units[l / 32]?).getD 0 + l % 32
    (s.cfgGet Config.nStackH t.vi, s.cfgGet Config.nStackOff t.vi + 1024 * (8192 * t.vcore + slot))

/-- A write of the part for an issuer, or of its control thread, at its place: never in the side log (R283, R292, R329). -/
def State.putNow (s : State) (a : Actor) (me : Nat × Agent × Nat) (r : Ref) (h kind : Nat) (bs : List Byte) : State × Option Why :=
  if s.claimed me r.space r.va bs.length ∨ (s.core a.core).sideLog ≠ [] then (s, some .line)
  else
    let s1 := s.prepare r bs.length
    match s1.missing r.space r.va bs.length, s1.locate r.space r.va bs.length with
    | some m, _ => (s1.mapRequest a r.space m kind, some .page)
    | none, none => (s1, some .page)
    | none, some rs =>
      match s1.applyFor rs with
      | .error w => (s1.blockOn me r.space r.va bs.length w, some .spillRing)
      | .ok s2 =>
        let ws := runWrites a.depth h r.off rs bs
        match s2.commit a (s2.cleared ws) ws with
        | .error w => (s1.blockOn me r.space r.va bs.length w, some .spillRing)
        | .ok s3 => (s3.unclaim me, none)

/-- The same through a remote window: the write is sent to the chip there (R60). -/
def State.sendPut (s : State) (ls : List Nat) (rank h off : Nat) (bs : List Byte) (form : ReplyForm) : State :=
  s.addOp ls (.remote ⟨rank, h, off, form, .store bs, s.myDepth, s.opSeq, none⟩) none (some { s.faultEntry 0 (ls.headD 0) off h with lanes := ls })

/-- STACK_SPILL of a lane, with its reason, the failing check, the stack-area offset, and the handle of the access, 0 for none (Table
Fe-1). -/
def spillFault (l reason check off h : Nat) : FlowFault :=
  (11, 0, l, 0x21, l + reason * 256 + check * 4096, off % 4294967296, h)

/-- A lane's spill before its call: nothing to do, a fault, or the area's buffer and offset (R283, R408). -/
def State.spillOf (s : State) (l : Nat) : Except FlowFault (Option Ref) :=
  let x := s.me.lane l
  let (h, base) := s.stackArea l
  if 264 ≤ x.rstack.length + x.spilled then .error (spillFault l 0 0 (base + 4 * x.spilled) 0)
  else if x.rstack.length < 8 then .ok none
  else match s.resolve s.actor h (base + 4 * x.spilled) 4 [.write] none with
    | .error c => .error (spillFault l 2 c (base + 4 * x.spilled) h)
    | .ok r => .ok (some r)

/-- The return address pushed on a lane's stack; where eight are held, the oldest has been spilled (R283). -/
def Lane.push (x : Lane) (ret : Nat) : Lane :=
  if x.rstack.length < 8 then { x with rstack := ret :: x.rstack }
  else { x with rstack := ret :: x.rstack.take 7, spilled := x.spilled + 1 }

/-- The calls of lanes in order: each spills if it must, then goes (R283). -/
def State.calls (s : State) (ret : Nat) : List (Nat × Flow) → State × List (Nat × Flow)
  | [] => (s, [])
  | (l, .to t f) :: rest =>
    let x := s.me.lane l
    match s.spillOf l with
    | .ok (some r) =>
      let (h, base) := s.stackArea l
      let bs := leBytes (x.rstack.getLastD 0) 4
      let (u, w) := match r.remote with
        | some rank => (s.sendPut [l] rank h (base + 4 * x.spilled) bs .nothing, none)
        | none => ((s.fillPage r.space r.va r.stack).pin r.space r.va).putNow s.actor (s.meLane l) r h 3 bs
      let (v, ws) := u.calls ret rest
      (v, (l, match w with | none => .to t (fun y => (f y).push ret) | some y => .hold y) :: ws)
    | _ =>
      let (v, ws) := s.calls ret rest
      (v, (l, .to t (fun y => (f y).push ret)) :: ws)
  | w :: rest =>
    let (v, ws) := s.calls ret rest
    (v, w :: ws)

/-- The frame of CALL and CALLI: targets and stacks checked, then the return address of R143 pushed (R282, R283, R408). -/
def State.call (s : State) (ts : List (Nat × Nat)) (indirect : Bool) : Out :=
  match s.targets ts with
  | (u, fs, ws) =>
    let spills := s.issue.lanes.filterMap fun l => match s.spillOf l with | .error f => some f | .ok _ => none
    match firstFlow (fs ++ spills) with
    | some f => finish (u.raiseAcc f.2.2.2)
    | none =>
      let (v, xs) := u.calls s.clauseEnd ws
      finish (if indirect then (v.flow xs).traceTargets (wentTo xs) else v.flow xs)

/-- CALL (R282, R283). -/
def execCall (o : Nat) (s : State) : Out :=
  issueWith false [] [] s fun t => t.call (t.issue.lanes.map (·, t.relative o 23)) false

/-- CALLI (R282, R283). -/
def execCalli (a : Nat) (s : State) : Out :=
  issueWith false [a] [] s fun t => t.call (t.issue.lanes.map fun l => (l, (t.me.reg l a).toNat)) true

/-- A lane's return address: held, read back from its area, asked of another chip or come from there, or a fault (R283, R408). -/
def State.returnOf (s : State) (l : Nat) : State × Except FlowFault (Flow × Bool) :=
  let x := s.me.lane l
  let (h, base) := s.stackArea l
  match x.rstack with
  | t :: rest => (s, .ok (.to t (fun y => { y with rstack := rest }), false))
  | [] =>
    if x.spilled = 0 then (s, .error (spillFault l 1 0 base 0))
    else
      let off := base + 4 * (x.spilled - 1)
      match s.resolve s.actor h off 4 [.read] none with
      | .error c => (s, .error (spillFault l 2 c off h))
      | .ok r =>
        match r.remote with
        | some rank =>
          match x.saved with
          | v :: _ =>
            if v < 2 ^ 32 then (s, .ok (.to v (fun y => { y with spilled := y.spilled - 1 }), true))
            else if v = 2 ^ 32 + 6 then (s.poisonUse s.actor.vi? 0 0, .error (12, 0, l, 0x20, l, off / 32 * 32, h))
            else (s, .error (spillFault l 2 (v - 2 ^ 32) off h))
          | [] => (s, .ok (.ask rank h off, true))
        | none =>
          match (s.pin r.space r.va).readAt s.actor (s.meLane l) r 4 3 with
          | (u, .held w) => (u, .ok (.hold w, true))
          | (u, .poison o pa) => (u.poisonUse s.actor.vi? 0 pa, .error (12, 0, l, 0x20, l, o, h))
          | (u, .value t) => (u, .ok (.to t (fun y => { y with spilled := y.spilled - 1 }), true))

/-- The returns of lanes in order: the state, faults, and ways. -/
def State.returns (s : State) : List Nat → State × List FlowFault × List (Nat × Flow)
  | [] => (s, [], [])
  | l :: ls =>
    let (s1, r) := s.returnOf l
    let (s2, fs, ws) := s1.returns ls
    match r with
    | .error f => (s2, f :: fs, ws)
    | .ok w => (s2, fs, (l, w.1) :: ws)

/-- The ways of returns whose targets have been checked: a lane whose target's page is missing is held (R153, R329). -/
def State.returnWays (s : State) : List (Nat × Flow) → State × List FlowFault × List (Nat × Flow)
  | [] => (s, [], [])
  | (l, .to t f) :: rest =>
    let (s1, r) := s.target l t
    let (s2, fs, ws) := s1.returnWays rest
    match r with
    | .error e => (s2, e :: fs, ws)
    | .ok b => (s2, fs, (l, if b then .to t f else .hold .page) :: ws)
  | w :: rest =>
    let (s2, fs, ws) := s.returnWays rest
    (s2, fs, w :: ws)

/-- RET (R282, R283, R408). -/
def execRet (s : State) : Out :=
  issueWith false [] [] s fun t =>
    let (u, fs, ws) := t.returns t.issue.lanes
    let (v, es, xs) := u.returnWays ws
    match firstFlow (fs ++ es) with
    | some f => finish ((if f.1 = 12 then v else t).raiseAcc f.2.2.2)
    | none => finish ((v.flow xs).traceTargets (wentTo xs))

/-- EXIT; a control thread's is a use in a state that forbids it (R284, R413). -/
def execExit (s : State) : Out :=
  issueWith false [] [] s fun t =>
    match t.issue.agent with
    | .ct => .next (t.reserved 7 0 0)
    | .grp n => finish (t.countIssue.vacate t.issue.core n t.issue.lanes)

/-! Barriers (R285). -/

/-- The arrivals of the active lanes at barrier `b`; `w` is the wait of a lane that has arrived in the phase already, and `after` that of
one that arrives now. -/
def State.arriveAt (s : State) (b : Nat) (w : Why) (after : Nat → Option Wait) : State :=
  let c := s.issue.core
  let g := s.me
  let x := s.bar c g.team b
  let again := fun (l : Nat) => x.arrived.contains (g.grp, l)
  let now := s.issue.lanes.filter (!again ·)
  let s1 := s.countIssue.modBar c g.team b fun y => { y with arrived := y.arrived ++ now.map (g.grp, ·) }
  let s2 := s1.modMe fun h => s.issue.lanes.foldl (fun h l => h.modLane l fun y =>
    let p := { s.pastIssue y with counted := false, back := none }
    if again l then { p with wait := .bar b x.phase w }
    else { p with arrived := NMap.put p.arrived b x.phase, wait := (after x.phase).getD .none }) h
  s2.settleBar c g.team b 2

/-- BAR: a control thread, which has no team, arrives nowhere (R285). -/
def execBar (b : Nat) (s : State) : Out :=
  accessWith false [] [] s fun t =>
    match t.issue.agent with
    | .ct => .next t.retire
    | .grp _ => .next (t.arriveAt b .bar fun p => some (.bar b p .barw))

/-- BARA (R285). -/
def execBara (b : Nat) (s : State) : Out :=
  accessWith false [] [] s fun t =>
    match t.issue.agent with
    | .ct => .next t.retire
    | .grp _ => .next (t.arriveAt b .bara fun _ => none)

/-- BARW (R285). -/
def execBarw (b : Nat) (s : State) : Out :=
  accessWith false [] [] s fun t =>
    match t.issue.agent with
    | .ct => .next t.retire
    | .grp _ =>
      let x := t.bar t.issue.core t.me.team b
      .next (t.settle (t.issue.lanes.map fun l =>
        (l, if NMap.find (t.me.lane l).arrived b = some x.phase then .wait (.bar b x.phase .barw) else .go)))

/-! Register blocks (R286). -/

/-- RACQ (R286, R29). -/
def execRacq (k : Nat) (s : State) : Out :=
  issueWith false [] [] s fun t =>
    if k ≤ t.me.blocks then .next t.retire
    else .next (((t.addOp t.issue.lanes (.racq k) t.setA none).due (.racqGrant t.issue.core)).retireWait (.op t.opSeq .racq))

/-- A reply form writes a register at or above `n`. -/
def ReplyForm.above (f : ReplyForm) (n : Nat) : Bool :=
  match f with
  | .load d b _ => decide (n < d + (b + 3) / 4)
  | .atomic _ _ d _ => decide (n < d + 2)
  | .waitc d _ => decide (n < d + 2)
  | _ => false

/-- Some register at or above `n` of a group is pending, or awaited from an operation (R286). -/
def State.awaited (s : State) (n : Nat) : Bool :=
  s.me.pend.any (n ≤ ·.reg) ||
  (s.opsOf s.issue.core s.issue.agent).any fun o => match o.kind with
    | .writeback => true
    | .reply => true
    | .waitc d _ _ => decide (n < d + 2)
    | .mbrecv d _ _ => decide (n < d + 16)
    | .bowait d _ _ => decide (n < d + 1)
    | .evpop d => decide (n < d + 16)
    | .remote r => r.form.above n
    | .mma _ => true
    | _ => false

/-- RREL (R286). -/
def execRrel (k : Nat) (s : State) : Out :=
  issueWith false [] [] s fun t =>
    if t.me.blocks ≤ k then .next t.retire
    else if t.awaited (16 * k) then .next (t.hold t.issue.lanes .rrel)
    else
      let t1 := t.modMe fun g =>
        { g with blocks := k, regs := g.regs.filter fun x => decide (x.1 % 128 < 16 * k),
                 poison := g.poison.filter fun p => decide (p.2 < 16 * k) }
      .next (t1.retire.freed t.issue.core)

/-! The rest of the CTL class (R287, R288). -/

/-- PMARK: the progress counter, and the watchdog window of the team on both its cores (R287, R410). -/
def execPmark (s : State) : Out :=
  issueWith false [] [] s fun t =>
    let t1 : State := t.modMe fun g => { g with prog := g.prog + 1 }
    let t2 : State := match t.issue.agent with
      | .ct => t1
      | .grp _ => (t1.halves t.issue.core t.me.team).foldl (fun (u : State) h => u.modTeam h.1 h.2 ({ · with wdog := 0 })) t1
    .next t2.retire

/-- SLEEP (R287). -/
def execSleep (i : Nat) (s : State) : Out :=
  issueWith false [] [] s fun t =>
    .next (if i = 0 then t.retire else t.retireWait (.sleep (t.clk + 64 * i)))

/-- SLEEP_EXPIRY: the lanes whose time has passed go on (R287). -/
def execSleepExpiry (core agent : Nat) (s : State) : Out :=
  .next (s.modGroup core (Agent.ofNum agent) fun g =>
    { g with lanes := g.lanes.map fun x => match x.wait with
        | .sleep till => if till ≤ s.clk then { x with wait := .none, back := none } else x
        | _ => x })

/-- TRAP: SOFTWARE_TRAP with IMM9 (R288). -/
def execTrap (i : Nat) (s : State) : Out := issueWith false [] [] s fun t => .next (t.raise 0x28 i 0 0)

/-- BKPT: BREAKPOINT with IMM9 (R288). -/
def execBkpt (i : Nat) (s : State) : Out := issueWith false [] [] s fun t => .next (t.raise 0x29 i 0 0)

/-- NOP (R287). -/
def execNop (s : State) : Out := issueWith false [] [] s fun t => .next t.retire

end Sys2Proof.Machine
end

