-- ==== Sys2Proof/Machine/Regs.lean ====
section
/-!
DEFINITION. Configuration registers as CFGRD, CFGWR and the spine's register window reach them (R289, R343), with the effects that their
writes have (R52, R303, R315, R320, R322, R327, R339, R347, R452, R453), and what the debug registers show (R447).
-/
namespace Sys2Proof.Machine

/-! The wait state of a lane (Table Dt-1). -/

/-- The AB offset that an object at a core-absolute address has for a group: bit 21 names the higher half of a split team (R47). -/
def State.abOffset (s : State) (c : Nat) (g : Group) (home addr : Nat) : Nat :=
  match s.team? c g.team with
  | none => addr
  | some m =>
    let high := match m.half with | some h => h.high | none => false
    if home = c then addr - m.abBase + (if high then 2097152 else 0)
    else match m.half with
      | some h => addr - (((s.team? h.core h.slot).map (·.abBase)).getD 0) + (if high then 0 else 2097152)
      | none => addr

/-- Kind, DBG_WAIT1 and DBG_WAIT2 of lane `l` of a group of core `c`. DEDUCED: every lane of a halted group that is not vacant is of kind
8 (log 27), and one that waits for room in a queue of kind 0 (log 128). -/
def State.waitKind (s : State) (c : Nat) (g : Group) (l : Nat) : Nat × Nat × Nat :=
  let x := g.lane l
  if x.vacant then (0, 0, 0)
  else if g.halted then (8, 0, 0)
  else match x.wait with
  | .none => (0, 0, 0)
  | .bar b p _ => (1, b, p % 2)
  | .sleep _ => (7, 0, 0)
  | .retry (.future r) => (5, r, 0)
  | .retry .fwait => (5, (((g.pend.filter (·.lane == l)).map (·.reg)).min?).getD 0, 0)
  | .retry w => if w = .launchQueue ∨ w = .copyQueue ∨ w = .mtxQueue ∨ w = .rrel then (0, 0, 0) else (7, 0, 0)
  | .op _ .launchQueue | .op _ .copyQueue => (0, 0, 0)
  | .op _ (.waitc h off) => (2, h, off)
  | .op id _ => match s.op? id with
    | none => (7, 0, 0)
    | some o => match o.kind with
      | .mbrecv _ m _ => (3, m, 0)
      | .bowait _ home addr => (4, s.abOffset c g home addr, 0)
      | .racq n => (6, n, 0)
      | _ => (7, 0, 0)

/-- DBG_WAIT0 to DBG_WAIT2 and DBG_PROG for the lane that DBG_SEL names; 0 where there is none (R447). -/
def State.dbgValue (s : State) (num c : Nat) : Nat :=
  let sel := s.cfgGet Config.nDbgSel c
  match NMap.find (s.core c).groups (sel % 256) with
  | none => 0
  | some g =>
    let l := sel / 256
    let k := if l < g.lanes.length then s.waitKind c g l else (0, 0, 0)
    if num = Config.nDbgWait0 then k.1 + (if l < g.lanes.length then (g.lane l).pc % 2 ^ 24 * 256 else 0)
    else if num = Config.nDbgWait1 then k.2.1
    else if num = Config.nDbgWait2 then k.2.2
    else g.prog.toNat

/-! Reads. -/

/-- Which copy of a register an access reaches: by core, by interface, or the chip's one (R289). -/
def scopeKey (sc : Config.Scope) (core vi : Nat) : Nat :=
  match sc with
  | .core => core | .chip => 0 | .vi => vi

/-- The number under which a value waits for its area to be empty (the model's own; plus 1, so that 0 can wait). -/
abbrev waitingNum (num : Nat) : Nat := num + 2048

/-- The registers of the areas. -/
def areaRegs : List Nat := [Config.nBspillBase, Config.nBspillSize, Config.nTringBase, Config.nTringSize]

/-- The value that a read of register `num` gives, on core `core` for interface `vi` (R289). -/
def State.cfgValue (s : State) (num core vi : Nat) : Nat :=
  if num = Config.nWbtag then (Mem.get (s.core core).wbTag (s.cfgGet Config.nWbtagIdx core)).toNat
  else if num = Config.nVcoreMap then s.physCore vi (s.cfgGet Config.nVcoreIdx vi)
  else if num = Config.nViSync then (if (NMap.find s.viSync vi).isSome then 1 else 0)
  else if num = Config.nMigBusy then s.migs.length
  else if num = Config.nFabRoute then s.route (s.cfgGet Config.nFabRidx 0)
  else if Config.nDbgWait0 ≤ num ∧ num ≤ Config.nDbgProg then s.dbgValue num core
  else match Config.reg? num with
    | some r => if areaRegs.contains num ∧ s.cfgGet (waitingNum num) vi ≠ 0 then s.cfgGet (waitingNum num) vi - 1
        else s.cfgGet num (scopeKey r.scope core vi)
    | none => 0

/-- A read of a register: its value, and the state after it, in which a counter that clears holds 0 (R6, R289). -/
def State.cfgRead (s : State) (num core vi : Nat) : Nat × State :=
  (s.cfgValue num core vi, match Config.reg? num with
    | some r => if r.access = .rc then s.cfgPut num (scopeKey r.scope core vi) 0 else s
    | none => s)

/-! The control thread starts and stops (R52). -/

/-- A control thread's operations, once it has stopped: accesses and engine operations keep their place, under a name that no group has. -/
def State.disownCt (s : State) (c : Nat) : State :=
  let was := fun (d : Nat) (x : Agent) => decide (d = c) && decide (x = .ct)
  let a : Agent := .grp (257 + s.opSeq)
  { s.modCore c fun k =>
      { k with sideLog := k.sideLog.map fun e => if e.agent = .ct then { e with agent := a } else e,
               slogWait := k.slogWait.filter (·.1 != .ct) } with
    opSeq := s.opSeq + 1
    ops := (s.ops.filter fun o => !was o.core o.agent || o.kind.outlives).map fun o =>
      if was o.core o.agent then { o with agent := a, flag := none } else o
    pairs := s.pairs.map fun p => if was p.core p.agent then { p with agent := a } else p
    claims := s.claims.filter fun x => match x.owner with | .inl o => !was o.1 o.2.1 | .inr _ => true }

/-- The fault stop of core `c` ends where no fault entry is left for it, there or at the cluster's lower core (R380, R411). -/
def State.endStop (s : State) (c : Nat) : State :=
  s.modCore c fun (k : Core) =>
    { k with stopped := k.dead || k.pairStops != 0 || k.entries.any (·.code ≠ 0x30) || (k.inHandler && (match k.cur with | some e => e.code != 0x30 | none => false)) }

/-- An entry is over or discarded: the other core that it stops goes on (R411). -/
def State.pairGoes (s : State) (e : Entry) : State :=
  match e.other with
  | some d => (s.modCore d fun (q : Core) => { q with pairStops := q.pairStops - 1 }).endStop d
  | none => s

/-- CT_RUN of core `c` written: 1 over 0 starts its control thread at CT_EPC; 0 stops it, kills the core's teams and discards its
handler entries (R52). -/
def State.ctRun (s : State) (c v : Nat) : State :=
  if v = 0 then
    let s1 := ((s.core c).teams.map (·.1)).foldl (fun t x => t.killTeam c x) ((s.cfgPut Config.nCtRun c 0).disownCt c)
    let s2 := s1.modCore c fun k =>
      { k with ct := Group.ctReset, entries := [], cur := none, inHandler := false, stopped := k.pairStops != 0, dead := false, epcClause := none }
    ((s1.core c).cur.toList ++ (s1.core c).entries).foldl State.pairGoes s2
  else if s.cfgGet Config.nCtRun c = 1 then s
  else
    ((s.cfgPut Config.nCtRun c 1).modCore c fun k =>
      { k with ct := { Group.ctReset with lanes := [Lane.ctStart (s.cfgGet Config.nCtEpc c)] }, dead := false }).deliver c

/-! SWAP_OUT (R315, R318). -/

/-- A team slot is drained: frozen, with no drain in progress, and not left undrained (R291). -/
def State.drained (s : State) (c t : Nat) : Bool :=
  match s.team? c t with
  | none => false
  | some m => m.frozen && !m.undrained &&
    (s.halves c t).all fun h => s.ops.all fun o => o.core != h.1 || o.kind != .gstop h.2

/-- The conditions of R315 on a write of slot `t` to SWAP_OUT; the lower half's image counts for both (R318). -/
def State.mayLeave (s : State) (c t : Nat) : Bool :=
  let home := match (s.team? c t).bind (·.half) with
    | some h => if h.high && decide (h.core < Config.numCores) then (h.core, h.slot) else (c, t)
    | none => (c, t)
  s.drained c t && (((s.team? c t).map (·.imaged)).getD false || ((s.team? home.1 home.2).map (·.imaged)).getD false)

/-- The control thread has accesses of its own not yet performed (R315). -/
def State.ctBusy (s : State) (c : Nat) : Bool :=
  (s.opsOf c .ct).any fun o => match o.kind with
    | .store | .reply | .remote _ | .mma _ | .mtx _ => true
    | .copy r => r.job.isSome || s.rowsOut o.id
    | _ => false

/-- What a thread's images do not hold of it (R285, R291). -/
def Group.kept (g : Group) : List Kept :=
  (List.range g.lanes.length).map fun l =>
    let x := g.lane l
    ⟨g.grp, l, x.arrived, (match x.wait with | .bar b p w => .bar b p w | _ => .none), x.clause,
      (g.poison.filter (·.1 == l)).map (·.2), g.fresh, x.farPairs⟩

/-- The groups of team slot `t` of core `c`, one after the other, leave their slots under names that are kept. -/
def State.unseatGroups (s : State) (c : Nat) : List (Nat × Group) → List (Nat × Nat) × State
  | [] => ([], s)
  | (n, g) :: rest =>
    let s1 := (s.disown c n).modCore c fun k =>
      let left := NMap.drop k.groups n
      { k with groups := left, slots := k.slots.zipIdx.map fun x => if left.all (·.2.islot != x.2) then ⟨none, false, []⟩ else x.1 }
    let (as, s2) := s1.unseatGroups c rest
    ((g.grp, 257 + s.opSeq) :: as, s2)

/-- Team slot `t` of core `c`, a whole team or one half, leaves the core; the team is swapped out once no half remains (R315, R318). -/
def State.swapOut (s : State) (c t : Nat) : State :=
  match s.team? c t with
  | none => s
  | some m =>
    let gs := (s.core c).groups.filter (·.2.team == t)
    let high := match m.half with | some h => h.high | none => false
    let other := m.half.filter fun h => decide (h.core < Config.numCores)
    let bars := if high then [] else m.bars
    let (aliases, s1) := s.unseatGroups c gs
    let s2 : State := { s1 with swapped := s1.swapped.map fun (w : Swapped) =>
      if w.grid = m.grid ∧ w.team = m.team then
        { w with
          away := other.isNone
          threads := w.threads ++ gs.flatMap (·.2.kept)
          aliases := w.aliases ++ aliases
          bars := if bars = [] then w.bars else bars
          stats := if high then (w.stats.1, m.stats) else (m.stats, w.stats.2)
          slots := if high then (w.slots.1, t) else (t, w.slots.2) }
      else w }
    let s3 := s2.modCore c fun k => { k with teams := NMap.drop k.teams t }
    let s4 := match other with
      | some h => s3.modTeam h.core h.slot fun (y : Team) => { y with
          half := y.half.map fun (z : Half) => { z with core := Config.numCores }
          imaged := true }
      | none => s3
    s4.freed c

/-! Areas whose place or size changes only while they are empty (R339). -/

/-- The virtual interface has entries in its bindery spill area, or in its trigger spill ring. -/
def State.areaUsed (s : State) (num vi : Nat) : Bool :=
  if num = Config.nBspillBase ∨ num = Config.nBspillSize then s.pairs.any fun p => p.vi == vi && p.stage == .spilled
  else s.cfgGet Config.nTringHead vi != s.cfgGet Config.nTringTail vi

/-- Values that waited for their areas take effect. -/
def State.settleAreas (s : State) (vi : Nat) : State :=
  areaRegs.foldl (fun t n =>
    let v := t.cfgGet (waitingNum n) vi
    if v = 0 ∨ t.areaUsed n vi then t else (t.cfgPut (waitingNum n) vi 0).cfgPut n vi (v - 1)) s

/-- The same for every interface. -/
def State.settleAllAreas (s : State) : State := (List.range 64).foldl (fun t v => t.settleAreas v) s

/-! Writes. -/

/-- A watermark word with LOW below HIGH (R339). -/
def clampWatermark (v : Nat) : Nat := if v / 256 ≤ v % 256 then v / 256 * 256 + (v / 256 - 1) else v

/-- A pool minimum as it is stored: the pool's minimums together never exceed it (R303). -/
def State.clampMin (s : State) (num core vi v : Nat) : Nat :=
  if num = Config.nTrigMin then
    min v (1024 - ((List.range 64).map fun i => if i = vi then 0 else s.cfgGet Config.nTrigMin i).sum)
  else
    let teams := (s.core core).teams.length
    if num = Config.nEvqMin then min v (1020 - teams * s.cfgGet Config.nTcqMin core)
    else min v ((1020 - s.cfgGet Config.nEvqMin core) / max teams 1)

/-- TRC_CTL written: a switch to tracing begins with a sync series (R453). -/
def State.traceCtl (s : State) (c v : Nat) : State :=
  let old := s.cfgGet Config.nTrcCtl c
  let s1 := s.cfgPut Config.nTrcCtl c v
  if v % 2 = 0 ∨ v = old then s1
  else
    let s2 := s1.modCore c ({ · with traceSync := 0, traceLost := 0 })
    let series := s2.syncSeries c (v / 256)
    if s2.traceRoom c < series.length then s2.modCore c ({ · with traceLost := 1 }) else s2.tracePut c series

/-- VI_SYNC of interface `vi` written 1 (R322): its translations are discarded, and it completes once the accesses checked before are
performed. Table entries are not cached, so every later access is checked against the tables as they stand. -/
def State.viSyncStart (s : State) (vi : Nat) : State :=
  ({ s with viSync := NMap.put s.viSync vi s.opSeq, tlb := s.tlb.filter (·.vi != vi) } : State).due (.viSyncComplete vi)

/-- The translations of interface `vi` in a span are discarded, and misses there are posted anew (R327, R328). -/
def State.ptInvalSpan (s : State) (vi span : Nat) : State :=
  { s.dropTrans vi (span * 2097152) 2097152 with asked := s.asked.filter fun x => x.2.1 != vi || x.2.2 / 32 != span }

/-- PT_INVAL of interface `vi` written with a span (R327). DEDUCED: with several writes it reads 0 once all have completed (log 53). -/
def State.ptInvalStart (s : State) (vi v : Nat) : State :=
  ({ s.cfgPut Config.nPtInval vi v with ptInval := s.ptInval ++ [(vi, v)] } : State).due (.ptInvalComplete vi)

/-- The pages of a span that translations held for it place elsewhere than the tables do now: first address, size, where it was and where it is
(R327). -/
def State.rehung (s : State) (vi span : Nat) : List (Nat × Nat × Nat × Nat) :=
  (s.tlb.filter fun x => decide (x.vi = vi ∧ x.va < (span + 1) * 2097152 ∧ span * 2097152 < x.va + x.size)).foldl (fun l x =>
    match s.walk vi x.va with
    | .page _ base size =>
      let now := base + x.va % size
      if now = x.base ∨ l.any (fun y => y.1 == x.va) then l else l ++ [(x.va, min size x.size, x.base, now)]
    | _ => l) []

/-- A condition of interface `vi` whose word a page that has been hung elsewhere holds follows its address (R327). -/
def Cond.rehang (vi : Nat) (ps : List (Nat × Nat × Nat × Nat)) (of_ : Nat) (c : Cond) : Cond :=
  if vi ≠ of_ then c
  else match ps.find? fun p => decide (p.2.2.1 ≤ c.pa ∧ c.pa < p.2.2.1 + p.2.1) with
    | some p => { c with pa := c.pa - p.2.2.1 + p.2.2.2 }
    | none => c

/-- A PT_INVAL completes: pages whose address the tables have changed change content, as one write that watches and armed monitors compare (R327,
R430). -/
def State.ptInvalDone (s : State) (vi span : Nat) : Except RingFull State :=
  let ps := s.rehung vi span
  let t := s.ptInvalSpan vi span
  if ps = [] then .ok t
  else
    let go := fun (v : Nat) (c : Cond) => c.rehang vi ps v
    let u : State := { t with
      ops := t.ops.map fun (o : Op) => match o.kind with
        | .waitc d c m => { o with kind := .waitc d (go (o.vi?.getD 64) c) m }
        | _ => o
      lq := t.lq.map fun q => (q.1, { q.2 with waits := q.2.waits.map (go (q.1 / 16)), polls := q.2.polls.map (go (q.1 / 16)) })
      swapped := t.swapped.map fun (w : Swapped) => { w with conds := w.conds.map (go w.vi) } }
    let ws : List Wr := ps.map fun p => ⟨p.2.2.2, List.replicate p.2.1 0, 0, 0, p.1⟩
    let before : State := { u with mem := ps.foldl (fun m p => putCells m p.2.2.2 p.2.1 (cellsOf s.mem p.2.2.1 p.2.1)) u.mem }
    match State.compareBy State.statusCount before u ws with
    | .ok x => .ok (x.monitors ws)
    | .error w => .error w

/-- A write to a register of value `v`, already clamped, but for SWAP_OUT's effect. DESIGN CHOICE: a write to TRC_BASE or TRC_LOG while
TRC_EN is 1 is ignored (log 125). -/
def State.cfgStore (s : State) (num core vi key v : Nat) : State :=
  if num = Config.nCtRun then s.ctRun core v
  else if num = Config.nVcoreMap then
    let i := s.cfgGet Config.nVcoreIdx vi
    { s with vcoreMap := Mem.set s.vcoreMap (128 * vi + i) (BitVec.ofNat 7 (v ^^^ i)) }
  else if num = Config.nFabRoute then
    { s with fabRoute := Mem.set s.fabRoute (s.cfgGet Config.nFabRidx 0) (BitVec.ofNat 4 (v ^^^ 15)) }
  else if num = Config.nViSync then if v = 0 then s else s.viSyncStart vi
  else if num = Config.nPtInval then s.ptInvalStart vi v
  else if num = Config.nFabRank ∨ num = Config.nFabDomain then if s.cfgGet Config.nFabEn 0 ≠ 0 then s else s.cfgPut num 0 v
  else if num = Config.nTrcBase ∨ num = Config.nTrcLog then if s.cfgGet Config.nTrcCtl core % 2 = 1 then s else s.cfgPut num core v
  else if num = Config.nTrcCtl then s.traceCtl core v
  else if num = Config.nReplAbort then s.replAbort v
  else if num = Config.nTierWm0 ∨ num = Config.nTierWm1 ∨ num = Config.nTierWm2 then
    (s.cfgPut num 0 (clampWatermark v)).lookAtTiers
  else if areaRegs.contains num then (s.cfgPut (waitingNum num) vi (v + 1)).settleAreas vi
  else if num = Config.nTrigMin ∨ num = Config.nTrigCap then
    (s.cfgPut num vi (if num = Config.nTrigMin then s.clampMin num core vi v else v)).kickAll
  else if num = Config.nEvqMin ∨ num = Config.nEvqCap then
    ((s.cfgPut num core (if num = Config.nEvqMin then s.clampMin num core vi v else v)).refillEvents core).serveEvpop core
  else if num = Config.nTcqMin ∨ num = Config.nTcqCap then
    (s.cfgPut num core (if num = Config.nTcqMin then s.clampMin num core vi v else v)).modCore core (·.release (· == .copyQueue))
  else s.cfgPut num key v

/-- A write of `v` to register `num` through core `core` for interface `vi`: RO and RC registers ignore it, and the rest store it clamped
(R6, R289). DEDUCED: of a value from a 64-bit access, a register of at most 32 bits takes the low 32 (log 28). -/
def State.cfgWrite (s : State) (num core vi v : Nat) : State :=
  match Config.reg? num with
  | none => s
  | some r =>
    if r.access ≠ .rw then s
    else
      let wide := match r.fields with | [f] => decide (32 < f.len) | _ => false
      s.cfgStore num core vi (scopeKey r.scope core vi) (r.store (if wide then v % 2 ^ 64 else v % 2 ^ 32))

/-- A fault of the control thread of core `c` by a use that its state forbids, made at no instruction of its own. -/
def State.ctFaultAt (s : State) (c : Nat) : State :=
  { ({ s with issue := { s.issue with core := c, agent := .ct, iword := 0, pc := 0 } } : State).ctFault 0x03 7 with issue := s.issue }

/-! CFGRD and CFGWR (R289). -/

/-- CFGRD. -/
def execCfgrd (d i : Nat) (s : State) : Out :=
  privWith s fun v => issueWith false [] [d] v fun t =>
    let (x, t1) := t.cfgRead i t.issue.core (t.cfgGet Config.nCfgVi t.issue.core)
    .next (t1.giveAll [(d, BitVec.ofNat 32 x)]).retire

/-- CFGWR: its operand is read from v[d]. A write to SWAP_OUT waits for the control thread's earlier accesses (R315). -/
def execCfgwr (d i : Nat) (s : State) : Out :=
  privWith s fun v => issueWith false [d] [] v fun t =>
    let c := t.issue.core
    let x := (t.me.reg (t.issue.lanes.headD 0) d).toNat
    if i = Config.nSwapOut then
      let slot := min x 255
      if !t.mayLeave c slot then .next (t.reserved 7 0 0)
      else if t.ctBusy c then .next (t.hold t.issue.lanes .line)
      else .next (((t.cfgPut Config.nSwapOut c slot).swapOut c slot).retire)
    else if i = Config.nCtRun ∧ x = 0 then .next (t.retire.cfgWrite i c 0 x)
    else .next ((t.cfgWrite i c (t.cfgGet Config.nCfgVi c) x).retire)

/-! Writes from outside as events. -/

/-- CT_RUN_WRITE (R52). -/
def execCtRunWrite (core value : Nat) (s : State) : Out := .next (s.cfgWrite Config.nCtRun core 0 value)

/-- A write to SWAP_OUT from outside: one that breaks the conditions of R315 is a fault of the core's control thread (R413). -/
def State.swapOutWrite (s : State) (core value : Nat) : State :=
  let slot := min (value % 2 ^ 32) 255
  if !s.mayLeave core slot then s.ctFaultAt core
  else if s.ctBusy core then { s with retryNext := s.retryNext ++ [.swapOutWrite core value] }
  else (s.cfgPut Config.nSwapOut core slot).swapOut core slot

/-- SWAP_OUT_WRITE (R315). -/
def execSwapOutWrite (core value : Nat) (s : State) : Out := .next (s.swapOutWrite core value)

/-- VI_SYNC_WRITE: a write of 1 (R322). -/
def execViSyncWrite (vi : Nat) (s : State) : Out := .next (s.viSyncStart vi)

/-- An access of interface `vi` that was checked before operation `n` has not been performed yet (R322). -/
def State.accessesLeft (s : State) (vi n : Nat) : Bool :=
  s.ops.any (fun o => decide (o.id < n) && (o.vi? == some vi || o.vi? == none) && (match o.kind with
    | .store | .reply | .remote _ | .mma _ | .uapply _ => true
    | .copy r => r.job.isSome || s.rowsOut o.id
    | _ => false)) ||
  s.cores.any (fun k => k.2.groups.any fun g => match NMap.find k.2.teams g.2.team with
    | some m => m.vi == vi && !m.frozen && g.2.lanes.any fun x => match x.heldAt with | some i => decide (i ≤ n) | none => false
    | none => false) ||
  s.gpKept.any (fun k => k.window.vi == vi && decide (k.id ≤ n)) ||
  s.cores.any fun k => k.2.sideLog.any fun e => e.vi == vi && decide (e.id < n)

/-- VI_SYNC_COMPLETE: the accesses checked before the write are performed, and VI_SYNC reads 0 (R322). -/
def execViSyncComplete (vi : Nat) (s : State) : Out :=
  match NMap.find s.viSync vi with
  | none => .next s
  | some n => .next (if s.accessesLeft vi n then s else { s with viSync := NMap.drop s.viSync vi })

/-- PT_INVAL_WRITE (R327). -/
def execPtInvalWrite (vi value : Nat) (s : State) : Out := .next (s.cfgWrite Config.nPtInval 0 vi value)

/-- PT_INVAL_COMPLETE: PT_INVAL reads 0, and accesses that missed are tried again (R327, R328, R417, R419). -/
def execPtInvalComplete (vi : Nat) (s : State) : Out :=
  match s.ptInval.find? (·.1 == vi) with
  | none => .next s
  | some x =>
    match s.ptInvalDone vi x.2 with
    | .error w => .next { s.unitStops (.inval vi) none w with retryNext := s.retryNext ++ [.ptInvalComplete vi] }
    | .ok t =>
      let left := s.ptInval.erase x
      let u : State := { t.unitGoes (.inval vi) with ptInval := left }
      .next (if left.any (·.1 == vi) then u.pagesChanged else (u.cfgPut Config.nPtInval vi 0).pagesChanged)

/-- PWR_MODE_WRITE: the mode takes effect at the next tick (R14, R15). -/
def execPwrModeWrite (value : Nat) (s : State) : Out := .next (s.cfgWrite Config.nPwrMode 0 0 value)

/-- FAB_ROUTE_WRITE: the route toward rank FAB_RIDX (R348); what waits for a dead port toward it goes by the new one, in order (R425). -/
def execFabRouteWrite (value : Nat) (s : State) : Out := .next (s.cfgWrite Config.nFabRoute 0 0 value)

/-- TRC_CTL_WRITE (R453). -/
def execTrcCtlWrite (core value : Nat) (s : State) : Out := .next (s.cfgWrite Config.nTrcCtl core 0 value)

/-- DSTOP_EN_WRITE (R452, R456). -/
def execDstopEnWrite (vi value : Nat) (s : State) : Out := .next (s.cfgWrite Config.nDstopEn 0 vi value)

/-- COUNTER_READ_CLEAR: a counter's value is returned, and it holds 0 (R6, R384). -/
def execCounterReadClear (number core vi : Nat) (s : State) : Out :=
  match Config.reg? number with
  | some r => if r.access = .rc then
      let (x, t) := s.cfgRead number core vi
      .next { t with gpValue := x, gpFault := false }
    else .next s
  | none => .next s

end Sys2Proof.Machine
end

