-- ==== Sys2Proof/Machine/Outside.lean ====
section
/-!
DEFINITION. Accesses from outside the accelerator cores: those of other chips through remote windows (R60, R321, R431), those of the
general-purpose cores through the aperture and by physical address (R341, R342), and the spine's register window (R343, R344).
-/
namespace Sys2Proof.Machine

/-- What an access from outside comes to: a page is awaited; another access is awaited; poison; a failed check; or a value. -/
inductive Ans where
  | page | later | poison
  | refused (check : Nat)
  | value (v : Nat)
  deriving DecidableEq, Repr

/-- A read's outcome as that of an access from outside; poison is consumed here (R420). -/
def State.outAns (s : State) (a : Actor) (consumer : Nat) : Got → State × Ans
  | .held .page => (s, .page)
  | .held _ => (s, .later)
  | .poison _ pa => (s.poisonUse a.vi? consumer pa, .poison)
  | .value v => (s, .value v)

/-- An access from outside as the owner of claims: each goes by what it asks, so that a later one waits behind it (R87, R97). -/
def outLane (xs : List Nat) : Nat × Agent × Nat := (128, .grp (xs.foldl (fun a x => a * 2 ^ 1100 + x) 1), 0)

/-- A load of `n` bytes from outside. -/
def State.outLoad (s : State) (a : Actor) (me : Nat × Agent × Nat) (r : Ref) (n consumer : Nat) : State × Ans :=
  let (t, g) := s.readAt a me r n 0
  t.outAns a consumer g

/-- A write of `n` bytes from outside, made by `go` once its pages are present: it never enters a side log (R342). -/
def State.outWrite (s : State) (a : Actor) (r : Ref) (n : Nat) (go : State → State × Put) : State × Ans :=
  let s1 := s.prepare r n
  match s1.missing r.space r.va n with
  | some m => (s1.mapRequest a r.space m 0, .page)
  | none => match go s1 with
    | (t, .done) => (t, .value 0)
    | (t, _) => (t, .later)

/-- A store from outside (R341, R342, R348). -/
def State.outStore (s : State) (a : Actor) (me : Nat × Agent × Nat) (r : Ref) (h : Nat) (bs : List Byte) : State × Ans :=
  s.outWrite a r bs.length fun t =>
    let clear := match t.locate r.space r.va bs.length with
      | some rs => t.cleared (runWrites 0 0 0 rs bs)
      | none => []
    t.storeAt a me r 0 h clear bs

/-- A copy's row with poisoned bytes, one bit for each above the row in `data`: the granules that they reach are poisoned (R421). -/
def State.outRow (s : State) (a : Actor) (me : Nat × Agent × Nat) (r : Ref) (h n data : Nat) : State × Ans :=
  s.outWrite a r n fun t =>
    let bs := leBytes data n
    let bad := (List.range n).filter fun i => bit data (8 * n + i)
    let hurt := (bad.filterMap fun i => (t.lookup r.space (r.va + i)).map (· / 32)).foldr addTo []
    let clear := match t.locate r.space r.va n with
      | some rs => (t.cleared (runWrites 0 0 0 rs bs)).filter (!hurt.contains ·)
      | none => []
    t.writeAt a me r n [] true fun u rs =>
      ({ u with poison := hurt.foldl (fun l k => addTo k l) u.poison } : State).commit a clear (runWrites a.depth h r.off rs bs)

/-- The operands and comparands of an atomic that arrives, of `k` lanes, 64 bits each. -/
def atomOperands (n data : Nat) : Nat → List (Nat × Nat × Nat)
  | 0 => []
  | k + 1 => (k, data % 2 ^ 64 % 2 ^ (8 * n), data / 2 ^ 64 % 2 ^ (8 * n)) :: atomOperands n (data / 2 ^ 128) k

/-- An atomic of `k` lanes from outside, one step; poison discards one that returns nothing (R60, R206, R209, Table Fm-4). What it returns
is the value that the first lane found, from which the issuing chip knows every lane's. -/
def State.outAtomic (s : State) (a : Actor) (me : Nat × Agent × Nat) (r : Ref) (h op ty k data : Nat) (nr : Bool) : State × Ans :=
  let n := atomBytes ty
  let (t, g) := s.rmwAt a me r n h fun m => atomFinal op ty m (atomOperands n data (max k 1))
  match nr, g with
  | true, .poison o pa => ((t.poisonUse a.vi? 1 pa).postPoison a h o 5 1, .value 0)
  | _, _ => t.outAns a 1 g

/-- The name that the pairs of a lane of another chip go by here: its rank and the number that its chip gives the lane (R211). -/
def farAgent (rank tag : Nat) : Agent := .grp (2 ^ 40 * (rank + 1) + tag)

/-- An update pair from another chip joins the bindery's stream (R60, R71, R429). -/
def State.outPair (s : State) (a : Actor) (me : Nat × Agent × Nat) (g : Agent) (r : Ref) (n val : Nat) : State × Ans :=
  s.outWrite a r n fun t =>
    match t.lookup r.space r.va, t.binding? r.vi r.index with
    | some pa, some b =>
      if t.spillFull (binderyOf pa) r.vi then (t, .held .spillArea)
      else t.writeAt a me r n [] false fun x rs => .ok (x.emitAt a a.core g [0] b val rs)
    | _, _ => (t, .held .page)

/-- UFLUSH's request from another chip: the pairs of a lane there are applied (R211). -/
def State.outFlush (s : State) (g : Agent) : State × Ans :=
  match s.applyFolios (((s.pairs.filter fun p => decide (p.agent = g)).map fun p => p.pa / 4096).foldr addTo []) with
  | .ok t => (t, .value 0)
  | .error _ => (s, .later)

/-- A WAITC from another chip: its value at once, or a monitor is armed here for the buffer's interface and no grid, since none has number 0;
its wake-up crosses the fabric (R60, R85, R105, R106). -/
def State.outWaitc (s : State) (a : Actor) (me : Nat × Agent × Nat) (r : Ref) (h ty rel cmp : Nat) : State × Ans :=
  let n := if ty < 2 then 4 else 8
  match s.readAt a me r n 0 with
  | (t, .value v) =>
    if intRel rel (typedInt ty v) (typedInt ty cmp) then (t, .value v)
    else match t.lookup r.space r.va with
    | none => (t, .later)
    | some pa =>
      let sl := t.homeSlice r r.off
      let c : Cond := ⟨pa, sl, ty, rel, [(0, cmp)], h, r.off⟩
      ({ t with
        ops := t.ops ++ [⟨t.opSeq, a.core, .grp (257 + t.opSeq), [], .waitc 0 c (decide (t.armedAt sl < 512)), none, none, t.clk, false, 0, 0, some (r.vi, 0, 0)⟩]
        opSeq := t.opSeq + 1 }, .value 0)
  | (t, g) => t.outAns a 2 g

/-- BIND, or UNBIND where `b` is none, from another chip (R60, R229, R231). -/
def State.outBind (s : State) (me : Nat × Agent × Nat) (r : Ref) (b : Option Binding) : State × Ans :=
  if s.loggedOf r.vi r.index then (s, .later)
  else match s.rebind r.vi r.index b with
  | .ok t => (t.unclaim me, .value 0)
  | .error w => (s.blockOn me r.space r.va 1 w, .later)

/-- UAPPLY from another chip: the folio of a byte is applied (R60, R212). -/
def State.outUapply (s : State) (a : Actor) (me : Nat × Agent × Nat) (r : Ref) : State × Ans :=
  s.outWrite a r 1 fun t => match t.lookup r.space r.va with
    | none => (t, .held .page)
    | some pa =>
      if t.loggedOn [pa / 4096] t.opSeq then (t, .held .line)
      else match t.applyFolio (pa / 4096) with
      | .ok u => (u.unclaim me, .done)
      | .error w => (t.blockOn me r.space r.va 1 w, .held .spillRing)

/-- A ring item from another chip's watch: 0 where the ring is full, else the position it took, plus 1 (R82). -/
def State.outPush (s : State) (a : Actor) (me : Nat × Agent × Nat) (r : Ref) (cap item watch : Nat) : State × Ans :=
  match s.ringPush a me r cap item with
  | (t, .ok (some pos)) => ({ t with pushed := t.pushed ++ [(r.ringKey, pos, watch)] }, .value (pos + 1))
  | (t, .ok none) => (t, .value 0)
  | (t, .error .page) => (t, .page)
  | (t, .error _) => (t, .later)

/-- A watch instruction of another chip on the descriptor `r` of this one: 0 WATCH, with its handles those of this chip's interface, 1 WDROP,
2 WRESUME, 3 WSTAT (R60, R225 to R228). A descriptor out of range is refused as 16 + the bit of the field, reason 6. -/
def State.outWatch (s : State) (a : Actor) (me : Nat × Agent × Nat) (r : Ref) (h op susp : Nat) : State × Ans :=
  match op, s.watchAt r with
  | 0, _ => match s.readAt a me r 64 0 with
    | (t, .value desc) =>
      let len := match t.resolve a (fld desc 0 32) 0 0 [] none with
        | .ok w => some w.bufLen
        | .error _ => none
      match descBad desc len, t.watchBuffers a desc 0 with
      | some b, _ => (t, .refused (16 + b))
      | none, .error f => (t, .refused (f.2.1 / 256 % 256))
      | none, .ok (w, st) =>
        let t2 := if st.remote.isSome then t else t.prepare st 32
        match (if st.remote.isSome then none else t2.missing st.space st.va 32) with
        | some m => (t2.mapRequest a st.space m 1, .page)
        | none =>
          let (t3, x) := t2.makeWatchFor a.vi a.depth h r w st desc susp
          (t3, .value x)
    | (t, g) => t.outAns a 0 g
  | 3, none => (s, .value (2 ^ 128 - 1))
  | 3, some w => if !s.statusReady w then (s.statusAsk w, .later) else (s, .value (((s.watchWords w).zipIdx.map fun x => x.1 % 2 ^ 32 * 2 ^ (32 * x.2)).sum))
  | _, none => (s, .value 0xFFFFFFFF)
  | 1, some w => (s.dropWatch w a.depth, .value (s.trigs.filter (·.watch == w.id)).length)
  | _, some w => if !s.statusReady w then (s.statusAsk w, .later) else (s.resumeWatch w a.depth, .value (s.statusWord w))

/-- A work-queue pop from another chip: the item plus 1, or 0 (R33 to R35, R60). -/
def State.outPop (s : State) (a : Actor) (q : WorkQueue) (r : Ref) : State × Ans :=
  match s.popOne a q r with
  | (t, .ok (some i)) => (t, .value (i + 1))
  | (t, .ok none) => (t, .value 0)
  | (t, .error .page) => (t, .page)
  | (t, .error _) => (t, .later)

/-- The bytes and rights of an access that arrives, by its kind (Table Ms-2, R43): 0 load, 1 store, 2 pair of the lane `ty`, 3 WAITC, 4 BIND,
5 UNBIND, 6 UAPPLY, 7 pop of a counter, 8 pop of a ring of `ty` items, 9 join decrement, 10 to 13 the watch instructions, 14 push into a
ring of `ty` items, 15 a code word, 16 + op a returning and 32 + op another atomic of `bytes` lanes, 48 a row with poisoned bytes. -/
def arrivalNeeds (bytes kind ty : Nat) : Nat × List Right :=
  match kind with
  | 0 => (bytes, [.read])
  | 1 | 48 => (bytes, [.write])
  | 2 => (bytes, [.update])
  | 3 => (if ty % 4 < 2 then 4 else 8, [.read])
  | 4 => (1, [.write])
  | 5 => (1, [.write])
  | 6 => (1, [.update])
  | 7 => (4, [])
  | 8 => (64 + 4 * ty, [])
  | 9 => (4, [.read])
  | 10 | 11 | 12 | 13 => (64, [.read])
  | 14 => (64 + 4 * ty, [])
  | 15 => (4, [.execute])
  | _ => (atomBytes ty, [.atomic])

/-- Check 5's part beyond the rights: the binding-region flag, and for a pair an operator of its width (Table Ms-2). -/
def State.arrivalBound (s : State) (vi h e bytes kind : Nat) : Bool :=
  match kind with
  | 2 => entBinding e && (match s.binding? vi (h % 65536) with | some b => opcBytes b.opc == bytes | none => false)
  | 4 => entBinding e
  | 5 => entBinding e
  | 6 => entBinding e
  | _ => true

/-- An access of another chip, checked against this chip's entry and performed (R60, R321, R431). -/
def State.arrive (s : State) (rank vi h off bytes kind ty data depth : Nat) : State × Ans :=
  let (n, rights) := arrivalNeeds bytes kind ty
  match s.checkEntry vi h off n rights none with
  | .error c => (s, .refused c)
  | .ok e =>
    if entWindow e then (s, .refused 1)
    else if !s.arrivalBound vi h e bytes kind then (s, .refused 5)
    else
      let a : Actor := ⟨s.physCore vi 0, false, vi, depth⟩
      let r : Ref := ⟨vi, entBase e + off, e, vi, h % 65536, off, e, none⟩
      let me := outLane [rank, vi, h, off, bytes, kind, ty, data, depth]
      match kind with
      | 0 | 15 => s.outLoad a me r n 0
      | 1 => s.outStore a me r h (leBytes data n)
      | 2 => s.outPair a me (farAgent rank ty) r n (data % 2 ^ (8 * n))
      | 3 => s.outWaitc a me r h (ty % 4) (ty / 4) data
      | 4 => s.outBind me r (some ⟨vi, h % 65536, ty, data % 2 == 1⟩)
      | 5 => s.outBind me r none
      | 6 => s.outUapply a me r
      | 7 => s.outPop a ⟨1, h, off, ty⟩ r
      | 8 => s.outPop a ⟨2, h, off, ty⟩ r
      | 9 =>
        let (t, g) := s.atomAt a me r 4 4 h fun v => some ((v + 4294967295) % 4294967296)
        t.outAns a 1 g
      | 10 | 11 | 12 | 13 => s.outWatch a me r h (kind - 10) ty
      | 48 => s.outRow a me r h n data
      | 14 => s.outPush a me r ty (data % 2 ^ 32) (2 ^ 32 * (rank + 1) + data / 2 ^ 32)
      | k => s.outAtomic a me r h (k % 16) ty bytes data (decide (32 ≤ k))

/-- What a chip asks without a handle: 64 the applies of the pairs of its lane `ty` (R211), 65 the word that an item of watch `ty` here,
pushed there, has been popped (R82); or an access through one. -/
def State.arriveAny (s : State) (rank vi h off bytes kind ty data depth : Nat) : State × Ans :=
  match kind with
  | 64 => s.outFlush (farAgent rank ty)
  | 65 => (s.itemPopped ty, .value 0)
  | _ => s.arrive rank vi h off bytes kind ty data depth

/-- An access of another chip still waits ahead of rank `rank`'s later ones. -/
def sameRank (rank : Nat) : Instr → Bool
  | .remoteAccessArrival q _ _ _ _ _ _ _ _ => q == rank
  | _ => false

/-- An access that cannot be performed yet is kept: for a page, or until the next cycle. -/
def State.keep (s : State) (e : Instr) (page : Bool) : State :=
  if page then { s with gpHeld := s.gpHeld ++ [e] } else { s with retryNext := s.retryNext ++ [e] }

/-- The end of an access from outside: what it returned, or that it is kept. `fail` is the value that a refusal returns. -/
def State.outEnd (s : State) (e : Instr) (fail : Nat → Nat) : Ans → State
  | .page => s.keep e true
  | .later => s.keep e false
  | .poison => { s with gpValue := fail 6, gpFault := true }
  | .refused c => { s with gpValue := fail c, gpFault := true }
  | .value v => { s with gpValue := v, gpFault := false }

/-- What an access from outside goes by: the window that it was checked with before, or the one given. -/
def State.windowOf (s : State) (e : Instr) (x : Window) : Window := ((s.gpKept.find? (·.event == e)).map (·.window)).getD x

/-- An access from outside through a handle keeps the outcome of its checks while it waits: the window, and the table entries they read
(R322, R342). -/
def State.checkedOnce (s : State) (e : Instr) (x : Window) (go : State → State) : State :=
  let y := s.windowOf e x
  let k := (s.gpKept.find? (·.event == e)).getD ⟨e, y, s.entriesOf y.vi y.handle, s.opSeq⟩
  let others := s.gpKept.filter (·.event != e)
  let t := go { s.atCore 128 with kept := k.entries }
  let waits := t.gpHeld.contains e || t.retryNext.contains e
  { t with kept := [], gpKept := if waits then others ++ [k] else others }

/-- REMOTE_ACCESS_ARRIVAL: accesses of one chip are performed in the order they came (R60, R348, R431). The reply, or the check that
refused it, is what this chip sends back. DEDUCED: with no port enabled nothing arrives (log 134). -/
def execRemoteAccessArrival (rank vi handle off bytes kind ty data depth : Nat) (s : State) : Out :=
  let e : Instr := .remoteAccessArrival rank vi handle off bytes kind ty data depth
  if s.cfgGet Config.nFabEn 0 = 0 then .next s
  else if s.gpHeld.any (sameRank rank) then .next (s.keep e true)
  else if s.retryNext.any (sameRank rank) then .next (s.keep e false)
  else
    finish (s.checkedOnce e ⟨true, vi, handle⟩ fun t =>
      let (u, x) := t.arriveAny rank vi handle off bytes kind ty data depth
      u.outEnd e id x)

/-! The buffer aperture. -/

/-- An access of a general-purpose core at offset `off` of aperture window `w`: kind 0 a load, 1 a store, 16 + op an atomic (R342). One that
waits keeps the window it was checked against. -/
def State.aperture (s : State) (e : Instr) (w off bytes kind ty data : Nat) : State :=
  let x := s.windowOf e ((NMap.find s.windows w).getD ⟨false, 0, 0⟩)
  let a : Actor := ⟨s.physCore x.vi 0, false, x.vi, 0⟩
  let me := outLane [w, off, bytes, kind, ty, data]
  let n := if kind ≤ 1 then bytes else atomBytes ty
  let right : Right := if kind = 0 then .read else if kind = 1 then .write else .atomic
  if !x.en then s.outEnd e (fun _ => 0) (.refused 0)
  else match s.resolve a x.handle off n [right] none with
    | .error c => s.outEnd e (fun _ => 0) (.refused c)
    | .ok r =>
      match r.remote with
      | some rank => s.sendOutside a rank x.handle off (if kind = 1 then .posted else .outside)
          (match kind with
            | 0 => .read n
            | 1 => .store (leBytes data n)
            | k => .atomic (k % 16) ty (atomOperands n data 1))
      | none =>
        let (t, y) := match kind with
          | 0 => s.outLoad a me r n 0
          | 1 => s.outStore a me r x.handle (leBytes data n)
          | k => s.outAtomic a me r x.handle (k % 16) ty 1 data false
        t.outEnd e (fun _ => 0) y

/-- The same, with what its checks found when it was first made. -/
def State.apertureOnce (s : State) (e : Instr) (w off bytes kind ty data : Nat) : State :=
  s.checkedOnce e ((NMap.find s.windows w).getD ⟨false, 0, 0⟩) fun t => t.aperture e w off bytes kind ty data

/-- APERTURE_ACCESS (R342). -/
def execApertureAccess (window off bytes kind ty data : Nat) (s : State) : Out :=
  finish (s.apertureOnce (.apertureAccess window off bytes kind ty data) window off bytes kind ty data)

/-! The spine's registers. -/

/-- A word of a launch queue's block, by its number (Table Sy-1). -/
def LaunchQueue.word (x : LaunchQueue) (n : Nat) : Nat :=
  match n with
  | 0 => x.qbase * 4096
  | 1 => x.prio * 256 + x.qlog
  | 2 => x.tail
  | _ => x.head

/-- A word of launch queue `q` written: QBASE and QLOG only while the queue is empty, HEAD never (Table Sy-1, R345). -/
def State.queueWrite (s : State) (q n v : Nat) : State :=
  let x := s.queue q
  match n with
  | 0 => if x.head = x.tail then s.modQueue q ({ · with qbase := fld v 12 40 }) else s
  | 1 => if x.head = x.tail then s.modQueue q ({ · with prio := fld v 8 3, qlog := max 4 (min 16 (fld v 0 5)) }) else s
  | 2 => s.tailWrite q v
  | _ => s

/-- An aperture window's register as a word (Table Sy-6). -/
def Window.word (x : Window) : Nat := x.handle + x.vi * 2 ^ 32 + x.en.toNat * 2 ^ 38

/-- An aperture window's register written. -/
def State.windowWrite (s : State) (w v : Nat) : State := { s with windows := NMap.put s.windows w ⟨bit v 38, fld v 32 6, fld v 0 32⟩ }

/-- A configuration register written from outside; SWAP_OUT swaps (R289, R315, R343). -/
def State.spineWrite (s : State) (num core vi v : Nat) : State :=
  if num = Config.nSwapOut then s.swapOutWrite core v else s.cfgWrite num core vi v

/-- CONFIG_REGISTER_WRITE: a register by its number (R289); 0x2000 + n is word n of launch queue `vi`, counted 16 × interface + queue, and
0x2004 aperture window `vi` (R342, R344). -/
def execConfigRegisterWrite (number core vi value : Nat) (s : State) : Out :=
  if number < 0x2000 then .next (s.spineWrite number core vi value)
  else if number < 0x2004 then
    .next (if number = 0x2002 ∧ s.gpBusy then { s with retryNext := s.retryNext ++ [.configRegisterWrite number core vi value] }
      else s.queueWrite vi (number - 0x2000) value)
  else if number = 0x2004 then .next (s.windowWrite vi value)
  else .next s

/-- What an address of the register window names (Table Sy-7): a register of an interface; of a core; a launch queue's word; a window. -/
inductive Spine where
  | none
  | vi (v num : Nat)
  | core (c num : Nat)
  | queue (q n : Nat)
  | window (w : Nat)
  deriving DecidableEq, Repr

/-- The register number `n` is of core scope. -/
def coreScope (n : Nat) : Bool := match Config.reg? n with | some r => r.scope == .core | none => false

/-- What offset `o` of the register window names (R343, R344, Table Sy-7). DEDUCED: the core-scope registers of all 128 cores are reached as
R343 computes, above the end of the range in Table Sy-7 (log 32). -/
def spineOf (o : Nat) : Spine :=
  if o % 8 ≠ 0 then .none
  else if o < 0x400000 then
    let n := o % 0x10000 / 8
    if coreScope n then .none else .vi (o / 0x10000) n
  else if 0x800000 ≤ o ∧ o < 0x810000 then
    let i := o - 0x800000
    if i % 0x400 < 0x200 then .queue (16 * (i / 0x400) + i % 0x400 / 0x20) (i % 0x20 / 8) else .none
  else if 0x900000 ≤ o ∧ o < 0x900400 then
    if o % 16 = 0 then .window ((o - 0x900000) / 16) else .none
  else if 0xA00000 ≤ o ∧ o < 0xB00000 then
    let i := o - 0xA00000
    let n := i % 0x2000 / 8
    if coreScope n ∧ i / 0x2000 < 128 then .core (i / 0x2000) n else .none
  else .none

/-- The base of the register window. -/
abbrev spineBase : Nat := 0x1F0000000000
/-- The base of the buffer aperture. -/
abbrev apertureBase : Nat := 0x1E0000000000

/-- A read of the register window. -/
def State.spineRead (s : State) (x : Spine) : Nat × State :=
  match x with
  | .none => (0, s)
  | .vi v n => s.cfgRead n 0 v
  | .core c n => s.cfgRead n c 0
  | .queue q n => ((s.queue q).word n, s)
  | .window w => (((NMap.find s.windows w).getD ⟨false, 0, 0⟩).word, s)

/-- A write of the register window. -/
def State.spinePut (s : State) (x : Spine) (v : Nat) : State :=
  match x with
  | .none => s
  | .vi i n => s.spineWrite n 0 i v
  | .core c n => s.spineWrite n c 0 v
  | .queue q n => s.queueWrite q n v
  | .window w => s.windowWrite w v

/-- An access of a general-purpose core to memory by physical address, at depth 0, homed as FINE (R341). -/
def State.plain (s : State) (e : Instr) (pa bytes : Nat) (write : Bool) (data : Nat) : State :=
  if bytes = 0 ∨ !isMemory pa ∨ !isMemory (pa + bytes - 1) then s.outEnd e (fun _ => 0) (.refused 0)
  else
    let a : Actor := ⟨s.physCore 0 0, true, 0, 0⟩
    let r : Ref := ⟨physSpace, pa, 0, 0, 0, pa, 0, none⟩
    let me := outLane [pa, bytes, write.toNat, data]
    let (t, y) := if write then s.outStore a me r 0 (leBytes data bytes) else s.outLoad a me r bytes 0
    t.outEnd e (fun _ => 0) y

/-- GP_PLAIN_ACCESS: an access by address, to memory, the aperture or the register window (R340 to R343). -/
def execGpPlainAccess (pa bytes : Nat) (write : Bool) (data : Nat) (s : State) : Out :=
  let e : Instr := .gpPlainAccess pa bytes write data
  if spineBase ≤ pa ∧ pa < spineBase + 0x1000000 then
    let x := if bytes = 4 ∨ bytes = 8 then spineOf (pa - spineBase) else .none
    if write && s.gpBusy && (match x with | .queue _ 2 => true | _ => false) then .next { s with retryNext := s.retryNext ++ [e] }
    else if write then .next { s.spinePut x (data % 2 ^ (8 * bytes)) with gpValue := 0, gpFault := false }
    else
      let (v, t) := s.spineRead x
      .next { t with gpValue := v % 2 ^ (8 * bytes), gpFault := false }
  else if apertureBase ≤ pa ∧ pa < apertureBase + 64 * 2 ^ 32 then
    finish (s.apertureOnce e ((pa - apertureBase) / 2 ^ 32) ((pa - apertureBase) % 2 ^ 32) bytes (if write then 1 else 0) 0 data)
  else finish (s.plain e pa bytes write data)

end Sys2Proof.Machine
end

