-- ==== Sys2Proof/Machine/Tiers.lean ====
section
/-!
DEFINITION. The tiers of paged memory: page moves line by line and their failure (R331, R332, R426), page-ins (R328, R427), access-bit
sweeps, demotion and promotion (R333, R334, R428), and the re-homing of AUTO buffers (R337, R338).
-/
namespace Sys2Proof.Machine

/-- The storage slot that a demoted page takes. DESIGN CHOICE: the number of its first 64 KiB, since the spec gives none (log 34). -/
def slotOf (va : Nat) : Nat := va / 65536

/-! Moves line by line. -/

/-- The move out of the page at `src`. -/
def State.mig? (s : State) (src : Nat) : Option Migration := s.migs.find? (·.src == src)

/-- The move out of `src` changed. -/
def State.modMig (s : State) (src : Nat) (f : Migration → Migration) : State :=
  { s with migs := s.migs.map fun m => if m.src = src then f m else m }

/-- An address in the `n` bytes at `a` follows them to `b`. -/
def follow (a b n x : Nat) : Nat := if a ≤ x ∧ x < a + n then b + (x - a) else x

/-- What the part keeps by physical address follows `n` bytes from `a` to `b`: pairs in the bindery and conditions (R91, R331). -/
def State.bytesFollow (s : State) (a b n : Nat) : State :=
  let go := fun (c : Cond) => { c with pa := follow a b n c.pa }
  { s with
    pairs := s.pairs.map fun (p : Pair) => { p with pa := follow a b n p.pa }
    ops := s.ops.map fun (o : Op) => match o.kind with
      | .waitc d c m => { o with kind := .waitc d (go c) m }
      | _ => o
    lq := s.lq.map fun q => (q.1, { q.2 with waits := q.2.waits.map go, polls := q.2.polls.map go })
    swapped := s.swapped.map fun (w : Swapped) => { w with conds := w.conds.map go } }

/-- `n` bytes at `a` copied to `b`: their values, their poison, and what follows them (R331, R420, R426). -/
def State.copyPart (s : State) (a b n : Nat) : State :=
  let s1 := s.detect a n
  let dst := sectors b n
  let hurt := ((sectors a n).filter s1.poisoned).map fun k => k - a / 32 + b / 32
  let cs := if s1.lost a then [] else cellsOf s1.mem a n
  ({ s1 with
    mem := putCells s1.mem b n cs
    poison := hurt.foldl (fun l k => addTo k l) (s1.poison.filter fun k => !dst.contains k)
    latentCe := s1.latentCe.filter fun k => !dst.contains k
    latentUe := s1.latentUe.filter fun k => !dst.contains k } : State).bytesFollow a b n

/-- A line of T0 moves below it and is expanded: where it is held compressed, a sector with an uncorrectable error has its metadata there, and what
comes of it is poison that the interface hears of (R336, R428). Whether the slice holds a line compressed is a free value, of a line that may be:
one that repeats a word of 4 bytes (R335). -/
def State.expand (s : State) (m : Migration) (a b : Nat) : State :=
  let hurt := (sectors a 64).filter s.latentUe.contains
  let word := Mem.bytes s.mem a 4
  if hurt = [] ∨ tierOf a ≠ 0 ∨ tierOf b = 0 ∨ !((List.range 16).all fun i => Mem.bytes s.mem (a + 4 * i) 4 == word) then s
  else
    let t : State := { s with freeCtr := s.freeCtr + 1 }
    if Config.freeBool s.freeCtr then t else t.postHome 0x15 m.vi [0, a, 4, hurt.length]

/-- The line cannot be read back: its source is written poisoned (R426). -/
def State.lineLost (s : State) (m : Migration) (a b : Nat) : State :=
  let s1 : State := { s with mem := Mem.clear s.mem a 64, poison := (sectors a 64).foldl (fun l k => addTo k l) s.poison }
  (s1.bytesFollow b a 64).postHome 0x15 m.vi [0, a, 4, 2]

/-- A leaf entry with a new page address, no longer BUSY (Table Vi-5). -/
def pteAt (e dst : Nat) : Nat := e % 16 - (e / 4 % 2) * 4 + (e / 128 % 2) * 128 + tierOf dst * 16 + dst

/-! Demotion and promotion. -/

/-- Bytes of a tier that demotions on their way will free. -/
def State.leaving (s : State) (tier : Nat) : Nat :=
  ((s.migs.filter fun m => m.kind == 0 && !m.back && tierOf m.src == tier).map (64 * ·.lines)).sum

/-- A demotion of the page at `base` starts: to a free page of the next tier, or from T2 to its slot in storage, where poison has no code
(R331, R333, R428). -/
def State.demote (s : State) (tier vi va ea base size : Nat) : Option State :=
  if !s.canMove base then none
  else if tier = 2 then
    if (sectors base size).any s.poisoned then none else some (s.startMove 0 vi va ea base (storedAt vi (slotOf va)) size)
  else (s.freeIn (tier + 1) size).map fun p => s.startMove 0 vi va ea base p size

/-- A cold page of a tier as a victim: it is present there, not pinned and not being moved (R333). -/
def State.tryVictim (s : State) (tier vi va : Nat) : Option State :=
  match s.walk vi va with
  | .page ea base size =>
    let e := s.physNat ea 8
    if tierOf base ≠ tier ∨ bit e 7 ∨ bit e 6 then none else s.demote tier vi va ea base size
  | _ => none

/-- The mark of a tier that is being freed up to HIGH (the model's own). -/
def freeingKey (tier : Nat) : Nat := 900 + tier

/-- Victims of a tier, coldest first, until its free fraction will reach HIGH (R333). -/
def State.demoteCold (s : State) (tier : Nat) : List (Nat × Nat × Nat) → State
  | [] => s
  | (t, v, va) :: rest =>
    if s.wmHigh tier * s.poolBytes tier ≤ 100 * (s.freeBytes tier + s.leaving tier) then s
    else if t ≠ tier then s.demoteCold tier rest
    else match s.tryVictim tier v va with
      | some u => ({ u with cold := u.cold.filter (· ≠ (t, v, va)) } : State).demoteCold tier rest
      | none => s.demoteCold tier rest

/-- A tier below LOW is freed up to HIGH, the next tier first where it is below LOW itself (R333). -/
def State.demoteTier (s : State) (tier : Nat) : State :=
  let marked := (NMap.find s.turns (freeingKey tier)).isSome
  if s.freeAtLeast tier (s.wmHigh tier) then { s with turns := NMap.drop s.turns (freeingKey tier) }
  else if !marked && s.freeAtLeast tier (s.wmLow tier) then s
  else
    let s1 : State := { s with turns := NMap.put s.turns (freeingKey tier) 1 }
    if tier < 2 ∧ !s.freeAtLeast (tier + 1) (s.wmLow (tier + 1)) then s1 else s1.demoteCold tier s1.cold

/-- Page moves that waited start where they can: promotions that wait for it once T0 has reached HIGH, and the others once their table and
their stack have room (R332, R334). -/
def State.startWanted (s : State) : State :=
  s.promos.foldl (fun t x =>
    if x.high && !t.freeAtLeast 0 (t.wmHigh 0) then t
    else match t.tryMove x with
      | some u => { u with promos := u.promos.filter (· ≠ x) }
      | none => t) s

/-! Re-homing a span of an AUTO buffer. -/

/-- The entry of a span's buffer, the span's first address, and its bytes: as many as the buffer has of it. -/
def State.spanOf (s : State) (x : AutoSpan) : Nat × Nat × Nat :=
  let e := s.physNat (s.entryAddr x.vi x.index) 32
  (e, entBase e + x.span * 2097152, min 2097152 (entLen e - x.span * 2097152))

/-- The spans of `x`'s buffer and number changed. -/
def State.modAuto (s : State) (k : Nat × Nat × Nat) (f : AutoSpan → AutoSpan) : State :=
  { s with autos := s.autos.map fun x => if (x.vi, x.index, x.span) = k then f x else x }

/-- A condition's home slice, looked up again through its handle. -/
def State.condHome (s : State) (a : Actor) (c : Cond) : Cond :=
  match s.resolve a c.h c.off 1 [] none with
  | .ok r => if r.remote.isSome ∨ fld r.entry 118 2 ≠ 3 then c else { c with slice := s.homeSlice r r.off }
  | .error _ => c

/-- What a slice holds for lines whose home has moved goes to the new one: monitors and triggers, in their order (R338). -/
def State.homesMoved (s : State) : State :=
  let actorOf := fun (vi : Nat) => (⟨0, false, vi, 0⟩ : Actor)
  { s with
    ops := s.ops.map fun (o : Op) => match o.kind with
      | .waitc d c m => match o.agent, o.vi? with
        | .ct, _ => { o with kind := .waitc d (s.condHome ⟨o.core, true, 0, 0⟩ c) m }
        | _, some v => { o with kind := .waitc d (s.condHome (actorOf v) c) m }
        | _, none => o
      | _ => o
    lq := s.lq.map fun q =>
      let go := s.condHome (actorOf (q.1 / 16))
      (q.1, { q.2 with waits := q.2.waits.map go, polls := q.2.polls.map go })
    swapped := s.swapped.map fun (w : Swapped) => { w with conds := w.conds.map (s.condHome (actorOf w.vi)) }
    trigs := s.trigs.map fun (t : Trigger) => match s.watch? t.watch with
      | some w => { t with slice := s.leadSlice w t.off }
      | none => t }

/-- A span's home is the new one, and its pages are wanted in stacks 2f and 2f + 1, alternating by page, and no more where an earlier home wanted them
(R337). -/
def State.rehomed (s : State) (x : AutoSpan) : State :=
  let (_, lo, n) := s.spanOf x
  let s1 := ({ s with promos := s.promos.filter fun y => y.kind != 3 || y.vi != x.vi || decide (y.va + 65536 ≤ lo) || decide (lo + n ≤ y.va) }
    : State).modAuto (x.vi, x.index, x.span) fun y => { y with home := (x.goal.getD x.home), goal := none, pos := 0 }
  match x.goal with
  | some (some f) =>
    (List.range ((lo + n + 65535) / 65536 - lo / 65536)).foldl (fun t i =>
      let va := (lo / 65536 + i) * 65536
      if t.inHeap x.vi va then t
      else match t.walk x.vi va with
        | .page _ _ size => if va % size = 0 then t.want ⟨x.vi, va, 3, some (2 * f + i % 2), false⟩ else t
        | _ => t) s1.homesMoved
  | _ => s1.homesMoved

/-- The first line of a span that is present, by its physical address. -/
def State.spanPlace (s : State) (x : AutoSpan) : Option Nat :=
  let (_, lo, n) := s.spanOf x
  (List.range 33).findSome? fun i =>
    let va := if i = 0 then lo else (lo / 65536 + i) * 65536
    if va < lo + n then s.lookup x.vi va else none

/-- A span whose re-home is wanted and not on its way: it takes an entry of the controller of its first present line, whose pointer moves the
homes line by line, or it waits for one (R338). DEDUCED: a span with no present line, for which no slice holds anything, changes at
once (log 35). -/
def State.startRehome (s : State) (x : AutoSpan) : State :=
  let k := (x.vi, x.index, x.span)
  if x.goal.isNone ∨ s.migs.any (·.auto == some k) then s
  else match s.spanPlace x with
  | none => s.rehomed x
  | some pa =>
    let (_, lo, n) := s.spanOf x
    if !s.canMove pa ∨ (s.basesOf x.vi lo n).any s.moving then s
    else
      ({ s with migs := s.migs ++ [⟨pa, pa, (n + 63) / 64, 0, x.vi, lo, ctrlOf pa, 3, false, none, some k⟩] } : State).due (.migrationLineCopy pa)

/-- The tiers are looked at again: demotions from the lowest tier up, then moves that wait. -/
def State.balance (s : State) : State :=
  let s1 : State := { s with turns := NMap.drop s.turns 3 }
  let s2 := (((s1.demoteTier 2).demoteTier 1).demoteTier 0).startWanted
  s2.autos.foldl State.startRehome s2

/-- ACCESS_BIT_SWEEP: the accessed bits of a tier's pages are cleared, those still clear make their pages cold (R333). -/
def execAccessBitSweep (tier : Nat) (s : State) : Out :=
  let s1 := s.pages.foldl (fun (t : State) p =>
    let (v, va, ea, base, size) := p
    if tierOf base ≠ tier then t
    else
      let e := t.physNat ea 8
      if bit e 3 then { (t.putEntry ea (e - 8)).dropTrans v va size with cold := t.cold.filter (· ≠ (tier, v, va)) }
      else if t.cold.contains (tier, v, va) then t
      else { t with cold := t.cold ++ [(tier, v, va)] })
    { s with cold := s.cold.filter fun x => x.1 != tier || s.pages.any fun p => decide (p.1 = x.2.1 ∧ p.2.1 = x.2.2 ∧ tierOf p.2.2.2.1 = tier) }
  .next s1.balance.pagesChanged

/-! The steps of a move. -/

/-- A move has ended: its entry leaves the table, and what waited for pages or frames goes on. -/
def State.endMove (s : State) (src : Nat) : State :=
  ({ s with migs := s.migs.filter (·.src != src) } : State).balance.pagesChanged

/-- The leaf entry of a page that has moved to `dst` (R331, Table Vi-5). -/
def movedEntry (e dst vi : Nat) : Nat :=
  if dst < storeBase then pteAt e dst else (e &&& 128) + 48 + (dst - storedAt vi 0) / 2097152 * 256

/-- A move is complete: the leaf entry names the new page, the old translations are discarded, and the old page is free; a page that
has left its tier is not cold there any more (R331, R333). -/
def State.finishMove (s : State) (m : Migration) : State :=
  let s1 := match s.walk m.vi m.va with
    | .page ea base _ => if base = m.src then s.putEntry ea (movedEntry (s.physNat ea 8) m.dst m.vi) else s
    | _ => s
  ({ s1 with
    tlb := s1.tlb.filter fun x => x.base != m.src
    cold := if tierOf m.dst = tierOf m.src then s1.cold else s1.cold.filter (· ≠ (tierOf m.src, m.vi, m.va)) } : State).endMove m.src

/-- A failed move has run back to the start: the entry is as it was, and MIGRATION_FAILED is posted (R426, R435). -/
def State.abandonMove (s : State) (m : Migration) : State :=
  let s1 := match s.walk m.vi m.va with
    | .page ea base _ => if base = m.src then s.putEntry ea (pteAt (s.physNat ea 8) m.src) else s
    | _ => s
  let (line, cause) := m.fail.getD (0, 0)
  (s1.postHome 0x14 m.vi [m.src % 2 ^ 32, m.src / 2 ^ 32, m.dst % 2 ^ 32, m.dst / 2 ^ 32, m.kind, line, cause]).endMove m.src

/-- A move turns back at its pointer (R426). -/
def State.turnBack (s : State) (m : Migration) (cause : Nat) : State :=
  s.modMig m.src fun (x : Migration) => { x with back := true, fail := some (m.pos, cause) }

/-- The next line of a move follows in the next cycle. -/
def State.moveOn (s : State) (src : Nat) : State := { s with retryNext := s.retryNext ++ [.migrationLineCopy src] }

/-- The next line of a span changes its home; after the last the span is re-homed (R338). -/
def State.homeStep (s : State) (m : Migration) (k : Nat × Nat × Nat) : State :=
  let s1 := ((s.modMig m.src fun (x : Migration) => { x with pos := m.pos + 1 }).modAuto k fun x => { x with pos := m.pos + 1 }).homesMoved
  let s2 := if s1.trigs = s.trigs then s1 else s1.kickAll
  if m.lines ≤ m.pos + 1 then
    match s2.autos.find? fun x => (x.vi, x.index, x.span) = k with
    | some x => (s2.rehomed x).endMove m.src
    | none => s2.endMove m.src
  else s2.moveOn m.src

/-- MIGRATION_LINE_COPY: the next line of the page at `entry` is copied, or copied back after a failure; of a re-homed span, its home
changes (R331, R338, R426). DEDUCED: a line that has become poisoned on its way to storage fails the move (log 133). -/
def execMigrationLineCopy (entry : Nat) (s : State) : Out :=
  match s.mig? entry with
  | none => .next s
  | some m => match m.auto with
  | some k => .next (s.homeStep m k)
  | none =>
    let a := m.src + 64 * m.pos
    let b := m.dst + 64 * m.pos
    let back := if m.back then 64 else 0
    if s.hbmDown ≠ [] ∧ (s.channelDown physSpace (a - back) 64 ∨ s.channelDown physSpace (b - back) 64) then .next (s.moveOn m.src)
    else if m.back then
      if m.pos = 0 then .next (s.abandonMove m)
      else
        let hurt := (sectors (b - 64) 64).filter s.latentUe.contains
        let s1 := if s.lost (b - 64) then s.lineLost m (a - 64) (b - 64)
          else
            let t := s.copyPart (b - 64) (a - 64) 64
            if hurt = [] then t else t.postHome 0x15 m.vi [0, a - 64, 4, hurt.length]
        let s2 := s1.modMig m.src fun (x : Migration) => { x with pos := m.pos - 1 }
        if m.pos = 1 then .next (s2.abandonMove { m with pos := 0 }) else .next (s2.moveOn m.src)
    else if m.lines ≤ m.pos then .next (s.finishMove m)
    else if s.lost b then .next ((s.turnBack m 1).moveOn m.src)
    else if storeBase ≤ b ∧ (sectors a 64).any (s.detect a 64).poisoned then .next (((s.detect a 64).turnBack m 2).moveOn m.src)
    else
      let s1 := ((s.expand m a b).copyPart a b 64).modMig m.src fun (x : Migration) => { x with pos := m.pos + 1 }
      if m.pos + 1 = m.lines then .next (s1.finishMove { m with pos := m.pos + 1 }) else .next (s1.moveOn m.src)

/-- MIGRATION_FAILED: the destination of a move cannot be written, and the move turns back: a write error, a lost device, or an error of
storage (R426, Table Fm-7). -/
def execMigrationFailed (entry : Nat) (s : State) : Out :=
  match s.mig? entry with
  | none => .next s
  | some m => if m.back ∨ m.kind = 2 ∨ m.auto.isSome then .next s else .next (s.turnBack m (if s.lost m.dst then 1 else if storeBase ≤ m.dst then 2 else 0))

/-- PAGE_IN_COMPLETE: a stored page has been read into T0; after a failed read every sector of it is poisoned (R328, R427). -/
def execPageInComplete (vi va : Nat) (ok : Bool) (s : State) : Out :=
  match s.migs.find? fun m => m.kind == 2 && m.vi == vi && m.va == va with
  | none => .next s
  | some m => match s.walk vi va with
    | .storage ea size _ =>
      let s1 := if ok then s.copyPart m.src m.dst size
        else (({ s with mem := Mem.clear s.mem m.dst size, poison := (sectors m.dst size).foldl (fun l k => addTo k l) s.poison } :
          State).bytesFollow m.src m.dst size).postHome 0x15 vi [0, m.dst, 3, size / 32]
      .next ((s1.putEntry ea (m.dst + (s1.physNat ea 8 &&& 128) + 8 + 2 + 1)).endMove m.src)
    | _ => .next (s.endMove m.src)

/-! AUTO buffers. -/

/-- The facet with the most accesses of a span in this epoch, and the epoch's accesses. -/
def AutoSpan.leader (x : AutoSpan) : Nat × Nat :=
  let n := fun f => (Mem.get x.counts f).toNat
  ((List.range 4).foldl (fun b f => if n b < n f then f else b) 0, ((List.range 4).map n).sum)

/-- The end of an epoch for one span: its new home where it is to be re-homed, and what is remembered of it (R337). -/
def AutoSpan.epoch (x : AutoSpan) : AutoSpan :=
  let (f, n) := x.leader
  let got := (Mem.get x.counts f).toNat
  let lead := if 4096 ≤ n ∧ 75 * n ≤ 100 * got then some f else none
  let quiet := if n = 0 ∨ 2 * got < n then x.quiet + 1 else 0
  let y : AutoSpan := { x with counts := [], lead := lead, since := x.since + 1, quiet := quiet }
  if x.goal.isSome then y
  else if lead.isSome ∧ lead = x.lead ∧ lead ≠ x.home ∧ 2 ≤ x.since then { y with goal := some lead, since := 0 }
  else if 4 ≤ quiet ∧ x.home.isSome then { y with goal := some none, since := 0 }
  else y

/-- REHOME_EPOCH: spans that one facet has led for two epochs are re-homed to it, and quiet ones return to FINE (R337, R338). -/
def execRehomeEpoch (s : State) : Out :=
  let s1 : State := { s with autos := s.autos.map (·.epoch) }
  .next (s1.autos.foldl State.startRehome s1)

end Sys2Proof.Machine
end

