-- ==== Sys2Proof/Machine/Health.lean ====
section
/-!
DEFINITION. The part's environment and its own life: temperature and droop (R300), links and devices (R424, R425, R427, R436), ticks
and power modes (R2, R15), reset and life cycle (R349, R350, R352), and attestation (R351).
-/
namespace Sys2Proof.Machine

/-! Temperature and droop. -/

/-- Exclusion by temperature after a reading (R300). -/
def hotAfter (hot : Bool) (celsius hi lo : Nat) : Bool :=
  if hi ≤ celsius then true else if celsius ≤ min lo (hi - 1) then false else hot

/-- THERMAL_READING: a core's sensor is read; a core that becomes excluded is reported (R300, R383). DESIGN CHOICE: which readings make a
THERMAL record, and its DETAIL of 0 (log 33). -/
def execThermalReading (core celsius : Nat) (s : State) : Out :=
  let k := s.core core
  let hot := hotAfter k.hot celsius (s.cfgGet Config.nThermHi 0) (s.cfgGet Config.nThermLo 0)
  let s1 := s.modCore core fun (q : Core) => { q with celsius := celsius, hot := hot }
  if hot ∧ !k.hot then .next (s1.machineCheck 0x06 5 core none 0 0)
  else if k.hot ∧ !hot then .next (s1.due .teamPlacement)
  else .next s1

/-- DROOP_EVENT: an event is counted; more than DROOP_LIM in 1 ms exclude the core for DROOP_HOLD µs from it (R300, R383). DESIGN CHOICE:
each event makes a DROOP record, with DETAIL 0 (log 33). -/
def execDroopEvent (core : Nat) (s : State) : Out :=
  let s1 := s.modCore core fun (q : Core) => { q with droops := (q.droops.filter fun t => s.clk < t + 1000 * s.mhz) ++ [s.clk] }
  let s2 := s1.machineCheck 0x07 5 core none 0 0
  if s.cfgGet Config.nDroopLim 0 < s1.droopsOf core then
    .next (s2.modCore core fun (q : Core) => { q with droopEnd := some (s.clk + s.cfgGet Config.nDroopHold 0 * s.mhz) })
  else .next s2

/-- DROOP_HOLD_EXPIRY: a core's exclusion by droop ends once its hold is over (R300). -/
def execDroopHoldExpiry (core : Nat) (s : State) : Out :=
  match (s.core core).droopEnd with
  | none => .next s
  | some t => if s.clk < t then .next s
    else .next ((s.modCore core fun (q : Core) => { q with droopEnd := none }).due .teamPlacement)

/-! Links. -/

/-- A fabric port cannot deliver: LINK_DOWN names it, once (R425, R436). -/
def State.linkDown (s : State) (port : Nat) : State :=
  if s.portDown.contains port then s
  else ({ s with portDown := addTo port s.portDown } : State).machineCheck 0x05 3 port none 0 port

/-- The accesses that wait at a port, in the order they were sent: those to ranks that route by it, whose replies or acknowledgements have not come.
A write of FAB_ROUTE for a rank moves them to the new port in their order, ahead of later ones; what the failed link has lost of them is never
answered (R348, R425, R432). -/
def State.portQueue (s : State) (port : Nat) : List Op :=
  s.ops.filter fun o => match o.far with
    | some x => s.route x.1 == port
    | none => false

/-- LINK_DOWN (R425). -/
def execLinkDown (port : Nat) (s : State) : Out := .next (s.linkDown port)

/-- FLIT_CRC_ERROR: a flit is replayed and counted; `ok` is false where the port cannot deliver it at all (R347, R425). -/
def execFlitCrcError (port : Nat) (ok : Bool) (s : State) : Out :=
  let s1 := s.count Config.nErrFabCrc 0 1
  .next (if ok then s1 else s1.linkDown port)

/-- HBM_CRC_ERROR: a transfer is replayed and counted; after REPLAY_LIM consecutive failed replays, `ok` false, the channel is retrained
(R424, R436). Channel numbers are those of `Config.hbmChannel`. -/
def execHbmCrcError (channel : Nat) (ok : Bool) (s : State) : Out :=
  let s1 := s.count Config.nErrHbmCrc 0 1
  if s.hbmDown.contains channel then .next s1
  else if ok then .next { s1 with hbmFails := Mem.set s1.hbmFails channel 0 }
  else
    let n := (Mem.get s.hbmFails channel).toNat + 1
    if n < s.cfgGet Config.nReplayLim 0 then .next { s1 with hbmFails := Mem.set s1.hbmFails channel (BitVec.ofNat 8 n) }
    else .next (({ s1 with hbmFails := Mem.set s1.hbmFails channel 0, hbmDown := addTo channel s1.hbmDown } : State).machineCheck
      0x04 1 (channel / 256) none 0 (channel % 256 + 256 * n))

/-- HBM_RETRAIN_COMPLETE: accesses to the channel go on; or retraining has failed, and they wait until the part is reset (R424). -/
def execHbmRetrainComplete (channel : Nat) (ok : Bool) (s : State) : Out :=
  if !s.hbmDown.contains channel then .next s
  else if ok then .next ({ s with hbmDown := s.hbmDown.filter (· ≠ channel) } : State).pagesChanged
  else .next (s.machineCheck 0x05 1 (channel / 256) none 0 (channel % 256))

/-- A CXL error with its status (R384, R436). -/
def State.cxlError (s : State) (port status : Nat) : State :=
  (s.count Config.nErrCxl 0 1).machineCheck 0x09 4 port none 0 (port % 256 + status % 2 ^ 32 * 2 ^ 32)

/-- CXL_PORT_ERROR (R384, R436). -/
def execCxlPortError (port status : Nat) (s : State) : Out := .next (s.cxlError port status)

/-- CXL_DEVICE_LOST: the device's sectors read as poisoned and writes to them are discarded; moves into them turn back (R426, R427). -/
def execCxlDeviceLost (port pa bytes : Nat) (s : State) : Out :=
  let s1 : State := { s with cxlLost := s.cxlLost ++ [(pa, bytes)] }
  .next ((s1.migs.foldl (fun t m => if !m.back && m.auto.isNone && t.lost m.dst then t.turnBack m 1 else t) s1).cxlError port 0)

/-! Ticks. -/

/-- TICK: every core's program timestamp advances, and the power mode written takes effect (R2, R15). -/
def execTick (s : State) : Out :=
  let s1 := (List.range 128).foldl (fun t c => t.modCore c fun (k : Core) => { k with tstamp := k.tstamp + 1 }) s
  .next { s1 with pwrNow := s.cfgGet Config.nPwrMode 0 }

/-! Reset and life cycle. -/

/-- Byte `k` of the 4 MiB firmware SRAM: the Tolrus image that the last boot loaded (R349). -/
def State.firmwareByte (s : State) (k : Nat) : Byte := if k < min 4194304 (Config.imageLen s.boots) then Config.imageByte s.boots k else 0

/-- Poxus boots in a life-cycle state (Table Sy-5). -/
def LifeCycle.boots : LifeCycle → Bool
  | .provisioned | .deployed => true
  | .manufactured | .rma | .decommissioned => false

/-- PART_RESET: a pending life-cycle state takes effect; every SRAM, HBM and LPDDR is wiped, and the part stands as after reset, or a failed
check of its image stops its boot. Poxus is measured where it boots; entry to RMA or DECOMMISSIONED destroys the key and erases
storage. Otherwise the identity key and storage are kept, as are CXL memory and what the outside world still asks for (R349, R350, R352). -/
def execPartReset (s : State) : Out :=
  let next := s.lifeNext.getD s.lifeCycle
  let gone := decide (next = .rma ∨ next = .decommissioned)
  .next { State.reset with
    lifeCycle := next
    idKey := if gone && s.lifeNext.isSome then false else if next = .provisioned ∧ s.lifeNext.isSome then true else s.idKey
    boots := s.boots + 1
    bootStopped := !Config.imageGood (Config.image (s.boots + 1))
    poxus := if Config.imageGood (Config.image (s.boots + 1)) && next.boots then some (s.boots + 1) else none
    mem := s.mem.filter fun c => decide (2 ^ 44 ≤ c.1) && (!(gone && s.lifeNext.isSome) || decide (c.1 < storeBase))
    poison := s.poison.filter fun k => decide (2 ^ 44 ≤ 32 * k)
    latentCe := s.latentCe.filter fun k => decide (2 ^ 44 ≤ 32 * k)
    latentUe := s.latentUe.filter fun k => decide (2 ^ 44 ≤ 32 * k)
    cxlLost := s.cxlLost
    inbox := s.inbox
    freeCtr := s.freeCtr }

/-- A life-cycle transition waits for the next reset, where Table Sy-5 has it (R352). -/
def State.lifeTo (s : State) (dest : LifeCycle) (from_ : List LifeCycle) : State :=
  if from_.contains s.lifeCycle then { s with lifeNext := some dest } else s

/-- PROVISION_COMMAND (Table Sy-5). -/
def execProvisionCommand (s : State) : Out := .next (s.lifeTo .provisioned [.manufactured, .rma])

/-- DEPLOY_COMMAND, signed with the owner key or not (Table Sy-5). -/
def execDeployCommand (signed : Bool) (s : State) : Out := .next (if signed then s.lifeTo .deployed [.provisioned] else s)

/-- RMA_COMMAND, signed by Witegil or not (Table Sy-5). -/
def execRmaCommand (signed : Bool) (s : State) : Out := .next (if signed then s.lifeTo .rma [.provisioned, .deployed] else s)

/-- DECOMMISSION_COMMAND (Table Sy-5). -/
def execDecommissionCommand (s : State) : Out :=
  .next (s.lifeTo .decommissioned [.manufactured, .provisioned, .deployed, .rma])

/-- The code of a life-cycle state (Table Sy-5). -/
def LifeCycle.code : LifeCycle → Nat
  | .manufactured => 0 | .provisioned => 1 | .deployed => 2 | .rma => 3 | .decommissioned => 4

/-- Free bytes from index `i` on. -/
def freeBytes (i n : Nat) : List Byte := (List.range n).map fun j => Config.freeByte (i + j)

/-- The digest of the chip-scope configuration: of its writable registers and its routes (R351). -/
def State.configBytes (s : State) : List Byte :=
  let values := (Config.regs.filter fun r => r.scope == .chip && r.access == .rw).map fun r => s.cfgGet r.num 0
  (List.range 64).map (Config.configDigest values ((List.range 64).map s.route))

/-- The measurement of Poxus that the boot recorded: its SHA3-512 digest; zeros, which the wipe leaves, where a stopped boot recorded none
(R349, R350). -/
def State.poxusDigest (s : State) : List Byte :=
  match s.poxus with
  | some n => (List.range 64).map (Config.sha3 (Config.poxusImage n))
  | none => List.replicate 64 0

/-- ATTESTATION_REQUEST: a report for a nonce, with its signature, in the states that attest (R351, Table Sy-4). The serial number and the
digests of the firmware, of Poxus as measured, and of the configuration are functions that the spec does not compute; the signature is a
free value. -/
def execAttestationRequest (nonce : Nat) (s : State) : Out :=
  if (s.lifeCycle = .provisioned ∨ s.lifeCycle = .deployed) ∧ s.idKey then
    let part := fun (lo n : Nat) => (List.range n).map fun j => Config.partByte (lo + j)
    let report := leBytes (1 + 256 * s.lifeCycle.code) 4 ++ part 4 12 ++ leBytes nonce 64 ++ part 80 64 ++
      ((List.range 64).map (Config.sha3 (Config.image s.boots))) ++ s.poxusDigest ++ s.configBytes
    .next { s with report := report ++ freeBytes s.freeCtr 4627, freeCtr := s.freeCtr + 4627 }
  else .next { s with report := [] }

end Sys2Proof.Machine
end

