-- ==== Sys2Proof/Machine/System.lean ====
section
/-!
DEFINITION. Group state as the control thread sees and changes it: GSTAT, GSTOP, GKILL (R290, R291, R293), ERET with the actions of
TRAP_RESUME (R294, R390), the watchdog (R410, R411), and stops on a retired-work count (R452).
-/
namespace Sys2Proof.Machine

/-! GSTAT (R290). -/

/-- The lane has a next word that its group may issue: nothing but room in a queue or an engine holds it. -/
def Lane.ready (x : Lane) : Bool :=
  !x.vacant && (match x.wait with
    | .none => true
    | .retry w => w == .launchQueue || w == .copyQueue || w == .mtxQueue
    | .op _ w => w == .launchQueue || w == .copyQueue
    | _ => false)

/-- The state of a group that GSTAT reports: 1 active, 2 parked, 3 frozen, 4 halted, 5 trapped. DESIGN CHOICE: of several
that hold the highest number is reported (R290, log 147). -/
def groupState (g : Group) (m : Option Team) : Nat :=
  if g.trapped then 5
  else if g.halted then 4
  else if (m.map (·.frozen)).getD false then 3
  else if g.lanes.any (·.ready) then 1 else 2

/-- The four words of GSTAT for a group slot (Table Ec-10). -/
def State.groupStat (s : State) (c n : Nat) : List Nat :=
  match NMap.find (s.core c).groups n with
  | none => [0, 0, 0, 0]
  | some g =>
    let m := s.team? c g.team
    [groupState g m + widthCode g.width * 16 + g.blocks * 64 + g.team * 65536 + ((m.map (·.vi)).getD 0) * 16777216, g.grp,
      g.rwc % 4294967296, g.rwc / 4294967296]

/-- The six words of GSTAT for a team slot (Table Ec-10). A free slot that a swapped-out team left reports that team. DEDUCED (log 29). -/
def State.teamStat (s : State) (c t : Nat) : List Nat :=
  match s.team? c t with
  | some m =>
    [(if !m.frozen then 1 else if m.undrained then 7 else 3) + m.groups * 16 + m.vi * 4096 + (if m.half.isSome then 262144 else 0),
      m.team, m.abBase, m.abLen, m.wbFirst + m.wbN * 1024, m.acsFirst + m.acsN * 256 + m.recFirst * 131072]
  | none =>
    match s.swapped.find? fun w => w.away && (decide (w.core = c ∧ w.slots.1 = t) || decide (w.half = some c ∧ w.slots.2 = t)) with
    | some w => [6 + w.groups * 16 + w.vi * 4096 + (if w.half.isSome then 262144 else 0), w.team, 0, 0, 0, 0]
    | none => [0, 0, 0, 0, 0, 0]

/-- GSTAT. -/
def execGstat (d a m : Nat) (s : State) : Out :=
  privWith s fun v => issueWith false [a] ((List.range (if m = 1 then 6 else 4)).map (d + ·)) v fun t =>
    let n := (t.me.reg (t.issue.lanes.headD 0) a).toNat
    let ws := if m = 1 then t.teamStat t.issue.core n else t.groupStat t.issue.core n
    .next (t.giveAll (ws.zipIdx.map fun x => (d + x.2, BitVec.ofNat 32 x.1))).retire

/-! GSTOP (R291). -/

/-- The operation is a wait that a freeze cancels. -/
def OpKind.cancels : OpKind → Bool
  | .waitc _ _ _ => true
  | .mbrecv _ _ _ => true
  | .bowait _ _ _ => true
  | .racq _ => true
  | .remote r => match r.form with
    | .waitc _ _ => true
    | _ => false
  | _ => false

/-- A lane set back to the instruction whose wait is cancelled: one of the operations `ids`, BARW, or SLEEP. A lane in BAR keeps its
arrival and waits on. -/
def Lane.setBack (ids : List Nat) (x : Lane) : Lane :=
  let goes := match x.wait with
    | .op id _ => ids.contains id
    | .bar _ _ _ => x.back.isSome
    | .sleep _ => true
    | _ => false
  match x.back with
  | some b => if goes then { x with pc := b.1, clause := some b.2, wait := .none, back := none, counted := false } else x
  | none => x

/-- Every group of the team, and of those that have ended, has nothing on its way: no operation, no pending future, no lane whose word has
issued and is held, no queued request (R291). -/
def State.drainDone (s : State) (c t : Nat) : Bool :=
  let mine := (s.team? c t).map fun m => (m.vi, m.grid, m.team)
  (s.ops.all fun o => o.team.isNone || o.team != mine) &&
  (s.halves c t).all fun h =>
    ((s.core h.1).groups.filter fun g => g.2.team == h.2).all (fun g =>
      s.opsOf h.1 (.grp g.1) == [] && g.2.pend == [] && g.2.lanes.all fun x =>
        !x.counted) &&
    s.ops.all fun o => o.core != h.1 || (match o.kind with | .copy r => r.slot != some h.2 | _ => true)

/-- A resident group of a team as the deadlock scan sees it (R448). -/
def State.node (s : State) (g : Nat × Nat × Group) (m : Team) : Node :=
  ⟨m.grid, m.team, g.2.2.grp, g.1, g.2.1, m.vcore, g.2.2.rwc, g.2.2.prog.toNat, g.2.2.halted, false,
    g.2.2.live.map fun l => (l, (g.2.2.lane l).pc, s.waitKind g.1 g.2.2 l)⟩

/-- What is remembered of a team that is frozen for a swap. -/
def State.rememberFrozen (s : State) (c t : Nat) (m : Team) (conds : List Cond) (mboxes : List (Nat × Nat)) (nodes : List Node) : State :=
  let lowHome := match m.half with
    | some h => if h.high then (h.core, h.slot) else (c, t)
    | none => (c, t)
  let lo := (s.team? lowHome.1 lowHome.2).getD m
  let gs := s.teamGroups c t
  let w : Swapped :=
    { grid := m.grid, team := m.team, vi := m.vi, prio := m.prio, core := lowHome.1, half := lo.half.map (·.core), idle := m.victim == 2,
      conds := conds, mboxes := mboxes, ready := false, posted := false, away := false, abLen := lo.abLen, wbN := lo.wbN, acsN := lo.acsN,
      groups := m.groups, width := m.width, blocks := (gs.map fun g => g.2.2.blocks).sum,
      slots := (lowHome.2, (lo.half.map (·.slot)).getD 0), bars := [], threads := [], stats := ([], []), aliases := [], nodes := nodes }
  { s with swapped := (s.swapped.filter fun (x : Swapped) => !(x.grid == m.grid && x.team == m.team)) ++ [w] }

/-- The team of slot `t` is frozen: its groups issue nothing new, and its cancelled waits are set back (R291, R316, R317). The words behind
remote windows that an idle victim's lanes awaited are awaited on, to wake it (DEDUCED, log 127). -/
def State.freeze (s : State) (c t : Nat) : State :=
  match s.team? c t with
  | none => s
  | some m =>
    let gs := s.teamGroups c t
    let ops := gs.flatMap fun g => (s.opsOf g.1 (.grp g.2.1)).filter (·.kind.cancels)
    let ids := ops.map (·.id)
    let conds := ops.filterMap fun o => match o.kind with | .waitc _ k _ => some k | _ => none
    let mboxes := ops.filterMap fun o => match o.kind with | .mbrecv _ b _ => some (o.core, b) | _ => none
    let s1 : State := { s with ops := s.ops.filter fun o => !ids.contains o.id }
    let s2 := gs.foldl (fun u g => u.modGroup g.1 (.grp g.2.1) fun x => { x with lanes := x.lanes.map (·.setBack ids) }) s1
    let s3 := (s.halves c t).foldl (fun (u : State) h =>
      u.modTeam h.1 h.2 fun (y : Team) => { y with frozen := true, undrained := false, imaged := false }) s2
    let s4 := s3.rememberFrozen c t m conds mboxes (gs.map fun g => { s.node g m with away := true })
    if m.victim ≠ 2 then s4
    else ops.foldl (fun (u : State) o => match o.kind with
      | .remote r => match r.form with
        | .waitc _ _ => u.sendOutside ⟨o.core, false, m.vi, m.depth⟩ r.rank r.handle r.off (.wake m.grid m.team) r.act
        | _ => u
      | _ => u) s4

/-- Deliveries held for a team reach the storage of its half on their core, and their objects (R266). -/
def State.deliverHeld (s : State) (c t : Nat) : State :=
  match s.team? c t with
  | none => s
  | some m =>
    let mine := s.held.filter fun h => h.grid == m.grid && h.team == m.team && h.core == c
    let s1 : State := { s with held := s.held.filter fun h => !mine.contains h }
    mine.foldl (fun u h =>
      let u1 := u.modCore c fun k =>
        if h.wb then
          let k1 := k.tagTiles h.tag ((h.rows.flatMap fun r => tilesOf (4096 * m.wbFirst + r.1) r.2.1.length).foldr addTo [])
          h.rows.foldl (fun q r => q.wbRowPut (4096 * m.wbFirst + r.1) r.2) k1
        else h.rows.foldl (fun q r => q.abRowPut (m.abBase + r.1) r.2) k
      let u2 := h.counts.foldl (fun v x =>
        let v1 := match h.bo with
          | some b => v.boTell h.id b 1 x
          | none => v
        match h.rbo with
          | some a => v1.boTell h.id ⟨c, m.abBase + a, some (t, m.order)⟩ 1 x
          | none => v1) u1
      u2.due (.tileCopyBatchDelivery h.id)) s1

/-- A frozen team is released, on both its cores (R291). -/
def State.releaseTeam (s : State) (c t : Nat) : State :=
  match s.team? c t with
  | none => s
  | some m =>
    if !m.frozen then s
    else
      let s1 := (s.halves c t).foldl (fun u h => u.deliverHeld h.1 h.2) s
      let s2 := (s.halves c t).foldl (fun (u : State) h =>
        u.modTeam h.1 h.2 fun (y : Team) => { y with frozen := false, undrained := false, imaged := false, victim := 0 }) s1
      let s3 := (s.halves c t).foldl (fun u h =>
        (u.ops.filter fun o => o.core == h.1 && o.kind == .gstop h.2).foldl (fun v o => v.finishOp o.id) u) s2
      { s3 with swapped := s3.swapped.filter fun w => w.away || !(w.grid == m.grid && w.team == m.team) }

/-- A drain ends: done, or given up for an access outstanding past REMOTE_TO (R291, R432). -/
def State.settleDrain (s : State) (o : Op) (t : Nat) : State :=
  match s.team? o.core t with
  | none => s.finishOp o.id
  | some _ =>
    if s.drainDone o.core t then s.finishOp o.id
    else if s.stuckRemote o.core t then
      ((s.halves o.core t).foldl (fun (u : State) h => u.modTeam h.1 h.2 fun (y : Team) => { y with undrained := true }) s).finishOp o.id
    else s

/-- GSTOP_DRAIN_COMPLETE: the GSTOPs of a core whose teams have drained complete (R291). -/
def execGstopDrainComplete (core : Nat) (s : State) : Out :=
  .next (s.ops.foldl (fun t o => match o.kind with
    | .gstop n => if o.core = core then t.settleDrain o n else t
    | _ => t) s)

/-- GSTOP: M 0 freezes and waits for the drain, 1 releases, 2 halts, 3 releases a halt. -/
def execGstop (a m : Nat) (s : State) : Out :=
  privWith s fun v => issueWith false [a] [] v fun t =>
    let c := t.issue.core
    let n := (t.me.reg (t.issue.lanes.headD 0) a).toNat
    if m ≤ 1 then
      match t.team? c n with
      | none => .next (t.reserved 7 0 0)
      | some y =>
        if m = 1 then if y.frozen && t.castWaits y.grid y.team then .next (t.hold t.issue.lanes .line) else .next (t.releaseTeam c n).retire
        else
          let t1 := if y.frozen then t else t.freeze c n
          if y.undrained || t1.drainDone c n then .next t1.retire
          else .next (((t1.addOp t.issue.lanes (.gstop n) none none).due (.gstopDrainComplete c)).retireWait (.op t.opSeq .gstop))
    else if (NMap.find (t.core c).groups n).isNone then .next (t.reserved 7 0 0)
    else .next (t.modGroup c (.grp n) fun (g : Group) => { g with halted := decide (m = 2) }).retire

/-- GKILL (R293). -/
def execGkill (a m : Nat) (s : State) : Out :=
  privWith s fun v => issueWith false [a] [] v fun t =>
    let c := t.issue.core
    let n := (t.me.reg (t.issue.lanes.headD 0) a).toNat
    if m = 0 then
      if (t.team? c n).isNone then .next (t.reserved 7 0 0) else .next (t.retire.killTeam c n)
    else if (NMap.find (t.core c).groups n).isNone then .next (t.reserved 7 0 0) else .next (t.retire.killGroup c n)

/-! ERET (R294, R380, R390). -/

/-- The lanes of a fault that a reply raised stand before the instruction again (R387). -/
def State.lanesBefore (s : State) (c : Nat) (e : Entry) : State :=
  s.modGroup c (.grp e.gslot) (·.modLanes e.lanes fun (x : Lane) =>
    { x with pc := e.pc, clause := e.clause, wait := .none, back := none, counted := false })

/-- The faulting word of an entry is passed over: `$rwc` counts it, a transfer is not taken (R390). -/
def State.skipWord (s : State) (c : Nat) (e : Entry) (q : Clause) : State :=
  let s1 : State := { s with issue := ⟨c, .grp e.gslot, e.lanes, e.pc, q, e.iword, e.xword, 0⟩ }
  let s2 := s1.retire
  let s3 := if (s1.issueHeader.map (·.cls)) = some .ctl ∧ e.iword / 2 ^ 24 = 0 then
      s2.trace c e.vi ([3, e.gslot] ++ maskBytes s1.me.width [])
    else s2
  { s3 with issue := s.issue }

/-- ACT 1, skip: what it does depends on how far the instruction had come (R387, R390, R405, R406). DEDUCED: a set whose header could
not be fetched leaves, as one at an illegal clause does (log 30). -/
def State.skipEntry (s : State) (c : Nat) (e : Entry) (g : Group) : State :=
  if e.start then
    if g.fresh then s.vacate c e.gslot (List.range g.lanes.length)
    else s.modGroup c (.grp e.gslot) ({ · with noRefill := true })
  else if e.late then s.modGroup c (.grp e.gslot) (·.modLanes e.lanes fun (x : Lane) => { x with wait := .none, back := none })
  else match e.clause with
    | some q => if e.code = 1 then s.vacate c e.gslot e.lanes else s.skipWord c e q
    | none => s.vacate c e.gslot e.lanes

/-- The action of TRAP_RESUME on a watchdog's team, unless it has gone (R390, R411). -/
def State.actOnTeam (s : State) (c : Nat) (e : Entry) (act : Nat) : State :=
  if ((s.team? c e.tslot).map (·.order)) ≠ some e.order then s
  else match act with
  | 2 => s.killTeam c e.tslot
  | 3 => (s.teamGroups c e.tslot).foldl (fun u g => u.modGroup g.1 (.grp g.2.1) fun (x : Group) => { x with halted := true }) s
  | _ => (s.halves c e.tslot).foldl (fun u h => u.modTeam h.1 h.2 fun (y : Team) => { y with wdog := 0 }) s

/-- The action of TRAP_RESUME at the end of entry `e` (R390); nothing where the group has gone. A group with another entry waiting
stays trapped. -/
def State.actOn (s : State) (c : Nat) (e : Entry) (act : Nat) : State :=
  if e.code = 0x30 then s
  else if e.code = 0x2A then s.actOnTeam c e act
  else match NMap.find (s.core c).groups e.gslot with
    | none => s
    | some g =>
      if !g.trapped ∨ g.team ≠ e.tslot then s
      else
        let more := (s.core c).entries.any fun x => x.code ≠ 0x30 && x.code ≠ 0x2A && x.gslot == e.gslot
        let s1 := s.modGroup c (.grp e.gslot) fun (x : Group) => { x with trapped := more }
        match act with
        | 0 => if e.late then s1.lanesBefore c e else s1
        | 1 => s1.skipEntry c e g
        | 2 => s1.killTeam c e.tslot
        | _ => (if e.late then s1.lanesBefore c e else s1).modGroup c (.grp e.gslot) fun (x : Group) => { x with halted := true }

/-- The handler of core `c` ends: the action is applied, then the next entry is taken at once, or the stop ends and the control thread
goes on at CT_EPC (R380, R390). -/
def State.leave (s : State) (c : Nat) : State :=
  let k := s.core c
  let epc := s.cfgGet Config.nCtEpc c
  let clause := match k.epcClause with
    | some q => if q.1 = epc then some q.2 else none
    | none => none
  let s1 := match k.cur with
    | some e => s.actOn c e (s.cfgGet Config.nTrapResume c)
    | none => s
  let s2 := s1.modCore c fun (q : Core) =>
    { q with inHandler := false, cur := none, epcClause := none,
             ct := q.ct.modLane 0 fun (x : Lane) => { x with pc := epc, clause := clause, counted := false } }
  let s3 := match (s2.core c).entries with
    | e :: rest => (s2.modCore c fun (q : Core) => { q with entries := rest }).enter c e (epc, clause)
    | [] => s2.endStop c
  match k.cur with
  | some e => s3.pairGoes e
  | none => s3

/-- ERET; outside a handler it is a use in a state that forbids it (R294, R413). -/
def execEret (s : State) : Out :=
  privWith s fun v => issueWith false [] [] v fun t =>
    if (t.core t.issue.core).inHandler then finish (t.retire.leave t.issue.core) else .next (t.reserved 7 0 0)

/-! The watchdog (R410, R411). -/

/-- The lane may issue its next word: it is ready, and at a header no flag of the wait mask is set (R24). -/
def State.laneReady (s : State) (c n : Nat) (x : Lane) : Bool :=
  x.ready && (x.clause.isSome || (match (s.fetch c (.grp n) x.pc).2 with
    | .word w => (match decodeHeader w with
      | .ok h => (List.range 12).all fun f => !(bit h.wait f && s.flagSet c (.grp n) f)
      | .error _ => true)
    | _ => true))

/-- The lane runs, for the watchdog: it is ready or asleep (R410). -/
def State.laneRuns (s : State) (c n : Nat) (x : Lane) : Bool :=
  s.laneReady c n x || (!x.vacant && (match x.wait with | .sleep _ => true | _ => false))

/-- The lanes of a team that its WATCHDOG names: the ready ones, or those asleep where none is ready (R410). -/
def State.wdogLane (s : State) (c t : Nat) (g : Nat × Nat × Group) : Lane → Bool :=
  if (s.teamGroups c t).any fun x => x.2.2.lanes.any (s.laneReady x.1 x.2.1) then s.laneReady g.1 g.2.1 else s.laneRuns g.1 g.2.1

/-- WATCHDOG: a persistent team whose count has reached WDOG_WIN stops its core, and a split team both its cores (R410, R411). -/
def execWatchdog (core team : Nat) (s : State) : Out :=
  let h := s.barHome core team
  match s.team? h.1 h.2 with
  | none => .next s
  | some m =>
    if !m.persist ∨ m.wdog < s.cfgGet Config.nWdogWin m.vi ∨ (s.core h.1).stopped then .next s
    else
      match (s.teamGroups h.1 h.2).find? fun g => g.2.2.lanes.any (s.wdogLane h.1 h.2 g) with
      | none => .next s
      | some g =>
        let pcs := (g.2.2.lanes.filter (s.wdogLane h.1 h.2 g)).map (·.pc)
        let bars := ((List.range 8).map fun b => if (s.bar h.1 h.2 b).arrived = [] ∧ (s.bar h.1 h.2 b).more = 0 then 0 else 2 ^ b).sum
        let e : Entry := ⟨0x2A, m.vi, g.2.1, h.2, (pcs.min?).getD 0, m.codeH, g.2.2.rwc, [], 0, m.wdog, bars, 0, 0, none, false, false,
          m.order, m.half.map (·.core)⟩
        let s0 := (s.halves h.1 h.2).foldl (fun u x => u.modCore x.1 fun (k : Core) => { k with stopped := true })
          (s.count Config.nErrTrap m.vi 1)
        let s1 := match e.other with
          | some d => s0.modCore d fun (k : Core) => { k with pairStops := k.pairStops + 1 }
          | none => s0
        .next (((s1.trace h.1 m.vi [6, g.2.1, 0x2A]).enqueue h.1 e).deliver h.1)

/-! Stops on a retired-work count (R452). -/

/-- DSTOP_HIT: the group of the issue in progress is the named one and stands before the numbered issue; it stops there (R452). -/
def execDstopHit (core group : Nat) (s : State) : Out :=
  if s.issue.core ≠ core ∨ s.issue.agent ≠ .grp group then .next s
  else match s.group? core (.grp group) with
  | none => .next s
  | some g => match s.team? core g.team with
    | none => .next s
    | some m =>
      let r := fun n => s.cfgGet n m.vi
      if r Config.nDstopEn = 1 ∧ r Config.nDstopGrid = m.grid ∧ r Config.nDstopTeam = m.team ∧ r Config.nDstopGrp = g.grp ∧
          g.rwc = r Config.nDstopRwcl + 4294967296 * r Config.nDstopRwch then
        .next ((s.cfgPut Config.nDstopEn m.vi 0).raise 0x29 0x200 0 0)
      else .next s

end Sys2Proof.Machine
end

