-- ==== Sys2Proof/Machine/Debug.lean ====
section
/-!
DEFINITION. Stall samples (R451) and the deadlock scan (R448 to R450).
-/
namespace Sys2Proof.Machine

/-! Stall samples. -/

/-- A group put in its place by age among others. -/
def insertAge (g : Nat × Group) : List (Nat × Group) → List (Nat × Group)
  | [] => [g]
  | h :: hs => if g.2.order ≤ h.2.order then g :: h :: hs else h :: insertAge g hs

/-- The active list of an issue slot as it is now: groups leave it when no lane of theirs is ready, and the oldest of the others that have
one take the places left of 16 (R304). A held word is performed outside the list (`State.heldTurn`). DEDUCED: a group that is halted, trapped
or frozen has no ready lane here (log 36). -/
def State.active (s : State) (c slot : Nat) : List Nat :=
  let k := s.core c
  let fit := k.groups.filter fun g => g.2.islot == slot && !g.2.halted && !g.2.trapped &&
    !((NMap.find k.teams g.2.team).map (·.frozen)).getD true && g.2.lanes.any (·.ready)
  let kept := (((k.slots[slot]?).map (·.active)).getD []).filter fun n => fit.any (·.1 == n)
  kept ++ (((fit.filter fun g => !kept.contains g.1).foldr insertAge []).map (·.1)).take (16 - kept.length)

/-- The groups in the active list of an issue slot, in ascending group slot. -/
def State.activeGroups (s : State) (c slot : Nat) : List (Nat × Group) :=
  let ns := s.active c slot
  (s.core c).groups.filter fun g => ns.contains g.1

/-- The primary lane set of a group: its lowest PC among ready lanes, and the lanes (R21). -/
def Group.primary (g : Group) : Nat × List Nat :=
  let ls := (List.range g.lanes.length).filter fun l => (g.lane l).ready
  let pc := ((ls.map fun l => (g.lane l).pc).min?).getD 0
  (pc, ls.filter fun l => (g.lane l).pc == pc)

/-- The lowest set flag that the wait mask of a group's next header names (Table Dt-5). -/
def State.waitFlag (s : State) (c n pc : Nat) (atHeader : Bool) : Option Nat :=
  if !atHeader then none
  else match (s.fetch c (.grp n) pc).2 with
    | .word w => match decodeHeader w with
      | .ok h => (List.range 12).find? fun f => bit h.wait f && s.flagSet c (.grp n) f
      | .error _ => none
    | _ => none

/-- A group's reason, with its object, and the producer's PC and `$rwc` (Table Dt-5). Results are written at issue here, so reasons 1 and
3 do not arise (log 36). -/
def State.stallReason (s : State) (c n : Nat) (g : Group) : Nat × Nat × Nat × Nat :=
  let (pc, ls) := g.primary
  let x := g.lane (ls.headD 0)
  if g.issuedAt = some s.clk then (0, 0, 0, 0)
  else match s.waitFlag c n pc x.clause.isNone with
  | some f =>
    match ((s.opsOf c (.grp n)).filter (·.flag == some f)).getLast? with
    | some o => (2, f, o.pc, o.rwc)
    | none => (2, f, 0, 0)
  | none => match x.wait with
    | .retry _ => (4, 0, 0, 0)
    | .op _ _ => (4, 0, 0, 0)
    | _ => (5, 0, 0, 0)

/-- The 32 bytes of a sample record (Table Dt-4). -/
def State.sampleRecord (s : State) (c slot n : Nat) (g : Group) : List Byte :=
  let (reason, obj, ppc, prwc) := s.stallReason c n g
  let m := s.team? c g.team
  leBytes (reason + ((m.map (·.vi)).getD 0) * 2 ^ 8 + slot * 2 ^ 15 + ((m.map (·.vcore)).getD 0) * 2 ^ 17 + n * 2 ^ 24 + s.clk % 2 ^ 32 * 2 ^ 32
    + g.primary.1 % 2 ^ 32 * 2 ^ 64 + g.rwc * 2 ^ 96 + obj * 2 ^ 144 + ppc % 2 ^ 32 * 2 ^ 160 + prwc * 2 ^ 192) 32

/-- A record joins the ring whose registers are given, or is counted as lost (R450, R451). -/
def State.ringPut (s : State) (base log head tail lost : Nat) (bs : List Byte) : State :=
  let t := s.cfgGet tail 0
  if 2 ^ s.cfgGet log 0 ≤ (t + 4294967296 - s.cfgGet head 0) % 4294967296 then s.count lost 0 1
  else (s.poke (s.cfgGet base 0 * 4096 + bs.length * (t % 2 ^ s.cfgGet log 0)) bs).cfgPut tail 0 ((t + 1) % 4294967296)

/-- SAMPLE_POINT: every issue slot writes a record for each group in its active list (R451). -/
def execSamplePoint (s : State) : Out :=
  .next (s.cores.foldl (fun t k => (List.range 4).foldl (fun t2 slot => (s.activeGroups k.1 slot).foldl (fun t3 g =>
    t3.ringPut Config.nSmpBase Config.nSmpLog Config.nSmpHead Config.nSmpTail Config.nSmpLost (s.sampleRecord k.1 slot g.1 g.2)) t2) t) s)

/-! The wait-for graph. -/

/-- The groups of interface `vi`: the resident ones, and those of swapped-out teams as they waited when they were frozen (R448, log 136). -/
def State.nodes (s : State) (vi : Nat) : List Node :=
  (s.cores.flatMap fun k => k.2.groups.filterMap fun g => match NMap.find k.2.teams g.2.team with
    | some m => if m.vi = vi then some (s.node (k.1, g.1, g.2) m) else none
    | none => none) ++
  (s.swapped.filter fun w => w.away && w.vi == vi).flatMap (·.nodes)

/-- The name of a group that survives swaps. -/
def Node.key (x : Node) : List Nat := [x.grid, x.team, x.grp]

/-- Two groups are of one team. -/
def Node.mates (x y : Node) : Bool := x.grid == y.grid && x.team == y.team

/-- A group is waiting: every lane that is not vacant has a kind from 1 to 6, or 8 (R448). -/
def Node.waits (x : Node) : Bool := x.lanes.all fun l => (decide (1 ≤ l.2.2.1 ∧ l.2.2.1 ≤ 6)) || l.2.2.1 == 8

/-- Interface `vi` has pending work: node Q is progressing (R448). Grids with teams to place count as pending launches. -/
def State.pendingWork (s : State) (vi : Nat) : Bool :=
  s.trigs.any (fun t => ((s.watch? t.watch).map (·.vi)) == some vi) ||
  s.lq.any (fun q => q.1 / 16 == vi && (q.2.packet.isSome || decide (0 < q.2.ahead))) ||
  s.grids.any (fun g => g.vi == vi && decide (g.next < g.last)) ||
  s.cores.any (fun k => k.2.launchQ.any (·.vi == vi) || k.2.launchOver.any (·.vi == vi) || k.2.sideLog.any (·.vi == vi)) ||
  s.ops.any (fun o => o.vi? == some vi && (match o.kind with | .mtx _ | .mma _ | .copy _ | .launch _ => true | _ => false)) ||
  s.pairs.any (·.vi == vi)

/-- The arrivals at barrier `b` of a node's team, resident or swapped out. -/
def State.arrivals (s : State) (x : Node) (b : Nat) : List (Nat × Nat) :=
  if x.away then
    match s.swapped.find? fun w => w.away && w.grid == x.grid && w.team == x.team with
    | some w => ((w.bars[b]?).map (·.arrived)).getD []
    | none => []
  else match (s.core x.core).groups.find? (·.1 == x.slot) with
    | some g => (s.bar x.core g.2.team b).arrived
    | none => []

/-- The groups that a waiting group's edges lead to, and whether edges lead to Q and to X (Table Dt-2). -/
def State.edges (s : State) (vi : Nat) (x : Node) : List (List Nat) × Bool × Bool :=
  let all := s.nodes vi
  x.lanes.foldl (fun r l =>
    let more := fun (ns : List Node) (q o : Bool) => (r.1 ++ ns.map (·.key), r.2.1 || q, r.2.2 || o)
    match l.2.2.1 with
    | 1 =>
      let came := s.arrivals x l.2.2.2.1
      more (all.filter fun g => g.mates x && g.lanes.any fun y => !came.contains (g.grp, y.1)) false false
    | 2 | 3 => more (all.filter fun g => g.key != x.key) true true
    | 4 => more (all.filter fun g => g.mates x) true false
    | 5 => more [] true false
    | 6 =>
      let ks := (s.core x.core).groups.filter fun g => decide (1 < g.2.blocks)
      (r.1 ++ ks.map (fun g => match s.team? x.core g.2.team with
        | some m => [m.grid, m.team, g.2.grp]
        | none => []), r.2.1, r.2.2)
    | _ => r) ([], false, false)

/-- The greatest set within some groups all of whose edges lead into it, to an empty Q, or to an X that is not progressing (R449). -/
def State.closed (s : State) (vi : Nat) : Nat → List Node → List Node
  | 0, xs => xs
  | fuel + 1, xs =>
    let keys := xs.map (·.key)
    let keep := xs.filter fun x =>
      let (ns, q, o) := s.edges vi x
      ns.all keys.contains && !(q && s.pendingWork vi) && !(o && s.cfgGet Config.nDlkExt vi == 1)
    if keep.length = xs.length then xs else s.closed vi fuel keep

/-- The groups of `vi` that were waiting at the last scan and still are, with nothing done between (R449). -/
def State.stuck (s : State) (vi : Nat) : List Node :=
  (s.nodes vi).filter fun x => x.waits && s.dlkPrev.contains (x.key, x.rwc, x.prog)

/-- A member of a deadlock report (Table Dt-3): its lowest waiting lane. -/
def Node.member (x : Node) : List Byte :=
  let l := x.lanes.headD (0, 0, 0, 0, 0)
  leBytes (x.vcore + x.slot * 256 + l.2.2.1 * 65536 + l.1 * 16777216) 4 ++ leBytes x.rwc 8 ++ leBytes (l.2.1 % 2 ^ 32) 4 ++
    leBytes l.2.2.2.1 4 ++ leBytes l.2.2.2.2 4

/-- The 256 bytes of a deadlock report (Table Dt-3). -/
def State.report256 (s : State) (vi : Nat) (xs : List Node) : List Byte :=
  let key := fun (x : Node) => 256 * x.vcore + x.slot
  let sorted := ((xs.map key).foldr addTo []).flatMap fun k => xs.filter fun x => key x == k
  let first := sorted.take 8
  let halt := xs.any (·.halted)
  leBytes (first.length + vi * 256 + halt.toNat * 65536 + (decide (8 < xs.length)).toNat * 131072) 4 ++ leBytes xs.length 4 ++ leBytes s.clk 8 ++
    leBytes 0 16 ++ first.flatMap (·.member) ++ leBytes 0 (224 - 24 * first.length)

/-- One number for a group's name. -/
def Node.code (x : Node) : Nat := x.grid * 2 ^ 64 + x.team * 2 ^ 32 + x.grp

/-- One interface's part of a scan: a deadlock not reported yet is reported (R449, R450). -/
def State.scanVi (s : State) (vi : Nat) : State :=
  let st := s.stuck vi
  let xs := s.closed vi st.length st
  let key := vi :: (xs.map (·.code)).foldr addTo []
  let others := s.dlkDone.filter (·.head? != some vi)
  if xs = [] then { s with dlkDone := others }
  else if s.dlkDone.contains key then s
  else ({ s with dlkDone := others ++ [key] } : State).ringPut Config.nDlkBase Config.nDlkLog Config.nDlkHead Config.nDlkTail
    Config.nDlkLost (s.report256 vi xs)

/-- DEADLOCK_SCAN: every interface is looked at, and the waiting groups are kept for the next scan (R448 to R450). -/
def execDeadlockScan (s : State) : Out :=
  let s1 := (List.range 64).foldl (fun t v => t.scanVi v) s
  let now := (List.range 64).flatMap fun v => ((s.nodes v).filter (·.waits)).map fun x => (x.key, x.rwc, x.prog)
  .next { s1 with dlkPrev := now }

end Sys2Proof.Machine
end

