-- ==== Sys2Proof/Machine/Images.lean ====
section
/-!
DEFINITION. GSAVE and GLOAD: team images and group images through the control thread's handle slot b0 (R292, R318, Tables Ec-11 and Ec-12),
with the spilled return-stack entries (R283).
-/
namespace Sys2Proof.Machine

/-! What images hold. -/

/-- The little-endian bytes of some words. -/
def imageBytes (ws : List Nat) : List Byte := ws.flatMap (leBytes · 4)

/-- Word `i` of an image. -/
def imageWord (v i : Nat) : Nat := fld v (32 * i) 32

/-- AB bytes of the whole team: a split team's halves share what its launch record or descriptor asks for (R47). -/
def State.declaredAb (s : State) (m : Team) : Nat :=
  match m.half, s.grid? m.grid with
  | some _, some g => (g.nextTeam (g.watch.bind s.watch?)).abLen
  | _, _ => m.abLen

/-- The words of a team image (Table Ec-11). -/
def State.teamImage (s : State) (c t : Nat) (m : Team) : List Nat :=
  [1 + m.vi * 256 + widthCode m.width * 16384 + m.groups * 65536 + m.half.isSome.toNat * 16777216 + m.persist.toNat * 33554432 +
      m.vmon.toNat * 67108864,
    m.team, m.nteam, m.grid, s.declaredAb m, m.wbN + m.acsN * 2048, m.prio + m.depth * 16, m.gen] ++
  ((List.range 8).map fun b => (s.bar c t b).arrived.length + (s.bar c t b).more + (s.bar c t b).phase % 2 * 65536) ++
  [m.qcw0.toNat % 2 ^ 32, m.qcw0.toNat / 2 ^ 32, m.qcw1.toNat % 2 ^ 32, m.qcw1.toNat / 2 ^ 32] ++ List.replicate 12 0

/-- The eight words of a stream in a group image. DESIGN CHOICE: word 0 holds the open flag in bit 0 and VW in bits 13 and 12 (log 31). -/
def streamImage (st : Option Stream) : List Nat :=
  match st with
  | none => List.replicate 8 0
  | some x => [1 + x.vw * 4096, x.pos, x.fin, x.rpH, x.coH, x.vaH, x.coOff, x.vaOff]

/-- The sixteen words of a lane in a group image. DESIGN CHOICE: the return-stack entries stand newest first (log 31). -/
def laneImage (x : Lane) : List Nat :=
  [x.pc, x.vacant.toNat + x.cflags.toNat * 65536, x.item.toNat, x.sr.toNat, x.rstack.length + x.spilled * 256] ++
    (List.range 8).map (fun i => (x.rstack[i]?).getD 0) ++ [0, 0, 0]

/-- The words of a group image (Table Ec-12); `areas` are the lanes' spilled entries. -/
def Group.image (g : Group) (areas : List (List Nat)) : List Nat :=
  [1 + widthCode g.width * 256 + g.blocks * 4096 + g.halted.toNat * 65536, g.grp, g.rwc % 2 ^ 32, g.rwc / 2 ^ 32, g.fpf.toNat, 0] ++
  ((List.range 12).map fun i => (Mem.get g.slots i).toNat) ++ ((List.range 8).flatMap fun z => streamImage (NMap.find g.streams z)) ++
  List.replicate 46 0 ++ g.lanes.flatMap laneImage ++
  ((List.range (16 * g.blocks)).flatMap fun j => (List.range g.width).map fun l => (g.reg l j).toNat) ++
  areas.flatMap fun ws => ws ++ List.replicate (256 - ws.length) 0

/-- Bytes of a group image. -/
def groupImageBytes (width blocks : Nat) : Nat := 512 + 64 * width + 64 * blocks * width + 1024 * width

/-! Stack areas. -/

/-- The stack area of lane `l` of a group of team `m`: the buffer's handle and the area's offset (R283). -/
def State.laneArea (s : State) (m : Team) (g : Group) (l : Nat) : Nat × Nat :=
  (s.cfgGet Config.nStackH m.vi,
    s.cfgGet Config.nStackOff m.vi + 1024 * (8192 * m.vcore + 32 * (g.units[l / 32]?).getD 0 + l % 32))

/-- What moving an image gives: done, a hold, a fault of the control thread, as a trap code, or bytes to be asked of another chip: rank,
handle, offset, number. -/
inductive Moved (α : Type) where
  | done (x : α)
  | held (why : Why)
  | fault (code : Nat)
  | ask (rank h off n : Nat)

/-- Answer `k` that another chip has given to the control thread's word. -/
def State.answer (s : State) (k : Nat) : Option Nat := ((s.me.lane 0).saved)[k]?

/-- The control thread's word asks another chip for bytes, and issues again when they have come (R60, R292). -/
def State.askImage (s : State) (rank h off n : Nat) : State :=
  ((s.addOp s.issue.lanes (.remote ⟨rank, h, off, .image, .read n, s.myDepth, s.opSeq, none⟩) none (some (s.faultEntry 0 0 off h))).hold s.issue.lanes
    .image).modMe (·.modLanes s.issue.lanes fun (x : Lane) => { x with wait := .op s.opSeq .image })

/-- The spilled entries of lanes are read, in order; `k` answers of other chips have been used. -/
def State.readAreas (s : State) (m : Team) (g : Group) (k : Nat) : List Nat → State × Moved (List (List Nat))
  | [] => (s, .done [])
  | l :: ls =>
    let n := (g.lane l).spilled
    let a : Actor := ⟨s.issue.core, false, m.vi, m.depth⟩
    let (h, off) := s.laneArea m g l
    let go := fun (t : State) (j : Nat) (ws : List Nat) => match t.readAreas m g j ls with
      | (u, .done rest) => (u, Moved.done (ws :: rest))
      | (u, .held w) => (u, .held w)
      | (u, .fault c) => (u, .fault c)
      | (u, .ask a b x y) => (u, .ask a b x y)
    if n = 0 then go s k []
    else match s.resolve a h off (4 * n) [.read] none with
      | .error c => (s, .fault (checkCode c))
      | .ok r =>
        match r.remote with
        | some rank => match s.answer k with
          | some v => go s (k + 1) ((List.range n).map (imageWord v))
          | none => (s, .ask rank h off (4 * n))
        | none => match s.readAt a (s.meLane 0) r (4 * n) 3 with
          | (t, .held w) => (t, .held w)
          | (t, .poison _ pa) => (t.poisonUse s.actor.vi? 0 pa, .fault 0x20)
          | (t, .value v) => go t k ((List.range n).map (imageWord v))

/-- The spilled entries of lanes are written to the areas of their new thread slots, in order. -/
def State.writeAreas (s : State) (m : Team) (g : Group) : List (Nat × List Nat) → State × Moved Unit
  | [] => (s, .done ())
  | (l, ws) :: rest =>
    if ws = [] then s.writeAreas m g rest
    else
      let a : Actor := ⟨s.issue.core, false, m.vi, m.depth⟩
      let (h, off) := s.laneArea m g l
      match s.resolve a h off (4 * ws.length) [.write] none with
      | .error c => (s, .fault (checkCode c))
      | .ok r => match r.remote with
        | some rank => (s.sendPut s.issue.lanes rank h off (imageBytes ws) .ack).writeAreas m g rest
        | none => match (s.pin r.space r.va).putNow a (s.meLane 0) r h 3 (imageBytes ws) with
          | (t, some w) => (t, .held w)
          | (t, none) => t.writeAreas m g rest

/-! GSAVE. -/

/-- An image is written at offset `off` of the buffer in slot b0; `f` is what the state keeps of it. -/
def State.saveImage (s : State) (off : Nat) (bs : List Byte) (f : State → State) : Out :=
  let h := s.slotHandle 0
  match s.resolve s.actor h off bs.length [.write] none with
  | .error c => finish (s.raise (checkCode c) (c * 256) off h)
  | .ok r => match r.remote with
    | some rank => finish ((f s).remoteVia true h rank [(0, off)] .ack (fun _ => .store bs) none)
    | none => match s.putNow s.actor (s.meLane 0) r h 1 bs with
      | (t, some w) => finish (t.hold t.issue.lanes w)
      | (t, none) => finish (f t).retire

/-- GSAVE: M 1 a team image, M 0 a group image, of a team that is frozen and drained (R292, R413). -/
def execGsave (a b m : Nat) (s : State) : Out :=
  privWith s fun v => accessWith false [a, b] [] v fun t =>
    let c := t.issue.core
    let l := t.issue.lanes.headD 0
    let n := (t.me.reg l a).toNat
    let off := (t.me.reg l b).toNat
    if m = 1 then
      match t.team? c n with
      | none => .next (t.reserved 7 0 0)
      | some x =>
        if !t.drained c n then .next (t.reserved 7 0 0)
        else t.saveImage off (imageBytes (t.teamImage c n x)) fun u => u.modTeam c n fun (y : Team) => { y with imaged := true }
    else
      match NMap.find (t.core c).groups n with
      | none => .next (t.reserved 7 0 0)
      | some g => match t.team? c g.team with
        | none => .next (t.reserved 7 0 0)
        | some x =>
          if !t.drained c g.team then .next (t.reserved 7 0 0)
          else match t.readAreas x g 0 (List.range g.width) with
            | (u, .fault k) => finish (u.raise k 0 off 0)
            | (u, .ask r y p q) => .next (u.askImage r y p q)
            | (u, .held w) => finish (u.hold u.issue.lanes w)
            | (u, .done areas) => u.saveImage off (imageBytes (g.image areas)) id

/-! GLOAD. -/

/-- `n` bytes of an image are read at offset `off` of the buffer in slot b0; from another chip they come as answer `k`. -/
def State.loadImage (s : State) (off n k : Nat) : State × Moved Nat :=
  match s.resolve s.actor (s.slotHandle 0) off n [.read] none with
  | .error c => (s, .fault (checkCode c))
  | .ok r =>
    match r.remote with
    | some rank => match s.answer k with
      | some v => (s, .done v)
      | none => (s, .ask rank (s.slotHandle 0) off n)
    | none => match s.readAt s.actor (s.meLane 0) r n 0 with
      | (t, .held w) => (t, .held w)
      | (t, .poison _ pa) => (t.poisonUse s.actor.vi? 0 pa, .fault 0x20)
      | (t, .value v) => (t, .done v)

/-- A barrier from its word of a team image: as it was kept where the word says the same; else the word's phase and count, with as many of the
kept arrivals as it counts (Table Ec-11). -/
def imageBar (v : Nat) (k : Bar) : Bar :=
  let n := fld v 0 13
  if n = k.arrived.length + k.more ∧ fld v 16 1 = k.phase % 2 then k
  else ⟨if fld v 16 1 = k.phase % 2 then k.phase else k.phase + 1, k.arrived.take n, n - k.arrived.length⟩

/-- The team of a team image, before it has a place: what the image does not hold comes from its grid, and its barriers as the team left
them (R292, R318). -/
def State.imageTeam (s : State) (v : Nat) (g : Grid) (w : Option Swapped) : Team :=
  let m := g.nextTeam (g.watch.bind s.watch?)
  { m with
    vi := fld v 8 6, grid := imageWord v 3, team := imageWord v 1, nteam := imageWord v 2, groups := fld v 16 8,
    width := codeWidth (fld v 14 2), prio := fld v 192 3, depth := fld v 196 4, gen := imageWord v 7, persist := bit v 25,
    vmon := bit v 26, abLen := imageWord v 4, wbN := fld v 160 11, acsN := fld v 171 9, recN := (fld v 171 9 + 1) / 2,
    bars := ((w.map (·.bars)).getD m.bars).zipIdx.map fun x => imageBar (imageWord v (8 + x.2)) x.1, stats := (w.map (·.stats.1)).getD [], frozen := true }

/-- What a restored team takes of each core: that of a team of its shape, with the register blocks its groups held (R17, R317). -/
def Team.restoreNeeds (m : Team) (split : Bool) (blocks : Nat) : List Need :=
  ((m.needs split).zipIdx).map fun x =>
    let b := if split then (if x.2 = 0 then (blocks + 1) / 2 else blocks - (blocks + 1) / 2) else blocks
    { x.1 with units := b * m.width }

/-- A team image becomes a frozen team on core `c`, and for a split team on its cluster's other core, whose control thread is told; the
new slot, or none where it does not fit (R292, R318). DESIGN CHOICE: an image that is no swapped-out team's makes a team too, and what it
does not hold is then its grid's, or 0 (log 45). -/
def State.restoreTeam (s : State) (c v : Nat) : State × Option Nat :=
  let mine := fun (w : Swapped) => w.away && w.grid == imageWord v 3 && w.team == imageWord v 1
  let w := s.swapped.find? mine
  let g := (s.grid? (imageWord v 3)).getD ⟨imageWord v 3, 0, fld v 8 6, 0, 0, 0, none, none, 0, 0, 0, 0, 0, false, none, none⟩
  let split := bit v 24
  let m := s.imageTeam v g w
  let ns := m.restoreNeeds split ((w.map (·.blocks)).getD 0)
  let again : State := ({ s with swapped := s.swapped.map fun x => if mine x then { x with posted := false } else x } : State).due
    .teamPlacement
  if v % 256 ≠ 1 ∨ (split ∧ c % 2 = 1) ∨ !s.fitsAt m.vi ns c then (again, none)
  else
    let (s1, seats) := s.seatTeam m c ns
    let t := (seats.head?.map (·.2)).getD 0
    let s2 := ((s1.applyQcw c 0 t (BitVec.ofNat 64 (fld v 512 64))).applyQcw c 1 t (BitVec.ofNat 64 (fld v 576 64)))
    let s3 : State := { s2 with swapped := s2.swapped.map fun x => if mine x then { x with away := false } else x }
    let s4 := if w.isNone then s3.modGrid m.grid fun x => { x with live := x.live + 1 } else s3
    match seats[1]? with
    | some h => ((s4.modTeam h.1 h.2 ({ · with stats := (w.map (·.stats.2)).getD [] })).postEvent h.1 0x02 m.vi none
        [m.grid, m.team, ((w.map (·.idle)).getD false).toNat + 2, h.2], some t)
    | none => (s4, some t)

/-- A lane of a group image, with what was kept of its thread. -/
def imageLane (v base : Nat) (k : Option Kept) : Lane :=
  let w := fun i => imageWord v (base + i)
  let pc := w 0
  { Lane.start pc with
    clause := match k.bind (·.clause) with
      | some q => if q.off < pc ∧ pc < q.off + 4 + 4 * (q.word % 16) then some q else none
      | none => none
    vacant := bit (w 1) 0
    cflags := BitVec.ofNat 8 (fld (w 1) 16 8)
    item := BitVec.ofNat 32 (w 2)
    sr := BitVec.ofNat 32 (w 3)
    rstack := (List.range (min 8 (fld (w 4) 0 4))).map fun i => w (5 + i)
    spilled := fld (w 4) 8 9
    wait := (k.map (·.wait)).getD .none
    arrived := (k.map (·.arrived)).getD []
    farPairs := (k.map (·.farPairs)).getD [] }

/-- The group of a group image, in team slot `t` (Table Ec-12). DESIGN CHOICE: the count of its issues, whose multiples of 64 choose by age, starts again
at 0, since no image holds it (R22, log 141). -/
def imageGroup (v t width : Nat) (kept : List Kept) : Group :=
  let blocks := fld v 12 4
  let grp := imageWord v 1
  let of := fun l => kept.find? fun (k : Kept) => k.grp == grp && k.lane == l
  let regs := (List.range (16 * blocks)).foldl (fun (m : Mem 32) j => (List.range width).foldl (fun (q : Mem 32) l =>
    Mem.set q (128 * l + j) (BitVec.ofNat 32 (imageWord v (128 + 16 * width + j * width + l)))) m) []
  { Group.ctReset with
    team := t, grp := grp, width := width, blocks := blocks, regs := regs,
    lanes := (List.range width).map fun l => imageLane v (128 + 16 * l) (of l),
    slots := (List.range 12).foldl (fun (m : Mem 32) i => Mem.set m i (BitVec.ofNat 32 (imageWord v (6 + i)))) [],
    streams := (List.range 8).foldl (fun (m : NMap Stream) z =>
      let w := fun i => imageWord v (18 + 8 * z + i)
      if bit (w 0) 0 then NMap.put m z ⟨w 1, w 2, w 3, w 4, w 5, w 6, w 7, fld (w 0) 12 2⟩ else m) [],
    rwc := imageWord v 2 + imageWord v 3 % 65536 * 2 ^ 32, fpf := BitVec.ofNat 5 (imageWord v 4), halted := bit v 16,
    poison := (kept.filter (·.grp == grp)).flatMap fun k => k.poison.map (k.lane, ·),
    fresh := kept.any fun k => k.grp == grp && k.fresh }

/-- What an absent group left in the part under another name is its own again. -/
def State.reown (s : State) (c n old : Nat) : State :=
  { s with
    pairs := s.pairs.map fun (p : Pair) => if p.agent = .grp old then { p with agent := .grp n, core := c } else p
    ops := s.ops.map fun (o : Op) => if o.agent = .grp old then { o with agent := .grp n, core := c } else o }

/-- A group image joins the frozen team of slot `t`: the new group slot, or none where it does not fit, with the reserve of R29 kept free;
or a hold or fault of its stack areas (R283, R292). -/
def State.restoreGroup (s : State) (c t v : Nat) (m : Team) : State × Moved (Option Nat) :=
  let w := s.swapped.find? fun x => x.grid == m.grid && x.team == m.team
  let g := imageGroup v t m.width ((w.map (·.threads)).getD [])
  let k := s.core c
  let bad := v % 256 ≠ 1 ∨ fld v 8 2 ≠ widthCode m.width ∨ g.blocks = 0 ∨ 8 < g.blocks
  if bad ∨ Config.numSlots ≤ k.groups.length ∨ Config.threadSlots < (k.groups.map (·.2.width)).sum + g.width ∨
      31744 < k.blocksUsed + g.blocks * g.width then (s, .done none)
  else
    let n := (lowestFree (k.groups.map (·.1)) Config.numSlots).getD 0
    let s1 := s.modCore c (·.addGroup g)
    let base := 128 + 16 * m.width + 16 * g.blocks * m.width
    let areas := (List.range m.width).map fun l => (l, (List.range (g.lane l).spilled).map fun i => imageWord v (base + 256 * l + i))
    let undo := fun (u : State) => u.modCore c fun (q : Core) =>
      { q with groups := NMap.drop q.groups n, slots := k.slots, resident := k.resident }
    match s1.writeAreas m ((s1.group? c (.grp n)).getD g) areas with
    | (u, .held y) => (undo u, .held y)
    | (u, .fault y) => (undo u, .fault y)
    | (u, .ask _ _ _ _) => (undo u, .held .image)
    | (u, .done _) =>
      let old := (w.bind fun x => (x.aliases.find? fun y => y.1 == g.grp)).map (·.2)
      (match old with | some o => u.reown c n o | none => u, .done (some n))

/-- GLOAD: M 1 a team image, M 0 a group image into the frozen team of slot v[a] (R292, R413). -/
def execGload (d a b m : Nat) (s : State) : Out :=
  privWith s fun v => accessWith false (if m = 1 then [b] else [a, b]) [d] v fun t =>
    let c := t.issue.core
    let l := t.issue.lanes.headD 0
    let n := (t.me.reg l a).toNat
    let off := (t.me.reg l b).toNat
    let give := fun (u : State) (x : Option Nat) => finish (u.giveAll [(d, BitVec.ofNat 32 (x.getD 0xFFFFFFFF))]).retire
    let stop := fun (u : State) (k : Nat) => finish (u.raise k 0 off (u.slotHandle 0))
    let sent := fun (u : State) => u.ops.filterMap fun o => match o.kind with
      | .remote r => if o.core = c ∧ o.agent = .ct ∧ r.form = .ack then some o.id else none
      | _ => none
    if m = 1 then
      match t.loadImage off 128 0 with
      | (u, .fault k) => stop u k
      | (u, .ask r h p q) => .next (u.askImage r h p q)
      | (u, .held w) => finish (u.hold u.issue.lanes w)
      | (u, .done v) =>
        let (x, y) := u.restoreTeam c v
        give x y
    else
      match t.team? c n with
      | none => .next (t.reserved 7 0 0)
      | some x =>
        if !x.frozen then .next (t.reserved 7 0 0)
        else match t.loadImage off 4 0 with
          | (u, .fault k) => stop u k
          | (u, .ask r h p q) => .next (u.askImage r h p q)
          | (u, .held w) => finish (u.hold u.issue.lanes w)
          | (_, .done h) => match t.loadImage off (groupImageBytes x.width (fld h 12 4)) 1 with
            | (u, .fault k) => stop u k
            | (u, .ask r h p q) => .next (u.askImage r h p q)
            | (u, .held w) => finish (u.hold u.issue.lanes w)
            | (u, .done v) => match u.restoreGroup c n v x with
              | (y, .fault k) => stop y k
              | (y, .held w) => finish (y.hold y.issue.lanes w)
              | (y, .ask _ _ _ _) => finish (y.hold y.issue.lanes .image)
              | (y, .done r) => match (sent y).getLast? with
                | some id => finish ((y.giveAll [(d, BitVec.ofNat 32 (r.getD 0xFFFFFFFF))]).retireWait (.op id .image))
                | none => give y r

end Sys2Proof.Machine
end

