-- ==== Sys2Proof/Machine/LaneOps.lean ====
section
/-!
DEFINITION. Lane operations: shuffle, vote, prefix sums and reductions over the active lanes (R192 to R195).
-/
namespace Sys2Proof.Machine

/-- SHFL: v[a] of the source lane that M and v[b] name, or the lane's own where that lane is outside the group or not active
(R192). -/
def execShfl (d a b m : Nat) (s : State) : Out :=
  issueSet [a, b] [d] s fun t =>
    .next (t.writeLanes false fun g l =>
      let v : Int := (g.reg l b).toNat
      let src : Int := match m with
        | 0 => v
        | 1 => (Nat.xor l (g.reg l b).toNat : Nat)
        | 2 => l - v
        | _ => l + v
      let ok := decide (0 ≤ src) && decide (src < g.width) && t.issue.lanes.contains src.toNat
      [(d, g.reg (if ok then src.toNat else l) a)]).retire

/-- The ballot of flag `p`: bit j is the flag of active lane j (R193). -/
def ballot (g : Group) (lanes : List Nat) (p : Nat) : Nat := (lanes.map fun l => if g.flag l p then 2 ^ l else 0).sum

/-- VOTE: any, all, ballot or equal over flag `p` of the active lanes; `.ballot` writes W/32 registers (R193). -/
def execVote (d p m : Nat) (s : State) : Out :=
  let n := if m = 2 then s.me.width / 32 else 1
  if 128 < d + n then .next (s.reserved 3 16 0)
  else issueSet [] (regRange d n) s fun t =>
    .next (t.writeLanes false fun g _ =>
      let xs := t.issue.lanes.map (g.flag · p)
      match m with
      | 0 => [(d, if xs.any id then 1 else 0)]
      | 1 => [(d, if xs.all id then 1 else 0)]
      | 2 => wordWrites d (ballot g t.issue.lanes p) n
      | _ => [(d, if xs.all id || xs.all (!·) then 1 else 0)]).retire

/-- The FP32 sum of the values of `lanes`: +0 for none (R194). DEDUCED: RDUC adds as PRFX does, from +0, so that one lane's +0 under RDN gives −0
(R195, log 144). -/
def laneSum (t : State) (a : Nat) (lanes : List Nat) : FRes :=
  if lanes = [] then ⟨0, 0⟩
  else Fmt.f32.sum t.rm t.ftz true (lanes.map fun l => Fmt.f32.decode t.ftz (t.me.reg l a).toNat)

/-- PRFX: the sum over the active lanes below, and with M 0 and 2 the lane itself; `.i32` for M 0 and 1, `.f32` for M 2 and 3
(R194). -/
def execPrfx (d a m : Nat) (s : State) : Out :=
  let below (t : State) (l : Nat) : List Nat := t.issue.lanes.filter fun k => decide (k < l) || (m % 2 == 0 && k == l)
  if m ≤ 1 then issueSet [a] [d] s fun t =>
    .next (t.writeLanes false fun g l => [(d, (below t l).foldl (fun x k => x + g.reg k a) 0)]).retire
  else fpSet [a] [d] [(0, a)] a noFlag s fun t l => (laneSum t a (below t l)).out d

/-- An integer operator of RDUC, codes 0 to 7 (Table Al-14). -/
def rducInt (k : Nat) (x y : Word) : Word :=
  match k with
  | 0 => x + y
  | 1 => if x.toInt ≤ y.toInt then x else y
  | 2 => if x.toInt ≤ y.toInt then y else x
  | 3 => if x.toNat ≤ y.toNat then x else y
  | 4 => if x.toNat ≤ y.toNat then y else x
  | 5 => x &&& y
  | 6 => x ||| y
  | _ => x ^^^ y

/-- The minimumNumber or maximumNumber of the values of `lanes` (R180, R195). -/
def laneMinMax (t : State) (isMax : Bool) (a : Nat) : List Nat → FRes
  | [] => ⟨0, 0⟩
  | l :: ls =>
    let v (k : Nat) : Nat := (t.me.reg k a).toNat
    ls.foldl (fun r k =>
      let q := Fmt.f32.minMax t.ftz isMax false r.bits (v k)
      ⟨q.bits, r.flags ||| q.flags⟩) (Fmt.f32.minMax t.ftz isMax false (v l) (v l))

/-- RDUC: one reduction over all active lanes, to each of them (R195). -/
def execRduc (d a k : Nat) (s : State) : Out :=
  if k ≤ 7 then issueSet [a] [d] s fun t =>
    .next (t.writeLanes false fun g _ =>
      match t.issue.lanes with
      | [] => []
      | l :: ls => [(d, ls.foldl (fun x j => rducInt k x (g.reg j a)) (g.reg l a))]).retire
  else fpSet [a] [d] [(0, a)] a noFlag s fun t _ =>
    (if k = 8 then laneSum t a t.issue.lanes else laneMinMax t (k == 10) a t.issue.lanes).out d

end Sys2Proof.Machine
end

