-- ==== Sys2Proof/Machine/Triggers.lean ====
section
/-!
DEFINITION. Triggers on their way out of the pools: dispatch under max live, in spawn and in ring mode (R37, R81, R82), and the return of
spilled triggers (R80, R81, R439).
-/
namespace Sys2Proof.Machine

/-- The slices at which a trigger of watch `id` waits in a pool, in ascending order. -/
def State.triggerSlices (s : State) (id : Nat) : List Nat :=
  ((s.trigs.filter fun t => t.watch == id && t.seq.isNone).map (·.slice)).foldr addTo []

/-- The slice whose turn it is to take a place of a watch: the next after the one that took the last, in ascending order (R82). -/
def State.turnSlice (s : State) (w : Watch) : Option Nat :=
  let ks := s.triggerSlices w.id
  match ks.find? (w.slice < ·) with
  | some k => some k
  | none => ks.head?

/-- A watch may dispatch at slice `k`: it lives, is not suspended, and has a place there (R82, R227). -/
def State.mayDispatch (s : State) (w : Watch) (k : Nat) : Bool :=
  !w.dropped && !s.suspended w &&
    (w.maxLive == 0 || (decide (w.live < w.maxLive) && s.turnSlice w == some k))

/-- Spawn mode: a triggered group's grid goes to the distributor (R37, R298, R458). -/
def State.spawn (s : State) (w : Watch) (t : Trigger) : State :=
  let s1 := s.dispatched w t
  let (num, s2) := s1.takeNumber
  let g : Grid := ⟨num, 0, w.vi, s.cfgGet Config.nTrigPrio w.vi, t.depth, 0, none, some w.id, t.off, 0, 1, 1, 0, false, none, some t.slice⟩
  { s2 with grids := s2.grids ++ [g] }.due .teamPlacement

/-- What a push into a work ring comes to: pushed, no room, tried again when a page comes or in the next cycle, or suspended. -/
inductive Pushed where
  | done
  | full
  | page
  | line
  | stopped

/-- Ring mode: the trigger's item is pushed at its depth (R40, R82). Into a ring behind a remote window the chip there pushes it; the
trigger waits meanwhile, and is tried again while that ring is full. -/
def State.push (s : State) (w : Watch) (t : Trigger) : State × Pushed :=
  let a : Actor := ⟨s.physCore w.vi 0, false, w.vi, t.depth⟩
  let cap := 2 ^ fld w.desc 384 5
  let ringH := fld w.desc 320 32
  let ringOff := fld w.desc 352 32
  match s.resolve a ringH ringOff (64 + 4 * cap) [] none with
  | .error _ => (s.suspend none w 3 t.slice, .stopped)
  | .ok r =>
    match r.remote with
    | some rank =>
      let asked := s.ops.any fun o => match o.kind with
        | .remote q => (match q.form with | .push x k _ => x == w.id && k == t.slice | _ => false)
        | _ => false
      (if asked then s else s.sendOutside a rank ringH ringOff (.push w.id t.slice t.off) (.push cap t.off w.id), .full)
    | none =>
      match s.ringPush a (noLane 128) r cap t.off with
      | (u, .ok (some tail)) => ({ u.dispatched w t with pushed := u.pushed ++ [(r.ringKey, tail, w.id)] }, .done)
      | (u, .ok none) => (u, .full)
      | (u, .error .page) => (u, .page)
      | (u, .error _) => (u, .line)

/-- A slice's waiting triggers that are each the oldest of their watch there (R81, R438). -/
def State.firstTriggers (s : State) (k : Nat) : List Trigger :=
  let mine := s.trigs.filter fun t => t.slice == k && t.seq.isNone
  mine.zipIdx.filterMap fun x => if (mine.take x.2).any (·.watch == x.1.watch) then none else some x.1

/-- The oldest eligible trigger of a slice is dispatched; the state, whether one was, and the step to try again at once or for a page. -/
def State.dispatchFirst (s : State) (k : Nat) : List Trigger → State × Pushed
  | [] => (s, .full)
  | t :: ts =>
    match s.watch? t.watch with
    | none => s.dispatchFirst k ts
    | some w =>
      if !w.dropped && !s.statusReady w then match (s.statusAsk w).dispatchFirst k ts with
        | (v, .full) => (v, .line)
        | y => y
      else if !s.mayDispatch w k then s.dispatchFirst k ts
      else if w.ring then match s.push w t with
        | (u, .done) => (u, .done)
        | (u, .page) => match u.dispatchFirst k ts with
          | (v, .full) => (v, .page)
          | y => y
        | (u, .line) => match u.dispatchFirst k ts with
          | (v, .full) => (v, .line)
          | y => y
        | (u, _) => u.dispatchFirst k ts
      else (s.spawn w t, .done)

/-- TRIGGER_DISPATCH: a lead slice dispatches its oldest eligible trigger (R81, R82, R104). -/
def execTriggerDispatch (slice : Nat) (s : State) : Out :=
  match s.dispatchFirst slice (s.firstTriggers slice) with
  | (t, .done) => finish t.kickAll
  | (t, .page) => finish { t with gpHeld := if t.gpHeld.contains (.triggerDispatch slice) then t.gpHeld else t.gpHeld ++ [.triggerDispatch slice] }
  | (t, .line) => finish { t with retryNext := t.retryNext ++ [.triggerDispatch slice] }
  | (t, _) => finish t

/-- A spilled trigger enters its slice's pool, or coalesces there (R80, R81, R439). -/
def State.unspill (s : State) (w : Watch) (t : Trigger) (q : Nat) : State :=
  let s0 : State := { s with trigs := s.trigs.erase t }
  let same := fun (x : Trigger) => x.watch == t.watch && x.off == t.off && x.slice == t.slice && x.seq.isNone
  let s1 :=
    if s0.trigs.any same then
      let y : State := { s0 with trigs := s0.trigs.map fun x => if same x then { x with depth := max x.depth t.depth } else x }
      (y.statusCount w 16 8 [(0, 1)] t.depth).liveAdd w 0 1 t.depth
    else ({ s0 with trigs := s0.trigs ++ [{ t with seq := none }] } : State).kick t.slice
  (s1.spillWrite w t.off t.slice t.depth q 2).spillHead w.vi

/-- The first spilled trigger of `vi` that may return: the oldest of its slice, with room or a place to coalesce there. -/
def State.returnable (s : State) (vi : Nat) : Option (Watch × Trigger × Nat) :=
  let out := s.trigs.filterMap fun t => match t.seq, s.watch? t.watch with
    | some q, some w => if w.vi = vi then some (w, t, q) else none
    | _, _ => none
  (out.zipIdx.find? fun x =>
    let t := x.1.2.1
    !(out.take x.2).any (fun y => y.2.1.slice == t.slice) &&
      (s.poolRoom t.slice vi ||
        s.trigs.any fun y => y.watch == t.watch && y.off == t.off && y.slice == t.slice && y.seq.isNone)).map (·.1)

/-- TRIGGER_SPILL_RETURN: a spilled trigger of the interface returns to its slice's pool, and what waits for the ring goes on (R81, R430,
R439). -/
def execTriggerSpillReturn (vi : Nat) (s : State) : Out :=
  match s.returnable vi with
  | none => .next s
  | some (w, t, q) =>
    let s1 := (s.unspill w t q).ringFreed
    .next (if (s1.returnable vi).isSome then s1.due (.triggerSpillReturn vi) else s1)

end Sys2Proof.Machine
end

