-- ==== Sys2Proof/Machine/Dispatch.lean ====
section
/-!
DEFINITION. One arm for every row of spec/opcode_table.json: the meaning of each instruction and event.
-/
namespace Sys2Proof.Machine

/-- The effect of an instruction issue, as `State.issue` names it, or of an event (R21, R380; file 95 of the spec). -/
def exec (i : Instr) (s : State) : Host.Outcome State Fault Refusal :=
  match i with
  | .iadd u d a b => Sys2Proof.Machine.execIadd u d a b s
  | .isub u d a b => Sys2Proof.Machine.execIsub u d a b s
  | .iaddi u d a im => Sys2Proof.Machine.execIaddi u d a im s
  | .imul u d a b => Sys2Proof.Machine.execImul u d a b s
  | .imulh u d a b m => Sys2Proof.Machine.execImulh u d a b m s
  | .imad u d a b m => Sys2Proof.Machine.execImad u d a b m s
  | .imin u d a b m => Sys2Proof.Machine.execImin u d a b m s
  | .imax u d a b m => Sys2Proof.Machine.execImax u d a b m s
  | .iabs u d a m => Sys2Proof.Machine.execIabs u d a m s
  | .iadds u d a b m => Sys2Proof.Machine.execIadds u d a b m s
  | .iadd64 u d a b => Sys2Proof.Machine.execIadd64 u d a b s
  | .isub64 u d a b => Sys2Proof.Machine.execIsub64 u d a b s
  | .ixadd u d a b m => Sys2Proof.Machine.execIxadd u d a b m s
  | .and u d a b => Sys2Proof.Machine.execAnd u d a b s
  | .or u d a b => Sys2Proof.Machine.execOr u d a b s
  | .xor u d a b => Sys2Proof.Machine.execXor u d a b s
  | .andn u d a b => Sys2Proof.Machine.execAndn u d a b s
  | .andi u d a im => Sys2Proof.Machine.execAndi u d a im s
  | .ori u d a im => Sys2Proof.Machine.execOri u d a im s
  | .xori u d a im => Sys2Proof.Machine.execXori u d a im s
  | .shl u d a b => Sys2Proof.Machine.execShl u d a b s
  | .shr u d a b => Sys2Proof.Machine.execShr u d a b s
  | .sar u d a b => Sys2Proof.Machine.execSar u d a b s
  | .shli u d a im => Sys2Proof.Machine.execShli u d a im s
  | .shri u d a im => Sys2Proof.Machine.execShri u d a im s
  | .sari u d a im => Sys2Proof.Machine.execSari u d a im s
  | .popc u d a => Sys2Proof.Machine.execPopc u d a s
  | .clz u d a => Sys2Proof.Machine.execClz u d a s
  | .brev u d a => Sys2Proof.Machine.execBrev u d a s
  | .bfe u d a b m pos len sgn => Sys2Proof.Machine.execBfe u d a b m pos len sgn s
  | .bfi u d a b m pos len => Sys2Proof.Machine.execBfi u d a b m pos len s
  | .mov u d a m => Sys2Proof.Machine.execMov u d a m s
  | .li u d m im => Sys2Proof.Machine.execLi u d m im s
  | .lix u d m im x => Sys2Proof.Machine.execLix u d m im x s
  | .sel u d a b m cf inv => Sys2Proof.Machine.execSel u d a b m cf inv s
  | .movs u d n => Sys2Proof.Machine.execMovs u d n s
  | .movsw u d n => Sys2Proof.Machine.execMovsw u d n s
  | .icmp u c k a b m => Sys2Proof.Machine.execIcmp u c k a b m s
  | .clog u c k p q => Sys2Proof.Machine.execClog u c k p q s
  | .fadd u d a b m => Sys2Proof.Machine.execFadd u d a b m s
  | .fsub u d a b m => Sys2Proof.Machine.execFsub u d a b m s
  | .fmul u d a b m => Sys2Proof.Machine.execFmul u d a b m s
  | .ffma u d a b m => Sys2Proof.Machine.execFfma u d a b m s
  | .fmin u d a b m => Sys2Proof.Machine.execFmin u d a b m s
  | .fmax u d a b m => Sys2Proof.Machine.execFmax u d a b m s
  | .fcmp u c k a b m => Sys2Proof.Machine.execFcmp u c k a b m s
  | .frcp u d a m => Sys2Proof.Machine.execFrcp u d a m s
  | .frsq u d a => Sys2Proof.Machine.execFrsq u d a s
  | .fsqrt u d a m => Sys2Proof.Machine.execFsqrt u d a m s
  | .fexp2 u d a => Sys2Proof.Machine.execFexp2 u d a s
  | .flog2 u d a => Sys2Proof.Machine.execFlog2 u d a s
  | .fsin u d a => Sys2Proof.Machine.execFsin u d a s
  | .fcos u d a => Sys2Proof.Machine.execFcos u d a s
  | .ftanh u d a => Sys2Proof.Machine.execFtanh u d a s
  | .frnd u d a m => Sys2Proof.Machine.execFrnd u d a m s
  | .fcps u d a b m => Sys2Proof.Machine.execFcps u d a b m s
  | .hadd2 u d a b bf => Sys2Proof.Machine.execHadd2 u d a b bf s
  | .hmul2 u d a b bf => Sys2Proof.Machine.execHmul2 u d a b bf s
  | .hfma2 u d a b bf => Sys2Proof.Machine.execHfma2 u d a b bf s
  | .hmin2 u d a b bf => Sys2Proof.Machine.execHmin2 u d a b bf s
  | .hmax2 u d a b bf => Sys2Proof.Machine.execHmax2 u d a b bf s
  | .hdot2 u d a b bf => Sys2Proof.Machine.execHdot2 u d a b bf s
  | .cvt u d a src dst rm satx ncnt => Sys2Proof.Machine.execCvt u d a src dst rm satx ncnt s
  | .cvtq u d a b src dst rm satx vtype blk had smode sbyte => Sys2Proof.Machine.execCvtq u d a b src dst rm satx vtype blk had smode sbyte s
  | .cvtd u d a b src dst rm blk had scl sbyte => Sys2Proof.Machine.execCvtd u d a b src dst rm blk had scl sbyte s
  | .bscl u d a b rm styp inv sbyte => Sys2Proof.Machine.execBscl u d a b rm styp inv sbyte s
  | .hadm u d a typ rm nrm blk => Sys2Proof.Machine.execHadm u d a typ rm nrm blk s
  | .vclass u d a => Sys2Proof.Machine.execVclass u d a s
  | .vzero u d a m => Sys2Proof.Machine.execVzero u d a m s
  | .vfill u d a b => Sys2Proof.Machine.execVfill u d a b s
  | .shfl d a b m => Sys2Proof.Machine.execShfl d a b m s
  | .vote d p m => Sys2Proof.Machine.execVote d p m s
  | .prfx d a m => Sys2Proof.Machine.execPrfx d a m s
  | .rduc d a k => Sys2Proof.Machine.execRduc d a k s
  | .ldb u d a h im => Sys2Proof.Machine.execLdb u d a h im s
  | .ldbs u d a h im => Sys2Proof.Machine.execLdbs u d a h im s
  | .ldh u d a h im => Sys2Proof.Machine.execLdh u d a h im s
  | .ldhs u d a h im => Sys2Proof.Machine.execLdhs u d a h im s
  | .ldw u d a h im => Sys2Proof.Machine.execLdw u d a h im s
  | .ldd u d a h im => Sys2Proof.Machine.execLdd u d a h im s
  | .ldq u d a h im => Sys2Proof.Machine.execLdq u d a h im s
  | .stb u d a h im => Sys2Proof.Machine.execStb u d a h im s
  | .sth u d a h im => Sys2Proof.Machine.execSth u d a h im s
  | .stw u d a h im => Sys2Proof.Machine.execStw u d a h im s
  | .std u d a h im => Sys2Proof.Machine.execStd u d a h im s
  | .stq u d a h im => Sys2Proof.Machine.execStq u d a h im s
  | .pfch u a h im => Sys2Proof.Machine.execPfch u a h im s
  | .aadd d a h im src nr ty => Sys2Proof.Machine.execAadd d a h im src nr ty s
  | .ainc d a h im src nr ty => Sys2Proof.Machine.execAinc d a h im src nr ty s
  | .adec d a h im nr ty => Sys2Proof.Machine.execAdec d a h im nr ty s
  | .amin d a h im src nr ty => Sys2Proof.Machine.execAmin d a h im src nr ty s
  | .amax d a h im src nr ty => Sys2Proof.Machine.execAmax d a h im src nr ty s
  | .aand d a h im src nr ty => Sys2Proof.Machine.execAand d a h im src nr ty s
  | .aor d a h im src nr ty => Sys2Proof.Machine.execAor d a h im src nr ty s
  | .axor d a h im src nr ty => Sys2Proof.Machine.execAxor d a h im src nr ty s
  | .aswp d a h im src nr ty => Sys2Proof.Machine.execAswp d a h im src nr ty s
  | .acas d a h im src cmp nr ty => Sys2Proof.Machine.execAcas d a h im src cmp nr ty s
  | .upd u d a h im => Sys2Proof.Machine.execUpd u d a h im s
  | .updd u d a h im => Sys2Proof.Machine.execUpdd u d a h im s
  | .uflush u => Sys2Proof.Machine.execUflush u s
  | .uapply u a h im => Sys2Proof.Machine.execUapply u a h im s
  | .waitc u d a h im cmp k ty => Sys2Proof.Machine.execWaitc u d a h im cmp k ty s
  | .fence u m => Sys2Proof.Machine.execFence u m s
  | .mbsend u d a b mbox => Sys2Proof.Machine.execMbsend u d a b mbox s
  | .mbrecv u d mbox => Sys2Proof.Machine.execMbrecv u d mbox s
  | .mbpoll u d a mbox => Sys2Proof.Machine.execMbpoll u d a mbox s
  | .boinit u d a h im => Sys2Proof.Machine.execBoinit u d a h im s
  | .boarr u d a h im => Sys2Proof.Machine.execBoarr u d a h im s
  | .bowait u d a h im => Sys2Proof.Machine.execBowait u d a h im s
  | .botst u d a h im => Sys2Proof.Machine.execBotst u d a h im s
  | .watch u d a h im susp => Sys2Proof.Machine.execWatch u d a h im susp s
  | .wdrop u d a h im => Sys2Proof.Machine.execWdrop u d a h im s
  | .wresume u d a h im => Sys2Proof.Machine.execWresume u d a h im s
  | .wstat u d a h im => Sys2Proof.Machine.execWstat u d a h im s
  | .bind u h opc eager => Sys2Proof.Machine.execBind u h opc eager s
  | .unbind u h => Sys2Proof.Machine.execUnbind u h s
  | .hset u a q => Sys2Proof.Machine.execHset u a q s
  | .hget u d q => Sys2Proof.Machine.execHget u d q s
  | .hlen u d q => Sys2Proof.Machine.execHlen u d q s
  | .mma a b o ssel xz acc v t sb sa => Sys2Proof.Machine.execMma a b o ssel xz acc v t sb sa s
  | .mmav a b o ssel xz acc v t sb sa => Sys2Proof.Machine.execMmav a b o ssel xz acc v t sb sa s
  | .orset d a => Sys2Proof.Machine.execOrset d a s
  | .orget d a => Sys2Proof.Machine.execOrget d a s
  | .accz d q t => Sys2Proof.Machine.execAccz d q t s
  | .accrd d t row0 col0 nreg => Sys2Proof.Machine.execAccrd d t row0 col0 nreg s
  | .accwr d t row0 col0 nreg => Sys2Proof.Machine.execAccwr d t row0 col0 nreg s
  | .mthr d a b m => Sys2Proof.Machine.execMthr d a b m s
  | .mvst d a b m => Sys2Proof.Machine.execMvst d a b m s
  | .mstat d k => Sys2Proof.Machine.execMstat d k s
  | .msync m => Sys2Proof.Machine.execMsync m s
  | .tload u d a n => Sys2Proof.Machine.execTload u d a n s
  | .tstore u d a n => Sys2Proof.Machine.execTstore u d a n s
  | .tgath u d a n => Sys2Proof.Machine.execTgath u d a n s
  | .tscat u d a n => Sys2Proof.Machine.execTscat u d a n s
  | .tcast u d a n => Sys2Proof.Machine.execTcast u d a n s
  | .tfill u d a n => Sys2Proof.Machine.execTfill u d a n s
  | .fwait u a m => Sys2Proof.Machine.execFwait u a m s
  | .ftest u d a => Sys2Proof.Machine.execFtest u d a s
  | .fcancel u a => Sys2Proof.Machine.execFcancel u a s
  | .launch u d a n repl => Sys2Proof.Machine.execLaunch u d a n repl s
  | .zopen u z a => Sys2Proof.Machine.execZopen u z a s
  | .zadv u z im => Sys2Proof.Machine.execZadv u z im s
  | .zend u c z => Sys2Proof.Machine.execZend u c z s
  | .zclose u z => Sys2Proof.Machine.execZclose u z s
  | .zld u d z => Sys2Proof.Machine.execZld u d z s
  | .zcrd u d z => Sys2Proof.Machine.execZcrd u d z s
  | .evpop u d w => Sys2Proof.Machine.execEvpop u d w s
  | .evpeek u d => Sys2Proof.Machine.execEvpeek u d s
  | .qcfg u d a => Sys2Proof.Machine.execQcfg u d a s
  | .br c q o => Sys2Proof.Machine.execBr c q o s
  | .jmp o => Sys2Proof.Machine.execJmp o s
  | .jmpi a => Sys2Proof.Machine.execJmpi a s
  | .call o => Sys2Proof.Machine.execCall o s
  | .calli a => Sys2Proof.Machine.execCalli a s
  | .ret => Sys2Proof.Machine.execRet s
  | .exit => Sys2Proof.Machine.execExit s
  | .bar b => Sys2Proof.Machine.execBar b s
  | .bara b => Sys2Proof.Machine.execBara b s
  | .barw b => Sys2Proof.Machine.execBarw b s
  | .racq k => Sys2Proof.Machine.execRacq k s
  | .rrel k => Sys2Proof.Machine.execRrel k s
  | .pmark => Sys2Proof.Machine.execPmark s
  | .sleep im => Sys2Proof.Machine.execSleep im s
  | .trap im => Sys2Proof.Machine.execTrap im s
  | .bkpt im => Sys2Proof.Machine.execBkpt im s
  | .nop => Sys2Proof.Machine.execNop s
  | .cfgrd d im => Sys2Proof.Machine.execCfgrd d im s
  | .cfgwr d im => Sys2Proof.Machine.execCfgwr d im s
  | .eret => Sys2Proof.Machine.execEret s
  | .gstat d a m => Sys2Proof.Machine.execGstat d a m s
  | .gsave a b m => Sys2Proof.Machine.execGsave a b m s
  | .gload d a b m => Sys2Proof.Machine.execGload d a b m s
  | .gstop a m => Sys2Proof.Machine.execGstop a m s
  | .gkill a m => Sys2Proof.Machine.execGkill a m s
  | .registerWriteback id => Sys2Proof.Machine.execRegisterWriteback id s
  | .accessReply id code data => Sys2Proof.Machine.execAccessReply id code data s
  | .storeAck id code => Sys2Proof.Machine.execStoreAck id code s
  | .matrixOpEnd id => Sys2Proof.Machine.execMatrixOpEnd id s
  | .tileCopyBatchDelivery id => Sys2Proof.Machine.execTileCopyBatchDelivery id s
  | .futureWritten id => Sys2Proof.Machine.execFutureWritten id s
  | .monitorWakeup id => Sys2Proof.Machine.execMonitorWakeup id s
  | .waitcRecompare core agent => Sys2Proof.Machine.execWaitcRecompare core agent s
  | .mailboxDelivery core mbox => Sys2Proof.Machine.execMailboxDelivery core mbox s
  | .racqGrant core => Sys2Proof.Machine.execRacqGrant core s
  | .sleepExpiry core agent => Sys2Proof.Machine.execSleepExpiry core agent s
  | .batchClose bindery => Sys2Proof.Machine.execBatchClose bindery s
  | .triggerDispatch slice => Sys2Proof.Machine.execTriggerDispatch slice s
  | .triggerSpillReturn vi => Sys2Proof.Machine.execTriggerSpillReturn vi s
  | .launchDispatch core => Sys2Proof.Machine.execLaunchDispatch core s
  | .overflowEntryReturn core team queue => Sys2Proof.Machine.execOverflowEntryReturn core team queue s
  | .launchQueueTailWrite queue value => Sys2Proof.Machine.execLaunchQueueTailWrite queue value s
  | .launchPacketRead queue => Sys2Proof.Machine.execLaunchPacketRead queue s
  | .launchWaitMet queue => Sys2Proof.Machine.execLaunchWaitMet queue s
  | .launchReplicaArrival gen rank accepted bits vi prio depth chips => Sys2Proof.Machine.execLaunchReplicaArrival gen rank accepted bits vi prio depth chips s
  | .startBarrierPass gen => Sys2Proof.Machine.execStartBarrierPass gen s
  | .remoteAccessArrival rank vi handle off bytes kind ty data depth => Sys2Proof.Machine.execRemoteAccessArrival rank vi handle off bytes kind ty data depth s
  | .remoteTimeout id => Sys2Proof.Machine.execRemoteTimeout id s
  | .replicationTimeout gen => Sys2Proof.Machine.execReplicationTimeout gen s
  | .replAbortWrite gen => Sys2Proof.Machine.execReplAbortWrite gen s
  | .sideLogReplay core => Sys2Proof.Machine.execSideLogReplay core s
  | .sideLogFull core => Sys2Proof.Machine.execSideLogFull core s
  | .pageInComplete vi va ok => Sys2Proof.Machine.execPageInComplete vi va ok s
  | .migrationLineCopy entry => Sys2Proof.Machine.execMigrationLineCopy entry s
  | .migrationFailed entry => Sys2Proof.Machine.execMigrationFailed entry s
  | .accessBitSweep tier => Sys2Proof.Machine.execAccessBitSweep tier s
  | .binderyQuota vi core team => Sys2Proof.Machine.execBinderyQuota vi core team s
  | .thermalReading core celsius => Sys2Proof.Machine.execThermalReading core celsius s
  | .droopEvent core => Sys2Proof.Machine.execDroopEvent core s
  | .droopHoldExpiry core => Sys2Proof.Machine.execDroopHoldExpiry core s
  | .idleSwap core team => Sys2Proof.Machine.execIdleSwap core team s
  | .watchdog core team => Sys2Proof.Machine.execWatchdog core team s
  | .gstopDrainComplete core => Sys2Proof.Machine.execGstopDrainComplete core s
  | .ctRunWrite core value => Sys2Proof.Machine.execCtRunWrite core value s
  | .swapOutWrite core value => Sys2Proof.Machine.execSwapOutWrite core value s
  | .viSyncWrite vi => Sys2Proof.Machine.execViSyncWrite vi s
  | .viSyncComplete vi => Sys2Proof.Machine.execViSyncComplete vi s
  | .ptInvalWrite vi value => Sys2Proof.Machine.execPtInvalWrite vi value s
  | .ptInvalComplete vi => Sys2Proof.Machine.execPtInvalComplete vi s
  | .pwrModeWrite value => Sys2Proof.Machine.execPwrModeWrite value s
  | .fabRouteWrite value => Sys2Proof.Machine.execFabRouteWrite value s
  | .trcCtlWrite core value => Sys2Proof.Machine.execTrcCtlWrite core value s
  | .dstopEnWrite vi value => Sys2Proof.Machine.execDstopEnWrite vi value s
  | .dstopHit core group => Sys2Proof.Machine.execDstopHit core group s
  | .counterReadClear number core vi => Sys2Proof.Machine.execCounterReadClear number core vi s
  | .configRegisterWrite number core vi value => Sys2Proof.Machine.execConfigRegisterWrite number core vi value s
  | .apertureAccess window off bytes kind ty data => Sys2Proof.Machine.execApertureAccess window off bytes kind ty data s
  | .gpPlainAccess pa bytes write data => Sys2Proof.Machine.execGpPlainAccess pa bytes write data s
  | .flitCrcError port ok => Sys2Proof.Machine.execFlitCrcError port ok s
  | .linkDown port => Sys2Proof.Machine.execLinkDown port s
  | .hbmCrcError channel ok => Sys2Proof.Machine.execHbmCrcError channel ok s
  | .hbmRetrainComplete channel ok => Sys2Proof.Machine.execHbmRetrainComplete channel ok s
  | .cxlDeviceLost port pa bytes => Sys2Proof.Machine.execCxlDeviceLost port pa bytes s
  | .attestationRequest nonce => Sys2Proof.Machine.execAttestationRequest nonce s
  | .deployCommand signed => Sys2Proof.Machine.execDeployCommand signed s
  | .rmaCommand signed => Sys2Proof.Machine.execRmaCommand signed s
  | .bindComplete core agent => Sys2Proof.Machine.execBindComplete core agent s
  | .cxlPortError port status => Sys2Proof.Machine.execCxlPortError port status s
  | .tick => Sys2Proof.Machine.execTick s
  | .updatePairArrival => Sys2Proof.Machine.execUpdatePairArrival s
  | .teamPlacement => Sys2Proof.Machine.execTeamPlacement s
  | .packetDispatch => Sys2Proof.Machine.execPacketDispatch s
  | .rehomeEpoch => Sys2Proof.Machine.execRehomeEpoch s
  | .quantumExpiry => Sys2Proof.Machine.execQuantumExpiry s
  | .samplePoint => Sys2Proof.Machine.execSamplePoint s
  | .deadlockScan => Sys2Proof.Machine.execDeadlockScan s
  | .partReset => Sys2Proof.Machine.execPartReset s
  | .provisionCommand => Sys2Proof.Machine.execProvisionCommand s
  | .decommissionCommand => Sys2Proof.Machine.execDecommissionCommand s

end Sys2Proof.Machine
end

