-- ==== Sys2Proof/Machine/Issue.lean ====
section
/-!
DEFINITION. From a core's clock to an issue: ready lane sets (R21, R24), clause headers (R142, R143, R392), group starts and refill points
(R35, R36, R405, R406), the choice of a group (R306 to R308) and of the ports' sets (R21, R22, R388), the clock with the steps it makes
due, and one step of the part.
-/
namespace Sys2Proof.Machine

/-- How an instruction or event acts. -/
abbrev Run : Type := Instr → State → Out

/-! Lane sets. -/

/-- A lane set that may issue: its lanes stand at `pc`, at a header (`clause` none) or inside a clause (R21, R24). -/
structure LaneSet where
  pc     : Nat
  clause : Option Clause
  lanes  : List Nat
  deriving DecidableEq, Repr

/-- A lane whose word has issued and been counted finishes it whatever has stopped since (R291, R386). -/
def Lane.mayIssue (x : Lane) (free : Bool) : Bool := !x.vacant && decide (x.wait = .none) && (free || x.counted)

/-- Two lanes are of one set: they stand at one place, and held ones have issued their word together. -/
def Lane.together (x y : Lane) : Bool :=
  decide (x.pc = y.pc) && decide (x.clause = y.clause) && decide (x.counted = y.counted) &&
    (!x.counted || decide (x.lastIssue = y.lastIssue))

/-- The sets of some lanes, each named by its lowest lane. -/
def Group.setsOf (g : Group) (ls : List Nat) : List LaneSet :=
  (ls.zipIdx.filter fun x => !(ls.take x.2).any fun l => (g.lane l).together (g.lane x.1)).map fun x =>
    ⟨(g.lane x.1).pc, (g.lane x.1).clause, ls.filter fun l => (g.lane x.1).together (g.lane l)⟩

/-- Sets in ascending PC, those at one PC in the order of their lowest lanes. -/
def insertSet (x : LaneSet) : List LaneSet → List LaneSet
  | [] => [x]
  | y :: ys => if x.pc ≤ y.pc then x :: y :: ys else y :: insertSet x ys

/-- The agent may issue new words: its core is not stopped, its team not frozen, it neither halted nor trapped; a control thread runs, and
while its core is stopped does only its handler's work (R291, R386, R412). -/
def State.free (s : State) (c : Nat) (a : Agent) : Bool :=
  let k := s.core c
  match a with
  | .ct => s.ctRuns c && (!k.stopped || k.inHandler)
  | .grp n => match NMap.find k.groups n with
    | some g => !k.stopped && !g.halted && !g.trapped && (match NMap.find k.teams g.team with | some m => !m.frozen | none => false)
    | none => false

/-- Lanes whose code cannot be fetched yet wait for the page. -/
def State.awaitCode (s : State) (c : Nat) (a : Agent) (ls : List Nat) (why : Why) : State :=
  s.modGroup c a (·.modLanes ls fun (x : Lane) => { x with wait := .retry why })

/-- A set at a header is ready unless its wait mask names a set flag; a header that faults is met by its issue (R24). -/
def State.setReady (s : State) (c : Nat) (a : Agent) (x : LaneSet) : State × Bool :=
  if x.clause.isSome then (s, true)
  else match s.fetch c a x.pc with
  | (t, .held) => (t.awaitCode c a x.lanes .page, false)
  | (_, .fails _) => (s, true)
  | (t, .word w) => match decodeHeader w with
    | .error _ => (t, true)
    | .ok h => (t, (List.range 12).all fun f => !(bit h.wait f && s.flagSet c a f))

/-- The ready sets among some, in order. -/
def State.readyAmong (s : State) (c : Nat) (a : Agent) : List LaneSet → State × List LaneSet
  | [] => (s, [])
  | x :: xs =>
    let (s1, b) := s.setReady c a x
    let (s2, ys) := s1.readyAmong c a xs
    (s2, if b then x :: ys else ys)

/-- The ready lane sets of an agent, in ascending PC; of a group that has not started, all its lanes (R21). -/
def State.readySets (s : State) (c : Nat) (a : Agent) : State × List LaneSet :=
  match s.group? c a with
  | none => (s, [])
  | some g =>
    let free := s.free c a
    let ls := (List.range g.lanes.length).filter fun l => (g.lane l).mayIssue free
    if ls = [] then (s, [])
    else if g.fresh then (s, [⟨(g.lane (ls.headD 0)).pc, none, ls⟩])
    else s.readyAmong c a ((g.setsOf ls).foldr insertSet [])

/-! A clause's header. -/

/-- The words of a clause after its header, up to one that fails a check; none while a page of theirs is missing (R142, R392). -/
def State.clauseWords (s : State) (c : Nat) (a : Agent) : Nat → Nat → State × Option (List Nat)
  | _, 0 => (s, some [])
  | off, n + 1 => match s.fetch c a off with
    | (t, .word w) => match t.clauseWords c a (off + 4) n with
      | (u, some ws) => (u, some (w :: ws))
      | (u, none) => (u, none)
    | (t, .held) => (t, none)
    | (t, .fails _) => (t, some [])

/-- The last of `n` counted words is an instruction word that takes an extension word (R142). -/
def lastWordBad (cls : Cls) : Nat → List Nat → Bool
  | 0, _ => false
  | _, [] => false
  | n + 1, w :: ws => if takesExt cls w then (n = 0) || lastWordBad cls (n - 1) (ws.drop 1) else lastWordBad cls n ws

/-- An issue of an agent made ready: what stops it, or the state with the issue in it. -/
inductive Prep where
  | stop (t : State)
  | go (t : State)

/-- A fault of a header or an entry, before any word of the clause issues (R392, R405, R406). -/
def State.raiseAt (s : State) (e : Entry) : State :=
  match s.issue.agent with
  | .ct => s.ctFault e.code (ctReason e.code e.info)
  | .grp _ => s.takeFault s.issue.core e

/-- The issue of some lanes at a code offset. -/
def State.withIssue (s : State) (c : Nat) (a : Agent) (ls : List Nat) (pc : Nat) (q : Clause) (iword xword port : Nat) : State :=
  { s with issue := ⟨c, a, ls, pc, q, iword, xword, port⟩ }

/-- The fault of a code word that fails check `k` of R55, reached without a transfer; `w` is the instruction word, where only its extension
word fails. -/
def State.fetchFault (s : State) (c : Nat) (a : Agent) (ls : List Nat) (pc k w : Nat) (q : Option Clause) : State :=
  let t := s.withIssue c a ls pc (q.getD ⟨pc, 0⟩) w 0 0
  let e := t.faultEntry (checkCode k) (ls.headD 0 + k * 256) pc (s.codeOf c a).1
  t.raiseAt { e with clause := q }

/-- The set's word is fetched, with its extension word, for a header of class `cls` (R148). -/
def State.prepWord (s : State) (c : Nat) (a : Agent) (ls : List Nat) (pc : Nat) (q : Clause) (cls : Cls) (port : Nat) (atHeader : Bool) :
    Prep :=
  match s.fetch c a pc with
  | (_, .fails k) => .stop (s.fetchFault c a ls pc k 0 (if atHeader then none else some q))
  | (t, .held) => .stop (t.awaitCode c a ls .page)
  | (t, .word w) =>
    if takesExt cls w then
      match t.fetch c a (pc + 4) with
      | (_, .fails k) => .stop (s.fetchFault c a ls pc k w (if atHeader then none else some q))
      | (u, .held) => .stop (u.awaitCode c a ls .page)
      | (u, .word x) => .go (u.withIssue c a ls pc q w x port)
    else .go (t.withIssue c a ls pc q w 0 port)

/-! Group starts and refill points. -/

/-- The clause at a header, its first word and that word's extension word; none while one of them has not come. -/
def State.firstWords (s : State) (c n pc : Nat) : State × Option (Clause × Nat × Nat) :=
  let hw := match (s.fetch c (.grp n) pc).2 with | .word h => h | _ => 0
  match s.fetch c (.grp n) (pc + 4) with
  | (t, .held) => (t, none)
  | (t, .fails _) => (t, some (⟨pc, hw⟩, 0, 0))
  | (t, .word w) => match decodeHeader hw with
    | .error _ => (t, some (⟨pc, hw⟩, w, 0))
    | .ok h => if takesExt h.cls w then
        match t.fetch c (.grp n) (pc + 8) with
        | (u, .held) => (u, none)
        | (u, .fails _) => (u, some (⟨pc, hw⟩, w, 0))
        | (u, .word x) => (u, some (⟨pc, hw⟩, w, x))
      else (t, some (⟨pc, hw⟩, w, 0))

/-- The entry of a failed check of a work queue's buffer, but for code and INFO: on the first word of the clause, before it issues (R405). -/
def State.queueEntry (s : State) (c n : Nat) (ls : List Nat) (x : Clause × Nat × Nat) (q : WorkQueue) : Entry :=
  let t := s.withIssue c (.grp n) ls (x.1.off + 4) x.1 x.2.1 x.2.2 0
  { t.faultEntry 0 0 q.qoff q.qh with start := true }

/-- Pops sent to the chip of a remote queue, one for each lane: the lanes wait for their items (R35, R60). `e` is the entry of a refusal. -/
def State.sendPops (s : State) (c n : Nat) (m : Team) (q : WorkQueue) (rank : Nat) (e : Entry) (ls : List Nat) : State :=
  ls.foldl (fun t l =>
    ({ t with
      ops := t.ops ++ [⟨t.opSeq, c, .grp n, [l], .remote ⟨rank, q.qh, q.qoff, .pop, .pop q.kind q.limit, m.depth, s.opSeq, none⟩, none, some e, t.clk, false, 0, 0,
        some (m.vi, m.grid, m.team)⟩]
      opSeq := t.opSeq + 1 } : State).modGroup c (.grp n) (·.modLane l fun (x : Lane) => { x with wait := .op t.opSeq .remote })) s

/-- What the pops of some lanes come to: a fault of the queue's buffer, raised; sent to another chip; held; or done. -/
inductive Pops where
  | fails
  | sent
  | held (why : Why)
  | done (xs : List (Nat × Option Nat))

/-- One item is popped for each of some lanes, in ascending order, and the queue's state block is pinned (R33 to R36, R333, R405). `arrived`
are the lanes that stand at the clause at `pc`. -/
def State.popLanes (s : State) (c n : Nat) (m : Team) (q : WorkQueue) (arrived : List Nat) (pc : Nat) (ls : List Nat) : State × Pops :=
  let a : Actor := ⟨c, false, m.vi, m.depth⟩
  match s.firstWords c n pc with
  | (t, none) => (t, .held .page)
  | (_, some x) =>
    match s.queueRef a q with
    | .error k =>
      let e := s.queueEntry c n arrived x q
      (s.takeFault c { e with code := checkCode k, info := ls.headD 0 + k * 256 }, .fails)
    | .ok r =>
      match r.remote with
      | some rank => (s.sendPops c n m q rank (s.queueEntry c n arrived x q) ls, .sent)
      | none => match s.popAll s a q r ls [] with
        | (t, .ok xs) => (t.pin r.space r.va, .done xs)
        | (t, .error w) => (t, .held w)

/-- A group starts: its entry is fetched for the first time, and each lane of a grid with a work queue pops its item (R35, R405, R406). -/
def State.startGroup (s : State) (c n : Nat) (_g : Group) (m : Team) (x : LaneSet) : State :=
  match s.fetch c (.grp n) x.pc with
  | (_, .fails k) =>
    let t := s.withIssue c (.grp n) x.lanes x.pc ⟨x.pc, 0⟩ 0 0 0
    t.takeFault c { t.faultEntry (checkCode k) (x.lanes.headD 0 + k * 256) x.pc m.codeH with clause := none, start := true }
  | (t, .held) => t.awaitCode c (.grp n) x.lanes .page
  | (t, .word _) =>
    let begun := fun (u : State) => (u.modGroup c (.grp n) fun (y : Group) => { y with fresh := false })
    let traced := fun (u : State) => match u.group? c (.grp n) with | some y => u.traceStart c n m y | none => u
    match m.wq with
    | none => traced (begun t)
    | some q =>
      match t.popLanes c n m q x.lanes x.pc x.lanes with
      | (u, .fails) => u
      | (u, .sent) => u
      | (u, .held w) => u.awaitCode c (.grp n) x.lanes w
      | (u, .done xs) =>
        let u1 := (begun u).modGroup c (.grp n) (·.refilled m x.pc xs)
        traced (u1.vacate c n ((xs.filter (·.2.isNone)).map (·.1)))

/-- A refill point: vacant lanes pop items and join the set as new threads; or the set stops here (R36, R405). -/
def State.refillAt (s : State) (c n : Nat) (x : LaneSet) : State × Option (List Nat) :=
  match s.group? c (.grp n) with
  | none => (s, some x.lanes)
  | some g =>
    let empty := (List.range g.lanes.length).filter fun l => (g.lane l).vacant
    if g.noRefill then (s.modGroup c (.grp n) fun (y : Group) => { y with noRefill := false }, some x.lanes)
    else match s.team? c g.team, empty with
    | some m, _ :: _ => match m.wq with
      | none => (s, some x.lanes)
      | some q =>
        match s.popLanes c n m q x.lanes x.pc empty with
        | (t, .fails) => (t, none)
        | (t, .sent) =>
          ((t.modGroup c (.grp n) (·.modLanes empty fun (y : Lane) => { y with pc := x.pc, clause := none })).awaitCode c (.grp n) x.lanes
            .remote, none)
        | (t, .held w) => (t.awaitCode c (.grp n) x.lanes w, none)
        | (t, .done xs) =>
          let came := (xs.filter (·.2.isSome)).map (·.1)
          let u := t.modGroup c (.grp n) fun (y : Group) =>
            (y.refilled m x.pc xs).modLanes came fun (z : Lane) => { z with lastIssue := y.issues + 1 }
          (if came = [] then u else u.trace c m.vi ([5, n, 0] ++ maskBytes g.width came),
            some ((List.range g.lanes.length).filter fun l => x.lanes.contains l || came.contains l))
    | _, _ => (s, some x.lanes)

/-- A set's next issue made ready: its header, if it stands at one, is checked, with its refill, and its word is fetched (R24, R142, R392).
`refill` is false where a refill is not made. -/
def State.prep (s : State) (c : Nat) (a : Agent) (x : LaneSet) (port : Nat) (refill : Bool) : Prep :=
  match x.clause with
  | some q => match decodeHeader q.word with
    | .ok h => s.prepWord c a x.lanes x.pc q h.cls port false
    | .error _ => .stop s
  | none =>
    match s.fetch c a x.pc with
    | (_, .fails k) => .stop (s.fetchFault c a x.lanes x.pc k 0 none)
    | (t, .held) => .stop (t.awaitCode c a x.lanes .page)
    | (t, .word w) =>
      let bad := fun (info : Nat) =>
        Prep.stop ((t.withIssue c a x.lanes x.pc ⟨x.pc, w⟩ w 0 port).raise 0x01 info 0 0)
      match decodeHeader w with
      | .error info => bad info
      | .ok h =>
        match t.clauseWords c a (x.pc + 4) h.cnt with
        | (v, none) => .stop (v.awaitCode c a x.lanes .page)
        | (v, some ws) =>
          if lastWordBad h.cls h.cnt ws then bad 6
          else
            let (u, ls) := match a with
              | .grp n => if h.rfl && refill then v.refillAt c n x else (v, some x.lanes)
              | .ct => (v, some x.lanes)
            match ls with
            | none => .stop u
            | some ls => u.prepWord c a ls (x.pc + 4) ⟨x.pc, w⟩ h.cls port true

/-! The issue. -/

/-- The instruction of the issue in progress, or why decoding refuses it (R393, R394). -/
def State.decodeIssue (s : State) : Except DecErr Instr :=
  match s.issueHeader with
  | none => .error (.illegalOpcode 0)
  | some h =>
    let v := s.issue.iword + s.issue.xword * 4294967296
    match opRow h.cls v with
    | none => .error (.illegalOpcode 0)
    | some r =>
      if r.use.allows (bit v 23) = false then .error (.illegalOpcode 1)
      else if r.priv && !s.isCt then .error (.illegalOpcode 2)
      else match lowestFailure (unusedChecks v r.unused ++ r.instr.checks ++ s.fieldChecks r.instr) with
        | some k => .error (.reserved k.reason k.bit)
        | none => .ok r.instr

/-- An outcome changed, if it is a next state. -/
def Out.map (f : State → State) : Out → Out
  | .next t => .next (f t)
  | .fault r => .fault r
  | .refused r => .refused r

/-- The issue in progress with the table entries that its first lane's held access was checked by (R322). -/
def State.withKept (s : State) : State := { s with kept := (s.me.lane (s.issue.lanes.headD 0)).entries }

/-- The code words of the issue's clause that came from another chip have been used (R60). -/
def State.dropCode (s : State) : State :=
  if s.me.code = [] then s
  else s.modMe fun g => { g with code := g.code.filter fun x => decide (x.1 < s.issue.clause.off) || decide (s.issue.clause.off + 64 < x.1) }

/-- The issue in progress is performed. -/
def State.perform (run : Run) (s : State) : Out :=
  match s.decodeIssue with
  | .error e => .next (s.raiseDecode e)
  | .ok i => Out.map (fun t => { t with kept := [] }) (run i s.dropCode.withKept)

/-- The agent has taken a fault between two states. -/
def tookFault (s t : State) (c : Nat) (a : Agent) : Bool :=
  match a with
  | .ct => (t.core c).dead && !(s.core c).dead
  | .grp n => match (t.core c).group? (.grp n), (s.core c).group? (.grp n) with
    | some h, some g => h.trapped && !g.trapped
    | _, _ => false

/-- An outcome with a fault of the agent in it. -/
def Out.faulted (s : State) (c : Nat) (a : Agent) : Out → Bool
  | .next t => tookFault s t c a
  | _ => false

/-- One port's issue, with the stop on a retired-work count looked for first where `dstop` is set (R452). -/
def State.portOnce (run : Run) (s : State) (c : Nat) (a : Agent) (x : LaneSet) (port : Nat) (refill dstop : Bool) : Out :=
  match s.prep c a x port refill with
  | .stop t => finish t
  | .go t =>
    match a with
    | .ct => t.perform run
    | .grp n =>
      if dstop && x.lanes.all fun l => !(t.me.lane l).counted then
        match run (.dstopHit c n) t with
        | .next u => if tookFault t u c a then .next u else u.perform run
        | o => o
      else t.perform run

/-- One port's issue; where it faults, it pops nothing (R386). -/
def State.port (run : Run) (s : State) (c : Nat) (a : Agent) (x : LaneSet) (port : Nat) (dstop : Bool) : Out :=
  let o := s.portOnce run c a x port true dstop
  if Out.faulted s c a o then
    let p := s.portOnce run c a x port false dstop
    if Out.faulted s c a p then p else o
  else o

/-- The sets of the two ports: the lowest PC, and the next inside a clause; at every 64th issue the set of the oldest lane (R21, R22). -/
def Group.ports (g : Group) (xs : List LaneSet) : Option (LaneSet × Option LaneSet) :=
  match xs with
  | [] => none
  | x :: rest =>
    let second := match rest with
      | y :: _ => if y.clause.isSome then some y else none
      | [] => none
    if (g.issues + 1) % 64 ≠ 0 then some (x, second)
    else
      let age := fun (y : LaneSet) => (y.lanes.map fun l => g.issues - (g.lane l).lastIssue).foldl max 0
      let old := rest.foldl (fun b y => if age b < age y then y else b) x
      some (x, if old = x then second else some old)

/-- A group's issue has been made: it is numbered, and its lanes have issued at that number (R22, R307, R451). -/
def State.markIssue (s : State) (c : Nat) (a : Agent) (before : Group) (ls : List Nat) : State :=
  if ls.all fun l => (before.lane l).counted then s
  else s.modGroup c a fun (g : Group) =>
    { g.modLanes ls fun (x : Lane) => { x with lastIssue := before.issues + 1 } with
      issues := before.issues + 1, starved := 0, issuedAt := some s.clk }

/-- A word of a set is the last of a clause whose header has YLD set (R307). -/
def State.endsYield (s : State) (c : Nat) (a : Agent) (x : LaneSet) : Bool :=
  let at_ := match x.clause with
    | some q => some (q.off, q.word, x.pc)
    | none => match (s.fetch c a x.pc).2 with
      | .word w => some (x.pc, w, x.pc + 4)
      | _ => none
  match at_ with
  | none => false
  | some (off, w, pc) => match decodeHeader w with
    | .ok h => h.yld && (match (s.fetch c a pc).2 with
      | .word i => decide (off + 4 + 4 * h.cnt ≤ pc + (if takesExt h.cls i then 8 else 4))
      | _ => false)
    | .error _ => false

/-- The lanes of a set still stand where they may issue. -/
def State.standing (s : State) (c : Nat) (a : Agent) (z : LaneSet) : Bool :=
  ((s.group? c a).map fun g => z.lanes.all fun l => !(g.lane l).vacant && decide ((g.lane l).wait = .none)).getD false

/-- The state in which the second port's word, after the primary port's issue, is the one that a stop on a retired-work count names (R452). -/
def State.stopsAt (run : Run) (s : State) (c : Nat) (a : Agent) (z : LaneSet) : Option State :=
  if !s.standing c a z then none
  else match s.prep c a z 1 true, a with
    | .go u, .grp n => match run (.dstopHit c n) u with
      | .next v => if tookFault u v c a then some v else none
      | _ => none
    | _, _ => none

/-- Both ports' issues of a chosen agent: if either faults, neither has an effect (R21, R388); a stop comes before the second word's faults,
and after the primary issue (R452). -/
def State.issueBoth (run : Run) (s : State) (c : Nat) (a : Agent) (x : LaneSet) (y : Option LaneSet) : Out :=
  let first := s.port run c a x 0 true
  match y, first with
  | some z, .next t =>
    if tookFault s t c a then first
    else match t.stopsAt run c a z with
    | some v => .next v
    | none =>
      let alone := s.port run c a z 1 false
      if Out.faulted s c a alone then alone
      else if t.standing c a z then
        let both := t.port run c a z 1 true
        if Out.faulted t c a both then first else both
      else first
  | _, _ => first

/-! Issue slots. -/

/-- The active groups of an issue slot that may issue, with their ready sets (R304). -/
def State.eligible (s : State) (c : Nat) : List Nat → State × List (Nat × List LaneSet)
  | [] => (s, [])
  | n :: ns =>
    let (s1, xs) := s.readySets c (.grp n)
    let (s2, ys) := s1.eligible c ns
    (s2, if xs = [] then ys else (n, xs) :: ys)

/-- The group of a list with the least order of residence. -/
def Core.oldestOf (k : Core) (ns : List Nat) : Option Nat :=
  let age := fun (n : Nat) => ((NMap.find k.groups n).map (·.order)).getD 0
  ns.foldl (fun (b : Option Nat) n => match b with
    | none => some n
    | some m => if age n < age m then some n else some m) none

/-- The group that an issue slot chooses among the eligible ones: greedy-then-oldest, or round-robin (R307, R308). -/
def Core.choose (k : Core) (rr : Bool) (slot : SlotState) (ns : List Nat) : Option Nat :=
  let last := slot.last.filter ns.contains
  if rr then
    match slot.last with
    | none => ns.min?
    | some g => match (ns.filter (g < ·)).min? with
      | some n => some n
      | none => ns.min?
  else
    let starved := ns.filter fun n => decide (256 ≤ ((NMap.find k.groups n).map (·.starved)).getD 0)
    match k.oldestOf starved, last with
    | some n, _ => some n
    | none, some g =>
      if !slot.yield then some g
      else match k.oldestOf (ns.filter (· ≠ g)) with
        | some n => some n
        | none => some g
    | none, none => k.oldestOf ns

/-- A slot's active list brought up to date (R304). -/
def State.withActive (s : State) (c slot : Nat) : State :=
  let ns := s.active c slot
  if ((s.core c).slots[slot]?).map (·.active) = some ns then s
  else s.modCore c fun (k : Core) => { k with slots := modAt (fun x => { x with active := ns }) slot k.slots }

/-- A slot's memory of an issue, none where the issue has ended its last group, and the eligible groups that it passed over (R307, R367). -/
def State.slotIssued (s : State) (c slot n : Nat) (yield : Bool) (others : List Nat) : State :=
  s.modCore c fun (k : Core) =>
    { k with
      slots := if k.groups.all (·.2.islot != slot) then k.slots else modAt (fun x => { x with last := some n, yield := yield }) slot k.slots
      groups := k.groups.map fun g => (g.1, if others.contains g.1 then { g.2 with starved := g.2.starved + 1 } else g.2) }

/-- What a unit does in its turn: nothing, with what its looking found; or a step, after which the turn passes on or stays (`stay`), and
the group that faults in it. -/
inductive Turn where
  | idle (s : State)
  | did (o : Out) (stay : Bool) (fault : Option Nat)

/-- A lane stands before a word that has not issued: a full queue holds it, or its code or the items of a refill are on their way (R36,
R306, R328). -/
def Lane.before (x : Lane) : Bool := !x.counted && (match x.wait with | .retry _ => true | _ => false)

/-- The outcome of a chosen agent's issue with its marks; a fault leaves none, and a lane whose word has not issued gets none (R19, R22,
R386). -/
def State.marked (s : State) (c : Nat) (a : Agent) (g : Group) (x : LaneSet) (y : Option LaneSet) (o : Out) : Out :=
  if Out.faulted s c a o then o
  else Out.map (fun t => t.markIssue c a g ((x.lanes ++ (match y with | some z => z.lanes | none => [])).filter fun l =>
    !(((t.group? c a).map fun h => (h.lane l).before).getD false))) o

/-- The word of a set has not issued. -/
def Group.turnedAway (g : Group) (x : LaneSet) : Bool := x.lanes.all fun l => (g.lane l).before

/-- The state, if an outcome is one in which the word of set `x` of group `n` has not issued (R306). -/
def Out.turnedAway (c n : Nat) (x : LaneSet) : Out → Option State
  | .next t => if ((t.group? c (.grp n)).map (·.turnedAway x)).getD false then some t else none
  | _ => none

/-- An issue slot chooses among its eligible groups `es`; one whose word does not issue, since a full queue or a missing page holds it, is
not eligible (R306, R307). A fault is no issue. The first argument bounds the choices. -/
def State.slotChoice (run : Run) (c slot : Nat) : Nat → State → List (Nat × List LaneSet) → Turn
  | 0, t, _ => .idle t
  | fuel + 1, t, es =>
    let k := t.core c
    match k.choose (bit (t.cfgGet Config.nIssueMode c) slot) ((k.slots[slot]?).getD ⟨none, false, []⟩) (es.map (·.1)) with
    | none => .idle t
    | some n =>
      match es.find? (·.1 == n), NMap.find k.groups n with
      | some e, some g =>
        match t.team? c g.team with
        | none => .idle t
        | some m =>
          if g.fresh then
            match e.2 with
            | x :: _ =>
              let u := t.startGroup c n g m x
              .did (finish u) true (if tookFault t u c (.grp n) then some n else none)
            | [] => .idle t
          else match g.ports e.2 with
            | none => .idle t
            | some (x, y) =>
              match Out.turnedAway c n x (t.port run c (.grp n) x 0 true) with
              | some u => State.slotChoice run c slot fuel u (es.filter (·.1 != n))
              | none =>
                let yield := t.endsYield c (.grp n) x || (match y with | some z => t.endsYield c (.grp n) z | none => false)
                let o := t.issueBoth run c (.grp n) x y
                if Out.faulted t c (.grp n) o then .did o false (some n)
                else .did (Out.map (fun u => u.slotIssued c slot n yield ((es.map (·.1)).filter (· ≠ n))) (t.marked c (.grp n) g x y o)) false none
      | _, _ => .idle t

/-- The lowest lane set, of a group of an issue slot, whose word has issued and is still to be performed, with its hold over (R30). -/
def State.heldSet (s : State) (c slot : Nat) : Option (Nat × LaneSet) :=
  (s.core c).groups.findSome? fun g =>
    if g.2.islot ≠ slot then none
    else ((g.2.setsOf ((List.range g.2.lanes.length).filter fun l => (g.2.lane l).counted && (g.2.lane l).mayIssue false)).head?).map
      (g.1, ·)

/-- A held word is performed: no issue, and outside the slot's choice (R30, R306). -/
def State.heldTurn (run : Run) (s : State) (c n : Nat) (x : LaneSet) : Turn :=
  let o := s.port run c (.grp n) x 0 false
  .did o true (if Out.faulted s c (.grp n) o then some n else none)

/-- The turn of issue slot `slot` of core `c`. -/
def State.slotTurn (run : Run) (s : State) (c slot : Nat) : Turn :=
  match s.heldSet c slot with
  | some x => s.heldTurn run c x.1 x.2
  | none =>
    let s0 := s.withActive c slot
    let (t, es) := s0.eligible c (s0.active c slot)
    State.slotChoice run c slot (es.length + 1) t es

/-- The turn of core `c`'s control thread: a waiting entry is delivered, or it issues (R49, R380). -/
def State.ctTurn (run : Run) (s : State) (c : Nat) : Turn :=
  let d := s.deliver c
  if (d.core c).entries.length < (s.core c).entries.length then .did (.next d) true none
  else match s.readySets c .ct with
    | (t, []) => .idle t
    | (t, x :: _) => .did (t.marked c .ct (t.core c).ct x none (t.issueBoth run c .ct x none)) false none

/-- The turn of unit `u`: 5 × core + issue slot, or 4 for the control thread. -/
def State.turn (run : Run) (s : State) (u : Nat) : Turn :=
  if u % 5 = 4 then s.ctTurn run (u / 5) else s.slotTurn run (u / 5) (u % 5)

/-- The turn starts a group, or performs a held word, and does not fault. -/
def Turn.starts : Turn → Bool
  | .did _ true none => true
  | _ => false

/-- The issue slots of a core from unit `u` on. -/
def slotsFrom (u : Nat) : List Nat := (List.range (4 - u % 5)).map (u + ·)

/-- The turns among some that fault, each with its unit, the group slot and the outcome, in ascending group slot (R388). -/
def faulting (ts : List (Nat × Turn)) : List (Nat × Nat × Out) :=
  ts.foldl (fun xs t => match t.2 with
    | .did o _ (some n) => xs.filter (·.2.1 < n) ++ (t.1, n, o) :: xs.filter (n < ·.2.1)
    | _ => xs) []

/-- A slot's turn that faults in the cycle of another fault of its core: its entry waits behind that one, and what it leaves besides, such
as the flags of an FP_EXCEPTION, stands (R127, R388, R452). -/
def State.faultToo (run : Run) (s : State) (u : Nat) : State :=
  let c := u / 5
  match (s.modCore c fun (k : Core) => { k with stopped := false, inHandler := true }).turn run u with
  | .did (.next t) _ _ => t.modCore c fun (k : Core) => { k with stopped := true, inHandler := (s.core c).inHandler }
  | _ => s

/-- What happens at unit `u`: nothing, with what its looking found; or a step. A group's start and the performing of held words come before
the issues of their core's slots. The checks of a cycle's issues are made before any of them, at its first slot: a fault there comes before
every other issue of its core, stops the core, and with it the rest of the core's turns in the cycle (R386, R388). DEDUCED: an issue that fails
a check only after an earlier slot's issue of the cycle waits for the next cycle (log 60). -/
def State.unitTurn (run : Run) (s : State) (u : Nat) : State ⊕ Out :=
  let ts := (slotsFrom u).map fun v => (v, s.turn run v)
  match ts.find? (·.2.starts) with
  | some (_, .did o _ _) => .inr (Out.map (fun t => { t with cursor := u }) o)
  | _ => match (if u % 5 = 0 then faulting ts else []), ts with
    | (_, _, o) :: vs, _ =>
      .inr (Out.map (fun t => { vs.foldl (fun x w => x.faultToo run w.1) t with cursor := 5 * (u / 5) + 5 }) o)
    | [], (_, .did _ _ (some _)) :: _ => .inl s
    | [], _ => match (match ts with | t :: _ => t.2 | [] => s.turn run u) with
      | .idle t => .inl t
      | .did o stay _ => .inr (Out.map (fun t => { t with cursor := if stay then u else u + 1 }) o)

/-- The first of some units that does something in its turn. -/
def State.firstTurn (run : Run) (s : State) : List Nat → State × Option Out
  | [] => (s, none)
  | u :: us => match s.unitTurn run u with
    | .inl t => t.firstTurn run us
    | .inr o => (s, some o)

/-- The units of the cores that have ever done anything, from `cursor` on. -/
def State.units (s : State) : List Nat :=
  (s.cores.flatMap fun k => (List.range 5).map (5 * k.1 + ·)).filter (s.cursor ≤ ·)

/-! The clock. -/

/-- A step made due once. -/
def State.dueOnce (s : State) (e : Instr) : State := if s.agenda.contains e then s else s.due e

/-- Several steps made due. -/
def State.dueAll (s : State) (es : List Instr) : State := es.foldl State.dueOnce s

/-- Parts of a microsecond, of which a cycle is a whole number in every power mode. -/
abbrev timeParts : Nat := 638400

/-- The time that the present slice has lasted, under `turns` (R311). -/
def State.sliceTime (s : State) : Nat := (NMap.find s.turns 2).getD 0

/-- The present slice ends: it has lasted QUANTUM microseconds (R311). -/
def State.sliceOver (s : State) : Bool :=
  s.cfgGet Config.nQuantum 0 != 0 && decide (s.cfgGet Config.nQuantum 0 * timeParts ≤ s.sliceTime)

/-- A cycle passes for the slice; one that is over gives way to the next. -/
def State.sliceCycle (s : State) : State :=
  { s with turns := NMap.put s.turns 2 ((if s.sliceOver then 0 else s.sliceTime) + timeParts / s.mhz) }

/-- A period of so many microseconds ends in this cycle; none with a period of 0. -/
def State.period (s : State) (us : Nat) : Bool := us != 0 && s.clk % (us * s.mhz) == 0

/-- The watchdog counts a cycle of a team (R410). -/
def State.watched (s : State) (c t : Nat) (m : Team) : Bool :=
  m.persist && s.barHome c t == (c, t) && !m.frozen &&
    (s.halves c t).all (fun h => !(s.core h.1).stopped) &&
    (s.teamGroups c t).all (fun g => !g.2.2.halted) && (s.teamGroups c t).any fun g => g.2.2.lanes.any (s.laneRuns g.1 g.2.1)

/-- A cycle passes for the teams of a core: watchdog and idle counts (R312, R410). -/
def State.teamCycle (s : State) (c : Nat) : State :=
  (s.core c).teams.foldl (fun t x =>
    let (n, m) := x
    let wd := if s.watched c n m then m.wdog + 1 else m.wdog
    let t1 := t.modTeam c n fun (y : Team) => { y with wdog := wd, idle := if s.teamIdle c n then y.idle + 1 else 0 }
    if m.wdog < wd ∧ s.cfgGet Config.nWdogWin m.vi ≤ wd then t1.dueOnce (.watchdog c n) else t1) s

/-- The lanes of core `c` whose sleep ends, or whose WAITC compares again, make a step due (R106, R287). -/
def State.laneTimers (s : State) (c : Nat) : List Instr :=
  let k := s.core c
  let slept := fun (g : Group) => g.lanes.any fun x => match x.wait with | .sleep till => decide (till ≤ s.clk) | _ => false
  ((k.groups.filter fun g => slept g.2).map fun g => Instr.sleepExpiry c g.1) ++ (if slept k.ct then [.sleepExpiry c 256] else [])

/-- Steps due by waits that have lasted long enough, and by room in a queue's pool that any queue may have freed (R72, R106, R303, R418,
R432, R433). -/
def State.timeouts (s : State) : List Instr :=
  (s.ops.flatMap fun o => match o.kind with
    | .waitc _ _ false => if s.clk ≠ o.clk ∧ (s.clk + 2 ^ 64 - o.clk) % 4096 = 0 then [.waitcRecompare o.core o.agent.num] else []
    | .gstop _ => [.gstopDrainComplete o.core]
    | _ => if !o.timedOut && o.far.isSome && decide (o.clk + s.cfgGet Config.nRemoteTo 0 ≤ s.clk) then [.remoteTimeout o.id] else []) ++
  (s.lq.filterMap fun q => if q.2.polls ≠ [] ∧ s.clk % 4096 = 0 then some (.launchPacketRead q.1) else none) ++
  (s.barriers.filterMap fun b =>
    if !b.posted && decide (b.clk + s.cfgGet Config.nRemoteTo 0 ≤ s.clk) then some (.replicationTimeout b.gen) else none) ++
  ((List.range 8).filterMap fun k =>
    if s.pairs.any fun p => p.stage == .batch && binderyOf p.pa == k && decide (p.clk + 512 ≤ s.clk) then some (.batchClose k) else none) ++
  (s.ops.filterMap fun o => match o.kind with
    | .copy r => match r.job with
      | some _ => if r.wait = none ∨ r.wait = some .line then some (.tileCopyBatchDelivery o.id) else none
      | none => if r.pooled then none else some (.overflowEntryReturn o.core (r.slot.getD 256) 1)
    | .launch x => some (.overflowEntryReturn o.core x.team 0)
    | _ => none) ++
  (s.cores.flatMap fun k =>
    (match k.2.launchOver with | x :: _ => [Instr.overflowEntryReturn k.1 x.team 0] | [] => []) ++
    (if k.2.evWait = [] ∧ k.2.eventAreaEmpty then [] else [Instr.overflowEntryReturn k.1 0 2]) ++
    (match k.2.slogFull with
      | some t => if !k.2.slogTold && decide (t + s.cfgGet Config.nSlogWait 0 ≤ s.clk) then [Instr.sideLogFull k.1] else []
      | none => []) ++
    (match k.2.droopEnd with
      | some d => if d ≤ s.clk then [.droopHoldExpiry k.1] else []
      | none => []) ++ s.laneTimers k.1)

/-- The key under which `turns` keeps since when pairs of an interface wait at issue, plus 1, and that of the record posted (R429). -/
def stallKey (vi : Nat) : Nat := 1000 + vi

/-- The first group of an interface with a lane that waits for the spill area: core and team slot. -/
def State.stalledAt (s : State) (vi : Nat) : Option (Nat × Nat) :=
  (s.cores.flatMap fun k => k.2.groups.filterMap fun g => match NMap.find k.2.teams g.2.team with
    | some m => if m.vi = vi ∧ g.2.lanes.any (fun x => x.wait == .retry .spillArea) then some (k.1, g.2.team) else none
    | none => none).head?

/-- BINDERY_QUOTA becomes due for an interface whose pairs have waited for BQ_WAIT cycles, once a stall (R429). -/
def State.quotaTimer (s : State) (vi : Nat) : State :=
  match s.stalledAt vi, NMap.find s.turns (stallKey vi) with
  | none, none => s
  | none, some _ => { s with turns := NMap.drop s.turns (stallKey vi) }
  | some _, none => { s with turns := NMap.put s.turns (stallKey vi) (s.clk + 1) }
  | some (c, t), some since =>
    if since ≠ 0 ∧ since + s.cfgGet Config.nBqWait 0 ≤ s.clk + 1 then
      ({ s with turns := NMap.put s.turns (stallKey vi) 0 } : State).due (.binderyQuota vi c t)
    else s

/-- The periodic steps of a cycle (R2, R301, R311, R322, R333, R337, R449, R451). -/
def State.periodic (s : State) : List Instr :=
  (if s.clk % 64 = 0 then [Instr.tick] else []) ++
  (s.viSync.map fun v => Instr.viSyncComplete v.1) ++
  (if s.grids.any (fun g => decide (g.next < g.last) || s.gridOver g) || s.swapped.any (·.away) then [.teamPlacement] else []) ++
  (if s.sliceOver then [.quantumExpiry] else []) ++
  (if s.period (s.cfgGet Config.nSamplePeriod 0) then [.accessBitSweep 0, .accessBitSweep 1, .accessBitSweep 2] else []) ++
  (if s.period (s.cfgGet Config.nRehomeEpoch 0) then [.rehomeEpoch] else []) ++
  (if s.period (s.cfgGet Config.nDlkScan 0) then [.deadlockScan] else []) ++
  (if s.cfgGet Config.nSmpInt 0 ≠ 0 ∧ s.clk % 2 ^ s.cfgGet Config.nSmpInt 0 = 0 then [.samplePoint] else [])

/-- A value waits for its area to be empty. -/
def State.areasWait (s : State) : Bool := s.cfg.any fun x => areaRegs.any fun n => x.1 % 4096 == waitingNum n

/-- A cycle begins: the clock, the counts of teams, what waits for a cycle, and the steps that time makes due (R18). -/
def State.nextCycle (s : State) : State :=
  let s0 : State := { s with clk := (s.clk + 1) % 2 ^ 64, cursor := 0, inbox := s.retryNext, retryNext := [] }
  let s1 := (List.range 64).foldl State.quotaTimer s0.detectArrays
  let s2 := (s1.cores.map (·.1)).foldl State.teamCycle
    (s1.release fun w => w == .line || w == .rrel || w == .copyQueue || w == .launchQueue || w == .spillArea).settleCounts.settleObjects
  let s3 := if s2.areasWait then s2.settleAllAreas else s2
  let s4 := s3.sliceCycle
  let s5 := if (NMap.find s4.turns 3).isSome then s4.balance else s4
  s5.dueAll (s5.timeouts ++ s5.periodic)

/-! One step. -/

/-- The page-table entries that the part has written in a step are compared with live watches and armed monitors, each as an atomic at its
home slice; one whose trigger finds a spill ring full is compared again (R326, R430). -/
def State.settleEntries (s : State) : State :=
  s.ptes.foldl (fun t x =>
    let ws : List Wr := [⟨x.1, leBytes (t.physNat x.1 8) 8, 0, 0, x.1⟩]
    match State.compareBy State.statusCount (t.poke x.1 (leBytes x.2 8)) t ws with
    | .ok u => (u.monitors ws).unitGoes (.entry x.1)
    | .error w => let u := t.unitStops (.entry x.1) none w; { u with ptes := u.ptes ++ [x] }) { s with ptes := [] }

/-- What a part whose boot a failed check has stopped still hears: the reset that boots it again, and life-cycle commands (R349, R352). -/
def heardStopped : Instr → Bool
  | .partReset | .provisionCommand | .deployCommand _ | .rmaCommand _ | .decommissionCommand => true
  | _ => false

/-- What happens in a step: what the outside world asks for, else the next unit's turn in this cycle, else what the part has due, else a
new cycle. -/
def State.stepOnce (run : Run) (s : State) : Out :=
  match s.inbox with
  | e :: rest => if s.bootStopped && !heardStopped e then .next { s with inbox := rest } else run e { s with inbox := rest }
  | [] => match s.firstTurn run s.units with
    | (_, some o) => o
    | (t, none) => match t.agenda with
      | e :: rest => run e { t with agenda := rest, cursor := 640 }
      | [] => .next t.nextCycle

/-- One step of the part. -/
def State.stepWith (run : Run) (s : State) : Out := Out.map State.settleEntries (s.stepOnce run)

end Sys2Proof.Machine
end

