-- ==== Sys2Proof/Machine/Placing.lean ====
section
/-!
DEFINITION. The placing of one instruction where the next step fetches it (log 1): what the load of a program by Poxus's outside writes
leaves behind, for a program of one clause.
-/
namespace Sys2Proof.Machine

/-- A clause header of class `c` with `n` words that waits for no flag and sets none (Table En-1). -/
def headerWord (c : Cls) (n : Nat) : Nat := 6 * 2 ^ 29 + 15 * 2 ^ 23 + 15 * 2 ^ 19 + c.code * 16 + n

/-- The class of a placed word; words of no class are placed as ALU words. -/
def placedClass (nbits w : Nat) : Cls := (tableClass nbits (w % 2 ^ nbits)).getD .alu

/-- The words of a clause that holds one instruction, each in its byte order: header, instruction word, word after it (R4). -/
def clauseBytes (c : Cls) (v : Nat) : List Byte :=
  leBytes (headerWord c (if takesExt c v then 2 else 1)) 4 ++ leBytes v 8

/-- The buffer-table entry of a code buffer of 64 bytes at address 64: valid, read and execute, generation 0, owner 0 (Table Vi-2). -/
def placedEntry : Nat := 64 + 63 * 2 ^ 64 + 2 ^ 127 + 2 ^ 128 + 2 ^ 132

/-- The group of a placed instruction: width 32, 8 blocks, at the header at offset 0, each lane's rounding state what R129 puts for 0 (log 1). -/
def placedGroup : Group :=
  { Group.ctReset with width := 32, lanes := List.replicate 32 (Lane.ctStart 0), units := [0] }

/-- Its team, of virtual interface 0. -/
def placedTeam : Team :=
  { vi := 0, grid := 0, team := 0, nteam := 1, groups := 1, width := 32, regs := 8, prio := 0, depth := 0, gen := 0, vcore := 0,
    codeH := 1, eoff := 0, argH := 0, argOff := 0, argB1 := 0, argB2 := 0, fpctl := 0, srseed := 0, vmon := false, persist := false,
    wq := none, watch := none, wh := 0, woff := 0, abBase := 0, abLen := 65536, wbFirst := 0, wbN := 4, acsFirst := 0, acsN := 4,
    recFirst := 0, recN := 4, bars := List.replicate 8 ⟨0, [], 0⟩, frozen := false, undrained := false, imaged := false, half := none,
    wdog := 0, qcw0 := 0, qcw1 := 0, qcw0Next := none, qcw1Next := none, stats := [], order := 0, idle := 0, slices := 0, victim := 0,
    ending := false }

/-- Core 0 with nothing but the agent of a placed instruction: its control thread (`ct`), or a group. -/
def Core.placed (k : Core) (ct : Bool) : Core :=
  { k with
    ct := if ct then Group.ctReset else k.ct
    groups := if ct then [] else [(0, placedGroup)]
    teams := if ct then [] else [(0, placedTeam)]
    entries := []
    stopped := false
    inHandler := false
    dead := false
    slots := Core.reset.slots }

/-- `s` with the instruction `w` where the next step fetches: code buffer, buffer tables, and a resident group of core 0, or its control
thread for a privileged word, whose turn it is. -/
def State.place (s : State) (nbits w : Nat) : State :=
  let v := w % 2 ^ nbits
  let c := placedClass nbits w
  let ct := match opRow c v with | some r => r.priv | none => false
  let s1 := (((s.cfgPut Config.nBtBase 0 0).cfgPut Config.nBtSize 0 2).cfgPut Config.nHeapBase 0 0).cfgPut Config.nHeapLimit 0 1
  let s2 := (((s1.cfgPut Config.nHeapOffset 0 0).cfgPut Config.nCtBtBase 0 0).cfgPut Config.nCtBtSize 0 2).cfgPut Config.nCtCodeh 0 1
  let s3 := (s2.cfgPut Config.nCtRun 0 (if ct then 1 else 0)).cfgPut Config.nFabRank 0 0
  let s4 := (s3.poke 32 (leBytes placedEntry 32)).poke 64 (clauseBytes c v)
  let s5 := s4.modCore 0 (·.placed ct)
  { s5 with
    inbox := []
    cursor := if ct then 4 else 0
    badPa := none }

end Sys2Proof.Machine
end

