-- ==== Sys2Proof/Machine/Step.lean ====
section
/-!
DEFINITION. One step of the part, and the placing of one instruction where the next step fetches (log 1). A program comes to run by
Poxus's outside writes, which stand in `inbox`: `withFetchWord` stands for that load.
-/
namespace Sys2Proof.Machine

/-- One step: what the outside world asks for, else the next agent's turn, else what the part has due, else a new cycle. -/
def step (s : State) : Host.Outcome State Fault Refusal := s.stepWith exec

/-- `s` with the instruction `w` where the next step fetches. -/
def State.withFetchWord (s : State) (nbits w : Nat) : State := s.place nbits w

end Sys2Proof.Machine
end

