-- ==== Sys2Proof/Safety.lean ====
section
/-!
DEFINITION. What counts as a safe run: a part whose stores keep their canonical form, and whose steps go on.
-/
namespace Sys2Proof.Machine

/-- Every sparse store of a group is canonical. -/
def Group.storesOk (g : Group) : Bool := Mem.wf g.regs && Mem.wf g.slots

/-- Every sparse store of a core is canonical. -/
def Core.storesOk (k : Core) : Bool :=
  Mem.wf k.ab && Mem.wf k.wb && Mem.wf k.wbTag && Mem.wf k.acs && Mem.wf k.thr && Mem.wf k.ncount && Mem.wf k.recs &&
    k.ct.storesOk && k.groups.all fun g => g.2.storesOk

/-- The memory of the part is in its canonical form. -/
abbrev Memory.wf (s : State) : Bool := Mem.wf s.mem

/-- The part's stores are in their canonical form. -/
def State.storesOk (s : State) : Bool :=
  Memory.wf s && Mem.wf s.vcoreMap && Mem.wf s.fabRoute && s.cores.all fun k => k.2.storesOk

/-! Issues that nothing holds or stops. -/

/-- A lane set of a present group issues. -/
def State.Issuing (s : State) : Prop := s.me?.isSome = true ∧ s.issue.lanes ≠ []

/-- Nothing holds or stops an issue that reads and writes these registers: they are allocated (R28), none is pending (R271), and none that
is read holds poison (R421). -/
def State.Free (s : State) (u : Bool) (reads writes : List Nat) : Prop :=
  s.Issuing ∧ (∀ r ∈ reads ++ writes, r < 16 * s.me.blocks ∧ r < 128) ∧ s.futureLanes u reads writes = [] ∧ s.poisonRead u reads = none

/-- The same of an access instruction, which no UFLUSH or UAPPLY keeps waiting (R211, R212). -/
def State.AccessFree (s : State) (u : Bool) (reads writes : List Nat) : Prop := s.Free u reads writes ∧ s.flushLanes u = []

/-- The instruction `i` issues at `s` and ends in a next state of which `p` holds. -/
def Completes (i : Instr) (s : State) (p : State → Prop) : Prop := ∃ t, exec i s = .next t ∧ p t

/-- Lane `l` of the issuing group stands at the word after the issue's, or at the header after its clause (R143). -/
def State.Passed (s t : State) (l : Nat) : Prop :=
  (t.me.lane l).pc = s.issue.pc + s.issueSize ∧
    (t.me.lane l).clause = (if s.issue.pc + s.issueSize < s.clauseEnd then some s.issue.clause else none)

/-- Each active lane that the group has stands at the next word. -/
def State.AllPassed (s t : State) : Prop := ∀ l ∈ s.issue.lanes, l < s.me.lanes.length → s.Passed t l

/-- Register `d` of every active lane holds `f` of the lane whose operands its result uses (R26). -/
def State.Result (s t : State) (u : Bool) (d : Nat) (f : Nat → Word) : Prop :=
  ∀ l ∈ s.issue.lanes, t.me.reg l d = f (srcLane u s.issue.lanes l)

/-- The pair from register `d` of every active lane holds `f` of the lane whose operands its result uses (R4, R26). -/
def State.PairResult (s t : State) (u : Bool) (d : Nat) (f : Nat → Double) : Prop :=
  ∀ l ∈ s.issue.lanes, t.me.pair l d = f (srcLane u s.issue.lanes l)

/-- Condition flag `c` of every active lane is `f` of the lane whose operands its result uses (R26). -/
def State.FlagResult (s t : State) (u : Bool) (c : Nat) (f : Nat → Bool) : Prop :=
  ∀ l ∈ s.issue.lanes, l < s.me.lanes.length → t.me.flag l c = f (srcLane u s.issue.lanes l)

/-- The `n` registers from `d` up of every active lane hold `f` of the lane whose operands its result uses, lowest word first. -/
def State.WordsResult (s t : State) (u : Bool) (d n : Nat) (f : Nat → Nat) : Prop :=
  ∀ l ∈ s.issue.lanes, ∀ k < n, t.me.reg l (d + k) = BitVec.ofNat 32 (f (srcLane u s.issue.lanes l) / 2 ^ (32 * k))

/-- Bit `k` of register `d` of every active lane is `f` of the lane whose operands its result uses, and `k`. -/
def State.BitsResult (s t : State) (u : Bool) (d : Nat) (f : Nat → Nat → Bool) : Prop :=
  ∀ l ∈ s.issue.lanes, ∀ k < 32, (t.me.reg l d).getLsbD k = f (srcLane u s.issue.lanes l) k

/-- The lanes whose operands the results of an issue use (R26). -/
def State.sources (s : State) (u : Bool) : List Nat := if u then s.issue.lanes.take 1 else s.issue.lanes

/-- Nothing holds or stops a floating-point issue: no verdict stands among the registers `operands` of a lane it reads while VTRAP is
set (R137), and no lane raises an exception that FPCTL enables (R127). `flags` gives what a lane raises. -/
def State.FpFree (s : State) (u : Bool) (reads writes operands : List Nat) (flags : Nat → FpFlags) : Prop :=
  s.Free u reads writes ∧ (s.vtrap = true → ∀ l ∈ s.sources u, ∀ r ∈ operands, isVerdict (s.me.reg l r) = false) ∧
    ∀ l ∈ s.sources u, flags l &&& s.fpEnables = 0

/-- `$fpf` has gained what the lanes raised, and lost nothing (R126). -/
def State.FpfAfter (s t : State) (u : Bool) (flags : Nat → FpFlags) : Prop :=
  t.me.fpf = s.me.fpf ||| (s.sources u).foldl (fun x l => x ||| flags l) 0

/-! Memory that nothing stands before. -/

/-- Nothing on the part delays, diverts, poisons or watches an access to memory: no claims, side-log entries, pairs, poison, latent
errors, lost devices, watches, or armed monitors, no retrained channel, and no BOWAIT. -/
structure State.Calm (s : State) : Prop where
  claims   : s.claims = []
  channels : s.hbmDown = []
  logs     : ∀ k ∈ s.cores, k.2.sideLog = []
  pairs    : s.pairs = []
  poison   : s.poison = []
  latentUe : s.latentUe = []
  latentCe : s.latentCe = []
  cxlLost  : s.cxlLost = []
  watches  : ∀ w ∈ s.watches, w.dropped = true
  waits    : ∀ o ∈ s.ops, ∀ d c, o.kind ≠ .waitc d c true
  launches : ∀ q ∈ s.lq, q.2.waits = []
  swapped  : ∀ w ∈ s.swapped, w.conds = []
  bowaits  : ∀ o ∈ s.ops, ∀ d c a, o.kind ≠ .bowait d c a
  badPa    : s.badPa = none

/-- The reference `r` stands for `n` bytes at physical address `pa` of this chip's memory: in the heap window or physical, of no AUTO
buffer (R325, R337). -/
structure State.HeapRef (s : State) (r : Ref) (n pa : Nat) : Prop where
  some_   : 0 < n
  here    : r.remote = none
  fixed   : fld r.entry 118 2 ≠ 3
  window  : r.space = physSpace ∨ (s.inHeap r.space r.va = true ∧ s.inHeap r.space (r.va + n - 1) = true)
  place   : s.lookup r.space r.va = some pa
  first   : isMemory pa = true
  last    : isMemory (pa + n - 1) = true

/-- Offset `off` of the buffer in slot `h` passes the checks of R55 for `n` bytes and stands for memory at `pa`. -/
def State.HeapAt (s : State) (h off n pa : Nat) : Prop :=
  h < 12 ∧ ∃ r, s.resolve s.actor (s.slotHandle h) off n [] none = .ok r ∧ s.HeapRef r n pa

/-- What a load needs to read its values now: its checks pass, it meets no poison, it names no remote window, and each lane that forms an
address reads `v`, which changes nothing. -/
def State.ReadsNow (s : State) (u : Bool) (a h i n : Nat) (v : Nat → Nat) : Prop :=
  s.accessFault h n 0 [.read] false (s.offsets u a i n) = none ∧ s.localPoison h n (s.offsets u a i n) = none ∧
    s.remoteRank h (((s.offsets u a i n).map (·.2)).headD 0) = none ∧
    ∀ o ∈ s.offsets u a i n, s.readLane h n o = (s, .value (v o.1))

/-- A lane's store of `n` bytes at offset `o.2` goes to a place: physical memory, or a core's AB at an address. -/
def State.StoreAt (s : State) (h : Nat) (o : Nat × Nat) (n : Nat) : Option Nat × Nat → Prop
  | (none, pa) => s.HeapAt h o.2 n pa
  | (some c, a) => h = 12 ∧ s.myAb o.2 n = some (c, a) ∧ s.claimed (s.meLane o.1) (abSpace c) a n = false

/-- The lanes' stores go to these places, each computed in the state that the lanes before it left (R90). -/
def State.StoresTo (s : State) (h id : Nat) (clear : List Nat) (data : Nat → List Byte) :
    List (Nat × Nat) → List (Option Nat × Nat) → Prop
  | [], [] => True
  | o :: os, p :: ps => s.StoreAt h o (data o.1).length p ∧ (s.storeLane h id clear o (data o.1)).1.StoresTo h id clear data os ps
  | _, _ => False

/-- A store with the bytes that go to its space (none: physical memory, else a core's AB) written in order. -/
def storedIn (space : Option Nat) (data : Nat → List Byte) (m : Mem 8) (qs : List ((Nat × Nat) × Option Nat × Nat)) : Mem 8 :=
  qs.foldl (fun m q => if q.2.1 = space then Mem.setBytes m q.2.2 (data q.1.1) else m) m

/-- Offset `t` of the issuing agent's code holds a clause header, which a fetch reads and changes nothing (R141, R153). -/
def State.HeaderAt (s : State) (t : Nat) : Prop :=
  t % 4 = 0 ∧ ∃ w, s.fetch s.issue.core s.issue.agent t = (s, .word w) ∧ w / 2 ^ 29 = 6

/-- Lane `l` of the issuing group stands at the header at offset `pc`. -/
def State.StandsAt (t : State) (l pc : Nat) : Prop := (t.me.lane l).pc = pc ∧ (t.me.lane l).clause = none

/-- The rows of a job give these bytes to these addresses of core `c`'s AB: zeros, FILL, or memory (Table Ec-2, R263). -/
def State.RowsGive (s : State) (c : Nat) (j : CopyJob) : List CopyRow → List (List Byte × Nat) → Prop
  | [], [] => True
  | r :: rs, q :: qs =>
    r.dsts = [.ab c q.2] ∧ (match r.src with
      | some .zero => q.1 = List.replicate (blkRowb j.block) 0
      | some .fill => q.1 = fillBytes j.block (blkRowb j.block)
      | some (.glob g) => ∃ pa, s.HeapRef g (blkRowb j.block) pa ∧ q.1 = Mem.bytes s.mem pa (blkRowb j.block)
      | _ => False) ∧ s.RowsGive c j rs qs
  | _, _ => False

/-- The lanes of an atomic with their operands and comparands. -/
def State.atomArgs (s : State) (n : Nat) (src cmp : Option Nat) : List (Nat × Nat × Nat) :=
  s.issue.lanes.map fun l => (l, (src.map fun r => s.me.words l r (n / 4)).getD 0, (cmp.map fun r => s.me.words l r (n / 4)).getD 0)

/-- The matrix engine takes an operation on `n` tiles from core tile `t` (R251, R97). -/
def State.EngineFree (s : State) (t n : Nat) : Prop :=
  s.mtxQueued s.issue.core < 8 ∧ s.acsClaimed t n = false

/-- The core writes no trace packets of the issuing group (R453). -/
def State.Untraced (s : State) : Prop := s.isCt = true ∨ s.cfgGet Config.nTrcCtl s.issue.core ≠ 256 * s.myVi + 1

/-- `t` differs from `s` in nothing but the issuing group: memory, configuration registers, operations, every other group, and the local
storage and queues of every core are as they were. -/
def State.OnlyGroup (s t : State) : Prop :=
  { t with cores := s.cores } = s ∧
  (∀ d, { t.core d with ct := (s.core d).ct, groups := (s.core d).groups } = s.core d) ∧
  ∀ d a, (d, a) ≠ (s.issue.core, s.issue.agent) → t.group? d a = s.group? d a

/-- Lane `y`, standing where `x` stands: at its word, with what a held word keeps (R143, R145, R322). -/
def Lane.standAs (y x : Lane) : Lane :=
  { y with pc := x.pc, clause := x.clause, counted := x.counted, rwcAt := x.rwcAt, back := x.back, saved := x.saved, flags := x.flags,
           heldAt := x.heldAt, entries := x.entries }

/-- Group `h` differs from `g` in nothing but registers `ds` of lanes `ls`, their poison marks, where those lanes stand, and `$rwc`,
which counts one issue at most. -/
def Group.OnlyRegs (g h : Group) (ls ds : List Nat) : Prop :=
  { h with regs := g.regs, poison := g.poison, lanes := g.lanes, rwc := g.rwc } = g ∧
  (∀ l r, r < 128 → ¬(l ∈ ls ∧ r ∈ ds) → h.reg l r = g.reg l r) ∧
  (∀ x ∈ h.poison, x ∈ g.poison) ∧ (∀ x ∈ g.poison, ¬(x.1 ∈ ls ∧ x.2 ∈ ds) → x ∈ h.poison) ∧
  (h.rwc = g.rwc ∨ h.rwc = (g.rwc + 1) % 2 ^ 48) ∧
  (∀ l, l ∉ ls → h.lane l = g.lane l) ∧
  ∀ l, (h.lane l).standAs (g.lane l) = g.lane l

/-- The same but for the operation that the issue starts, which tracks it, and its end step. -/
def State.OnlyIssue (s t : State) : Prop := s.OnlyGroup { t with ops := s.ops, opSeq := s.opSeq, agenda := s.agenda }

/-- Group `h` differs from `g` in nothing but flag `c` of lanes `ls`, where those lanes stand, and `$rwc`. -/
def Group.OnlyFlag (g h : Group) (ls : List Nat) (c : Nat) : Prop :=
  { h with lanes := g.lanes, rwc := g.rwc } = g ∧ (h.rwc = g.rwc ∨ h.rwc = (g.rwc + 1) % 2 ^ 48) ∧
  (∀ l, l ∉ ls → h.lane l = g.lane l) ∧ (∀ l k, k ≠ c → k < 8 → h.flag l k = g.flag l k) ∧
  ∀ l, { (h.lane l).standAs (g.lane l) with cflags := (g.lane l).cflags } = g.lane l

/-- A floating-point issue changes `$fpf`, the registers `ds` of the active lanes, and no more, where it is not traced. -/
def State.FpFrame (s t : State) (ds : List Nat) : Prop :=
  s.Untraced → s.OnlyIssue t ∧ s.me.OnlyRegs { t.me with fpf := s.me.fpf } s.issue.lanes ds

/-- Lanes `ys` with the stochastic-rounding states of `xs`, and nothing else of them. -/
def Lane.withSrOf (ys xs : List Lane) : List Lane := (ys.zip xs).map fun p => { p.1 with sr := p.2.sr }

/-- The same but for the stochastic-rounding states of lanes. -/
def State.SrFrame (s t : State) (ds : List Nat) : Prop :=
  s.Untraced → s.OnlyIssue t ∧
    s.me.OnlyRegs { t.me with fpf := s.me.fpf, lanes := Lane.withSrOf t.me.lanes s.me.lanes } s.issue.lanes ds

/-- The lanes whose operands are read have each drawn `n` times; the stochastic-rounding state of every other lane is as it was (R130). -/
def State.SrAfter (s t : State) (u : Bool) (n : Nat) : Prop :=
  ∀ l < s.me.lanes.length, (t.me.lane l).sr = if l ∈ s.sources u then srAfter (s.me.lane l).sr n else (s.me.lane l).sr

/-- A floating-point instruction has ended, with its flags raised and one FP32 or packed result, and nothing else changed (R166). -/
def State.FpDone (s t : State) (u : Bool) (d : Nat) (r : Nat → FRes) : Prop :=
  s.AllPassed t ∧ s.FpfAfter t u (fun l => (r l).flags) ∧ (s.Result t u d fun l => BitVec.ofNat 32 (r l).bits) ∧ s.FpFrame t [d]

/-- A step goes on: it neither faults nor refuses. -/
def Out.goesOn : Out → Prop
  | .next _ => True
  | .fault _ => False
  | .refused _ => False

/-- The part has run `n` steps from `s` without stopping and stands at `t`. -/
def Runs : Nat → State → State → Prop
  | 0, s, t => s = t
  | n + 1, s, t => ∃ u, step s = .next u ∧ Runs n u t

end Sys2Proof.Machine
end

