-- ==== Sys2Proof/Certificates/Slice0/Obligations.lean ====
section
/-!
DEFINITION. The statements for the provers: encodings, the instructions family by family with their frames, exceptions, the steps of the
part and of the outside world, reset, and invariants. A docstring names the rules of spec/ that a statement formalises; where a clause
rests on a choice of the model it names the log entry.
-/
open Sys2Proof Sys2Proof.Machine

/-- R26, R167: results of the integer instructions in one register and in pairs. -/
def Obligations.IntegerArithmetic : Prop :=
  (∀ (s : State) (u : Bool) (d a b i : Nat),
    (s.Free u [a, b] [d] → ∀ p ∈ ([
        (.iadd u d a b, fun x y => x + y),
        (.isub u d a b, fun x y => x - y),
        (.imul u d a b, fun x y => x * y),
        (.imulh u d a b 0, fun x y => (x.signExtend 64 * y.signExtend 64).extractLsb' 32 32),
        (.imulh u d a b 1, fun x y => (x.setWidth 64 * y.setWidth 64).extractLsb' 32 32),
        (.imin u d a b 0, fun x y => if x.sle y then x else y),
        (.imin u d a b 1, fun x y => if x.ule y then x else y),
        (.imax u d a b 0, fun x y => if x.sle y then y else x),
        (.imax u d a b 1, fun x y => if x.ule y then y else x),
        (.iadds u d a b 0, fun x y => BitVec.ofInt 32 (max (-2147483648) (min 2147483647 (x.toInt + y.toInt)))),
        (.iadds u d a b 1, fun x y => BitVec.ofNat 32 (min 4294967295 (x.toNat + y.toNat))),
        (.iadds u d a b 2, fun x y => BitVec.ofInt 32 (max (-2147483648) (min 2147483647 (x.toInt - y.toInt)))),
        (.iadds u d a b 3, fun x y => BitVec.ofNat 32 (x.toNat - y.toNat)),
        (.ixadd u d a b 0, fun x y => x + y),
        (.ixadd u d a b 1, fun x y => x + y <<< 2),
        (.ixadd u d a b 2, fun x y => x + y <<< 3),
        (.ixadd u d a b 3, fun x y => x + y <<< 4)] : List (Instr × (Word → Word → Word))),
      Completes p.1 s fun t => s.AllPassed t ∧ s.Result t u d fun k => p.2 (s.me.reg k a) (s.me.reg k b)) ∧
    (s.Free u [a] [d] → ∀ p ∈ ([
        (.iaddi u d a i, fun x => x + (BitVec.ofNat 9 i).signExtend 32),
        (.iabs u d a 0, fun x => if x.msb then -x else x),
        (.iabs u d a 1, fun x => if x = 0x80000000 then 0x7FFFFFFF else if x.msb then -x else x)] : List (Instr × (Word → Word))),
      Completes p.1 s fun t => s.AllPassed t ∧ s.Result t u d fun k => p.2 (s.me.reg k a))) ∧
  ∀ (s : State) (u : Bool) (d a b : Nat),
    (s.Free u [a, a + 1, b, b + 1] [d, d + 1] → ∀ p ∈ ([
        (.iadd64 u d a b, fun x y => x + y),
        (.isub64 u d a b, fun x y => x - y)] : List (Instr × (Double → Double → Double))),
      Completes p.1 s fun t => s.AllPassed t ∧ s.PairResult t u d fun k => p.2 (s.me.pair k a) (s.me.pair k b)) ∧
    (s.Free u [a, b, d] [d] → Completes (.imad u d a b 0) s fun t => s.AllPassed t ∧
      s.Result t u d fun k => s.me.reg k a * s.me.reg k b + s.me.reg k d) ∧
    (s.Free u [a, b, d, d + 1] [d, d + 1] →
      (Completes (.imad u d a b 1) s fun t => s.AllPassed t ∧
        s.PairResult t u d fun k => (s.me.reg k a).signExtend 64 * (s.me.reg k b).signExtend 64 + s.me.pair k d) ∧
      Completes (.imad u d a b 2) s fun t => s.AllPassed t ∧
        s.PairResult t u d fun k => (s.me.reg k a).setWidth 64 * (s.me.reg k b).setWidth 64 + s.me.pair k d)

/-- R168, R169: "They compute v[a] and v[b], v[a] or v[b], v[a] xor v[b], and v[a] and not v[b]." -/
def Obligations.LogicAndShifts : Prop :=
  ∀ (s : State) (u : Bool) (d a b i : Nat),
    (s.Free u [a, b] [d] → ∀ p ∈ ([
        (.and u d a b, fun x y => x &&& y),
        (.or u d a b, fun x y => x ||| y),
        (.xor u d a b, fun x y => x ^^^ y),
        (.andn u d a b, fun x y => x &&& ~~~y),
        (.shl u d a b, fun x y => x <<< y.toNat),
        (.shr u d a b, fun x y => x >>> y.toNat),
        (.sar u d a b, fun x y => x.sshiftRight y.toNat)] : List (Instr × (Word → Word → Word))),
      Completes p.1 s fun t => s.AllPassed t ∧ s.Result t u d fun k => p.2 (s.me.reg k a) (s.me.reg k b)) ∧
    (s.Free u [a] [d] → ∀ p ∈ ([
        (.andi u d a i, fun x => x &&& BitVec.ofNat 32 i),
        (.ori u d a i, fun x => x ||| BitVec.ofNat 32 i),
        (.xori u d a i, fun x => x ^^^ BitVec.ofNat 32 i),
        (.shli u d a i, fun x => x <<< i),
        (.shri u d a i, fun x => x >>> i),
        (.sari u d a i, fun x => x.sshiftRight i)] : List (Instr × (Word → Word))),
      Completes p.1 s fun t => s.AllPassed t ∧ s.Result t u d fun k => p.2 (s.me.reg k a)) ∧
    (∀ p ∈ ([(.and u d a b, 0x10), (.or u d a b, 0x11), (.xor u d a b, 0x12), (.andn u d a b, 0x13), (.shl u d a b, 0x18),
        (.shr u d a b, 0x19), (.sar u d a b, 0x1A)] : List (Instr × Nat)),
      encode p.1 = some ⟨.alu, false, p.2 * 2 ^ 24 + u.toNat * 2 ^ 23 + d * 2 ^ 16 + a * 2 ^ 9 + b * 2 ^ 2⟩) ∧
    ∀ p ∈ ([(.andi u d a i, 0x14), (.ori u d a i, 0x15), (.xori u d a i, 0x16), (.shli u d a i, 0x1B), (.shri u d a i, 0x1C),
        (.sari u d a i, 0x1D)] : List (Instr × Nat)),
      encode p.1 = some ⟨.alu, false, p.2 * 2 ^ 24 + u.toNat * 2 ^ 23 + d * 2 ^ 16 + a * 2 ^ 9 + i⟩ ∧ (p.1.wellFormed = true → i < 512)

/-- R170, R171. -/
def Obligations.BitCountsAndFields : Prop :=
  ∀ (s : State) (u : Bool) (d a b pos len : Nat) (sgn : Bool),
    (s.Free u [a] [d] →
      (Completes (.popc u d a) s fun t => s.AllPassed t ∧
        s.Result t u d fun k => BitVec.ofNat 32 ((List.range 32).countP fun j => (s.me.reg k a).getLsbD j)) ∧
      (Completes (.clz u d a) s fun t => s.AllPassed t ∧ ∀ l ∈ s.issue.lanes,
        let x := s.me.reg (srcLane u s.issue.lanes l) a
        let n := (t.me.reg l d).toNat
        n ≤ 32 ∧ x.toNat < 2 ^ (32 - n) ∧ (n < 32 → x.getLsbD (31 - n) = true)) ∧
      (Completes (.brev u d a) s fun t => s.AllPassed t ∧ s.BitsResult t u d fun k j => (s.me.reg k a).getLsbD (31 - j)) ∧
      (len ≤ 32 → Completes (.bfe u d a b 0 pos len sgn) s fun t => s.AllPassed t ∧ s.BitsResult t u d fun k j =>
        if j < len then (s.me.reg k a).getLsbD (pos + j)
        else sgn && decide (0 < len) && (s.me.reg k a).getLsbD (pos + len - 1))) ∧
    (s.Free u [a, b] [d] → Completes (.bfe u d a b 1 pos len sgn) s fun t => s.AllPassed t ∧ s.BitsResult t u d fun k j =>
      let p := ((s.me.reg k b).extractLsb' 0 8).toNat
      let n := min ((s.me.reg k b).extractLsb' 8 8).toNat 32
      if j < n then (s.me.reg k a).getLsbD (p + j) else sgn && decide (0 < n) && (s.me.reg k a).getLsbD (p + n - 1)) ∧
    (s.Free u [a, d] [d] → Completes (.bfi u d a b 0 pos len) s fun t => s.AllPassed t ∧ s.BitsResult t u d fun k j =>
      if pos ≤ j ∧ j < pos + len then (s.me.reg k a).getLsbD (j - pos) else (s.me.reg k d).getLsbD j) ∧
    (s.Free u [a, b, d] [d] → Completes (.bfi u d a b 1 pos len) s fun t => s.AllPassed t ∧ s.BitsResult t u d fun k j =>
      let p := ((s.me.reg k b).extractLsb' 0 8).toNat
      let n := min ((s.me.reg k b).extractLsb' 8 8).toNat 32
      if p ≤ j ∧ j < p + n then (s.me.reg k a).getLsbD (j - p) else (s.me.reg k d).getLsbD j)

/-- R172 ("MOV (0x28, RRR, B = 0) copies v[a] with M = 0, or pair a with M = 1, in which case D and A are even."), and R173 to R175, R191. -/
def Obligations.MovesAndVerdicts : Prop :=
  (∀ (s : State) (u inv : Bool) (d a b i x cf : Nat),
    (s.Free u [a] [d] → Completes (.mov u d a 0) s fun t => s.AllPassed t ∧ s.Result t u d fun k => s.me.reg k a) ∧
    (s.Free u [a, a + 1] [d, d + 1] →
      Completes (.mov u d a 1) s fun t => s.AllPassed t ∧ s.PairResult t u d fun k => s.me.pair k a) ∧
    (s.Free u [] [d] →
      (Completes (.li u d 0 i) s fun t => s.AllPassed t ∧ s.Result t u d fun _ => (BitVec.ofNat 15 i).signExtend 32) ∧
      (Completes (.li u d 1 i) s fun t => s.AllPassed t ∧ s.Result t u d fun _ => BitVec.ofNat 32 i) ∧
      (Completes (.lix u d 0 i x) s fun t => s.AllPassed t ∧ s.Result t u d fun _ => BitVec.ofNat 32 x) ∧
      (Completes (.movs u d i) s fun t => s.AllPassed t ∧ s.Result t u d fun k => BitVec.ofNat 32 (s.specialAt k i))) ∧
    (s.Free u [] [d, d + 1] →
      (x < 2 ^ 32 → Completes (.lix u d 1 i x) s fun t => s.AllPassed t ∧
        s.PairResult t u d fun _ => (BitVec.ofNat 15 i).signExtend 32 ++ BitVec.ofNat 32 x) ∧
      (Completes (.movsw u d i) s fun t => s.AllPassed t ∧ s.PairResult t u d fun k => BitVec.ofNat 64 (s.specialAt k i))) ∧
    (s.Free u [a, b] [d] → Completes (.sel u d a b 0 cf inv) s fun t => s.AllPassed t ∧
      s.Result t u d fun k => if s.me.flag k cf ≠ inv then s.me.reg k a else s.me.reg k b) ∧
    (s.Free u [a, a + 1, b, b + 1] [d, d + 1] → Completes (.sel u d a b 1 cf inv) s fun t => s.AllPassed t ∧
      s.PairResult t u d fun k => if s.me.flag k cf ≠ inv then s.me.pair k a else s.me.pair k b) ∧
    (∀ m, encode (.mov u d a m) = some ⟨.alu, false, 0x28 * 2 ^ 24 + u.toNat * 2 ^ 23 + d * 2 ^ 16 + a * 2 ^ 9 + m⟩ ∧
      ((Instr.mov u d a m).wellFormed = true → m = 0 ∨ (m = 1 ∧ d % 2 = 0 ∧ a % 2 = 0)))) ∧
  ∀ (s : State) (u : Bool) (d a b : Nat),
    (s.Free u [a] [d] →
      (Completes (.vclass u d a) s fun t => s.AllPassed t ∧ s.Result t u d fun l => vclass (s.me.reg l a)) ∧
      (Completes (.vzero u d a 0) s fun t => s.AllPassed t ∧
        s.Result t u d fun l => if isVerdict (s.me.reg l a) then 0 else s.me.reg l a) ∧
      Completes (.vzero u d a 1) s fun t => s.AllPassed t ∧ s.Result t u d fun l =>
        let x := s.me.reg l a
        if isVerdict x ∨ (x.msb = true ∧ (x &&& 0x7FFFFFFF).toNat ≤ 0x7F800000) then 0 else x) ∧
    (s.Free u [a, b] [d] → Completes (.vfill u d a b) s fun t => s.AllPassed t ∧
      s.Result t u d fun l => if isVerdict (s.me.reg l a) then s.me.reg l b else s.me.reg l a)

/-- R176 ("It writes c[CD] := 1 in each active lane where v[a] stands in relation CC to v[b], and 0 elsewhere."), and R178. -/
def Obligations.FlagInstructions : Prop :=
  ∀ (s : State) (u : Bool) (c a b p q k : Nat), c < 8 →
    (s.Free u [a, b] [] → ∀ r ∈ ([
        (0, 0, fun x y => decide (x = y)), (1, 0, fun x y => decide (x ≠ y)),
        (2, 0, fun x y => x.slt y), (3, 0, fun x y => x.sle y), (4, 0, fun x y => y.slt x), (5, 0, fun x y => y.sle x),
        (0, 1, fun x y => decide (x = y)), (1, 1, fun x y => decide (x ≠ y)),
        (2, 1, fun x y => x.ult y), (3, 1, fun x y => x.ule y), (4, 1, fun x y => y.ult x), (5, 1, fun x y => y.ule x)] :
          List (Nat × Nat × (Word → Word → Bool))),
      Completes (.icmp u c r.1 a b r.2.1) s fun t => s.AllPassed t ∧
        s.FlagResult t u c (fun l => r.2.2 (s.me.reg l a) (s.me.reg l b)) ∧
        (s.Untraced → s.OnlyGroup t ∧ s.me.OnlyFlag t.me s.issue.lanes c)) ∧
    (s.Free u [a, a + 1, b, b + 1] [] → ∀ r ∈ ([
        (0, 2, fun x y => decide (x = y)), (1, 2, fun x y => decide (x ≠ y)),
        (2, 2, fun x y => x.slt y), (3, 2, fun x y => x.sle y), (4, 2, fun x y => y.slt x), (5, 2, fun x y => y.sle x),
        (0, 3, fun x y => decide (x = y)), (1, 3, fun x y => decide (x ≠ y)),
        (2, 3, fun x y => x.ult y), (3, 3, fun x y => x.ule y), (4, 3, fun x y => y.ult x), (5, 3, fun x y => y.ule x)] :
          List (Nat × Nat × (Double → Double → Bool))),
      Completes (.icmp u c r.1 a b r.2.1) s fun t => s.AllPassed t ∧
        s.FlagResult t u c (fun l => r.2.2 (s.me.pair l a) (s.me.pair l b)) ∧
        (s.Untraced → s.OnlyGroup t ∧ s.me.OnlyFlag t.me s.issue.lanes c)) ∧
    (s.Free u [] [] → Completes (.clog u c k p q) s fun t => s.AllPassed t ∧
      s.FlagResult t u c (fun l => k.testBit (2 * (s.me.flag l p).toNat + (s.me.flag l q).toNat)) ∧
      (s.Untraced → s.OnlyGroup t ∧ s.me.OnlyFlag t.me s.issue.lanes c)) ∧
    ∀ r m, encode (.icmp u c r a b m) =
        some ⟨.alu, false, 0x30 * 2 ^ 24 + u.toNat * 2 ^ 23 + c * 2 ^ 20 + r * 2 ^ 16 + a * 2 ^ 9 + b * 2 ^ 2 + m⟩ ∧
      ((Instr.icmp u c r a b m).wellFormed = true → r < 6 ∧ m < 4 ∧ (2 ≤ m → a % 2 = 0 ∧ b % 2 = 0))

/-- R126, R166, R177, R179 to R182: results are those of the number-format functions of the model. -/
def Obligations.FloatingArithmetic : Prop :=
  ∀ (s : State) (u : Bool) (d a b c m k : Nat),
    let v := fun x => Fmt.f32.decode s.ftz x
    (∀ p ∈ ([
        (.fadd u d a b m, fun x y => Fmt.f32.sum (s.rmOf m) s.ftz false [v x, v y]),
        (.fsub u d a b m, fun x y => Fmt.f32.sum (s.rmOf m) s.ftz false [v x, (v y).flip]),
        (.fmul u d a b m, fun x y => fmulRes (s.rmOf m) s.ftz .f32 x y),
        (.fmin u d a b m, fun x y => Fmt.f32.minMax s.ftz false (m == 1) x y),
        (.fmax u d a b m, fun x y => Fmt.f32.minMax s.ftz true (m == 1) x y)] : List (Instr × (Nat → Nat → FRes))),
      let r := fun l => p.2 (s.me.reg l a).toNat (s.me.reg l b).toNat
      s.FpFree u [a, b] [d] [a, b] (fun l => (r l).flags) → Completes p.1 s fun t => s.FpDone t u d r) ∧
    (∀ q ∈ ([(0, false, false), (1, false, true), (2, true, false), (3, true, true)] : List (Nat × Bool × Bool)),
      let r := fun l =>
        let x := v (s.me.reg l a).toNat
        let z := v (s.me.reg l d).toNat
        Fmt.f32.dot s.rm s.ftz [(if q.2.1 then x.flip else x, v (s.me.reg l b).toNat)] [if q.2.2 then z.flip else z]
      s.FpFree u [a, b, d] [d] [a, b, d] (fun l => (r l).flags) → Completes (.ffma u d a b q.1) s fun t => s.FpDone t u d r) ∧
    (
      let r := fun l => frndRes (Rm.ofCode m) s.ftz (s.me.reg l a).toNat
      s.FpFree u [a] [d] [a] (fun l => (r l).flags) → Completes (.frnd u d a m) s fun t => s.FpDone t u d r) ∧
    (
      let r := fun l => fpRel k (m == 1) (v (s.me.reg l a).toNat) (v (s.me.reg l b).toNat)
      c < 8 → s.FpFree u [a, b] [] [a, b] (fun l => (r l).2) →
      Completes (.fcmp u c k a b m) s fun t =>
        s.AllPassed t ∧ s.FpfAfter t u (fun l => (r l).2) ∧ s.FlagResult t u c (fun l => (r l).1) ∧
        (s.Untraced → s.OnlyGroup t ∧ s.me.OnlyFlag { t.me with fpf := s.me.fpf } s.issue.lanes c)) ∧
    (s.Free u [a, b] [d] → ∀ q ∈ ([(0, fun _ y => y), (1, fun _ y => !y), (2, fun x y => x ^^ y)] : List (Nat × (Bool → Bool → Bool))),
      Completes (.fcps u d a b q.1) s fun t => s.AllPassed t ∧ s.BitsResult t u d fun l j =>
        if j = 31 then q.2 (s.me.reg l a).msb (s.me.reg l b).msb else (s.me.reg l a).getLsbD j)

/-- R145, R183. -/
def Obligations.SpecialFunctions : Prop :=
  ∀ (s : State) (u : Bool) (d a m : Nat), ∀ p ∈ ([
      (.frcp u d a m, frcp (s.rmOf m) s.ftz), (.fsqrt u d a m, fsqrt (s.rmOf m) s.ftz), (.frsq u d a, frsq s.ftz),
      (.fexp2 u d a, fexp2 s.ftz), (.flog2 u d a, flog2 s.ftz), (.fsin u d a, fsin s.ftz), (.fcos u d a, fcos s.ftz),
      (.ftanh u d a, ftanh s.ftz)] : List (Instr × (Nat → FRes))),
    let r := fun l => p.2 (s.me.reg l a).toNat
    s.FpFree u [a] [d] [a] (fun l => (r l).flags) → Completes p.1 s fun t => s.FpDone t u d r ∧
      ∀ n, s.setA = some n → t.flagSet s.issue.core s.issue.agent n = true

/-- R184. -/
def Obligations.PackedArithmetic : Prop :=
  ∀ (s : State) (u bf : Bool) (d a b : Nat),
    let f := packedFmt bf
    let v := fun x => f.decode s.ftz x
    (∀ p ∈ ([
        (.hadd2 u d a b bf, fun x y => f.sum s.rm s.ftz false [v x, v y]),
        (.hmul2 u d a b bf, fun x y => fmulRes s.rm s.ftz f x y),
        (.hmin2 u d a b bf, fun x y => f.minMax s.ftz false false x y),
        (.hmax2 u d a b bf, fun x y => f.minMax s.ftz true false x y)] : List (Instr × (Nat → Nat → FRes))),
      let e0 := fun l => p.2 ((s.me.reg l a).toNat % 65536) ((s.me.reg l b).toNat % 65536)
      let e1 := fun l => p.2 ((s.me.reg l a).toNat / 65536) ((s.me.reg l b).toNat / 65536)
      s.FpFree u [a, b] [d] [] (fun l => (e0 l).flags ||| (e1 l).flags) → Completes p.1 s fun t =>
        s.FpDone t u d fun l => ⟨(e0 l).bits + 65536 * (e1 l).bits, (e0 l).flags ||| (e1 l).flags⟩) ∧
    (
      let e0 := fun l => f.dot s.rm s.ftz [(v ((s.me.reg l a).toNat % 65536), v ((s.me.reg l b).toNat % 65536))]
        [v ((s.me.reg l d).toNat % 65536)]
      let e1 := fun l => f.dot s.rm s.ftz [(v ((s.me.reg l a).toNat / 65536), v ((s.me.reg l b).toNat / 65536))]
        [v ((s.me.reg l d).toNat / 65536)]
      s.FpFree u [a, b, d] [d] [] (fun l => (e0 l).flags ||| (e1 l).flags) → Completes (.hfma2 u d a b bf) s fun t =>
        s.FpDone t u d fun l => ⟨(e0 l).bits + 65536 * (e1 l).bits, (e0 l).flags ||| (e1 l).flags⟩) ∧
    (
      let r := fun l => Fmt.f32.dot s.rm s.ftz
        [(v ((s.me.reg l a).toNat % 65536), v ((s.me.reg l b).toNat % 65536)),
         (v ((s.me.reg l a).toNat / 65536), v ((s.me.reg l b).toNat / 65536))] [Fmt.f32.decode s.ftz (s.me.reg l d).toNat]
      s.FpFree u [a, b, d] [d] [d] (fun l => (r l).flags) → Completes (.hdot2 u d a b bf) s fun t => s.FpDone t u d r)

/-- R129, R130, R186, R188 to R190; that an integer source sets no flag is log 117. -/
def Obligations.Conversions : Prop :=
  ∀ (s : State) (u satx blk had scl nrm styp inv : Bool) (d a b src dst typ rm ncnt sbyte : Nat),
    (
      let n := cvtCount ncnt
      let rs := fun l => mapDraws ((List.range n).map (elemOf (s.me.words l a (typeRegs n src)) (typeWidth src))) (s.me.lane l).sr
        fun x dr => convertElem src dst (s.convRm rm dr) s.ftz ((dst == 3) ^^ satx) x
      let flags := fun l => if src ≤ 4 then allFlags (rs l) else 0
      s.FpFree u (regRange a (typeRegs n src)) (regRange d (typeRegs n dst)) (if src = 0 then regRange a n else []) flags →
      ∃ t, exec (.cvt u d a src dst rm satx ncnt) s = .next t ∧ s.AllPassed t ∧ s.FpfAfter t u flags ∧
        s.WordsResult t u d (typeRegs n dst) (fun l => packElems (typeWidth dst) ((rs l).map (·.bits))) ∧
        s.SrAfter t u (if rm = 4 then n else 0) ∧ s.SrFrame t (regRange d (typeRegs n dst))) ∧
    (
      let n := blockLen blk
      let byte := fun l => if scl then byteOf (s.me.reg l b) sbyte else 127
      let x0 := fun l => (List.range n).map fun k => scaledValue src (byte l) (elemOf (s.me.words l a (typeRegs n src)) (typeWidth src) k) false
      let xs := fun l => if had then (hadamard (x0 l)).map (·.scale (if blk then -5 else -4)) else x0 l
      let rs := fun l => mapDraws (xs l) (s.me.lane l).sr fun x dr => (Fmt.ofCode dst).ofVal (s.convRm rm dr) s.ftz x
      s.FpFree u (regRange a (typeRegs n src) ++ (if scl then [b] else [])) (regRange d (typeRegs n dst)) [] (fun l => allFlags (rs l)) →
      ∃ t, exec (.cvtd u d a b src dst rm blk had scl sbyte) s = .next t ∧ s.AllPassed t ∧ s.FpfAfter t u (fun l => allFlags (rs l)) ∧
        s.WordsResult t u d (typeRegs n dst) (fun l => packElems (typeWidth dst) ((rs l).map (·.bits))) ∧
        s.SrAfter t u (if rm = 4 then n else 0) ∧ s.SrFrame t (regRange d (typeRegs n dst))) ∧
    (
      let n := blockLen blk
      let ys := fun l => hadamard ((List.range n).map fun k =>
        (Fmt.ofCode typ).decode s.ftz (elemOf (s.me.words l a (typeRegs n typ)) (typeWidth typ) k))
      let rs := fun l => (ys l).map fun y =>
        (Fmt.ofCode typ).ofVal (s.convRm rm 0) s.ftz (if nrm then y.scale (if blk then -5 else -4) else y)
      s.FpFree u (regRange a (typeRegs n typ)) (regRange d (typeRegs n typ)) (if typ = 0 then regRange a n else []) (fun l => allFlags (rs l)) →
      ∃ t, exec (.hadm u d a typ rm nrm blk) s = .next t ∧ s.AllPassed t ∧ s.FpfAfter t u (fun l => allFlags (rs l)) ∧
        s.WordsResult t u d (typeRegs n typ) (fun l => packElems (typeWidth typ) ((rs l).map (·.bits))) ∧
        s.FpFrame t (regRange d (typeRegs n typ))) ∧
    (
      let r := fun l =>
        let byte := byteOf (s.me.reg l b) sbyte
        let k : Int := if styp then (byte : Int) - 127 else (byte % 64 : Nat) - 32
        if styp ∧ byte = 255 then ⟨0x7FC00000, 0⟩
        else Fmt.f32.ofVal (s.convRm rm 0) s.ftz ((Fmt.f32.decode s.ftz (s.me.reg l a).toNat).scale (if inv then -k else k))
      s.FpFree u [a, b] [d] [a] (fun l => (r l).flags) →
      ∃ t, exec (.bscl u d a b rm styp inv sbyte) s = .next t ∧ s.FpDone t u d r)

/-- R187. -/
def Obligations.BlockQuantise : Prop :=
  ∀ (s : State) (u satx blk had smode : Bool) (d a b src dst rm vtype sbyte : Nat),
    let n := blockLen blk
    let x0 := fun l => (List.range n).map fun k =>
      (Fmt.ofCode src).decode s.ftz (elemOf (s.me.words l a (typeRegs n src)) (typeWidth src) k)
    let xs := fun l => if had then hadamard (x0 l) else x0 l
    let nan := fun l => (xs l).any (·.isNan)
    let byte := fun l => if nan l then (if dst = 10 then vtype * 64 else 255)
      else if smode then byteOf (s.me.reg l b) sbyte else chooseScale dst vtype (xs l)
    let rs := fun l => quantise s dst rm satx (byte l) (xs l) (s.me.lane l).sr
    let flags := fun l => if nan l then flagIV else allFlags (rs l)
    s.FpFree u (regRange a (typeRegs n src) ++ [b]) (regRange d (typeRegs n dst) ++ [b]) (if src = 0 then regRange a n else []) flags →
    ∃ t, exec (.cvtq u d a b src dst rm satx vtype blk had smode sbyte) s = .next t ∧ s.AllPassed t ∧ s.FpfAfter t u flags ∧
      s.SrAfter t u (if rm = 4 then n else 0) ∧ s.SrFrame t (regRange d (typeRegs n dst) ++ [b]) ∧
      (∀ l ∈ s.issue.lanes, let j := srcLane u s.issue.lanes l
        t.me.reg l b = setByte (s.me.reg l b) sbyte (byte j) ∧
        ∀ k < typeRegs n dst, d + k ≠ b → t.me.reg l (d + k) =
          if nan j then 0 else BitVec.ofNat 32 (packElems (typeWidth dst) ((rs j).map (·.bits)) / 2 ^ (32 * k)))

/-- R127, R137, R400. -/
def Obligations.FloatingTraps : Prop :=
  ∀ (s : State) (u : Bool) (d a b m : Nat), s.Free u [a, b] [d] → s.issue.lanes.Pairwise (· < ·) →
    let v := fun x => Fmt.f32.decode s.ftz x
    let verdict := fun l => isVerdict (s.me.reg l a) || isVerdict (s.me.reg l b)
    ∀ p ∈ ([
        (.fadd u d a b m, fun x y => Fmt.f32.sum (s.rmOf m) s.ftz false [v x, v y]),
        (.fsub u d a b m, fun x y => Fmt.f32.sum (s.rmOf m) s.ftz false [v x, (v y).flip]),
        (.fmul u d a b m, fun x y => fmulRes (s.rmOf m) s.ftz .f32 x y)] : List (Instr × (Nat → Nat → FRes))),
      let flags := fun l => (p.2 (s.me.reg l a).toNat (s.me.reg l b).toNat).flags
      ∀ l ∈ s.sources u,
        (s.vtrap = true → verdict l = true → (∀ k ∈ s.sources u, verdict k = true → l ≤ k) →
          exec p.1 s = .next (if isVerdict (s.me.reg l a) then s.raise 0x19 l (s.me.reg l a).toNat 0
            else s.raise 0x19 (l + 256) (s.me.reg l b).toNat 0)) ∧
        ((s.vtrap = true → ∀ k ∈ s.sources u, verdict k = false) → flags l &&& s.fpEnables ≠ 0 →
          (∀ k ∈ s.sources u, flags k &&& s.fpEnables ≠ 0 → l ≤ k) →
          let raised := (s.sources u).foldl (fun x l => x ||| flags l) 0
          exec p.1 s = .next ((s.modMe fun g => { g with fpf := g.fpf ||| raised }).raise 0x1A
            ((raised &&& s.fpEnables).toNat + l * 256) (s.me.reg l a).toNat 0))

/-- R192 to R195. -/
def Obligations.LaneOperations : Prop :=
  ∀ (s : State) (d a b p : Nat),
    let lanes := s.issue.lanes
    (s.Free false [a, b] [d] → ∀ q ∈ ([(0, fun _ v => (v : Int)), (1, fun l v => (l ^^^ v : Nat)), (2, fun l v => (l : Int) - v),
        (3, fun l v => (l : Int) + v)] : List (Nat × (Nat → Nat → Int))),
      Completes (.shfl d a b q.1) s fun t => s.AllPassed t ∧ ∀ l ∈ lanes,
        let src := q.2 l (s.me.reg l b).toNat
        (∀ k ∈ lanes, (k : Int) = src → k < s.me.width → t.me.reg l d = s.me.reg k a) ∧
        ((∀ k ∈ lanes, (k : Int) = src → s.me.width ≤ k) → t.me.reg l d = s.me.reg l a)) ∧
    (s.Free false [] [d] →
      (Completes (.vote d p 0) s fun t => s.AllPassed t ∧
        s.Result t false d fun _ => if ∃ l ∈ lanes, s.me.flag l p = true then 1 else 0) ∧
      (Completes (.vote d p 1) s fun t => s.AllPassed t ∧
        s.Result t false d fun _ => if ∀ l ∈ lanes, s.me.flag l p = true then 1 else 0) ∧
      (Completes (.vote d p 3) s fun t => s.AllPassed t ∧
        s.Result t false d fun _ => if ∀ l ∈ lanes, ∀ k ∈ lanes, s.me.flag l p = s.me.flag k p then 1 else 0)) ∧
    (lanes.Nodup → d + s.me.width / 32 ≤ 128 → s.Free false [] (regRange d (s.me.width / 32)) →
      Completes (.vote d p 2) s fun t => s.AllPassed t ∧ ∀ k < s.me.width / 32, s.BitsResult t false (d + k) fun _ j =>
        decide (32 * k + j ∈ lanes) && s.me.flag (32 * k + j) p) ∧
    (128 < d + s.me.width / 32 → exec (.vote d p 2) s = .next (s.reserved 3 16 0)) ∧
    (s.Free false [a] [d] →
      (Completes (.prfx d a 0) s fun t => s.AllPassed t ∧
        s.Result t false d fun l => ((lanes.filter (· ≤ l)).map (s.me.reg · a)).sum) ∧
      (Completes (.prfx d a 1) s fun t => s.AllPassed t ∧
        s.Result t false d fun l => ((lanes.filter (· < l)).map (s.me.reg · a)).sum) ∧
      ∀ q ∈ ([(0, fun x y => x + y), (1, fun x y => if x.sle y then x else y), (2, fun x y => if x.sle y then y else x),
          (3, fun x y => if x.ule y then x else y), (4, fun x y => if x.ule y then y else x), (5, fun x y => x &&& y),
          (6, fun x y => x ||| y), (7, fun x y => x ^^^ y)] : List (Nat × (Word → Word → Word))),
        Completes (.rduc d a q.1) s fun t => s.AllPassed t ∧
          s.Result t false d fun _ => (lanes.drop 1).foldl (fun x k => q.2 x (s.me.reg k a)) (s.me.reg (lanes.headD 0) a)) ∧
    ∀ q ∈ ([(.prfx d a 2, fun l => laneSum s a (lanes.filter (· ≤ l))), (.prfx d a 3, fun l => laneSum s a (lanes.filter (· < l))),
        (.rduc d a 8, fun _ => laneSum s a lanes), (.rduc d a 9, fun _ => laneMinMax s false a lanes),
        (.rduc d a 10, fun _ => laneMinMax s true a lanes)] : List (Instr × (Nat → FRes))),
      s.FpFree false [a] [d] [a] (fun l => (q.2 l).flags) → Completes q.1 s fun t => s.FpDone t false d q.2

/-- R19, R163: what a register instruction leaves unchanged. -/
def Obligations.RegisterFrame : Prop :=
  ∀ (s : State) (u : Bool) (d a b m i x pos len cf : Nat) (sgn inv : Bool), s.Untraced →
    (∀ p ∈ ([(.shfl d a b m, [a, b]), (.vote d i 0, []), (.vote d i 1, []), (.vote d i 3, []), (.prfx d a 0, [a]), (.prfx d a 1, [a]),
        (.rduc d a 0, [a]), (.rduc d a 1, [a]), (.rduc d a 2, [a]), (.rduc d a 3, [a]), (.rduc d a 4, [a]), (.rduc d a 5, [a]),
        (.rduc d a 6, [a]), (.rduc d a 7, [a])] : List (Instr × List Nat)),
      s.Free false p.2 [d] → Completes p.1 s fun t => s.OnlyGroup t ∧ s.me.OnlyRegs t.me s.issue.lanes [d]) ∧
    ∀ p ∈ ([
        (.iadd u d a b, [a, b], [d]), (.isub u d a b, [a, b], [d]), (.iaddi u d a i, [a], [d]), (.imul u d a b, [a, b], [d]),
        (.imulh u d a b m, [a, b], [d]), (.imad u d a b 0, [a, b, d], [d]), (.imad u d a b 1, [a, b, d, d + 1], [d, d + 1]),
        (.imad u d a b 2, [a, b, d, d + 1], [d, d + 1]), (.imin u d a b m, [a, b], [d]), (.imax u d a b m, [a, b], [d]),
        (.iabs u d a m, [a], [d]), (.iadds u d a b m, [a, b], [d]), (.iadd64 u d a b, [a, a + 1, b, b + 1], [d, d + 1]),
        (.isub64 u d a b, [a, a + 1, b, b + 1], [d, d + 1]), (.ixadd u d a b m, [a, b], [d]), (.and u d a b, [a, b], [d]),
        (.or u d a b, [a, b], [d]), (.xor u d a b, [a, b], [d]), (.andn u d a b, [a, b], [d]), (.andi u d a i, [a], [d]),
        (.ori u d a i, [a], [d]), (.xori u d a i, [a], [d]), (.shl u d a b, [a, b], [d]), (.shr u d a b, [a, b], [d]),
        (.sar u d a b, [a, b], [d]), (.shli u d a i, [a], [d]), (.shri u d a i, [a], [d]), (.sari u d a i, [a], [d]),
        (.popc u d a, [a], [d]), (.clz u d a, [a], [d]), (.brev u d a, [a], [d]), (.bfe u d a b 0 pos len sgn, [a], [d]),
        (.bfe u d a b 1 pos len sgn, [a, b], [d]), (.bfi u d a b 0 pos len, [a, d], [d]), (.bfi u d a b 1 pos len, [a, b, d], [d]),
        (.mov u d a 0, [a], [d]), (.mov u d a 1, [a, a + 1], [d, d + 1]), (.li u d m i, [], [d]), (.lix u d 0 i x, [], [d]),
        (.lix u d 1 i x, [], [d, d + 1]), (.sel u d a b 0 cf inv, [a, b], [d]),
        (.sel u d a b 1 cf inv, [a, a + 1, b, b + 1], [d, d + 1]), (.movs u d i, [], [d]), (.movsw u d i, [], [d, d + 1]),
        (.fcps u d a b m, [a, b], [d]), (.vclass u d a, [a], [d]), (.vzero u d a m, [a], [d]), (.vfill u d a b, [a, b], [d]),
        (.hget u d i, [], [d]), (.hlen u d i, [], [d, d + 1])] : List (Instr × List Nat × List Nat)),
      s.Free u p.2.1 p.2.2 → Completes p.1 s fun t => s.OnlyGroup t ∧ s.me.OnlyRegs t.me s.issue.lanes p.2.2

/-- R28, R393. -/
def Obligations.UnallocatedRegister : Prop :=
  ∀ (s : State) (u : Bool) (d a b m i h r : Nat), s.Issuing →
    ∀ p ∈ ([
        (.iadd u d a b, [a, b, d]), (.imad u d a b 0, [a, b, d, d]), (.iadd64 u d a b, [a, a + 1, b, b + 1, d, d + 1]),
        (.icmp u 0 0 a b 0, [a, b]), (.fadd u d a b m, [a, b, d]), (.shfl d a b m, [a, b, d]), (.ldw u d a h i, [a, d]),
        (.stq u d a h i, [a, d, d + 1, d + 2, d + 3]), (.aadd d a h i b false 0, [a, b, d])] : List (Instr × List Nat)),
      r ∈ p.2 → 16 * s.me.blocks ≤ r → (∀ q ∈ p.2, 16 * s.me.blocks ≤ q → r ≤ q) →
      exec p.1 s = .next (s.raise 0x05 (r + s.me.blocks * 256) 0 0)

/-- R4, R61, R63, R90, R325. -/
def Obligations.LaneReads : Prop :=
  ∀ (s : State) (n : Nat) (o : Nat × Nat),
    (∀ c p, s.myAb o.2 n = some (c, p) → s.claimed (s.meLane o.1) (abSpace c) p n = false →
      s.readLane 12 n o = (s, .value (leNat (Mem.bytes (s.core c).ab p n)))) ∧
    (∀ p, s.myWb o.2 n = some p → s.claimed (s.meLane o.1) (wbSpace s.issue.core) p n = false →
      s.readLane 13 n o = (s, .value (leNat (Mem.bytes (s.core s.issue.core).wb p n)))) ∧
    ∀ h pa, s.Calm → s.HeapAt h o.2 n pa → s.readLane h n o = (s, .value (leNat (Mem.bytes s.mem pa n)))

/-- R30, R202, R204. -/
def Obligations.Loads : Prop :=
  (∀ (s : State) (u : Bool) (d a h i : Nat) (v : Nat → Nat), s.badPa = none →
    ∀ p ∈ ([
        (.ldb u d a h i, 1, [d], fun x => x), (.ldbs u d a h i, 1, [d], fun x => ((BitVec.ofNat 8 x).signExtend 32).toNat),
        (.ldh u d a h i, 2, [d], fun x => x), (.ldhs u d a h i, 2, [d], fun x => ((BitVec.ofNat 16 x).signExtend 32).toNat),
        (.ldw u d a h i, 4, [d], fun x => x), (.ldd u d a h i, 8, [d, d + 1], fun x => x),
        (.ldq u d a h i, 16, [d, d + 1, d + 2, d + 3], fun x => x)] : List (Instr × Nat × List Nat × (Nat → Nat))),
      s.AccessFree u [a] p.2.2.1 → s.ReadsNow u a h i p.2.1 v →
      Completes p.1 s fun t => s.AllPassed t ∧ s.WordsResult t u d p.2.2.1.length (fun l => p.2.2.2 (v l)) ∧
        (∀ l r, r < 128 → ¬(l ∈ s.issue.lanes ∧ r ∈ p.2.2.1) → t.me.reg l r = s.me.reg l r) ∧
        (s.Untraced → t.mem = s.mem ∧ t.cfg = s.cfg ∧ ∀ c, (t.core c).ab = (s.core c).ab ∧ (t.core c).wb = (s.core c).wb) ∧
        (h < 12 → ∀ l ∈ s.issue.lanes, l < s.me.lanes.length → (t.me.lane l).wait = .op s.opSeq .load)) ∧
  ∀ (s : State) (u : Bool) (a h i : Nat), s.AccessFree u [a] [] → s.Untraced →
    Completes (.pfch u a h i) s fun t => s.AllPassed t ∧ s.OnlyGroup t ∧ s.me.OnlyRegs t.me s.issue.lanes []

/-- R90, R203. -/
def Obligations.Stores : Prop :=
  ∀ (s : State) (u : Bool) (d a h i : Nat) (ps : List (Option Nat × Nat)), s.Calm → s.Untraced →
    ∀ p ∈ ([
        (.stb u d a h i, 1, [d]), (.sth u d a h i, 2, [d]), (.stw u d a h i, 4, [d]), (.std u d a h i, 8, [d, d + 1]),
        (.stq u d a h i, 16, [d, d + 1, d + 2, d + 3])] : List (Instr × Nat × List Nat)),
      let n := p.2.1
      let offs := s.offsets u a i n
      let data := fun l => leBytes (s.me.words l d p.2.2.length) n
      let clear := if h < 12 then s.storeClears h n offs else s.abClears n offs
      let at_ := fun space => (offs.zip ps).filter (·.2.1 = space)
      s.AccessFree u (a :: p.2.2) [] → s.accessFault h n 0 [.write] true offs = none →
      s.remoteRank h ((offs.map (·.2)).headD 0) = none → s.StoresTo h s.opSeq clear data offs ps →
      Completes p.1 s fun t => s.AllPassed t ∧
        t.mem = storedIn none data s.mem (offs.zip ps) ∧
        (∀ c, (t.core c).ab = storedIn (some c) data (s.core c).ab (offs.zip ps)) ∧
        (∀ x, (∀ q ∈ at_ none, x < q.2.2 ∨ q.2.2 + n ≤ x) → Mem.get t.mem x = Mem.get s.mem x) ∧
        (∀ c x, (∀ q ∈ at_ (some c), x < q.2.2 ∨ q.2.2 + n ≤ x) → Mem.get (t.core c).ab x = Mem.get (s.core c).ab x) ∧
        (∀ l r, t.me.reg l r = s.me.reg l r) ∧ ∀ k, s.setB = some k → t.flagSet s.issue.core s.issue.agent k = true

/-- R199, R389, R415. -/
def Obligations.AccessFaults : Prop :=
  ∀ (s : State) (u : Bool) (d a h i n : Nat) (f : AccFault),
    (∀ p ∈ ([(.ldb u d a h i, 1, [d]), (.ldbs u d a h i, 1, [d]), (.ldh u d a h i, 2, [d]), (.ldhs u d a h i, 2, [d]),
        (.ldw u d a h i, 4, [d]), (.ldd u d a h i, 8, [d, d + 1]), (.ldq u d a h i, 16, [d, d + 1, d + 2, d + 3])] :
          List (Instr × Nat × List Nat)),
      s.AccessFree u [a] p.2.2 → s.accessFault h p.2.1 0 [.read] false (s.offsets u a i p.2.1) = some f →
      exec p.1 s = .next (s.raise f.1 f.2.1 f.2.2.1 f.2.2.2)) ∧
    (∀ p ∈ ([(.stb u d a h i, 1, [d]), (.sth u d a h i, 2, [d]), (.stw u d a h i, 4, [d]), (.std u d a h i, 8, [d, d + 1]),
        (.stq u d a h i, 16, [d, d + 1, d + 2, d + 3])] : List (Instr × Nat × List Nat)),
      s.AccessFree u (a :: p.2.2) [] → s.accessFault h p.2.1 0 [.write] true (s.offsets u a i p.2.1) = some f →
      exec p.1 s = .next (s.raise f.1 f.2.1 f.2.2.1 f.2.2.2)) ∧
    ∀ (k : Nat) (rights : List Right) (w : Bool) (offs : List (Nat × Nat)), s.misaligned h k offs = none →
      (∀ o c, offs = [o] → h < 12 → s.resolve s.actor (s.slotHandle h) o.2 n rights none = .error c →
        s.accessFault h n k rights w offs = some (checkCode c, o.1 + c * 256, o.2, s.slotHandle h)) ∧
      ∀ o, offs = [o] → h = 12 → s.myAb o.2 n = none → s.accessFault h n k rights w offs = some (0x11, o.1 + 1024, o.2, 0)

/-- R205 to R209. -/
def Obligations.Atomics : Prop :=
  ∀ (s : State) (nr : Bool) (d a h i src cmp ty : Nat), s.Calm → s.Untraced →
    ∀ p ∈ ([
        (.aadd d a h i src nr ty, 0, some src, none), (.ainc d a h i src nr ty, 1, some src, none),
        (.adec d a h i nr ty, 2, none, none), (.amin d a h i src nr ty, 3, some src, none),
        (.amax d a h i src nr ty, 4, some src, none), (.aand d a h i src nr ty, 5, some src, none),
        (.aor d a h i src nr ty, 6, some src, none), (.axor d a h i src nr ty, 7, some src, none),
        (.aswp d a h i src nr ty, 8, some src, none), (.acas d a h i src cmp nr ty, 9, some src, some cmp)] :
          List (Instr × Nat × Option Nat × Option Nat)),
      let n := atomBytes ty
      let offs := s.offsets true a i n
      let o := offs.headD (0, 0)
      let regs := fun (r : Option Nat) => (r.map (operandRegs · n)).getD []
      let xs := s.atomArgs n p.2.2.1 p.2.2.2
      s.AccessFree false (a :: (regs p.2.2.1 ++ regs p.2.2.2)) (if nr then [] else operandRegs d n) →
      s.nonuniform h a i n = none → s.accessFault h n (if n = 8 then 3 else 2) [.atomic] true offs = none →
      (∀ c q, h = 12 → s.myAb o.2 n = some (c, q) → (s.core c).poisonAb = [] →
        let m := leNat (Mem.bytes (s.core c).ab q n)
        Completes p.1 s fun t => s.AllPassed t ∧ t.mem = s.mem ∧
          (∀ e, (t.core e).ab = if e = c then Mem.setBytes (s.core c).ab q (leBytes (atomFinal p.2.1 ty m xs) n) else (s.core e).ab) ∧
          (nr = true → ∀ l r, t.me.reg l r = s.me.reg l r) ∧
          (nr = false → ∀ l r, r < 128 → ¬(l ∈ s.issue.lanes ∧ r ∈ operandRegs d n) → t.me.reg l r = s.me.reg l r) ∧
          (nr = false → s.issue.lanes.Nodup → ∀ x ∈ atomOlds p.2.1 ty m xs, ∀ k < n / 4,
            t.me.reg x.1 (d + k) = BitVec.ofNat 32 (x.2 / 2 ^ (32 * k)))) ∧
      ∀ pa, s.HeapAt h o.2 n pa → s.remoteRank h o.2 = none →
        let m := leNat (Mem.bytes s.mem pa n)
        Completes p.1 s fun t => s.AllPassed t ∧
          t.mem = Mem.setBytes s.mem pa (leBytes (atomFinal p.2.1 ty m xs) n) ∧
          (nr = true → ∀ l r, t.me.reg l r = s.me.reg l r) ∧
          (nr = false → ∀ l r, r < 128 → ¬(l ∈ s.issue.lanes ∧ r ∈ operandRegs d n) → t.me.reg l r = s.me.reg l r) ∧
          (nr = false → s.issue.lanes.Nodup → ∀ x ∈ atomOlds p.2.1 ty m xs, ∀ k < n / 4,
            t.me.reg x.1 (d + k) = BitVec.ofNat 32 (x.2 / 2 ^ (32 * k)))

/-- R71, R210. -/
def Obligations.UpdatePairs : Prop :=
  ∀ (s : State) (u : Bool) (d a h i : Nat),
    (∀ p ∈ ([(.upd u d a h i, 4), (.updd u d a h i, 8)] : List (Instr × Nat)),
      let n := p.2
      let offs := s.offsets u a i n
      let out := s.pairLanes u h n s.opSeq (fun l => s.me.words l d (n / 4)) offs
      s.AccessFree u (a :: operandRegs d n) [] → s.misaligned h (if n = 8 then 3 else 2) offs = none →
      s.globalFault h n [.update] offs = none → s.bindFault h n offs = none → s.cascadeFault h n offs = none →
      s.remoteRank h ((offs.map (·.2)).headD 0) = none → out.1.badPa = none →
      exec p.1 s = .next (out.1.putEnd s.opSeq (out.1.forLanes u out.2) out.1.setB)) ∧
    ∀ (n id val pa : Nat) (ls : List Nat) (o : Nat × Nat) (r : Ref) (b : Binding), h < 12 →
      s.resolve s.actor (s.slotHandle h) o.2 n [] none = .ok r → s.HeapRef r n pa → s.binding? r.vi r.index = some b →
      s.claims = [] → s.hbmDown = [] → (∀ k ∈ s.cores, k.2.sideLog = []) → s.spillFull (binderyOf pa) r.vi = false →
      s.pairLane h n id ls o val =
        (s.emit ⟨pa, val, b.opc, s.myDepth, b.vi, b.index, b.eager, s.issue.core, s.issue.agent, ls, .flight, s.clk⟩, .done)

/-- R211, R212. -/
def Obligations.FlushAndApply : Prop :=
  ∀ (s : State) (u : Bool) (a h i : Nat),
    (s.AccessFree u [] [] →
      let c := s.issue.core
      let ls := s.issue.lanes
      let f := s.flushFar
      let idle := f.lanePairs c s.issue.agent ls = [] ∧ f.loggedPairs c s.issue.agent ls = false ∧
        f.remotePairs c s.issue.agent ls f.opSeq = false
      ((∀ l ∈ ls, (s.me.lane l).farPairs = []) → f.ops = s.ops ∧ f.pairs = s.pairs ∧ f.opSeq = s.opSeq) ∧
      (idle → Completes (.uflush u) s fun t => s.AllPassed t ∧ t.ops = f.ops) ∧
      (¬idle → Completes (.uflush u) s fun t => s.AllPassed t ∧
        t.ops = f.ops ++ [⟨f.opSeq, c, s.issue.agent, ls, .uflush, s.setB, none, s.clk, false, s.issue.pc, s.issueRwc, s.opTeam⟩] ∧
        ∀ l ∈ ls, l < s.me.lanes.length → f.opSeq ∈ (t.me.lane l).flushing)) ∧
    ∀ pa : Nat → Nat,
      let offs := s.offsets u a i 4096
      s.AccessFree u [a] [] → s.uapplyFault h offs = none → s.remoteRank h ((offs.map (·.2)).headD 0) = none →
      (∀ o ∈ offs, s.HeapAt h o.2 1 (pa o.1)) → s.badPa = none →
      let fs := ((offs.map fun o => pa o.1 / 4096).foldr addTo []).filter fun f => s.folioPairs f != [] || s.loggedOn [f] s.opSeq
      (fs = [] → Completes (.uapply u a h i) s fun t => s.AllPassed t ∧ t.ops = s.ops) ∧
      (fs ≠ [] → Completes (.uapply u a h i) s fun t => s.AllPassed t ∧
        t.ops = s.ops ++ [⟨s.opSeq, s.issue.core, s.issue.agent, s.issue.lanes, .uapply fs, s.setB, none, s.clk, false, s.issue.pc,
          s.issueRwc, s.opTeam⟩] ∧
        ∀ l ∈ s.issue.lanes, l < s.me.lanes.length → s.opSeq ∈ (t.me.lane l).flushing)

/-- R105, R106, R213, R215. -/
def Obligations.WaitsAndFences : Prop :=
  ∀ (s : State) (u : Bool) (d a h i cmp k ty m pa : Nat),
    (s.Free u [] [] →
      (s.fenceWaits s.issue.core s.issue.agent s.issue.lanes m s.opSeq = false → exec (.fence u m) s = .next s.retire) ∧
      (s.fenceWaits s.issue.core s.issue.agent s.issue.lanes m s.opSeq = true →
        Completes (.fence u m) s fun t => s.AllPassed t ∧
          t.ops = s.ops ++ [⟨s.opSeq, s.issue.core, s.issue.agent, s.issue.lanes, .fence m, s.setB, none, s.clk, false, s.issue.pc,
            s.issueRwc, s.opTeam⟩] ∧
          (m = 2 → ∀ l ∈ s.issue.lanes, l < s.me.lanes.length → (t.me.lane l).wait = .op s.opSeq .fence))) ∧
    (
      let n := if ty < 2 then 4 else 8
      let offs := s.offsets u a i n
      let o := offs.headD (0, 0)
      let value := leNat (Mem.bytes s.mem pa n)
      let holds := intRel k (typedInt ty value) (typedInt ty (s.me.words o.1 cmp (n / 4)))
      s.AccessFree u (a :: operandRegs cmp n) (operandRegs d n) → s.Calm → u = true ∨ s.issue.lanes = [o.1] →
      s.accessFault h n (if n = 8 then 3 else 2) [.read] false offs = none → s.remoteRank h o.2 = none → s.HeapAt h o.2 n pa →
      Completes (.waitc u d a h i cmp k ty) s fun t => s.AllPassed t ∧
        (∀ l ∈ s.issue.lanes, l < s.me.lanes.length → (t.me.lane l).wait = .op s.opSeq (.waitc (s.slotHandle h) o.2)) ∧
        (holds = true → ∀ l ∈ s.issue.lanes, ∀ j < n / 4, t.me.reg l (d + j) = BitVec.ofNat 32 (value / 2 ^ (32 * j))) ∧
        (holds = false → (∀ l r, t.me.reg l r = s.me.reg l r) ∧ ∃ p ∈ t.ops, p.id = s.opSeq ∧ p.lanes = s.issue.lanes ∧
          ∃ c, p.kind = .waitc d c (decide (s.armedAt c.slice < 512)) ∧ c.pa = pa ∧ c.rel = k ∧ c.ty = ty))

/-- R216, R217. -/
def Obligations.Mailboxes : Prop :=
  ∀ (s : State) (u : Bool) (d a b mbox : Nat),
    let l0 := s.issue.lanes.headD 0
    let words := fun l => (List.range 16).map fun j => s.me.reg l (a + j)
    let c := s.issue.core
    (s.AccessFree u (b :: (List.range 16).map (a + ·)) [d] → u = true ∨ s.issue.lanes = [l0] →
      let v := (s.me.reg l0 b).toNat
      let full := 4 ≤ (s.core (s.coreOf v)).mboxCount mbox
      Completes (.mbsend u d a b mbox) s fun t => s.AllPassed t ∧
        (s.Result t true d fun _ => if 128 ≤ v then 2 else if full then 0 else 1) ∧
        (t.core (s.coreOf v)).mboxFly = (if 128 ≤ v ∨ full then (s.core (s.coreOf v)).mboxFly
          else (s.core (s.coreOf v)).mboxFly ++ [(mbox, words l0)])) ∧
    (s.AccessFree u [] ((List.range 16).map (d + ·)) → u = true ∨ s.issue.lanes = [l0] →
      (∀ k msg, (s.core c).mbox.findIdx? (·.1 == mbox) = some k → (s.core c).mbox[k]? = some (mbox, msg) →
        Completes (.mbrecv u d mbox) s fun t => s.AllPassed t ∧
          (∀ l ∈ s.issue.lanes, ∀ j < 16, t.me.reg l (d + j) = (msg[j]?).getD 0) ∧ (t.core c).mbox = (s.core c).mbox.eraseIdx k) ∧
      ((s.core c).mbox.findIdx? (·.1 == mbox) = none → Completes (.mbrecv u d mbox) s fun t => s.AllPassed t ∧
        ∀ l ∈ s.issue.lanes, l < s.me.lanes.length → (t.me.lane l).wait = .op s.opSeq .mbrecv)) ∧
    (s.AccessFree u [] (a :: (List.range 16).map (d + ·)) → u = true ∨ s.issue.lanes = [l0] →
      (∀ k msg, (s.core c).mbox.findIdx? (·.1 == mbox) = some k → (s.core c).mbox[k]? = some (mbox, msg) →
        Completes (.mbpoll u d a mbox) s fun t => s.AllPassed t ∧ (s.Result t u a fun _ => 1) ∧
          (∀ l ∈ s.issue.lanes, ∀ j < 16, d + j ≠ a → t.me.reg l (d + j) = (msg[j]?).getD 0) ∧
          (t.core c).mbox = (s.core c).mbox.eraseIdx k) ∧
      ((s.core c).mbox.findIdx? (·.1 == mbox) = none → Completes (.mbpoll u d a mbox) s fun t => s.AllPassed t ∧ (s.Result t u a fun _ => 0) ∧
        ∀ l r, r < 128 → r ≠ a → t.me.reg l r = s.me.reg l r))

/-- R218 to R222. -/
def Obligations.BarrierObjects : Prop :=
  ∀ (s : State) (u : Bool) (d a h i c p : Nat), s.Calm →
    let offs := s.offsets u a i 32
    let l0 := (offs.headD (0, 0)).1
    let w := fun j => s.boWord c p j
    let r := fun j => (s.me.reg l0 (d + j)).toNat
    let done := w 2 ≤ w 0 ∧ w 3 ≤ w 1 ∧ w 6 ≤ w 5
    u = true ∨ s.issue.lanes = [l0] → s.accessFault h 32 5 [] false offs = none →
    s.myAb (offs.headD (0, 0)).2 32 = some (c, p) →
    let kept := fun (t : State) => (∀ l r, t.me.reg l r = s.me.reg l r) ∧ (s.Untraced → t.mem = s.mem) ∧
      ∀ e x, (e ≠ c ∨ x < p ∨ p + 32 ≤ x) → Mem.get (t.core e).ab x = Mem.get (s.core e).ab x
    (s.AccessFree u (a :: [d, d + 1, d + 2]) [] → Completes (.boinit u d a h i) s fun t => s.AllPassed t ∧ kept t ∧
      (List.range 8).map (t.boWord c p) = [0, 0, r 0, r 1, 0, 0, r 2, (w 7 + 1) % 2 ^ 32]) ∧
    (s.AccessFree u (a :: [d]) [] → Completes (.boarr u d a h i) s fun t => s.AllPassed t ∧ kept t ∧
      (List.range 8).map (t.boWord c p) =
        [min (w 0 + r 0) 0xFFFFFFFF, w 1, w 2, w 3, w 4, min (w 5 + 1) 0xFFFFFFFF, w 6, w 7]) ∧
    (s.AccessFree u [a] [d] →
      (Completes (.botst u d a h i) s fun t => s.AllPassed t ∧ s.Result t u d fun _ => if done then 1 else 0) ∧
      (done → Completes (.bowait u d a h i) s fun t => s.AllPassed t ∧ s.Result t u d fun _ => BitVec.ofNat 32 (w 4)) ∧
      (¬done → Completes (.bowait u d a h i) s fun t => s.AllPassed t ∧ (∀ l x, t.me.reg l x = s.me.reg l x) ∧
        ∀ l ∈ s.issue.lanes, l < s.me.lanes.length → (t.me.lane l).wait = .op s.opSeq .bowait))

/-- R223 to R228. -/
def Obligations.Watches : Prop :=
  ∀ (s : State) (u susp : Bool) (d a h i : Nat) (r : Ref),
    let o := (s.offsets true a i 64).headD (0, 0)
    s.accessFault h 64 6 [.read] false (s.offsets true a i 64) = none →
    s.resolve s.actor (s.slotHandle h) o.2 64 [.read] none = .ok r → r.remote = none → s.badPa = none →
    (s.AccessFree true [a] [d] →
      (∀ desc w st x t3, s.readAt s.actor (s.meLane o.1) r 64 0 = (s, .value desc) →
        descBad desc (match s.resolve s.actor (fld desc 0 32) 0 0 [] none with | .ok b => some b.bufLen | .error _ => none) = none →
        s.watchBuffers s.actor desc o.1 = .ok (w, st) → (st.remote = none → s.prepare st 32 = s ∧ s.missing st.space st.va 32 = none) →
        s.makeWatch (s.slotHandle h) r w st desc susp.toNat = (t3, x) → t3.badPa = none →
        exec (.watch u d a h i susp) s = .next (t3.giveAll [(d, BitVec.ofNat 32 x)]).retire) ∧
      (s.watchAt r = none → ∀ j ∈ ([.wdrop u d a h i, .wresume u d a h i] : List Instr),
        Completes j s fun t => s.AllPassed t ∧ s.Result t true d fun _ => 0xFFFFFFFF) ∧
      ∀ w, s.watchAt r = some w →
        (
          let n := (s.trigs.filter (·.watch == w.id)).length
          let t := ((s.dropWatch w).giveAll [(d, BitVec.ofNat 32 n)]).retire
          t.badPa = none → exec (.wdrop u d a h i) s = .next t) ∧
        (
          let t := ((s.resumeWatch w s.myDepth).giveAll [(d, BitVec.ofNat 32 (s.statusWord w))]).retire
          s.statusReady w = true → t.badPa = none → exec (.wresume u d a h i) s = .next t) ∧
        (
          let t := (s.statusAsk w).hold s.issue.lanes .line
          s.statusReady w = false → t.badPa = none → exec (.wresume u d a h i) s = .next t)) ∧
    (s.AccessFree true [a] [d, d + 1, d + 2, d + 3] →
      (s.watchAt r = none → Completes (.wstat u d a h i) s fun t => s.AllPassed t ∧
        ∀ j < 4, s.Result t true (d + j) fun _ => 0xFFFFFFFF) ∧
      ∀ w, s.watchAt r = some w →
        (s.statusReady w = true → Completes (.wstat u d a h i) s fun t => s.AllPassed t ∧
          (s.Result t true d fun _ => BitVec.ofNat 32 (s.statusWord w)) ∧
          (s.Result t true (d + 1) fun _ => BitVec.ofNat 32 (s.waiting w.id false)) ∧
          (s.Result t true (d + 2) fun _ => BitVec.ofNat 32 (s.waiting w.id true)) ∧
          s.Result t true (d + 3) fun _ => BitVec.ofNat 32 (if w.ring then 0 else w.live)) ∧
        let t := (s.statusAsk w).hold s.issue.lanes .line
        s.statusReady w = false → t.badPa = none → exec (.wstat u d a h i) s = .next t)

/-- R229 to R232. -/
def Obligations.HandleSlotsAndBindings : Prop :=
  (∀ (s : State) (u : Bool) (d a k : Nat),
    (s.Free true [a] [] → Completes (.hset u a k) s fun t => s.AllPassed t ∧
      (∀ x, Mem.get t.me.slots x = if x = k then s.me.reg (s.issue.lanes.headD 0) a else Mem.get s.me.slots x) ∧
      ∀ l r, t.me.reg l r = s.me.reg l r) ∧
    (s.Free u [] [d] → Completes (.hget u d k) s fun t => s.AllPassed t ∧ s.Result t u d fun _ => Mem.get s.me.slots k) ∧
    (s.Free u [] [d, d + 1] → Completes (.hlen u d k) s fun t => s.AllPassed t ∧ s.WordsResult t u d 2 fun _ =>
      match s.resolve s.actor (Mem.get s.me.slots k).toNat 0 0 [] none with
      | .ok r => r.bufLen
      | .error _ => 0)) ∧
  ∀ (s : State) (u eager : Bool) (h opc : Nat) (r : Ref), s.AccessFree u [] [] → s.bindRights h = none →
    s.resolve s.actor (s.slotHandle h) 0 1 [] none = .ok r → r.remote = none → s.badPa = none →
    (∀ p ∈ s.pairs, ¬(p.vi = r.vi ∧ p.index = r.index)) → s.loggedOf r.vi r.index = false →
    (Completes (.bind u h opc eager) s fun t => s.AllPassed t ∧ t.binding? r.vi r.index = some ⟨r.vi, r.index, opc, eager⟩ ∧
      (∀ v x, (v, x) ≠ (r.vi, r.index) → t.binding? v x = s.binding? v x) ∧
      ∀ l ∈ s.issue.lanes, l < s.me.lanes.length → (t.me.lane l).wait = .op s.opSeq .bind) ∧
    (s.binding? r.vi r.index = none → exec (.unbind u h) s = .next s.retire) ∧
    (s.binding? r.vi r.index ≠ none → Completes (.unbind u h) s fun t => s.AllPassed t ∧ t.binding? r.vi r.index = none ∧
      (∀ v x, (v, x) ≠ (r.vi, r.index) → t.binding? v x = s.binding? v x) ∧
      ∀ l ∈ s.issue.lanes, l < s.me.lanes.length → (t.me.lane l).wait = .op s.opSeq .bind)

/-- R242, R245, R252, R254 to R258; what MSTAT gives a control thread is the choice of log 22. -/
def Obligations.RecordsAndAccumulators : Prop :=
  (∀ (s : State) (d a : Nat),
    let c := s.issue.core
    let first := s.records.1
    (s.AccessFree true (regRange a 16) [] →
      (d < s.records.2 → Completes (.orset d a) s fun t => s.AllPassed t ∧ (∀ l r, t.me.reg l r = s.me.reg l r) ∧
        ∀ x, Mem.get (t.core c).recs x = if 16 * (first + d) ≤ x ∧ x < 16 * (first + d) + 16
          then s.me.reg (s.issue.lanes.headD 0) (a + (x - 16 * (first + d))) else Mem.get (s.core c).recs x) ∧
      (s.records.2 ≤ d → exec (.orset d a) s = .next (s.raise 0x14 (3 + 0x1FF * 65536) d 0))) ∧
    (s.AccessFree false [] (regRange d 16) →
      (a < s.records.2 → Completes (.orget d a) s fun t => s.AllPassed t ∧
        ∀ l ∈ s.issue.lanes, ∀ j < 16, t.me.reg l (d + j) = Mem.get (s.core c).recs (16 * (first + a) + j)) ∧
      (s.records.2 ≤ a → exec (.orget d a) s = .next (s.raise 0x14 (3 + 0x1FF * 65536) a 0)))) ∧
  ∀ (s : State) (d a b q t row0 col0 nreg m : Nat),
    let c := s.issue.core
    let tile := s.acsTiles.1 + t
    let lanes := s.issue.lanes
    (lowestFailure (s.fieldChecks (.accz d q t)) = none → s.AccessFree false [] [] → s.EngineFree tile (d + 1) →
      Completes (.accz d q t) s fun u => s.AllPassed u ∧ ∀ x, Mem.get (u.core c).acs x =
        if 8192 * tile ≤ x ∧ x < 8192 * (tile + d + 1) ∧ bit q (x / 64 % 128 / 32) = true then 0 else Mem.get (s.core c).acs x) ∧
    (lowestFailure (s.fieldChecks (.accrd d t row0 col0 nreg)) = none → s.AccessFree false [] (regRange d (nreg + 1)) →
      s.EngineFree tile 1 → (s.core c).poisonAcs = [] →
      Completes (.accrd d t row0 col0 nreg) s fun u => s.AllPassed u ∧ ∀ l ∈ lanes, ∀ j ≤ nreg,
        u.me.reg l (d + j) = Mem.get (s.core c).acs (acsElem tile (row0 + l) (col0 + j))) ∧
    (lowestFailure (s.fieldChecks (.accwr d t row0 col0 nreg)) = none → s.AccessFree false (regRange d (nreg + 1)) [] →
      s.EngineFree tile 1 → lanes.Nodup → col0 + nreg < 64 →
      Completes (.accwr d t row0 col0 nreg) s fun u => s.AllPassed u ∧
        (∀ l ∈ lanes, ∀ j ≤ nreg, Mem.get (u.core c).acs (acsElem tile (row0 + l) (col0 + j)) = s.me.reg l (d + j)) ∧
        ∀ x, (∀ l ∈ lanes, ∀ j ≤ nreg, x ≠ acsElem tile (row0 + l) (col0 + j)) → Mem.get (u.core c).acs x = Mem.get (s.core c).acs x) ∧
    (lowestFailure (s.fieldChecks (.mthr d a b m)) = none → s.AccessFree false (if m = 1 then [a, a + 1] else [a]) [] →
      s.EngineFree (s.acsTiles.1 + 2 * d) 2 → lanes.Nodup → b + s.topLane ≤ 127 →
      let pair := (s.acsTiles.1 + 2 * d) / 2
      Completes (.mthr d a b m) s fun u => s.AllPassed u ∧ ∀ l ∈ lanes,
        (m = 1 → (u.core c).threshold pair (b + l) = s.me.reg l a ∧
          (u.core c).steps pair (b + l) = (s.me.reg l (a + 1)).toNat % 65536) ∧
        (m ≠ 1 → (u.core c).threshold pair (b + l) =
          let x := Fmt.f32.decode false (s.me.reg l a).toNat
          let y := Fmt.f32.decode false ((s.core c).threshold pair (b + l)).toNat
          if x.isNan = false ∧ y.isNan = false ∧ y.lt x = true then s.me.reg l a else (s.core c).threshold pair (b + l))) ∧
    (lowestFailure (s.fieldChecks (.mvst d a b m)) = none → s.AccessFree false [] [d, d + 1] → s.EngineFree (s.acsTiles.1 + 2 * a) 2 →
      let p := s.acsTiles.1 + 2 * a
      Completes (.mvst d a b m) s fun u => s.AllPassed u ∧
        (m = 1 → (s.Result u false d fun l => (s.core c).threshold (p / 2) (b + l)) ∧
          s.Result u false (d + 1) fun l => BitVec.ofNat 32 ((s.core c).steps (p / 2) (b + l))) ∧
        (m ≠ 1 → ∀ k < 2, s.BitsResult u false (d + k) fun l j => (Mem.get (s.core c).acs (acsElem (p + 1) (b + l) (32 * k + j))).msb)) ∧
    (s.Free false [] [d, d + 1] →
      (∀ x, s.myTeam? = some x → Completes (.mstat d m) s fun u => s.AllPassed u ∧ s.PairResult u false d fun _ => Mem.get x.stats m) ∧
      (s.myTeam? = none → Completes (.mstat d m) s fun u => s.AllPassed u ∧
        (s.Result u false d fun _ => Config.freeWord s.freeCtr) ∧ s.Result u false (d + 1) fun _ => Config.freeWord (s.freeCtr + 1))) ∧
    (s.Free false [] [] →
      (s.msyncIds (m == 1) = [] → exec (.msync m) s = .next s.retire) ∧
      (s.msyncIds (m == 1) ≠ [] → Completes (.msync m) s fun u => s.AllPassed u ∧
        ∀ l ∈ lanes, l < s.me.lanes.length → (u.me.lane l).wait = .op s.opSeq .msync))

/-- R244, R246 to R248, R251. -/
def Obligations.MatrixSteps : Prop :=
  ∀ (s : State) (a b o ssel xz v t sb sa : Nat) (acc isV : Bool),
    let i := if isV then Instr.mmav a b o ssel xz acc v t sb sa else Instr.mma a b o ssel xz acc v t sb sa
    let r := (s.core s.issue.core).record (s.records.1 + o)
    let regs := (mxRanges (some r) s.me.width a b ssel v sb sa isV).flatMap fun x => regRange x.1 x.2.1
    let first := match s.myTeam? with | some m => m.wbFirst | none => 0
    let step := s.mxStepOf a ssel acc v t sb sa r isV
    let done := fun (u : State) bs => ((u.mxPerform (step bs) s.mySlot? s.actor).engineOp s.setA)
    (∀ f, s.Issuing → s.mxCheck a b o ssel xz acc v t sb sa isV = .error f → exec i s = .next (s.raiseAcc f)) ∧
    (∀ bref, s.AccessFree false regs [] → s.EngineFree (s.acsTiles.1 + t) 2 →
      s.mxCheck a b o ssel xz acc v t sb sa isV = .ok bref →
      (bref = none → recSrc r = 0 → exec i s = .next (done s [(s.me.packedB b (recN r), [])])) ∧
      (bref = none → recSrc r ≠ 0 → (∀ x ∈ mxTiles r s.me.width,
          s.claimed (noLane s.issue.core) (wbSpace s.issue.core) (4096 * (first + x.1)) 4096 = false) →
        exec i s = .next (done s ((mxTiles r s.me.width).map fun x => (s.core s.issue.core).tileB (first + x.1) x.2 (recN r)))) ∧
      ∀ x u w, bref = some x → x.remote = none → s.mxRead s.actor (.inl (noLane s.issue.core)) x (recN r) = (u, .ok w) →
        (done u [w]).badPa = none → exec i s = .next (done u [w]))

/-- R133, R247. -/
def Obligations.MatrixElements : Prop :=
  ∀ (s : State) (m : MxStep) (team : Option Nat) (a : Actor) (b : List Nat × List Nat), m.isV = false → m.bs = [b] →
    fld m.rcd 8 2 ≤ 2 → recRow m.rcd + m.g.width ≤ 128 → (s.core m.core).poisonAcs = [] → b.2 = [] →
    let k := s.core m.core
    let k' := (s.mxPerform m team a).core m.core
    (∀ i < m.g.width, ∀ j < recN m.rcd,
      let p := if m.acc then Mem.get k.acs (acsElem m.tile (recRow m.rcd + i) j) else 0
      let dot := sumVal (List.zipWith mxTerm (m.row i) (m.column b.1 j))
      bit m.rcd 18 = false →
        Mem.get k'.acs (acsElem m.tile (recRow m.rcd + i) j) = (mxAdd p (dot.scale (-(fld m.rcd 24 4 : Int)))).1) ∧
    ∀ x, (∀ i < m.g.width, ∀ j < recN m.rcd, x ≠ acsElem m.tile (recRow m.rcd + i) j) → Mem.get k'.acs x = Mem.get k.acs x

/-- R260, R261, R269 to R271. -/
def Obligations.TileCopies : Prop :=
  ∀ (s : State) (u : Bool) (d a n : Nat),
    let offs := (s.addrLanes u).map fun l => (l, (s.me.reg l a).toNat + 64 * n)
    s.AccessFree u [a] [d] → ∀ i ∈ ([(.tload u d a n, 0), (.tstore u d a n, 1), (.tgath u d a n, 2), (.tscat u d a n, 3),
        (.tcast u d a n, 4), (.tfill u d a n, 5)] : List (Instr × Nat)),
      (s.blocksHeld i.2 offs = true → exec i.1 s = .next (s.hold s.issue.lanes .line)) ∧
      (∀ f, s.blocksHeld i.2 offs = false → s.checkPosts i.2 offs = .error f → exec i.1 s = .next (s.raiseAcc f)) ∧
      (∀ posts, s.blocksHeld i.2 offs = false → s.checkPosts i.2 offs = .ok posts →
        ((∃ p ∈ posts, p.idle i.2 = false) → s.copyRoom = none → exec i.1 s = .next (s.holdBefore .copyQueue)) ∧
        ((∀ p ∈ posts, p.idle i.2 = true) ∨ s.copyRoom ≠ none →
          let out := s.postAll u i.2 d posts
          let t := match out.1.setA with
            | some f => out.1.addOpDue out.1.issue.lanes .read (some f) none .registerWriteback
            | none => out.1
          (t.settle out.2).badPa = none → exec i.1 s = .next (t.settle out.2))) ∧
      (∀ p, s.blocksHeld i.2 offs = false → s.checkPosts i.2 offs = .ok [p] → u = true ∨ s.issue.lanes = [p.lane] →
        emptyPost p.blk = true → s.badPa = none →
        Completes i.1 s fun t => s.AllPassed t ∧ (s.Result t u d fun _ => 0) ∧ (s.Untraced → t.mem = s.mem)) ∧
      ∀ ls id, (∀ l ∈ ls, d < 128 → (s.setFuture ls d id).me.reg l d = BitVec.ofNat 32 (0xF0000000 + id % 2 ^ 28)) ∧
        (s.setFuture ls d id).me.pend = s.me.pend ++ ls.map fun l => ⟨l, d, id⟩

/-- R96, R262, R263. -/
def Obligations.CopiedRows : Prop :=
  ∀ (s : State) (a : Actor) (id c : Nat) (j : CopyJob) (qs : List (List Byte × Nat)), s.Calm → (s.core c).poisonAb = [] →
    j.op ≠ 1 → bit j.block 12 = false → j.away = [] → s.RowsGive c j j.rows qs →
    ∃ t, s.jobRun a id none false j [] = (t, .ok false) ∧ t.mem = s.mem ∧
      ∀ e, (t.core e).ab = if e = c then qs.foldl (fun m q => Mem.setBytes m q.2 q.1) (s.core c).ab else (s.core e).ab

/-- R271 to R273. -/
def Obligations.Futures : Prop :=
  ∀ (s : State) (u : Bool) (d a m : Nat),
    (s.Free u (if m = 0 then [a] else []) [] → Completes (.fwait u a m) s fun t => (∀ l r, t.me.reg l r = s.me.reg l r) ∧
      ∀ l ∈ s.issue.lanes, l < s.me.lanes.length →
        if m = 1 ∧ ∃ p ∈ s.me.pend, p.lane = l then (t.me.lane l).wait = .retry .fwait ∧ (t.me.lane l).pc = s.issue.pc
        else s.Passed t l) ∧
    (s.Free u [] [d] → a < 16 * s.me.blocks → Completes (.ftest u d a) s fun t => s.AllPassed t ∧
      s.Result t u d fun l => if s.me.pend.any (fun p => p.lane == l && p.reg == a) then 0 else 1) ∧
    (s.Issuing → a < 16 * s.me.blocks → a < 128 →
      let cancelled := fun l => l ∈ s.issue.lanes ∧ ∃ p ∈ s.me.pend, p.lane = srcLane u s.issue.lanes l ∧ p.reg = a
      Completes (.fcancel u a) s fun t => s.AllPassed t ∧ t.ops = s.ops ∧
        (∀ l r, r < 128 → (cancelled l ∧ r = a → t.me.reg l r = 0x40000000) ∧ (¬(cancelled l ∧ r = a) → t.me.reg l r = s.me.reg l r)) ∧
        ∀ p, p ∈ t.me.pend ↔ p ∈ s.me.pend ∧ ¬(p.reg = a ∧ cancelled p.lane)) ∧
    ∀ i ∈ ([.fwait u a 0, .mov u d a 0] : List Instr), (∀ r ∈ [a, d], r < 16 * s.me.blocks) → s.Issuing →
      s.futureLanes u [a] [] = s.issue.lanes → s.futureLanes u [a] [d] = s.issue.lanes →
      Completes i s fun t => (∀ l r, t.me.reg l r = s.me.reg l r) ∧ ∀ l ∈ s.issue.lanes, l < s.me.lanes.length →
        (t.me.lane l).pc = s.issue.pc ∧ ∃ r, (t.me.lane l).wait = .retry (.future r)

/-- R41, R274, R275, R306. A control thread launches for the interface of CFG_VI at priority 0 (log 23). -/
def Obligations.Launches : Prop :=
  ∀ (s : State) (u repl : Bool) (d a n : Nat),
    let l0 := s.issue.lanes.headD 0
    let off := (s.me.reg l0 a).toNat + 64 * n
    let chips := if repl then (s.me.pair l0 d).toNat else 0
    let c := s.issue.core
    s.Free u (a :: if repl then [d, d + 1] else []) [] → u = true ∨ s.issue.lanes = [l0] →
    (repl = true → chips = 0 → exec (.launch u d a n repl) s = .next (s.reserved 2 16 0)) ∧
    ((repl = true → chips ≠ 0) → s.misaligned 12 6 [(l0, off)] = none → s.localFault 12 64 [(l0, off)] = none →
      s.localPoison 12 64 [(l0, off)] = none → s.recordsHeld [(l0, off)] = false → ∀ e q, s.myAb off 64 = some (e, q) →
      let b := s.abNat e q 64
      let vi := if s.isCt then s.cfgGet Config.nCfgVi c else s.myVi
      let x : Launch := ⟨b, vi, match s.myTeam? with | some m => m.prio | none => 0, s.myDepth, chips, 0,
        if s.isCt then 256 else s.me.team⟩
      (∀ k, recordBad b = some k → exec (.launch u d a n repl) s = .next (s.reserved 6 k off)) ∧
      let first := ∀ o ∈ s.ops, o.launch? c = none
      (recordBad b = none →
        (first → (s.core c).launchOver = [] → (s.core c).launchQ.length < 4 → Completes (.launch u d a n repl) s fun t => s.AllPassed t ∧
          (t.core c).launchQ = (s.core c).launchQ ++ [x] ∧ .launchDispatch c ∈ t.agenda ∧ ∀ l r, t.me.reg l r = s.me.reg l r) ∧
        (first → ¬((s.core c).launchOver = [] ∧ (s.core c).launchQ.length < 4) → s.launchArea c x.team = true →
          Completes (.launch u d a n repl) s fun t => s.AllPassed t ∧ (t.core c).launchQ = (s.core c).launchQ ∧
            (t.core c).launchOver = (s.core c).launchOver ++ [x]) ∧
        (¬first ∨ (¬((s.core c).launchOver = [] ∧ (s.core c).launchQ.length < 4) ∧ s.launchArea c x.team = false) →
          exec (.launch u d a n repl) s = .next (s.holdBefore .launchQueue))))

/-- R276 to R278. -/
def Obligations.Streams : Prop :=
  ∀ (s : State) (u : Bool) (d a c z n : Nat) (st : Stream),
    let l0 := s.issue.lanes.headD 0
    (∀ e q r pa, s.Calm → s.AccessFree true [a] [] →
      let off := (s.me.reg l0 a).toNat
      let x := s.abNat e q 32
      let y := s.streamOf x
      let rp := fld x 32 32 + 4 * fld x 128 32
      let v := leNat (Mem.bytes s.mem pa 8)
      s.accessFault 12 32 5 [] false [(l0, off)] = none → s.localPoison 12 32 [(l0, off)] = none → s.myAb off 32 = some (e, q) →
      (∀ b, streamBad x = some b → exec (.zopen u z a) s = .next (s.reserved 6 b off)) ∧
      (streamBad x = none → s.handleFault y.rpH 8 [.read] [(l0, rp)] = none → s.resolve s.actor y.rpH rp 8 [] none = .ok r →
        s.HeapRef r 8 pa → Completes (.zopen u z a) s fun t => s.AllPassed t ∧
          NMap.find t.me.streams z = some { y with pos := v % 2 ^ 32, fin := v / 2 ^ 32 })) ∧
    (NMap.find s.me.streams z = some st →
      (s.Issuing →
        (Completes (.zadv u z n) s fun t => s.AllPassed t ∧ NMap.find t.me.streams z =
          some { st with pos := min (st.pos + if n = 0 then s.issue.lanes.length else n) st.fin }) ∧
        (c < 8 → s.issue.lanes.Nodup → Completes (.zend u c z) s fun t => s.AllPassed t ∧ ∀ k (h : k < s.issue.lanes.length),
          s.issue.lanes[k] < s.me.lanes.length →
            t.me.flag s.issue.lanes[k] c = decide (st.fin ≤ st.pos + if u then 0 else k)) ∧
        Completes (.zclose u z) s fun t => s.AllPassed t ∧ ∀ y, NMap.find t.me.streams y = if y = z then none else NMap.find s.me.streams y) ∧
      (s.AccessFree u [] [d] → ∀ i ∈ ([(.zld u d z, st.vaH, st.vaOff, 2 * st.vw, 0), (.zcrd u d z, st.coH, st.coOff, 4, 0xFFFFFFFF)] :
          List (Instr × Nat × Nat × Nat × Nat)),
        let off := i.2.2.1 + i.2.2.2.1 * st.pos
        (st.fin ≤ st.pos → Completes i.1 s fun t => s.AllPassed t ∧ s.Result t u d fun _ => BitVec.ofNat 32 i.2.2.2.2) ∧
        ∀ r pa, s.Calm → st.pos < st.fin → u = true ∨ s.issue.lanes = [l0] →
          s.handleFault i.2.1 i.2.2.2.1 [.read] [(l0, off)] = none → s.resolve s.actor i.2.1 off i.2.2.2.1 [] none = .ok r →
          s.HeapRef r i.2.2.2.1 pa → Completes i.1 s fun t => s.AllPassed t ∧
            s.Result t u d fun _ => BitVec.ofNat 32 (leNat (Mem.bytes s.mem pa i.2.2.2.1)))) ∧
    (NMap.find s.me.streams z = none → s.Issuing → ∀ i ∈ ([(.zadv u z n, 16), (.zend u c z, 0), (.zclose u z, 16), (.zld u d z, 0),
        (.zcrd u d z, 0)] : List (Instr × Nat)), exec i.1 s = .next (s.reserved 7 i.2 0))

/-- R279 to R281. -/
def Obligations.QueueInstructions : Prop :=
  ∀ (s : State) (u wait : Bool) (d a : Nat), s.isCt = true →
    let c := s.issue.core
    (s.Free u [] ((List.range 16).map (d + ·)) →
      (∀ r rest, (s.core c).events = r :: rest →
        (Completes (.evpop u d wait) s fun t => s.AllPassed t ∧ (∀ l ∈ s.issue.lanes, ∀ k < 16, t.me.reg l (d + k) = (r[k]?).getD 0) ∧
          (t.core c).events.take rest.length = rest) ∧
        Completes (.evpeek u d) s fun t => s.AllPassed t ∧ (∀ l ∈ s.issue.lanes, ∀ k < 16, t.me.reg l (d + k) = (r[k]?).getD 0) ∧
          (t.core c).events = (s.core c).events) ∧
      ((s.core c).events = [] →
        (Completes (.evpop u d false) s fun t => s.AllPassed t ∧ s.Result t u d fun _ => 0) ∧
        (Completes (.evpop u d true) s fun t => s.AllPassed t ∧ (∀ l r, t.me.reg l r = s.me.reg l r) ∧
          ∀ l ∈ s.issue.lanes, l < s.me.lanes.length → (t.me.lane l).wait = .op s.opSeq .evpop) ∧
        Completes (.evpeek u d) s fun t => s.AllPassed t ∧ s.Result t u d fun _ => 0)) ∧
    (s.Free u [d, d + 1, a] [] →
      let l0 := s.issue.lanes.headD 0
      let q := s.me.pair l0 d
      let sel := (s.me.reg l0 a).toNat
      (∀ r, s.qcfgBad q.toNat sel = some r → exec (.qcfg u d a) s = .next (s.raise r.1 r.2 (fld q.toNat 0 21) 0)) ∧
      (s.qcfgBad q.toNat sel = none → exec (.qcfg u d a) s = .next
        (((s.applyQcw c (fld sel 8 2) (fld sel 0 8) q).release fun w => w == .launchQueue || w == .copyQueue).refillEvents c).retire)) ∧
    ∀ e t m (q : Double), s.team? e t = some m → qcwDepth m.qcw0 = 0 → qcwDepth m.qcw1 = 0 →
      ((s.applyQcw e 0 t q).team? e t).map (·.qcw0) = some q ∧ ((s.applyQcw e 1 t q).team? e t).map (·.qcw1) = some q

/-- R150, R153, R282, R395. -/
def Obligations.ControlTransfers : Prop :=
  ∀ (s : State) (sense : Bool) (c a o : Nat), s.Issuing → s.badPa = none →
    let ls := s.issue.lanes
    let there := fun n => s.relative o n
    (((∃ l ∈ ls, s.me.flag l c = sense) → s.HeaderAt (there 19)) → Completes (.br c sense o) s fun t =>
      (∀ l r, t.me.reg l r = s.me.reg l r) ∧ (s.Untraced → s.OnlyGroup t) ∧ ∀ l ∈ ls, l < s.me.lanes.length →
        if s.me.flag l c = sense then t.StandsAt l (there 19) else s.Passed t l) ∧
    (s.HeaderAt (there 23) → Completes (.jmp o) s fun t => (∀ l r, t.me.reg l r = s.me.reg l r) ∧ (s.Untraced → s.OnlyGroup t) ∧
      ∀ l ∈ ls, l < s.me.lanes.length → t.StandsAt l (there 23)) ∧
    (s.Free false [a] [] → (∀ l ∈ ls, s.HeaderAt (s.me.reg l a).toNat) → Completes (.jmpi a) s fun t =>
      (∀ l r, t.me.reg l r = s.me.reg l r) ∧ (s.Untraced → s.OnlyGroup t) ∧
      ∀ l ∈ ls, l < s.me.lanes.length → t.StandsAt l (s.me.reg l a).toNat) ∧
    ∀ l w, ls = [l] →
      (there 23 % 4 = 0 → s.fetch s.issue.core s.issue.agent (there 23) = (s, .word w) → w / 2 ^ 29 ≠ 6 →
        exec (.jmp o) s = .next (s.raise 0x04 l (there 23) 0)) ∧
      (s.Free false [a] [] → (s.me.reg l a).toNat % 4 ≠ 0 → exec (.jmpi a) s = .next (s.raise 0x04 l (s.me.reg l a).toNat 0))

/-- R282, R283, R408. -/
def Obligations.CallsAndReturns : Prop :=
  ∀ (s : State) (a o : Nat) (r : Ref) (pa : Nat), s.Issuing → s.badPa = none → s.issue.lanes.Nodup →
    let ls := s.issue.lanes
    let held := fun l => (s.me.lane l).rstack
    let out := fun l => (s.me.lane l).spilled
    let area := fun l => (s.stackArea l).2
    (∀ j ∈ ([(.call o, [], fun _ => s.relative o 23), (.calli a, [a], fun l => (s.me.reg l a).toNat)] :
        List (Instr × List Nat × (Nat → Nat))),
      s.Free false j.2.1 [] → (∀ l ∈ ls, s.HeaderAt (j.2.2 l)) →
      ((∀ l ∈ ls, (held l).length < 8 ∧ (held l).length + out l < 264) → Completes j.1 s fun t =>
        (∀ l r, t.me.reg l r = s.me.reg l r) ∧ ∀ l ∈ ls, l < s.me.lanes.length →
          t.StandsAt l (j.2.2 l) ∧ (t.me.lane l).rstack = s.clauseEnd :: held l ∧ (t.me.lane l).spilled = out l) ∧
      (∀ l, ls = [l] → l < s.me.lanes.length → (held l).length = 8 → out l < 256 → s.Calm →
        s.resolve s.actor (s.stackArea l).1 (area l + 4 * out l) 4 [.write] none = .ok r → s.HeapRef r 4 pa → Completes j.1 s fun t =>
          t.StandsAt l (j.2.2 l) ∧ (t.me.lane l).rstack = s.clauseEnd :: (held l).take 7 ∧ (t.me.lane l).spilled = out l + 1 ∧
          (s.Untraced → t.mem = Mem.setBytes s.mem pa (leBytes ((held l).getLastD 0) 4))) ∧
      ∀ l, ls = [l] → 264 ≤ (held l).length + out l →
        exec j.1 s = .next (s.raise 0x21 l ((area l + 4 * out l) % 2 ^ 32) 0)) ∧
    ((∀ l ∈ ls, held l ≠ [] ∧ s.HeaderAt ((held l).headD 0)) → Completes .ret s fun t => (∀ l r, t.me.reg l r = s.me.reg l r) ∧
      ∀ l ∈ ls, l < s.me.lanes.length → t.StandsAt l ((held l).headD 0) ∧ (t.me.lane l).rstack = (held l).tail) ∧
    ∀ l, ls = [l] → held l = [] →
      (out l = 0 → exec .ret s = .next (s.raise 0x21 (l + 256) (area l % 2 ^ 32) 0)) ∧
      (l < s.me.lanes.length → 0 < out l → s.Calm → s.resolve s.actor (s.stackArea l).1 (area l + 4 * (out l - 1)) 4 [.read] none = .ok r →
        s.HeapRef r 4 pa → s.HeaderAt (leNat (Mem.bytes s.mem pa 4)) → Completes .ret s fun t =>
          t.StandsAt l (leNat (Mem.bytes s.mem pa 4)) ∧ (t.me.lane l).rstack = [] ∧ (t.me.lane l).spilled = out l - 1)

/-- R19, R284, R286, R287. -/
def Obligations.ThreadControl : Prop :=
  ∀ (s : State) (i k : Nat), s.Issuing → s.badPa = none →
    let ls := s.issue.lanes
    let c := s.issue.core
    (∀ n, s.issue.agent = .grp n → (∃ l, l < s.me.lanes.length ∧ l ∉ ls ∧ (s.me.lane l).vacant = false) → Completes .exit s fun t =>
      (∀ l ∈ ls, l < s.me.lanes.length → (t.me.lane l).vacant = true) ∧ ∀ l ∉ ls, (t.me.lane l).vacant = (s.me.lane l).vacant) ∧
    (s.issue.agent = .ct → exec .exit s = .next (s.reserved 7 0 0)) ∧
    (k ≤ s.me.blocks → exec (.racq k) s = .next s.retire) ∧
    (s.me.blocks < k → Completes (.racq k) s fun t => s.AllPassed t ∧ .racqGrant c ∈ t.agenda ∧ t.me.blocks = s.me.blocks ∧
      (∃ p ∈ t.ops, p.id = s.opSeq ∧ p.kind = .racq k) ∧
      ∀ l ∈ ls, l < s.me.lanes.length → (t.me.lane l).wait = .op s.opSeq .racq) ∧
    (s.me.blocks ≤ k → exec (.rrel k) s = .next s.retire) ∧
    (k < s.me.blocks → s.awaited (16 * k) = true → Completes (.rrel k) s fun t => t.me.blocks = s.me.blocks ∧
      ∀ l ∈ ls, l < s.me.lanes.length → (t.me.lane l).wait = .retry .rrel ∧ (t.me.lane l).pc = s.issue.pc) ∧
    (k < s.me.blocks → s.awaited (16 * k) = false → Completes (.rrel k) s fun t => s.AllPassed t ∧ t.me.blocks = k ∧
      ∀ l r, r < 128 → t.me.reg l r = if r < 16 * k then s.me.reg l r else 0) ∧
    (Completes .pmark s fun t => s.AllPassed t ∧ t.me.prog = s.me.prog + 1 ∧ (∀ l r, t.me.reg l r = s.me.reg l r) ∧
      ∀ m, s.issue.agent ≠ .ct → t.team? c s.me.team = some m → m.wdog = 0) ∧
    (exec (.sleep 0) s = .next s.retire) ∧
    (i ≠ 0 → Completes (.sleep i) s fun t => s.AllPassed t ∧ (∀ l r, t.me.reg l r = s.me.reg l r) ∧ (s.Untraced → s.OnlyGroup t) ∧
      ∀ l ∈ ls, l < s.me.lanes.length → (t.me.lane l).wait = .sleep (s.clk + 64 * i)) ∧
    (exec .nop s = .next s.retire) ∧
    s.AllPassed s.retire ∧ (s.Untraced → s.OnlyGroup s.retire ∧ s.me.OnlyRegs s.retire.me ls []) ∧
    ((∀ l ∈ ls, (s.me.lane l).counted = false) → s.retire.me.rwc = (s.me.rwc + 1) % 2 ^ 48)

/-- R31, R285. -/
def Obligations.Barriers : Prop :=
  ∀ (s : State) (b n : Nat) (m : Team), s.AccessFree false [] [] → s.issue.agent = .grp n →
    let ls := s.issue.lanes
    let c := s.issue.core
    let g := s.me
    let x := s.bar c g.team b
    let home := s.barHome c g.team
    s.team? home.1 home.2 = some m → b < m.bars.length →
    (∀ i ∈ ([(.bara b, Wait.none), (.bar b, Wait.bar b x.phase .barw)] : List (Instr × Wait)),
      ((∀ l ∈ ls, (g.grp, l) ∉ x.arrived) →
        (x.more < ((s.absentAt c g.team b).filter fun y => !(ls.map (g.grp, ·)).contains y).length → Completes i.1 s fun t => s.AllPassed t ∧
          t.bar c g.team b = { x with arrived := x.arrived ++ ls.map (g.grp, ·) } ∧
          ∀ l ∈ ls, l < g.lanes.length → (t.me.lane l).wait = i.2 ∧ NMap.find (t.me.lane l).arrived b = some x.phase) ∧
        (((s.absentAt c g.team b).filter fun y => !(ls.map (g.grp, ·)).contains y).length ≤ x.more →
          (∀ q ∈ s.teamGroups c g.team, q.2.2.again b x.phase = []) →
          Completes i.1 s fun t => s.AllPassed t ∧ t.bar c g.team b = ⟨x.phase + 1, [], 0⟩ ∧
            ∀ l ∈ ls, l < g.lanes.length → (t.me.lane l).wait = .none)) ∧
      ((∀ l ∈ ls, (g.grp, l) ∈ x.arrived) → (s.missingAt c g.team b ≠ []) → Completes i.1 s fun t => s.AllPassed t ∧
        t.bar c g.team b = x ∧ ∀ l ∈ ls, l < g.lanes.length → ∃ w, (t.me.lane l).wait = .bar b x.phase w)) ∧
    Completes (.barw b) s fun t => s.AllPassed t ∧ (∀ l r, t.me.reg l r = g.reg l r) ∧ (s.Untraced → s.OnlyGroup t) ∧
      ∀ l ∈ ls, l < g.lanes.length → (t.me.lane l).wait =
        if NMap.find (g.lane l).arrived b = some x.phase then .bar b x.phase .barw else (g.lane l).wait

/-- R288, R294, R380, R381, R386, R390. -/
def Obligations.TrapsAndReturns : Prop :=
  (∀ (s : State) (i : Nat),
    (s.Issuing → exec (.trap i) s = .next (s.raise 0x28 i 0 0) ∧ exec (.bkpt i) s = .next (s.raise 0x29 i 0 0)) ∧
    ∀ code info foff fh n, s.issue.agent = .grp n → s.me?.isSome = true → code ≠ 0x30 →
      let c := s.issue.core
      let e := s.faultEntry code info foff fh
      let t := s.raise code info foff fh
      let k := s.core c
      t.cfgGet Config.nErrTrap s.myVi = min (s.cfgGet Config.nErrTrap s.myVi + 1) 0xFFFFFFFF ∧ (t.core c).stopped = true ∧
      (t.group? c (.grp n)).map (·.trapped) = some true ∧
      (s.ctRuns c = true → k.inHandler = false → k.entries = [] → 0 < k.ct.lanes.length → ∀ p, (k.ct.lane 0).boundary = some p →
        t.cfgGet Config.nCtEpc c = p.1 % 2 ^ 32 ∧ (∀ m < 16, t.cfgGet (Config.nTrec0 + m) c = e.record / 2 ^ (32 * m) % 2 ^ 32) ∧
        t.cfgGet Config.nTrapResume c = e.defaultAct ∧ ((t.core c).ct.lane 0).pc = s.cfgGet Config.nCtTvec c ∧
        ((t.core c).ct.lane 0).clause = none ∧ ((t.core c).ct.lane 0).wait = .none ∧
        (t.core c).inHandler = true ∧ (t.core c).cur = some e ∧ (t.core c).entries = []) ∧
      (k.inHandler = true ∨ s.ctRuns c = false →
        (t.core c).entries = k.entries.filter (·.code ≠ 0x30) ++ e :: k.entries.filter (·.code = 0x30) ∧ (t.core c).ct = k.ct ∧
        t.cfgGet Config.nCtEpc c = s.cfgGet Config.nCtEpc c)) ∧
  ∀ (s : State) (e : Entry) (g : Group), s.isCt = true → s.Issuing → s.badPa = none →
    let c := s.issue.core
    let k := s.core c
    (k.inHandler = false → exec .eret s = .next (s.reserved 7 0 0)) ∧
    (k.inHandler = true → (s.retire.leave c).badPa = none → exec .eret s = .next (s.retire.leave c)) ∧
    (k.inHandler = true → k.entries = [] → k.epcClause = none → k.cur = some e → e.code ≠ 0x30 → e.code ≠ 0x2A → e.late = false →
      e.other = none →
      s.cfgGet Config.nTrapResume c = 0 → s.group? c (.grp e.gslot) = some g → g.trapped = true → g.team = e.tslot →
      0 < k.ct.lanes.length → Completes .eret s fun t =>
        (t.core c).inHandler = false ∧ (t.core c).cur = none ∧ (t.core c).stopped = (k.dead || k.pairStops != 0) ∧
        ((t.core c).ct.lane 0).pc = s.cfgGet Config.nCtEpc c ∧ ((t.core c).ct.lane 0).clause = none ∧
        t.group? c (.grp e.gslot) = some { g with trapped := false })

/-- R6, R289, R315. -/
def Obligations.ConfigInstructions : Prop :=
  ∀ (s : State) (d i : Nat), s.isCt = true →
    let c := s.issue.core
    let vi := s.cfgGet Config.nCfgVi c
    let x := (s.me.reg (s.issue.lanes.headD 0) d).toNat
    (s.Free false [] [d] → Completes (.cfgrd d i) s fun t => s.AllPassed t ∧
      (s.Result t false d fun _ => BitVec.ofNat 32 (s.cfgValue i c vi)) ∧
      (∀ r, Config.reg? i = some r → r.access = .rc → t.cfgGet i (scopeKey r.scope c vi) = 0) ∧
      ((∀ r, Config.reg? i = some r → r.access ≠ .rc) → t.cfg = s.cfg)) ∧
    (s.Free false [d] [] →
      (i = Config.nSwapOut →
        (s.mayLeave c (min x 255) = false → exec (.cfgwr d i) s = .next (s.reserved 7 0 0)) ∧
        (s.mayLeave c (min x 255) = true → s.ctBusy c = true → exec (.cfgwr d i) s = .next (s.hold s.issue.lanes .line)) ∧
        (s.mayLeave c (min x 255) = true → s.ctBusy c = false →
          exec (.cfgwr d i) s = .next (((s.cfgPut Config.nSwapOut c (min x 255)).swapOut c (min x 255)).retire))) ∧
      (i = Config.nCtRun → x = 0 → exec (.cfgwr d i) s = .next (s.retire.cfgWrite i c 0 0)) ∧
      (i ≠ Config.nSwapOut → ¬(i = Config.nCtRun ∧ x = 0) → exec (.cfgwr d i) s = .next ((s.cfgWrite i c vi x).retire)) ∧
      (∀ r, Config.reg? i = some r → r.access ≠ .rw → i ≠ Config.nSwapOut → i ≠ Config.nCtRun →
        exec (.cfgwr d i) s = .next s.retire) ∧
      ∀ r, Config.reg? i = some r → i ∈ [Config.nCtTvec, Config.nCtEpc, Config.nTrapResume, Config.nCfgVi, Config.nDbgSel] →
        Completes (.cfgwr d i) s fun t => s.AllPassed t ∧ t.cfgGet i c = r.store x ∧
          ∀ j q, (j, q) ≠ (i, c) → j < 4096 → t.cfgGet j q = s.cfgGet j q)

/-- R290, R291, R293. -/
def Obligations.GroupControl : Prop :=
  ∀ (s : State) (d a m : Nat), s.isCt = true →
    let c := s.issue.core
    let n := (s.me.reg (s.issue.lanes.headD 0) a).toNat
    let ls := s.issue.lanes
    (s.Free false [a] ((List.range (if m = 1 then 6 else 4)).map (d + ·)) → Completes (.gstat d a m) s fun t => s.AllPassed t ∧
      ∀ l ∈ ls, ∀ j < (if m = 1 then 6 else 4),
        t.me.reg l (d + j) = BitVec.ofNat 32 (((if m = 1 then s.teamStat c n else s.groupStat c n)[j]?).getD 0)) ∧
    (s.Free false [a] [] →
      (m ≤ 1 → s.team? c n = none → exec (.gstop a m) s = .next (s.reserved 7 0 0)) ∧
      (1 < m → s.group? c (.grp n) = none → exec (.gstop a m) s = .next (s.reserved 7 0 0)) ∧
      (∀ y, s.team? c n = some y →
        let t := if y.frozen then s else s.freeze c n
        ((y.undrained || t.drainDone c n) = true → exec (.gstop a 0) s = .next t.retire) ∧
        ((y.undrained || t.drainDone c n) = false → exec (.gstop a 0) s =
          .next (((t.addOp ls (.gstop n) none none).due (.gstopDrainComplete c)).retireWait (.op t.opSeq .gstop))) ∧
        ((y.frozen && s.castWaits y.grid y.team) = false → exec (.gstop a 1) s = .next (s.releaseTeam c n).retire) ∧
        ((y.frozen && s.castWaits y.grid y.team) = true → exec (.gstop a 1) s = .next (s.hold ls .line)) ∧
        ((s.freeze c n).team? c n).map (·.frozen) = some true ∧ ((s.releaseTeam c n).team? c n).map (·.frozen) = some false) ∧
      (∀ g, s.group? c (.grp n) = some g →
        (Completes (.gstop a 2) s fun t => s.AllPassed t ∧ t.group? c (.grp n) = some { g with halted := true }) ∧
        Completes (.gstop a 3) s fun t => s.AllPassed t ∧ t.group? c (.grp n) = some { g with halted := false }) ∧
      (s.team? c n = none → exec (.gkill a 0) s = .next (s.reserved 7 0 0)) ∧
      (s.team? c n ≠ none → exec (.gkill a 0) s = .next (s.retire.killTeam c n)) ∧
      (s.group? c (.grp n) = none → exec (.gkill a 1) s = .next (s.reserved 7 0 0)) ∧
      (s.group? c (.grp n) ≠ none → exec (.gkill a 1) s = .next (s.retire.killGroup c n)))

/-- R283, R292; the order of stream words and stack entries in an image is the choice of log 31. -/
def Obligations.TeamImages : Prop :=
  ∀ (s : State) (d a b n pa : Nat) (r : Ref), s.isCt = true → s.Calm →
    let c := s.issue.core
    let l := s.issue.lanes.headD 0
    let k := (s.me.reg l a).toNat
    let off := (s.me.reg l b).toNat
    let h := s.slotHandle 0
    let saved := fun (bs : List Byte) => s.resolve s.actor h off bs.length [.write] none = .ok r ∧ s.HeapRef r bs.length pa
    let loaded := fun n => s.resolve s.actor h off n [.read] none = .ok r ∧ s.HeapRef r n pa
    (s.AccessFree false [a, b] [] →
      ((∀ x, s.team? c k = some x → s.drained c k = false) → exec (.gsave a b 1) s = .next (s.reserved 7 0 0)) ∧
      (∀ x, s.team? c k = some x → s.drained c k = true → saved (imageBytes (s.teamImage c k x)) →
        Completes (.gsave a b 1) s fun t => s.AllPassed t ∧ t.mem = Mem.setBytes s.mem pa (imageBytes (s.teamImage c k x)) ∧
          (t.team? c k).map (·.imaged) = some true) ∧
      ∀ g x, s.group? c (.grp k) = some g → s.team? c g.team = some x → s.drained c g.team = true →
        (∀ l < g.width, (g.lane l).spilled = 0) → saved (imageBytes (g.image (List.replicate g.width []))) →
        Completes (.gsave a b 0) s fun t => s.AllPassed t ∧
          t.mem = Mem.setBytes s.mem pa (imageBytes (g.image (List.replicate g.width [])))) ∧
    (s.AccessFree false [b] [d] → loaded 128 →
      let out := s.restoreTeam c (leNat (Mem.bytes s.mem pa 128))
      let t := (out.1.giveAll [(d, BitVec.ofNat 32 (out.2.getD 0xFFFFFFFF))]).retire
      t.badPa = none → exec (.gload d a b 1) s = .next t) ∧
    (s.AccessFree false [a, b] [d] →
      ((∀ x, s.team? c k = some x → x.frozen = false) → exec (.gload d a b 0) s = .next (s.reserved 7 0 0)) ∧
      ∀ x u y, s.team? c k = some x → x.frozen = true → loaded 4 →
        n = groupImageBytes x.width (fld (leNat (Mem.bytes s.mem pa 4)) 12 4) → loaded n →
        s.restoreGroup c k (leNat (Mem.bytes s.mem pa n)) x = (u, .done y) →
        (∀ o ∈ u.ops, ∀ q, o.kind = .remote q → q.form ≠ .ack) →
        let t := (u.giveAll [(d, BitVec.ofNat 32 (y.getD 0xFFFFFFFF))]).retire
        t.badPa = none → exec (.gload d a b 0) s = .next t)

/-- R49, R393. -/
def Obligations.PrivilegedInstructions : Prop :=
  ∀ (s : State) (u w : Bool) (d a b m i : Nat), s.isCt = false →
    ∀ p ∈ ([.evpop u d w, .evpeek u d, .qcfg u d a, .cfgrd d i, .cfgwr d i, .eret, .gstat d a m, .gsave a b m, .gload d a b m,
        .gstop a m, .gkill a m] : List Instr), exec p s = .next (s.raise 0x02 2 0 0)

/-- R30, R145, R251, R268, R271, R387. -/
def Obligations.OperationEnds : Prop :=
  ∀ (s : State) (id code data : Nat) (o : Op), s.op? id = some o →
    ((o.kind = .writeback ∨ o.kind = .read) → exec (.registerWriteback id) s = .next (s.finishOp id)) ∧
    (o.kind = .reply →
      (o.fault = none → exec (.accessReply id code data) s = .next (s.finishOp id) ∧ exec (.monitorWakeup id) s = .next (s.finishOp id)) ∧
      ∀ e, o.fault = some e → exec (.accessReply id code data) s = .next ((s.endOp id).lateFault o e) ∧
        exec (.monitorWakeup id) s = .next ((s.endOp id).lateFault o e)) ∧
    (∀ r d n sx e, o.kind = .remote r → r.form = .load d n sx → o.fault = some e →
      (s.siblings o r = [] →
        exec (.accessReply id 0 data) s = .next ((s.modGroup o.core o.agent (r.form.give data o.lanes)).finishOp id) ∧
        (0 < code → code < 6 → exec (.accessReply id code data) s =
          .next ((s.endOp id).lateFault o { e with code := checkCode code, info := e.info + code * 256 })) ∧
        exec (.accessReply id 6 data) s = .next ((s.endOp id).lateFault o { e with code := 0x20, foff := e.foff / 32 * 32 })) ∧
      ((∃ p ∈ s.siblings o r, p.reply? = none) → exec (.accessReply id code data) s =
        .next (s.modOp id fun x => { x with kind := .remote { r with got := some (code, data) } }))) ∧
    (o.kind = .store → exec (.storeAck id code) s = .next (s.endOp id).settleFences) ∧
    (∀ m, o.kind = .mtx m →
      (s.mtxStalled o.core id = false → exec (.matrixOpEnd id) s = .next (((s.finishOp id).settleMsync).release (· == .mtxQueue))) ∧
      (s.mtxStalled o.core id = true → exec (.matrixOpEnd id) s = .next s)) ∧
    (∀ r x rest, o.kind = .copy r → r.job = none → r.batches = x :: rest → s.rowsOut id = false → r.pooled = true →
      let s1 := match r.bo with | some b => s.boTell id b r.nrec x | none => s
      let s2 := (r.rbo.foldl (fun t b => t.boTell id b 1 x) s1).setRun id { r with batches := rest }
      (rest ≠ [] → exec (.tileCopyBatchDelivery id) s = .next (s2.due (.tileCopyBatchDelivery id))) ∧
      (rest = [] → exec (.tileCopyBatchDelivery id) s = .next (s2.copyDone id { r with batches := rest })) ∧
      ∀ b n, s.claimed unitLane (abSpace b.core) b.addr 32 = false → (∀ w ∈ s.boWaits, w.2.1 ≠ b) →
        s.boTell id b n x = s.boCount b n x) ∧
    (∀ w g, o.kind = .future w → s.group? o.core o.agent = some g → g.live ≠ [] → (∀ p ∈ g.pend, p.reg < 128) →
      (∀ x ∈ s.ops, x.kind ≠ .uflush ∧ ∀ fs, x.kind ≠ .uapply fs) →
      Completes (.futureWritten id) s fun t => ∃ h, t.group? o.core o.agent = some h ∧ h.pend = g.pend.filter (·.id != id) ∧
        ∀ p ∈ g.pend, p.id = id → h.reg p.lane p.reg = BitVec.ofNat 32 w) ∧
    (∀ g l w, s.group? o.core o.agent = some g → (g.lane l).wait = .op id w → l < g.lanes.length →
      ∃ h, (s.finishOp id).group? o.core o.agent = some h ∧ (h.lane l).wait = .none) ∧
    ∀ c a, (s.ops.map (·.id)).Nodup → Completes (.bindComplete c a) s fun t =>
      t.ops = s.ops.filter fun x => !(x.core == c && x.agent == Agent.ofNum a && x.kind == .bind)

/-- R29, R86, R106, R217, R287, R291. -/
def Obligations.WaitsEnd : Prop :=
  ∀ (s : State) (c a : Nat) (o : Op),
    (∀ d k, s.pairs = [] → s.latentCe = [] → s.latentUe = [] → s.opsOf c (Agent.ofNum a) = [o] → o.kind = .waitc d k false →
      (s.clk + 2 ^ 64 - o.clk) % 4096 = 0 → s.claimed (o.core, o.agent, o.lanes.headD 0) physSpace k.pa k.bytes = false →
      s.logged o.core physSpace k.pa k.bytes = false →
      let u := s.unitGoes (.op o.id)
      (s.condMet k = true → exec (.waitcRecompare c a) s = .next (u.waitcTrue o d k)) ∧
      (s.condMet k = false → s.armedAt k.slice < 512 →
        exec (.waitcRecompare c a) s = .next (u.modOp o.id fun p => { p with kind := .waitc d k true })) ∧
      (s.condMet k = false → 512 ≤ s.armedAt k.slice → exec (.waitcRecompare c a) s = .next u)) ∧
    (∀ d k, s.opsOf c (Agent.ofNum a) = [o] → o.kind = .waitc d k false →
      s.claimed (o.core, o.agent, o.lanes.headD 0) physSpace k.pa k.bytes = true → exec (.waitcRecompare c a) s = .next s) ∧
    (∀ m j msg, (s.core c).mboxFly.findIdx? (·.1 == m) = some j → (s.core c).mboxFly[j]? = some (m, msg) →
      ((∀ p ∈ s.ops, ∀ d u, p.kind ≠ .mbrecv d m u) → Completes (.mailboxDelivery c m) s fun t =>
        (t.core c).mbox = (s.core c).mbox ++ [(m, msg)] ∧ (t.core c).mboxFly = (s.core c).mboxFly.eraseIdx j) ∧
      ∀ d u g, s.ops = [o] → o.core = c → o.kind = .mbrecv d m u → d + 16 ≤ 128 → (s.core c).mbox = [] → s.group? c o.agent = some g →
        Completes (.mailboxDelivery c m) s fun t => t.ops = [] ∧ (t.core c).mbox = [] ∧
          ∃ h, t.group? c o.agent = some h ∧ ∀ l ∈ o.lanes, ∀ k < 16, h.reg l (d + k) = (msg[k]?).getD 0) ∧
    (∀ n g, s.ops = [o] → o.core = c → o.kind = .racq n → s.group? c o.agent = some g →
      (s.racqServable c true o = true → Completes (.racqGrant c) s fun t => t.ops = [] ∧
        ∃ h, t.group? c o.agent = some h ∧ h.blocks = max g.blocks n) ∧
      (s.racqServable c true o = false → exec (.racqGrant c) s = .next s)) ∧
    (∀ g, s.group? c (Agent.ofNum a) = some g → Completes (.sleepExpiry c a) s fun t => ∃ h, t.group? c (Agent.ofNum a) = some h ∧
      h.lanes.length = g.lanes.length ∧ ∀ l < g.lanes.length, (h.lane l).wait =
        match (g.lane l).wait with
        | .sleep till => if till ≤ s.clk then .none else .sleep till
        | w => w) ∧
    ∀ n m, s.ops = [o] → o.kind = .gstop n → s.team? c n = some m →
      (o.core = c → s.drainDone c n = true → exec (.gstopDrainComplete c) s = .next (s.finishOp o.id)) ∧
      (o.core = c → s.drainDone c n = false → s.stuckRemote c n = false → exec (.gstopDrainComplete c) s = .next s) ∧
      (o.core ≠ c → exec (.gstopDrainComplete c) s = .next s)

/-- R71, R72, R74, R330, R382, R418, R429. -/
def Obligations.BinderySteps : Prop :=
  ∀ (s : State) (k vi c team : Nat),
    (∀ j p, s.pairs.findIdx? (·.stage == .flight) = some j → s.pairs[j]? = some p →
      let t : State := { s with pairs := modAt (fun q => { q with stage := .batch, clk := s.clk }) j s.pairs }
      let batch := (t.pairs.filter fun q => binderyOf q.pa == binderyOf p.pa && q.stage == .batch).length
      (batch < 1024 → exec .updatePairArrival s = .next t) ∧
      (1024 ≤ batch → exec .updatePairArrival s = exec (.batchClose (binderyOf p.pa)) t)) ∧
    (let batch := s.pairs.filter fun p => binderyOf p.pa == k && p.stage == .batch
     let s1 : State := { s with pairs := s.pairs.map fun p => if batch.contains p then { p with stage := .gathered } else p }
     (∀ o ∈ s.ops, (∀ d w, o.kind ≠ .waitc d w true) ∧ o.kind ≠ .uflush ∧ ∀ fs, o.kind ≠ .uapply fs) → (∀ p ∈ batch, p.eager = false) →
     100 * s1.binUse k ≤ 75 * binStore →
     (∀ v, s1.spillFull k v = false) → s.badPa = none →
     Completes (.batchClose k) s fun t => t.pairs = s1.pairs ∧ t.mem = s.mem) ∧
    (exec (.binderyQuota vi c team) s = .next (match s.mostRuns vi (fun p => s.spillFull (binderyOf p.pa) vi) with
      | some f => s.postEvent c 0x11 vi (some team) [binderyOf (4096 * f), 4096 * f % 2 ^ 32, 4096 * f / 2 ^ 32, s.runsOf vi f]
      | none => s)) ∧
    (∀ kind ws, (∀ o ∈ s.ops, ∀ d, o.kind ≠ .evpop d) → (s.core c).evWait = [] → (s.core c).eventAreaEmpty = true →
      s.poolTakes c 0 0 (s.core c).events.length (s.poolMin Config.nEvqMin c) (s.cfgGet Config.nEvqCap c) = true →
      ((s.postEvent c kind vi (some team) ws).core c).events = (s.core c).events ++ [s.eventRecord kind vi (some team) ws]) ∧
    ∀ e rest, (s.core c).sideLog = e :: rest →
      (let s1 := (s.atCore c).prepare ⟨e.space, e.va, 0, e.vi, e.index, 0, 0, none⟩ e.size
       let behind := fun rs => (∀ v p g, e.kind ≠ .pair v p g) ∧ s1.loggedOn (s1.dueFolios rs) e.id = true
       (∀ rs s2, s1.locate e.space e.va e.size = some rs → s1.channelDown e.space e.va e.size = false → ¬behind rs →
         s1.replayEntry c e rs = .ok s2 → s2.badPa = none →
         Completes (.sideLogReplay c) s fun t => (t.core c).sideLog = rest ∧ t.mem = s2.mem ∧
           (rest.any (·.id == e.id) = false → .storeAck e.id 0 ∈ t.agenda) ∧ (rest ≠ [] → .sideLogReplay c ∈ t.agenda)) ∧
       ((s1.locate e.space e.va e.size = none ∨
           ∃ rs, s1.locate e.space e.va e.size = some rs ∧ (s1.channelDown e.space e.va e.size = true ∨ behind rs)) →
         s1.badPa = none → exec (.sideLogReplay c) s = .next s1)) ∧
      (∀ f, (s.core c).slogFull = some f →
        ((s.core c).slogTold = false → f + s.cfgGet Config.nSlogWait 0 ≤ s.clk → exec (.sideLogFull c) s =
          .next ((s.postEvent c 0x12 e.vi none [256, e.va % 2 ^ 32, e.va / 2 ^ 32, s.clk - f]).modCore c ({ · with slogTold := true }))) ∧
        ((s.core c).slogTold = true ∨ s.clk < f + s.cfgGet Config.nSlogWait 0 → exec (.sideLogFull c) s = .next s)) ∧
      ((s.core c).slogFull = none → exec (.sideLogFull c) s = .next s)

/-- R41, R42, R44, R45, R81, R279, R297, R298, R345, R433, R435, R458. -/
def Obligations.LaunchSteps : Prop :=
  (∀ (s : State) (c q v slice vi team : Nat),
    (∀ t ts w, s.firstTriggers slice = t :: ts → s.watch? t.watch = some w → s.mayDispatch w slice = true → s.statusReady w = true →
      w.ring = false → (s.spawn w t).kickAll.badPa = none → exec (.triggerDispatch slice) s = .next (s.spawn w t).kickAll) ∧
    (∀ w t n, s.returnable vi = some (w, t, n) →
      let s1 := (s.unspill w t n).ringFreed
      exec (.triggerSpillReturn vi) s = .next (if (s1.returnable vi).isSome then s1.due (.triggerSpillReturn vi) else s1)) ∧
    (∀ x rest, (s.core c).launchQ = x :: rest → x.chips = 0 → (∀ o ∈ s.ops, o.launch? c = none) → Completes (.launchDispatch c) s fun t =>
      (t.core c).launchQ = rest ∧ t.gridCnt = (if s.gridCnt = 2 ^ 32 - 1 then 1 else s.gridCnt + 1) ∧ .teamPlacement ∈ t.agenda ∧
      t.grids = s.grids ++ [⟨s.gridCnt, x.bits, x.vi, x.prio, x.depth, 0, none, none, 0, 0, recordTeams x.bits, recordTeams x.bits, 0,
        false, some c, none⟩]) ∧
    (∀ x rest, (s.core c).launchOver = x :: rest → (s.core c).launchQ.length < 4 → (∀ m, s.team? c x.team = some m → m.ending = false) →
      (∀ o ∈ s.ops, o.launch? c = none) → Completes (.overflowEntryReturn c team 0) s fun t => (t.core c).launchQ = (s.core c).launchQ ++ [x] ∧
        (t.core c).launchOver = rest ∧ .launchDispatch c ∈ t.agenda) ∧
    (let x := s.queue q
     let n := v % 2 ^ 32
     let ahead := (n + 2 ^ 32 - x.head) % 2 ^ 32
     (s.gpBusy = false → ahead ≤ 2 ^ x.qlog → x.ahead ≤ ahead →
       exec (.launchQueueTailWrite q v) s = .next ((s.modQueue q ({ · with tail := n })).due (.launchPacketRead q))) ∧
     (s.gpBusy = false → 2 ^ x.qlog < ahead ∨ ahead < x.ahead →
       exec (.launchQueueTailWrite q v) s = .next (s.launchRejected q 0xFF n)) ∧
     (s.gpBusy = true → exec (.launchQueueTailWrite q v) s = .next { s with retryNext := s.retryNext ++ [.launchQueueTailWrite q v] }) ∧
     (x.packet = none → x.ahead ≠ 0 → s.badPa = none →
       let p := s.physNat (x.qbase * 4096 + 128 * (x.head % 2 ^ x.qlog)) 128
       (recordBad (p % 2 ^ 512) = none → headerBad (p / 2 ^ 512) = none → (∀ k < 4, bit (p / 2 ^ 512) (400 + k) = false) →
         Completes (.launchPacketRead q) s fun t => .packetDispatch ∈ t.agenda ∧
           t.queue q = { x with head := (x.head + 1) % 2 ^ 32, packet := some p, waits := [], todo := [], polls := [] }) ∧
       ∀ b, recordBad (p % 2 ^ 512) = some b → exec (.launchPacketRead q) s = .next (((s.launchRejected q 0x03 (6 + b * 65536)).modQueue q
         fun y => { y with head := (y.head + 1) % 2 ^ 32 }).due (.launchPacketRead q))) ∧
     (x.packet ≠ none → x.waits = [] → x.todo = [] → x.polls = [] → exec (.launchWaitMet q) s = .next (s.due .packetDispatch)) ∧
     (x.waits ≠ [] ∨ x.todo ≠ [] ∨ x.polls ≠ [] → exec (.launchWaitMet q) s = .next s)) ∧
    ∀ p b, (List.range 64).findSome? (fun v => (s.nextQueue v).map (v, ·)) = some (vi, q, p) →
      (s.queue (16 * vi + q)).packet = some b → fld b 960 64 = 0 → Completes .packetDispatch s fun t =>
        t.queue (16 * vi + q) = { s.queue (16 * vi + q) with packet := none } ∧ .launchPacketRead (16 * vi + q) ∈ t.agenda ∧
        t.grids = s.grids ++ [⟨s.gridCnt, b % 2 ^ 512, vi, (s.queue (16 * vi + q)).prio, 0, 0, some q, none, 0, 0, recordTeams (b % 2 ^ 512),
          recordTeams (b % 2 ^ 512), 0, false, none, none⟩]) ∧
  ∀ (s : State) (gen rank bits vi prio depth chips : Nat) (b : StartBarrier),
    (s.cfgGet Config.nFabEn 0 = 0 → ∀ ok, exec (.launchReplicaArrival gen rank ok bits vi prio depth chips) s = .next s) ∧
    (s.cfgGet Config.nFabEn 0 ≠ 0 → exec (.launchReplicaArrival gen rank true bits vi prio depth chips) s =
      .next (({ s with barriers := s.barriers.map fun x =>
      if x.gen = gen then { x with accepted := x.accepted ||| 2 ^ (rank % 64) } else x } : State).checkBarrier gen)) ∧
    (s.cfgGet Config.nFabEn 0 ≠ 0 → gen ∈ s.aborted → exec (.launchReplicaArrival gen rank false bits vi prio depth chips) s =
      .next { s with aborted := s.aborted.filter (· ≠ gen) }) ∧
    (s.cfgGet Config.nFabEn 0 ≠ 0 → gen ∉ s.aborted → exec (.launchReplicaArrival gen rank false bits vi prio depth chips) s =
      .next (if s.barriers.any (·.gen == gen) then s else s.joinLaunch bits vi prio depth gen chips none none none)) ∧
    (s.barriers.find? (·.gen == gen) = some b →
      ((ranksOf b.chips).all (bit b.accepted) = true → Completes (.startBarrierPass gen) s fun t =>
        t.barriers = s.barriers.filter (·.gen != gen) ∧ .teamPlacement ∈ t.agenda ∧
        t.grids = s.grids.map fun g => if some g.num = b.grid then { g with held := false } else g) ∧
      ((ranksOf b.chips).all (bit b.accepted) = false → exec (.startBarrierPass gen) s = .next s) ∧
      (b.posted = false → gen / 2 ^ 26 = s.cfgGet Config.nFabRank 0 → b.clk + s.cfgGet Config.nRemoteTo 0 ≤ s.clk →
        exec (.replicationTimeout gen) s = .next (({ s with barriers := s.barriers.map fun x =>
          if x.gen = gen then { x with posted := true } else x } : State).postEvent (b.core.getD (s.physCore b.vi 0)) 0x13 b.vi none
            [((ranksOf b.chips).find? fun r => !bit b.accepted r).getD 0, 2, 2, 0, gen])) ∧
      Completes (.replAbortWrite gen) s fun t => t.barriers = s.barriers.filter (·.gen != gen) ∧
        t.grids = s.grids.filter fun g => some g.num != b.grid)

/-- R60, R341 to R343, R345, R431, R432; the numbering of arrival kinds is the model's own, log 32 says how core-scope registers are
reached, log 53 which buffer serves an access of no core, and log 134 that with no port enabled nothing arrives. -/
def Obligations.OutsideAccesses : Prop :=
  ∀ (s : State) (rank vi h off n ty data depth e pa w number core v : Nat), s.Calm → s.kept = [] →
    let u := s.atCore 128
    let fresh := fun (i : Instr) => s.gpKept.all (·.event != i) = true
    let given := fun (x : Nat) (f : Bool) (t : State) => ({ t with gpValue := x, gpFault := f } : State)
    let value := leNat (Mem.bytes s.mem pa n)
    let stored := fun (t : State) => t.poke pa (leBytes data n)
    (∀ kind, s.cfgGet Config.nFabEn 0 = 0 → exec (.remoteAccessArrival rank vi h off n kind ty data depth) s = .next s) ∧
    (s.cfgGet Config.nFabEn 0 ≠ 0 → s.gpHeld.any (sameRank rank) = false → s.retryNext.any (sameRank rank) = false →
      (∀ k ∈ ([(0, .read), (1, .write)] : List (Nat × Right)), fresh (.remoteAccessArrival rank vi h off n k.1 ty data depth) →
        (∀ x, u.checkEntry vi h off n [k.2] none = .error x →
          exec (.remoteAccessArrival rank vi h off n k.1 ty data depth) s = .next (given x true u)) ∧
        (u.checkEntry vi h off n [k.2] none = .ok e → entWindow e = false →
          u.HeapRef ⟨vi, entBase e + off, e, vi, h % 65536, off, e, none⟩ n pa →
          exec (.remoteAccessArrival rank vi h off n k.1 ty data depth) s =
            .next (if k.1 = 0 then given value false u else given 0 false (stored u))))) ∧
    (let x := (NMap.find s.windows w).getD ⟨false, 0, 0⟩
     let a : Actor := ⟨s.physCore x.vi 0, false, x.vi, 0⟩
     ∀ k ∈ ([(0, .read), (1, .write)] : List (Nat × Right)), 
      let i : Instr := .apertureAccess w off n k.1 ty data
      fresh i → (s.gpHeld ++ s.retryNext).contains i = false →
      (x.en = false → exec (.apertureAccess w off n k.1 ty data) s = .next (given 0 true u)) ∧
      ∀ r, x.en = true → u.resolve a x.handle off n [k.2] none = .ok r → u.HeapRef r n pa →
        exec (.apertureAccess w off n k.1 ty data) s = .next (if k.1 = 0 then given value false u else given 0 false (stored u))) ∧
    (0 < n → isMemory pa = true → isMemory (pa + n - 1) = true → pa + n ≤ apertureBase →
      exec (.gpPlainAccess pa n false data) s = .next (given value false s) ∧
      exec (.gpPlainAccess pa n true data) s = .next (given 0 false (stored s))) ∧
    (∀ k < 0x1000000, exec (.gpPlainAccess (spineBase + k) 8 false data) s =
        .next (given ((s.spineRead (spineOf k)).1 % 2 ^ 64) false (s.spineRead (spineOf k)).2) ∧
      (s.gpBusy = false ∨ (∀ q, spineOf k ≠ .queue q 2) →
        exec (.gpPlainAccess (spineBase + k) 8 true data) s = .next (given 0 false (s.spinePut (spineOf k) (data % 2 ^ 64))))) ∧
    (number < 0x2000 → exec (.configRegisterWrite number core vi v) s = .next (s.spineWrite number core vi v)) ∧
    (number < 4 → number ≠ 2 ∨ s.gpBusy = false →
      exec (.configRegisterWrite (0x2000 + number) core vi v) s = .next (s.queueWrite vi number v)) ∧
    (exec (.configRegisterWrite 0x2004 core w v) s = .next { s with windows := NMap.put s.windows w ⟨bit v 38, fld v 32 6, fld v 0 32⟩ }) ∧
    (∀ r, Config.reg? number = some r → r.access = .rc → Completes (.counterReadClear number core vi) s fun t =>
      t.gpValue = s.cfgValue number core vi ∧ t.cfgGet number (scopeKey r.scope core vi) = 0) ∧
    ∀ id o far, s.op? id = some o → o.far = some far → o.timedOut = false → o.clk + s.cfgGet Config.nRemoteTo 0 ≤ s.clk →
      let late := fun (t : State) (k : Nat) => t.modOp k ({ · with timedOut := true })
      let after := fun (t : State) => ((t.postRemote o.core (o.vi?.getD 0) far.1 0 far.2.2.2 far.2.1 far.2.2.1 0).machineCheck 0x0A 3
        (s.route far.1) o.vi? 0 far.1).due (.gstopDrainComplete o.core)
      ((∀ q k, o.kind = .remote q → q.form ≠ .row k) → exec (.remoteTimeout id) s = .next (after (late s id))) ∧
      ∀ q k, o.kind = .remote q → q.form = .row k → exec (.remoteTimeout id) s = .next (after (late (late s id) k))

/-- R14, R15, R52, R315, R322, R327, R348, R452. -/
def Obligations.RegisterWrites : Prop :=
  ∀ (s : State) (c vi v n : Nat),
    (Completes (.ctRunWrite c 0) s fun t => (t.core c).ct = Group.ctReset ∧ (t.core c).entries = [] ∧ (t.core c).cur = none ∧
      (t.core c).inHandler = false ∧ (t.core c).dead = false ∧
      ((s.core c).teams = [] → (∀ e ∈ (s.core c).cur.toList ++ (s.core c).entries, e.other = none) →
        (t.core c).stopped = ((s.core c).pairStops != 0))) ∧
    (s.cfgGet Config.nCtRun c = 0 → (s.core c).entries = [] → Completes (.ctRunWrite c 1) s fun t => t.cfgGet Config.nCtRun c = 1 ∧
      t.ctRuns c = true ∧ ((t.core c).ct.lane 0).pc = s.cfgGet Config.nCtEpc c ∧ ((t.core c).ct.lane 0).clause = none) ∧
    (let slot := min (v % 2 ^ 32) 255
     (s.mayLeave c slot = false → exec (.swapOutWrite c v) s = .next (s.ctFaultAt c)) ∧
     (s.mayLeave c slot = true → s.ctBusy c = true →
       exec (.swapOutWrite c v) s = .next { s with retryNext := s.retryNext ++ [.swapOutWrite c v] }) ∧
     (s.mayLeave c slot = true → s.ctBusy c = false → exec (.swapOutWrite c v) s = .next ((s.cfgPut Config.nSwapOut c slot).swapOut c slot))) ∧
    (Completes (.viSyncWrite vi) s fun t => NMap.find t.viSync vi = some s.opSeq ∧ .viSyncComplete vi ∈ t.agenda ∧
      t.cfgValue Config.nViSync 0 vi = 1) ∧
    (NMap.find s.viSync vi = some n →
      (s.accessesLeft vi n = true → exec (.viSyncComplete vi) s = .next s) ∧
      (s.accessesLeft vi n = false → Completes (.viSyncComplete vi) s fun t => t.cfgValue Config.nViSync 0 vi = 0)) ∧
    (v < 2 ^ 31 → Completes (.ptInvalWrite vi v) s fun t => t.cfgGet Config.nPtInval vi = v ∧ (vi, v) ∈ t.ptInval) ∧
    (∀ x t0, s.ptInval.find? (·.1 == vi) = some x → s.ptInvalDone vi x.2 = .ok t0 → Completes (.ptInvalComplete vi) s fun t =>
      t.ptInval = s.ptInval.erase x ∧ t.gpHeld = [] ∧ ((s.ptInval.erase x).any (·.1 == vi) = false → t.cfgGet Config.nPtInval vi = 0)) ∧
    (v < 4 → Completes (.pwrModeWrite v) s fun t => t.cfgGet Config.nPwrMode 0 = v ∧ t.pwrNow = s.pwrNow) ∧
    (Completes .tick s fun t => t.pwrNow = s.cfgGet Config.nPwrMode 0 ∧ ∀ k < 128, (t.core k).tstamp = (s.core k).tstamp + 1) ∧
    (v < 12 ∨ v = 15 → Completes (.fabRouteWrite v) s fun t => t.route (s.cfgGet Config.nFabRidx 0) = v ∧
      ∀ r, r ≠ s.cfgGet Config.nFabRidx 0 → t.route r = s.route r) ∧
    (∀ r, Config.reg? Config.nTrcCtl = some r → Completes (.trcCtlWrite c v) s fun t => t.cfgGet Config.nTrcCtl c = r.store (v % 2 ^ 32)) ∧
    (v < 2 → Completes (.dstopEnWrite vi v) s fun t => t.cfgGet Config.nDstopEn vi = v) ∧
    ∀ k g m, s.issue.core = c → s.issue.agent = .grp k → s.group? c (.grp k) = some g → s.team? c g.team = some m →
      let r := fun n => s.cfgGet n m.vi
      let here := r Config.nDstopEn = 1 ∧ r Config.nDstopGrid = m.grid ∧ r Config.nDstopTeam = m.team ∧ r Config.nDstopGrp = g.grp ∧
        g.rwc = r Config.nDstopRwcl + 2 ^ 32 * r Config.nDstopRwch
      (here → exec (.dstopHit c k) s = .next ((s.cfgPut Config.nDstopEn m.vi 0).raise 0x29 0x200 0 0)) ∧
      (¬here → exec (.dstopHit c k) s = .next s)

/-- R328, R331, R333, R337, R338, R426, R427; storage slots are the choice of log 34, the table that a page-in takes that of log 133. -/
def Obligations.PageMoves : Prop :=
  ∀ (s : State) (vi va ea size slot src tier : Nat) (m : Migration),
    (s.migs.find? (fun x => x.kind == 2 && x.vi == vi && x.va == va) = some m → s.walk vi va = .storage ea size slot →
      let named := fun (t : State) => (t.putEntry ea (m.dst + (t.physNat ea 8 &&& 128) + 8 + 2 + 1)).endMove m.src
      exec (.pageInComplete vi va true) s = .next (named (s.copyPart m.src m.dst size)) ∧
      let hurt := (sectors m.dst size).foldl (fun l k => addTo k l) s.poison
      exec (.pageInComplete vi va false) s = .next (named
        ((({ s with mem := Mem.clear s.mem m.dst size, poison := hurt } : State).bytesFollow m.src m.dst size).postHome 0x15 vi
          [0, m.dst, 3, size / 32]))) ∧
    (s.migs.find? (fun x => x.kind == 2 && x.vi == vi && x.va == va) = none → ∀ ok, exec (.pageInComplete vi va ok) s = .next s) ∧
    (s.mig? src = some m → m.auto = none →
      let a := m.src + 64 * m.pos
      let b := m.dst + 64 * m.pos
      let clean := storeBase ≤ b → (sectors a 64).any s.poisoned = false
      (m.back = false → m.pos + 1 < m.lines → Memory.wf s = true → s.latentCe = [] → s.latentUe = [] → s.cxlLost = [] → s.hbmDown = [] →
        (a + 64 ≤ b ∨ b + 64 ≤ a) →
        (clean → Completes (.migrationLineCopy src) s fun t =>
          (∀ x, Mem.get t.mem x = if b ≤ x ∧ x < b + 64 then Mem.get s.mem (a + (x - b)) else Mem.get s.mem x) ∧
          t.mig? src = some { m with pos := m.pos + 1 } ∧ .migrationLineCopy src ∈ t.retryNext) ∧
        (¬clean → exec (.migrationLineCopy src) s = .next ((s.turnBack m 2).moveOn m.src))) ∧
      (m.back = false → m.lines ≤ m.pos → s.hbmDown = [] → exec (.migrationLineCopy src) s = .next (s.finishMove m)) ∧
      (m.back = true → m.pos = 0 → s.hbmDown = [] → exec (.migrationLineCopy src) s = .next (s.abandonMove m)) ∧
      (m.back = false → m.kind ≠ 2 → Completes (.migrationFailed src) s fun t =>
        t.mig? src = some { m with back := true, fail := some (m.pos, if s.lost m.dst then 1 else if storeBase ≤ m.dst then 2 else 0) })) ∧
    (∀ k, s.mig? src = some m → m.auto = some k → m.pos + 1 < m.lines → Completes (.migrationLineCopy src) s fun t => t.mem = s.mem ∧
      t.mig? src = some { m with pos := m.pos + 1 } ∧ .migrationLineCopy src ∈ t.retryNext ∧
      ∀ x ∈ t.autos, (x.vi, x.index, x.span) = k → x.pos = m.pos + 1) ∧
    (∀ v x e base n, s.pages = [(v, x, e, base, n)] → tierOf base = tier →
      (bit (s.physNat e 8) 3 = true →
        let u := (s.putEntry e (s.physNat e 8 - 8)).dropTrans v x n
        exec (.accessBitSweep tier) s = .next ({ u with cold := s.cold.filter (·.1 ≠ tier) } : State).balance.pagesChanged) ∧
      (bit (s.physNat e 8) 3 = false → (tier, v, x) ∉ s.cold →
        exec (.accessBitSweep tier) s = .next ({ s with cold := s.cold.filter (·.1 ≠ tier) ++ [(tier, v, x)] } : State).balance.pagesChanged)) ∧
    ∀ y f k, s.autos = [y] → y.leader = (f, k) → y.goal = none →
      (4096 ≤ k → 75 * k ≤ 100 * (Mem.get y.counts f).toNat → y.lead = some f → y.home ≠ some f → 2 ≤ y.since →
        let z : AutoSpan := { y with counts := [], goal := some (some f), lead := some f, since := 0, quiet := 0 }
        let s1 : State := { s with autos := [z] }
        exec .rehomeEpoch s = .next (s1.startRehome z) ∧
        ∀ pa, s1.spanPlace z = some pa → s1.migs.all (·.auto != some (z.vi, z.index, z.span)) = true → s1.canMove pa = true →
          (s1.basesOf z.vi (s1.spanOf z).2.1 (s1.spanOf z).2.2).any s1.moving = false →
          Completes .rehomeEpoch s fun t => t.mem = s.mem ∧ .migrationLineCopy pa ∈ t.agenda ∧ t.migs.length = s.migs.length + 1) ∧
      (k < 4096 → y.home = none → Completes .rehomeEpoch s fun t => t.mem = s.mem ∧ t.autos.map (·.home) = [none])

/-- R17, R299, R311 to R313, R410, R411. -/
def Obligations.PlacementSteps : Prop :=
  ∀ (s : State) (c team v : Nat) (m : Team) (g : Grid),
    (s.grids.all (fun x => !s.gridOver x) = true → (∀ k < 64, s.candidate k = none) → exec .teamPlacement s = .next s) ∧
    (s.candidate v = some (.fresh g) →
      let p := s.candPlace v (.fresh g)
      (∀ k < 64, k ≠ v → s.candidate k = none) → v < 64 → s.grids.all (fun x => !s.gridOver x) = true → ∀ split, p = some (c, split) →
      Completes .teamPlacement s fun t => t.mem = s.mem ∧ .teamPlacement ∈ t.agenda ∧ NMap.find t.turns 0 = some v ∧
        t.cores = (s.startTeam g c split).cores ∧
        t.grids = s.grids.map fun x => if x.num = g.num then { x with next := x.next + 1, live := x.live + 1 } else x) ∧
    (∀ n ps slot, (g.nextTeam (g.watch.bind s.watch?)).needs false = [n] → (s.core c).places n = some ps →
      lowestFree ((s.core c).teams.map (·.1)) Config.numSlots = some slot →
      ((s.startTeam g c false).team? c slot).map (fun x => (x.abBase, x.abLen, x.wbFirst, x.acsFirst, x.recFirst)) =
        some (ps.1, n.ab, ps.2.1, ps.2.2.1, ps.2.2.2)) ∧
    (let last := (NMap.find s.turns 1).getD 63
     let next := ((List.range 64).map fun i => (last + 1 + i) % 64).find? fun k => match s.candidate k with
       | some x => (s.candPlace k x).isNone
       | none => false
     Completes .quantumExpiry s fun t =>
       (next = none → t.turns = s.turns ∧ t.swapped = s.swapped ∧ t.mem = s.mem) ∧
       (∀ d k, (t.team? d k).map (·.slices) = (s.team? d k).map (·.slices + 1)) ∧
       ∀ k, next = some k → NMap.find t.turns 1 = some k ∧ (∀ w ∈ t.swapped, w.vi = k → w.ready = true) ∧
         let back := s.swapped.map fun w => if w.vi = k then { w with ready := true } else w
         let others := fun (y : Team) => decide (y.vi ≠ k) && decide (1 ≤ y.slices)
         ∀ x ∈ State.sliceVictims k others 1024 { s with turns := NMap.put s.turns 1 k, swapped := back },
           ∀ y, t.team? x.1 x.2 = some y → y.victim ≠ 0) ∧
    (s.team? c team = some m →
      (s.teamIdle c team = true → s.cfgGet Config.nSwapIdle c ≤ m.idle → m.frozen = false → m.ending = false →
        s.stuckRemote c team = false → (s.halves c team).all (fun h => s.queuesEmpty h.1 h.2) = true →
        exec (.idleSwap c team) s = .next (s.evict 2 c team)) ∧
      (s.teamIdle c team = false → exec (.idleSwap c team) s = .next s)) ∧
    (s.barHome c team = (c, team) → s.halves c team = [(c, team)] → s.team? c team = some m → m.persist = true →
      s.cfgGet Config.nWdogWin m.vi ≤ m.wdog → (s.core c).stopped = false →
      ∀ x, (s.teamGroups c team).find? (fun q => q.2.2.lanes.any (s.wdogLane c team q)) = some x → Completes (.watchdog c team) s fun t =>
        (t.core c).stopped = true ∧ t.cfgGet Config.nErrTrap m.vi = min (s.cfgGet Config.nErrTrap m.vi + 1) 0xFFFFFFFF) ∧
    (s.barHome c team = (c, team) → s.team? c team = some m → m.persist = false → exec (.watchdog c team) s = .next s)

/-- R300, R347, R424 to R427, R449, R451; the records of THERMAL and DROOP are the choice of log 33, and results written at issue that of log 36. -/
def Obligations.HealthEvents : Prop :=
  ∀ (s : State) (c n port pa : Nat),
    (Completes (.thermalReading c n) s fun t => (t.core c).celsius = n ∧ (t.core c).hot =
      if s.cfgGet Config.nThermHi 0 ≤ n then true
      else if n ≤ min (s.cfgGet Config.nThermLo 0) (s.cfgGet Config.nThermHi 0 - 1) then false else (s.core c).hot) ∧
    (let ds := ((s.core c).droops.filter fun t => s.clk < t + 1000 * s.mhz) ++ [s.clk]
     Completes (.droopEvent c) s fun t => (t.core c).droops = ds ∧ (t.core c).droopEnd =
       if s.cfgGet Config.nDroopLim 0 < ds.countP (fun t => decide (s.clk < t + 1000 * s.mhz))
       then some (s.clk + s.cfgGet Config.nDroopHold 0 * s.mhz) else (s.core c).droopEnd) ∧
    (∀ d, (s.core c).droopEnd = some d →
      (s.clk < d → exec (.droopHoldExpiry c) s = .next s) ∧
      (d ≤ s.clk → Completes (.droopHoldExpiry c) s fun t => (t.core c).droopEnd = none ∧ .teamPlacement ∈ t.agenda)) ∧
    (exec (.flitCrcError port true) s = .next (s.count Config.nErrFabCrc 0 1)) ∧
    (exec (.flitCrcError port false) s = .next ((s.count Config.nErrFabCrc 0 1).linkDown port)) ∧
    (port ∉ s.portDown → exec (.linkDown port) s = .next (({ s with portDown := addTo port s.portDown } : State).machineCheck 0x05 3 port none 0 port)) ∧
    (port ∈ s.portDown → exec (.linkDown port) s = .next s) ∧
    (n ∉ s.hbmDown →
      let k := (Mem.get s.hbmFails n).toNat + 1
      let s1 := s.count Config.nErrHbmCrc 0 1
      exec (.hbmCrcError n true) s = .next { s1 with hbmFails := Mem.set s1.hbmFails n 0 } ∧
      (k < s.cfgGet Config.nReplayLim 0 →
        exec (.hbmCrcError n false) s = .next { s1 with hbmFails := Mem.set s1.hbmFails n (BitVec.ofNat 8 k) }) ∧
      (s.cfgGet Config.nReplayLim 0 ≤ k → Completes (.hbmCrcError n false) s fun t => n ∈ t.hbmDown ∧ Mem.get t.hbmFails n = 0)) ∧
    (n ∈ s.hbmDown →
      (Completes (.hbmRetrainComplete n true) s fun t => n ∉ t.hbmDown) ∧
      exec (.hbmRetrainComplete n false) s = .next (s.machineCheck 0x05 1 (n / 256) none 0 (n % 256))) ∧
    (exec (.cxlPortError port n) s = .next ((s.count Config.nErrCxl 0 1).machineCheck 0x09 4 port none 0
      (port % 256 + n % 2 ^ 32 * 2 ^ 32))) ∧
    (Completes (.cxlDeviceLost port pa n) s fun t => (pa, n) ∈ t.cxlLost ∧ ∀ x, pa ≤ x → x < pa + n → t.lost x = true) ∧
    (exec .samplePoint s = .next (s.cores.foldl (fun t k => (List.range 4).foldl (fun t2 slot => (s.activeGroups k.1 slot).foldl (fun t3 g =>
      t3.ringPut Config.nSmpBase Config.nSmpLog Config.nSmpHead Config.nSmpTail Config.nSmpLost (s.sampleRecord k.1 slot g.1 g.2)) t2) t) s)) ∧
    (∀ base log head tail lost bs,
      let t := s.cfgGet tail 0
      2 ^ s.cfgGet log 0 ≤ (t + 2 ^ 32 - s.cfgGet head 0) % 2 ^ 32 → (s.ringPut base log head tail lost bs).mem = s.mem ∧
        (s.ringPut base log head tail lost bs).cfgGet lost 0 = min (s.cfgGet lost 0 + 1) 0xFFFFFFFF) ∧
    Completes .deadlockScan s fun t => t.dlkPrev = (List.range 64).flatMap fun v => ((s.nodes v).filter (·.waits)).map fun x =>
      (x.key, x.rwc, x.prog)

/-- R349 to R352; what of a report the spec leaves open, the image of a boot and whether it passes its checks, is free. -/
def Obligations.LifeCycleEvents : Prop :=
  ∀ (s : State) (nonce : Nat),
    let next := s.lifeNext.getD s.lifeCycle
    let gone := (next = .rma ∨ next = .decommissioned) ∧ s.lifeNext.isSome = true
    (Memory.wf s = true → Completes .partReset s fun t => Memory.wf t = true ∧
      (∀ a, Mem.get t.mem a = if 2 ^ 44 ≤ a ∧ (gone → a < storeBase) then Mem.get s.mem a else 0) ∧
      t.cfg = [] ∧ t.cores = [] ∧ t.ops = [] ∧ t.clk = 0 ∧ t.lifeCycle = next ∧ t.lifeNext = none ∧
      t.idKey = (if gone then false else if next = .provisioned ∧ s.lifeNext.isSome = true then true else s.idKey) ∧
      t.boots = s.boots + 1 ∧ (t.bootStopped = true ↔ Config.imageGood (Config.image t.boots) = false) ∧
      t.poxus = if Config.imageGood (Config.image t.boots) = true ∧ next.boots = true then some t.boots else none) ∧
    (∀ p ∈ ([(.provisionCommand, LifeCycle.provisioned, [.manufactured, .rma]), (.deployCommand true, .deployed, [.provisioned]),
        (.rmaCommand true, .rma, [.provisioned, .deployed]),
        (.decommissionCommand, .decommissioned, [.manufactured, .provisioned, .deployed, .rma])] :
          List (Instr × LifeCycle × List LifeCycle)),
      exec p.1 s = .next (if s.lifeCycle ∈ p.2.2 then { s with lifeNext := some p.2.1 } else s)) ∧
    (exec (.deployCommand false) s = .next s ∧ exec (.rmaCommand false) s = .next s) ∧
    ((s.lifeCycle = .provisioned ∨ s.lifeCycle = .deployed) ∧ s.idKey = true →
      Completes (.attestationRequest nonce) s fun t =>
        t.report.length = 4963 ∧ (t.report.drop 16).take 64 = leBytes nonce 64 ∧ t.report.take 4 = leBytes (1 + 256 * s.lifeCycle.code) 4 ∧
        (t.report.drop 208).take 64 = s.poxusDigest ∧ (t.report.drop 272).take 64 = s.configBytes ∧ t.mem = s.mem) ∧
    (¬((s.lifeCycle = .provisioned ∨ s.lifeCycle = .deployed) ∧ s.idKey = true) →
      exec (.attestationRequest nonce) s = .next { s with report := [] })

/-- R148, R150 to R152: the words of every well-formed instruction decode to it. -/
def Obligations.EncodeDecode : Prop :=
  ∀ (i : Instr) (w : Words), i.wellFormed = true → encode i = some w →
    w.bits < (if w.ext then 2 ^ 64 else 2 ^ 32) ∧ takesExt w.cls w.bits = w.ext ∧ decode w.cls true w.bits = .ok i

/-- R148, R150 to R152, R393, R394: what decodes is well formed, and its words hold every bit that was read. -/
def Obligations.DecodeEncode : Prop :=
  ∀ (c : Cls) (v : Nat) (i : Instr), decode c true v = .ok i →
    i.wellFormed = true ∧ encode i = some ⟨c, takesExt c v, v % (if takesExt c v then 2 ^ 64 else 2 ^ 32)⟩

/-- Tables En-4 to En-11: words written out from the formats, one or more of each class. -/
def Obligations.DecodeWords : Prop :=
  ∀ p ∈ ([
      (.alu, 0b00000000_0_0000011_0000001_0000010_00, .iadd false 3 1 2),
      (.alu, 0b00000010_1_0000011_0000001_111111111, .iaddi true 3 1 511),
      (.alu, 0b00101001_0_0000101_0_000000000000111, .li false 5 0 7),
      (.alu, 0b00110000_0_010_0011_0000001_0000010_01, .icmp false 2 3 1 2 1),
      (.mem, 0b00000100_0_0000011_0000001_1100_00101, .ldw false 3 1 12 5),
      (.mem, 0b00001010_0_0000011_0000001_0000_00000, .stw false 3 1 0 0),
      (.ctl, 0b00000110_0_0000000_0000000000000000, .exit)] : List (Cls × Nat × Instr)),
    decode p.1 true p.2.1 = .ok p.2.2

/-- R21, R24, R143, R148: from the bytes at the program counter to `exec` of the instruction that they decode to, with what a step adds:
the turn that it passes on, the group's issue marks, the table entries that a held access keeps, and the compare of page-table entries
that the part has written. A fault is taken in the turn of its core's first slot, where a cycle's checks are made (log 60). -/
def Obligations.StepRunsDecoded : Prop :=
  ∀ (s : State),
    (∀ e rest, s.inbox = e :: rest → s.bootStopped = false ∨ heardStopped e = true →
      step s = Out.map State.settleEntries (exec e { s with inbox := rest })) ∧
    (∀ c a off h x r pa, s.codeOf c a = (h, x) → s.resolve x h off 4 [.execute] none = .ok r → s.HeapRef r 4 pa → s.hbmDown = [] →
      s.fetch c a off = (s, .word (leNat (Mem.bytes s.mem pa 4)))) ∧
    (∀ c a (x : LaneSet) port refill h w,
      (∀ q, x.clause = some q → decodeHeader q.word = .ok h → s.fetch c a x.pc = (s, .word w) →
        (takesExt h.cls w = false → s.prep c a x port refill = .go (s.withIssue c a x.lanes x.pc q w 0 port)) ∧
        ∀ e, takesExt h.cls w = true → s.fetch c a (x.pc + 4) = (s, .word e) →
          s.prep c a x port refill = .go (s.withIssue c a x.lanes x.pc q w e port)) ∧
      ∀ v ws, x.clause = none → s.fetch c a x.pc = (s, .word v) → decodeHeader v = .ok h → h.rfl = false →
        s.clauseWords c a (x.pc + 4) h.cnt = (s, some ws) → lastWordBad h.cls h.cnt ws = false → s.fetch c a (x.pc + 4) = (s, .word w) →
        (takesExt h.cls w = false → s.prep c a x port refill = .go (s.withIssue c a x.lanes (x.pc + 4) ⟨x.pc, v⟩ w 0 port)) ∧
        ∀ e, takesExt h.cls w = true → s.fetch c a (x.pc + 4 + 4) = (s, .word e) →
          s.prep c a x port refill = .go (s.withIssue c a x.lanes (x.pc + 4) ⟨x.pc, v⟩ w e port)) ∧
    (∀ h i, decodeHeader s.issue.clause.word = .ok h → decode h.cls s.isCt (s.issue.iword + s.issue.xword * 2 ^ 32) = .ok i →
      lowestFailure (s.fieldChecks i) = none → s.decodeIssue = .ok i) ∧
    (∀ c slot n us g m x t i, s.inbox = [] → slot < 4 → s.units = (5 * c + slot) :: us → (s.core c).groups = [(n, g)] → g.islot = slot →
      s.heldSet c slot = none →
      let s0 := s.withActive c slot
      g.fresh = false → s.team? c g.team = some m → s.active c slot = [n] → s0.readySets c (.grp n) = (s0, [x]) →
      (∀ refill, s0.prep c (.grp n) x 0 refill = .go t) → exec (.dstopHit c n) t = .next t →
      t.decodeIssue = .ok i → t.me.code = [] →
      let o := Out.map (fun u => { u with kept := [] }) (exec i t.withKept)
      Out.turnedAway c n x o = none →
      (Out.faulted s0 c (.grp n) o = false → step s = Out.map State.settleEntries
        (Out.map (fun u => { u with cursor := 5 * c + slot + 1 })
          (Out.map (fun u => u.slotIssued c slot n (s0.endsYield c (.grp n) x) []) (s0.marked c (.grp n) g x none o)))) ∧
      (Out.faulted s0 c (.grp n) o = true → slot = 0 →
        step s = Out.map State.settleEntries (Out.map (fun u => { u with cursor := 5 * c + 5 }) o))) ∧
    ∀ c us x t i, s.inbox = [] → s.units = (5 * c + 4) :: us → (s.core c).entries = [] → s.readySets c .ct = (s, [x]) →
      (∀ refill, s.prep c .ct x 0 refill = .go t) → t.decodeIssue = .ok i → t.me.code = [] →
      let o := Out.map (fun u => { u with kept := [] }) (exec i t.withKept)
      step s = Out.map State.settleEntries (Out.map (fun u => { u with cursor := 5 * c + 4 + 1 })
        (s.marked c .ct (s.core c).ct x none o))

/-- R289, R350, R452: the part right after reset. The life-cycle state, and what else the spec gives no reset value, are the model's
choice (logs 4 to 6, 8, 9, 124). -/
def Obligations.ResetState : Prop :=
  let s := State.reset
  (∀ n k, s.cfgGet n k = Config.resetValue n) ∧
  (∀ p ∈ ([(0x010, 32), (0x011, 8), (0x013, 1024), (0x014, 0x80000000), (0x031, 98), (0x032, 90), (0x100, 3), (0x101, 10000),
      (0x102, 1000), (0x106, 4), (0x107, 8), (0x108, 64), (0x109, 64), (0x10A, 256), (0x10B, 1048576), (0x11B, 64), (0x11D, 1),
      (0x120, 0xA05), (0x121, 0xA05), (0x122, 0xA05), (0x123, 1000), (0x124, 100), (0x134, 15), (0x142, 0)] : List (Nat × Nat)),
    ∀ k, s.cfgGet p.1 k = p.2) ∧
  (∀ a, Mem.get s.mem a = 0) ∧ (∀ c, s.core c = Core.reset) ∧ (∀ c, s.ctRuns c = false) ∧
  (∀ l r, Core.reset.ct.reg l r = 0) ∧ Core.reset.ct.lanes = [{ Lane.start 0 with sr := 0x6D2B79F5 }] ∧
  (∀ vi v, v < 128 → s.physCore vi v = v) ∧ (∀ r, s.route r = 15) ∧ (∀ q, s.queue q = ⟨0, 0, 4, 0, 0, none, [], [], []⟩) ∧
  s.gridCnt = 1 ∧ s.clk = 0 ∧ s.grids = [] ∧ s.watches = [] ∧ s.ops = [] ∧ s.pairs = [] ∧ s.binds = [] ∧ s.storesOk = true

/-- Every step keeps the memory of the part in its canonical form, which is the model's own representation of what stores leave (R90, R203). -/
def Obligations.MemoryCanonical : Prop :=
  ∀ (s t : State), Memory.wf s = true → step s = .next t → Memory.wf t = true
end

