-- ==== Sys2Proof/Laws/Mem.lean ====
section
/-!
SUPPORT. The sparse stores: what a read gives after a write, and that every operation keeps the canonical form.
-/
namespace Sys2Proof

/-! Maps. -/

@[simp] theorem NMap.find_nil {α : Type} (k : Nat) : NMap.find ([] : NMap α) k = none := rfl

@[simp] theorem NMap.find_put_self {α : Type} (m : NMap α) (k : Nat) (v : α) : NMap.find (NMap.put m k v) k = some v := by
  induction m with
  | nil => simp [NMap.put, NMap.find]
  | cons p t ih =>
    obtain ⟨j, w⟩ := p
    simp only [NMap.put]
    split
    · simp [NMap.find]
    · split
      · simp [NMap.find]
      · rw [NMap.find, if_neg (by omega)]
        exact ih

theorem NMap.find_put_ne {α : Type} (m : NMap α) {k j : Nat} (v : α) (h : j ≠ k) :
    NMap.find (NMap.put m k v) j = NMap.find m j := by
  induction m with
  | nil => simp [NMap.put, NMap.find, Ne.symm h]
  | cons p t ih =>
    obtain ⟨i, w⟩ := p
    simp only [NMap.put]
    split
    · rw [NMap.find, if_neg (Ne.symm h)]
    · split
      · subst i
        simp [NMap.find, Ne.symm h]
      · simp only [NMap.find, ih]

@[simp] theorem NMap.find_drop_self {α : Type} (m : NMap α) (k : Nat) : NMap.find (NMap.drop m k) k = none := by
  induction m with
  | nil => rfl
  | cons p t ih =>
    obtain ⟨j, w⟩ := p
    simp only [NMap.drop]
    split
    · exact ih
    · rw [NMap.find, if_neg ‹_›]
      exact ih

theorem NMap.find_drop_ne {α : Type} (m : NMap α) {k j : Nat} (h : j ≠ k) : NMap.find (NMap.drop m k) j = NMap.find m j := by
  induction m with
  | nil => rfl
  | cons p t ih =>
    obtain ⟨i, w⟩ := p
    simp only [NMap.drop]
    split
    · subst i
      rw [ih, NMap.find, if_neg (Ne.symm h)]
    · simp only [NMap.find, ih]

/-! Cells. -/

@[simp] theorem Mem.get_nil {w : Nat} (k : Nat) : Mem.get ([] : Mem w) k = 0 := rfl

@[simp] theorem Mem.get_set_self {w : Nat} (m : Mem w) (k : Nat) (v : BitVec w) : Mem.get (Mem.set m k v) k = v := by
  unfold Mem.get Mem.set
  split
  · simp [*]
  · simp

theorem Mem.get_set_ne {w : Nat} (m : Mem w) {k j : Nat} (v : BitVec w) (h : j ≠ k) :
    Mem.get (Mem.set m k v) j = Mem.get m j := by
  unfold Mem.get Mem.set
  split
  · rw [NMap.find_drop_ne m h]
  · rw [NMap.find_put_ne m v h]

theorem Mem.get_set {w : Nat} (m : Mem w) (k j : Nat) (v : BitVec w) :
    Mem.get (Mem.set m k v) j = if j = k then v else Mem.get m j := by
  split
  · subst j
    exact Mem.get_set_self m k v
  · exact Mem.get_set_ne m v ‹_›

/-! Runs of bytes. -/

@[simp] theorem Mem.length_bytes (m : Mem 8) (k n : Nat) : (Mem.bytes m k n).length = n := by
  induction n generalizing k with
  | zero => rfl
  | succ n ih => simp [Mem.bytes, ih]

@[simp] theorem leBytes_length (v n : Nat) : (leBytes v n).length = n := by
  induction n generalizing v with
  | zero => rfl
  | succ n ih => simp [leBytes, ih]

/-- A byte outside the written run keeps its value. -/
theorem Mem.get_setBytes_outside (bs : List Byte) (m : Mem 8) (k j : Nat) (h : j < k ∨ k + bs.length ≤ j) :
    Mem.get (Mem.setBytes m k bs) j = Mem.get m j := by
  induction bs generalizing m k with
  | nil => rfl
  | cons b bs ih =>
    rw [Mem.setBytes, ih, Mem.get_set_ne]
    · simp only [List.length_cons] at h; omega
    · simp only [List.length_cons] at h; omega

/-- A byte inside the written run holds the byte written there. -/
theorem Mem.get_setBytes_inside (bs : List Byte) (m : Mem 8) (k i : Nat) (h : i < bs.length) :
    Mem.get (Mem.setBytes m k bs) (k + i) = bs[i] := by
  induction bs generalizing m k i with
  | nil => simp at h
  | cons b bs ih =>
    rw [Mem.setBytes]
    cases i with
    | zero =>
      rw [Mem.get_setBytes_outside _ _ _ _ (by omega)]
      simp
    | succ i =>
      rw [show k + (i + 1) = k + 1 + i by omega, ih _ _ _ (by simpa using h)]
      simp

/-- A run reads back as it was written. -/
theorem Mem.bytes_setBytes (bs : List Byte) (m : Mem 8) (k : Nat) : Mem.bytes (Mem.setBytes m k bs) k bs.length = bs := by
  induction bs generalizing m k with
  | nil => rfl
  | cons b bs ih =>
    rw [List.length_cons, Mem.bytes, Mem.setBytes, ih, Mem.get_setBytes_outside _ _ _ _ (by omega), Mem.get_set_self]

/-- A run that a write does not touch reads as before. -/
theorem Mem.bytes_setBytes_outside (bs : List Byte) (m : Mem 8) (k j n : Nat) (h : j + n ≤ k ∨ k + bs.length ≤ j) :
    Mem.bytes (Mem.setBytes m k bs) j n = Mem.bytes m j n := by
  induction n generalizing j with
  | zero => rfl
  | succ n ih =>
    rw [Mem.bytes, Mem.bytes, Mem.get_setBytes_outside _ _ _ _ (by omega), ih _ (by omega)]

/-! Numbers and their bytes. -/

/-- The number of `n` bytes of `v` is `v` modulo 256^n (R4). -/
theorem leNat_leBytes (v n : Nat) : leNat (leBytes v n) = v % 256 ^ n := by
  induction n generalizing v with
  | zero => simp [leBytes, leNat, Nat.mod_one]
  | succ n ih =>
    rw [leBytes, leNat, ih, BitVec.toNat_ofNat, show (256 : Nat) ^ (n + 1) = 256 * 256 ^ n from Nat.pow_succ', Nat.mod_mul]

/-- The bytes of the number of some bytes are those bytes (R4). -/
theorem leBytes_leNat (bs : List Byte) : leBytes (leNat bs) bs.length = bs := by
  induction bs with
  | nil => rfl
  | cons b bs ih =>
    rw [leNat, List.length_cons, leBytes]
    have h := b.isLt
    rw [show (b.toNat + 256 * leNat bs) / 256 = leNat bs by omega, ih]
    congr 1
    apply BitVec.eq_of_toNat_eq
    rw [BitVec.toNat_ofNat]
    omega

/-! The canonical form. -/

/-- The numbers of the cells rise and stand above `lo`, and no cell holds 0. -/
def Mem.above {w : Nat} (lo : Nat) : Mem w → Prop
  | [] => True
  | (j, v) :: t => lo ≤ j ∧ v ≠ 0 ∧ Mem.above (j + 1) t

theorem Mem.above_mono {w : Nat} {lo k : Nat} {m : Mem w} (h : Mem.above lo m) (hk : k ≤ lo) : Mem.above k m := by
  cases m with
  | nil => trivial
  | cons p t => exact ⟨by have := h.1; omega, h.2⟩

/-- The canonical form is that of rising cells. -/
theorem Mem.wf_iff_above {w : Nat} (m : Mem w) : Mem.wf m = true ↔ Mem.above 0 m := by
  induction m with
  | nil => simp [Mem.wf, Mem.above]
  | cons p t ih =>
    obtain ⟨j, v⟩ := p
    cases t with
    | nil => simp [Mem.wf, Mem.above]
    | cons q t =>
      obtain ⟨k, u⟩ := q
      simp only [Mem.wf, Bool.and_eq_true, decide_eq_true_eq, ih, Mem.above, Nat.zero_le, true_and]
      constructor
      · rintro ⟨⟨hv, hjk⟩, hu, ht⟩
        exact ⟨hv, by omega, hu, ht⟩
      · rintro ⟨hv, hjk, hu, ht⟩
        exact ⟨⟨hv, by omega⟩, hu, ht⟩

theorem Mem.above_put {w : Nat} {m : Mem w} {lo k : Nat} {v : BitVec w} (h : Mem.above lo m) (hk : lo ≤ k) (hv : v ≠ 0) :
    Mem.above lo (NMap.put m k v) := by
  induction m generalizing lo with
  | nil => exact ⟨hk, hv, trivial⟩
  | cons p t ih =>
    obtain ⟨j, u⟩ := p
    obtain ⟨h1, h2, h3⟩ := h
    simp only [NMap.put]
    split
    · exact ⟨hk, hv, by omega, h2, h3⟩
    · split
      · subst j
        exact ⟨h1, hv, h3⟩
      · exact ⟨h1, h2, ih h3 (by omega)⟩

theorem Mem.above_drop {w : Nat} {m : Mem w} {lo : Nat} (k : Nat) (h : Mem.above lo m) : Mem.above lo (NMap.drop m k) := by
  induction m generalizing lo with
  | nil => trivial
  | cons p t ih =>
    obtain ⟨j, u⟩ := p
    obtain ⟨h1, h2, h3⟩ := h
    simp only [NMap.drop]
    split
    · exact Mem.above_mono (ih h3) (by omega)
    · exact ⟨h1, h2, ih h3⟩

theorem Mem.above_filter {w : Nat} {m : Mem w} {lo : Nat} (p : Nat × BitVec w → Bool) (h : Mem.above lo m) :
    Mem.above lo (m.filter p) := by
  induction m generalizing lo with
  | nil => trivial
  | cons q t ih =>
    obtain ⟨h1, h2, h3⟩ := h
    rw [List.filter_cons]
    split
    · exact ⟨h1, h2, ih h3⟩
    · exact Mem.above_mono (ih h3) (by omega)

/-- Writing a cell keeps the canonical form. -/
theorem Mem.wf_set {w : Nat} {m : Mem w} (k : Nat) (v : BitVec w) (h : Mem.wf m = true) : Mem.wf (Mem.set m k v) = true := by
  rw [Mem.wf_iff_above] at *
  unfold Mem.set
  split
  · exact Mem.above_drop k h
  · exact Mem.above_put h (Nat.zero_le k) ‹_›

/-- Writing bytes keeps the canonical form. -/
theorem Mem.wf_setBytes {m : Mem 8} (k : Nat) (bs : List Byte) (h : Mem.wf m = true) : Mem.wf (Mem.setBytes m k bs) = true := by
  induction bs generalizing m k with
  | nil => exact h
  | cons b bs ih => exact ih (k + 1) (Mem.wf_set k b h)

/-- Dropping cells keeps the canonical form. -/
theorem Mem.wf_filter {w : Nat} {m : Mem w} (p : Nat × BitVec w → Bool) (h : Mem.wf m = true) : Mem.wf (m.filter p) = true := by
  rw [Mem.wf_iff_above] at *
  exact Mem.above_filter p h

/-- Clearing cells keeps the canonical form. -/
theorem Mem.wf_clear {w : Nat} {m : Mem w} (lo n : Nat) (h : Mem.wf m = true) : Mem.wf (Mem.clear m lo n) = true :=
  Mem.wf_filter _ h

/-- Two canonical stores that read alike in every cell are equal. -/
theorem Mem.ext_above {w : Nat} {m n : Mem w} {lo : Nat} (hm : Mem.above lo m) (hn : Mem.above lo n)
    (h : ∀ k, Mem.get m k = Mem.get n k) : m = n := by
  have low : ∀ {x : Mem w} {a k : Nat}, Mem.above a x → k < a → Mem.get x k = 0 := by
    intro x
    induction x with
    | nil => intros; rfl
    | cons p t ih =>
      intro a k hx hk
      obtain ⟨j, v⟩ := p
      obtain ⟨h1, h2, h3⟩ := hx
      unfold Mem.get
      rw [NMap.find, if_neg (by omega)]
      exact ih h3 (by omega)
  have tail : ∀ (j : Nat) (v : BitVec w) (t : Mem w) (k : Nat), k ≠ j → Mem.get ((j, v) :: t) k = Mem.get t k := by
    intro j v t k hk
    unfold Mem.get
    rw [NMap.find, if_neg (Ne.symm hk)]
  have head : ∀ (j : Nat) (v : BitVec w) (t : Mem w), Mem.get ((j, v) :: t) j = v := by
    intro j v t
    simp [Mem.get, NMap.find]
  induction m generalizing n lo with
  | nil =>
    cases n with
    | nil => rfl
    | cons q s =>
      have := h q.1
      rw [head q.1 q.2 s] at this
      exact absurd this.symm hn.2.1
  | cons p t ih =>
    obtain ⟨j, v⟩ := p
    cases n with
    | nil =>
      have := h j
      rw [head] at this
      exact absurd this hm.2.1
    | cons q s =>
      obtain ⟨k, u⟩ := q
      obtain ⟨h1, h2, h3⟩ := hm
      obtain ⟨g1, g2, g3⟩ := hn
      have hjk : j = k := by
        rcases Nat.lt_trichotomy j k with hlt | heq | hgt
        · have := h j
          rw [head, low (x := (k, u) :: s) (a := k) ⟨Nat.le_refl k, g2, g3⟩ hlt] at this
          exact absurd this h2
        · exact heq
        · have := h k
          rw [head, low (x := (j, v) :: t) (a := j) ⟨Nat.le_refl j, h2, h3⟩ hgt] at this
          exact absurd this.symm g2
      subst k
      have hv : v = u := by
        have := h j
        rwa [head, head] at this
      subst u
      rw [ih h3 g3 (fun k => ?_)]
      by_cases hk : k = j
      · subst k
        rw [low h3 (by omega), low g3 (by omega)]
      · have := h k
        rwa [tail _ _ _ _ hk, tail _ _ _ _ hk] at this

/-- Equal memories are equal data: canonical stores that read alike are one store. -/
theorem Mem.ext {w : Nat} {m n : Mem w} (hm : Mem.wf m = true) (hn : Mem.wf n = true) (h : ∀ k, Mem.get m k = Mem.get n k) :
    m = n :=
  Mem.ext_above ((Mem.wf_iff_above m).mp hm) ((Mem.wf_iff_above n).mp hn) h

end Sys2Proof
end

