-- ==== Sys2Proof/Laws/State.lean ====
section
/-!
SUPPORT. What each named update of the state leaves as it was, field by field, and what it changes.
-/
namespace Sys2Proof.Machine

/-! modCore. -/

@[simp] theorem State.modCore_clk (s : State) (c : Nat) (f : Core → Core) : (s.modCore c f).clk = s.clk := rfl
@[simp] theorem State.modCore_mem (s : State) (c : Nat) (f : Core → Core) : (s.modCore c f).mem = s.mem := rfl
@[simp] theorem State.modCore_poison (s : State) (c : Nat) (f : Core → Core) : (s.modCore c f).poison = s.poison := rfl
@[simp] theorem State.modCore_latentCe (s : State) (c : Nat) (f : Core → Core) : (s.modCore c f).latentCe = s.latentCe := rfl
@[simp] theorem State.modCore_latentUe (s : State) (c : Nat) (f : Core → Core) : (s.modCore c f).latentUe = s.latentUe := rfl
@[simp] theorem State.modCore_ceCounts (s : State) (c : Nat) (f : Core → Core) : (s.modCore c f).ceCounts = s.ceCounts := rfl
@[simp] theorem State.modCore_cfg (s : State) (c : Nat) (f : Core → Core) : (s.modCore c f).cfg = s.cfg := rfl
@[simp] theorem State.modCore_vcoreMap (s : State) (c : Nat) (f : Core → Core) : (s.modCore c f).vcoreMap = s.vcoreMap := rfl
@[simp] theorem State.modCore_fabRoute (s : State) (c : Nat) (f : Core → Core) : (s.modCore c f).fabRoute = s.fabRoute := rfl
@[simp] theorem State.modCore_lq (s : State) (c : Nat) (f : Core → Core) : (s.modCore c f).lq = s.lq := rfl
@[simp] theorem State.modCore_windows (s : State) (c : Nat) (f : Core → Core) : (s.modCore c f).windows = s.windows := rfl
@[simp] theorem State.modCore_cxlLost (s : State) (c : Nat) (f : Core → Core) : (s.modCore c f).cxlLost = s.cxlLost := rfl
@[simp] theorem State.modCore_claims (s : State) (c : Nat) (f : Core → Core) : (s.modCore c f).claims = s.claims := rfl
@[simp] theorem State.modCore_lifeCycle (s : State) (c : Nat) (f : Core → Core) : (s.modCore c f).lifeCycle = s.lifeCycle := rfl
@[simp] theorem State.modCore_lifeNext (s : State) (c : Nat) (f : Core → Core) : (s.modCore c f).lifeNext = s.lifeNext := rfl
@[simp] theorem State.modCore_idKey (s : State) (c : Nat) (f : Core → Core) : (s.modCore c f).idKey = s.idKey := rfl
@[simp] theorem State.modCore_boots (s : State) (c : Nat) (f : Core → Core) : (s.modCore c f).boots = s.boots := rfl
@[simp] theorem State.modCore_bootStopped (s : State) (c : Nat) (f : Core → Core) : (s.modCore c f).bootStopped = s.bootStopped := rfl
@[simp] theorem State.modCore_poxus (s : State) (c : Nat) (f : Core → Core) : (s.modCore c f).poxus = s.poxus := rfl
@[simp] theorem State.modCore_watches (s : State) (c : Nat) (f : Core → Core) : (s.modCore c f).watches = s.watches := rfl
@[simp] theorem State.modCore_watchSeq (s : State) (c : Nat) (f : Core → Core) : (s.modCore c f).watchSeq = s.watchSeq := rfl
@[simp] theorem State.modCore_trigs (s : State) (c : Nat) (f : Core → Core) : (s.modCore c f).trigs = s.trigs := rfl
@[simp] theorem State.modCore_pushed (s : State) (c : Nat) (f : Core → Core) : (s.modCore c f).pushed = s.pushed := rfl
@[simp] theorem State.modCore_binds (s : State) (c : Nat) (f : Core → Core) : (s.modCore c f).binds = s.binds := rfl
@[simp] theorem State.modCore_pairs (s : State) (c : Nat) (f : Core → Core) : (s.modCore c f).pairs = s.pairs := rfl
@[simp] theorem State.modCore_ops (s : State) (c : Nat) (f : Core → Core) : (s.modCore c f).ops = s.ops := rfl
@[simp] theorem State.modCore_opSeq (s : State) (c : Nat) (f : Core → Core) : (s.modCore c f).opSeq = s.opSeq := rfl
@[simp] theorem State.modCore_grids (s : State) (c : Nat) (f : Core → Core) : (s.modCore c f).grids = s.grids := rfl
@[simp] theorem State.modCore_gridCnt (s : State) (c : Nat) (f : Core → Core) : (s.modCore c f).gridCnt = s.gridCnt := rfl
@[simp] theorem State.modCore_swapped (s : State) (c : Nat) (f : Core → Core) : (s.modCore c f).swapped = s.swapped := rfl
@[simp] theorem State.modCore_held (s : State) (c : Nat) (f : Core → Core) : (s.modCore c f).held = s.held := rfl
@[simp] theorem State.modCore_replCnt (s : State) (c : Nat) (f : Core → Core) : (s.modCore c f).replCnt = s.replCnt := rfl
@[simp] theorem State.modCore_barriers (s : State) (c : Nat) (f : Core → Core) : (s.modCore c f).barriers = s.barriers := rfl
@[simp] theorem State.modCore_migs (s : State) (c : Nat) (f : Core → Core) : (s.modCore c f).migs = s.migs := rfl
@[simp] theorem State.modCore_tlb (s : State) (c : Nat) (f : Core → Core) : (s.modCore c f).tlb = s.tlb := rfl
@[simp] theorem State.modCore_ptes (s : State) (c : Nat) (f : Core → Core) : (s.modCore c f).ptes = s.ptes := rfl
@[simp] theorem State.modCore_kept (s : State) (c : Nat) (f : Core → Core) : (s.modCore c f).kept = s.kept := rfl
@[simp] theorem State.modCore_asked (s : State) (c : Nat) (f : Core → Core) : (s.modCore c f).asked = s.asked := rfl
@[simp] theorem State.modCore_autos (s : State) (c : Nat) (f : Core → Core) : (s.modCore c f).autos = s.autos := rfl
@[simp] theorem State.modCore_hbmDown (s : State) (c : Nat) (f : Core → Core) : (s.modCore c f).hbmDown = s.hbmDown := rfl
@[simp] theorem State.modCore_hbmFails (s : State) (c : Nat) (f : Core → Core) : (s.modCore c f).hbmFails = s.hbmFails := rfl
@[simp] theorem State.modCore_portDown (s : State) (c : Nat) (f : Core → Core) : (s.modCore c f).portDown = s.portDown := rfl
@[simp] theorem State.modCore_pwrNow (s : State) (c : Nat) (f : Core → Core) : (s.modCore c f).pwrNow = s.pwrNow := rfl
@[simp] theorem State.modCore_viSync (s : State) (c : Nat) (f : Core → Core) : (s.modCore c f).viSync = s.viSync := rfl
@[simp] theorem State.modCore_ptInval (s : State) (c : Nat) (f : Core → Core) : (s.modCore c f).ptInval = s.ptInval := rfl
@[simp] theorem State.modCore_turns (s : State) (c : Nat) (f : Core → Core) : (s.modCore c f).turns = s.turns := rfl
@[simp] theorem State.modCore_dlkPrev (s : State) (c : Nat) (f : Core → Core) : (s.modCore c f).dlkPrev = s.dlkPrev := rfl
@[simp] theorem State.modCore_dlkDone (s : State) (c : Nat) (f : Core → Core) : (s.modCore c f).dlkDone = s.dlkDone := rfl
@[simp] theorem State.modCore_aborted (s : State) (c : Nat) (f : Core → Core) : (s.modCore c f).aborted = s.aborted := rfl
@[simp] theorem State.modCore_promos (s : State) (c : Nat) (f : Core → Core) : (s.modCore c f).promos = s.promos := rfl
@[simp] theorem State.modCore_cold (s : State) (c : Nat) (f : Core → Core) : (s.modCore c f).cold = s.cold := rfl
@[simp] theorem State.modCore_report (s : State) (c : Nat) (f : Core → Core) : (s.modCore c f).report = s.report := rfl
@[simp] theorem State.modCore_gpValue (s : State) (c : Nat) (f : Core → Core) : (s.modCore c f).gpValue = s.gpValue := rfl
@[simp] theorem State.modCore_gpFault (s : State) (c : Nat) (f : Core → Core) : (s.modCore c f).gpFault = s.gpFault := rfl
@[simp] theorem State.modCore_gpHeld (s : State) (c : Nat) (f : Core → Core) : (s.modCore c f).gpHeld = s.gpHeld := rfl
@[simp] theorem State.modCore_gpKept (s : State) (c : Nat) (f : Core → Core) : (s.modCore c f).gpKept = s.gpKept := rfl
@[simp] theorem State.modCore_retryNext (s : State) (c : Nat) (f : Core → Core) : (s.modCore c f).retryNext = s.retryNext := rfl
@[simp] theorem State.modCore_inbox (s : State) (c : Nat) (f : Core → Core) : (s.modCore c f).inbox = s.inbox := rfl
@[simp] theorem State.modCore_agenda (s : State) (c : Nat) (f : Core → Core) : (s.modCore c f).agenda = s.agenda := rfl
@[simp] theorem State.modCore_cursor (s : State) (c : Nat) (f : Core → Core) : (s.modCore c f).cursor = s.cursor := rfl
@[simp] theorem State.modCore_issue (s : State) (c : Nat) (f : Core → Core) : (s.modCore c f).issue = s.issue := rfl
@[simp] theorem State.modCore_freeCtr (s : State) (c : Nat) (f : Core → Core) : (s.modCore c f).freeCtr = s.freeCtr := rfl
@[simp] theorem State.modCore_badPa (s : State) (c : Nat) (f : Core → Core) : (s.modCore c f).badPa = s.badPa := rfl

/-! modGroup. -/

@[simp] theorem State.modGroup_clk (s : State) (c : Nat) (a : Agent) (f : Group → Group) : (s.modGroup c a f).clk = s.clk := rfl
@[simp] theorem State.modGroup_mem (s : State) (c : Nat) (a : Agent) (f : Group → Group) : (s.modGroup c a f).mem = s.mem := rfl
@[simp] theorem State.modGroup_poison (s : State) (c : Nat) (a : Agent) (f : Group → Group) : (s.modGroup c a f).poison = s.poison := rfl
@[simp] theorem State.modGroup_latentCe (s : State) (c : Nat) (a : Agent) (f : Group → Group) : (s.modGroup c a f).latentCe = s.latentCe := rfl
@[simp] theorem State.modGroup_latentUe (s : State) (c : Nat) (a : Agent) (f : Group → Group) : (s.modGroup c a f).latentUe = s.latentUe := rfl
@[simp] theorem State.modGroup_ceCounts (s : State) (c : Nat) (a : Agent) (f : Group → Group) : (s.modGroup c a f).ceCounts = s.ceCounts := rfl
@[simp] theorem State.modGroup_cfg (s : State) (c : Nat) (a : Agent) (f : Group → Group) : (s.modGroup c a f).cfg = s.cfg := rfl
@[simp] theorem State.modGroup_vcoreMap (s : State) (c : Nat) (a : Agent) (f : Group → Group) : (s.modGroup c a f).vcoreMap = s.vcoreMap := rfl
@[simp] theorem State.modGroup_fabRoute (s : State) (c : Nat) (a : Agent) (f : Group → Group) : (s.modGroup c a f).fabRoute = s.fabRoute := rfl
@[simp] theorem State.modGroup_lq (s : State) (c : Nat) (a : Agent) (f : Group → Group) : (s.modGroup c a f).lq = s.lq := rfl
@[simp] theorem State.modGroup_windows (s : State) (c : Nat) (a : Agent) (f : Group → Group) : (s.modGroup c a f).windows = s.windows := rfl
@[simp] theorem State.modGroup_cxlLost (s : State) (c : Nat) (a : Agent) (f : Group → Group) : (s.modGroup c a f).cxlLost = s.cxlLost := rfl
@[simp] theorem State.modGroup_claims (s : State) (c : Nat) (a : Agent) (f : Group → Group) : (s.modGroup c a f).claims = s.claims := rfl
@[simp] theorem State.modGroup_lifeCycle (s : State) (c : Nat) (a : Agent) (f : Group → Group) : (s.modGroup c a f).lifeCycle = s.lifeCycle := rfl
@[simp] theorem State.modGroup_lifeNext (s : State) (c : Nat) (a : Agent) (f : Group → Group) : (s.modGroup c a f).lifeNext = s.lifeNext := rfl
@[simp] theorem State.modGroup_idKey (s : State) (c : Nat) (a : Agent) (f : Group → Group) : (s.modGroup c a f).idKey = s.idKey := rfl
@[simp] theorem State.modGroup_boots (s : State) (c : Nat) (a : Agent) (f : Group → Group) : (s.modGroup c a f).boots = s.boots := rfl
@[simp] theorem State.modGroup_bootStopped (s : State) (c : Nat) (a : Agent) (f : Group → Group) : (s.modGroup c a f).bootStopped = s.bootStopped := rfl
@[simp] theorem State.modGroup_poxus (s : State) (c : Nat) (a : Agent) (f : Group → Group) : (s.modGroup c a f).poxus = s.poxus := rfl
@[simp] theorem State.modGroup_watches (s : State) (c : Nat) (a : Agent) (f : Group → Group) : (s.modGroup c a f).watches = s.watches := rfl
@[simp] theorem State.modGroup_watchSeq (s : State) (c : Nat) (a : Agent) (f : Group → Group) : (s.modGroup c a f).watchSeq = s.watchSeq := rfl
@[simp] theorem State.modGroup_trigs (s : State) (c : Nat) (a : Agent) (f : Group → Group) : (s.modGroup c a f).trigs = s.trigs := rfl
@[simp] theorem State.modGroup_pushed (s : State) (c : Nat) (a : Agent) (f : Group → Group) : (s.modGroup c a f).pushed = s.pushed := rfl
@[simp] theorem State.modGroup_binds (s : State) (c : Nat) (a : Agent) (f : Group → Group) : (s.modGroup c a f).binds = s.binds := rfl
@[simp] theorem State.modGroup_pairs (s : State) (c : Nat) (a : Agent) (f : Group → Group) : (s.modGroup c a f).pairs = s.pairs := rfl
@[simp] theorem State.modGroup_ops (s : State) (c : Nat) (a : Agent) (f : Group → Group) : (s.modGroup c a f).ops = s.ops := rfl
@[simp] theorem State.modGroup_opSeq (s : State) (c : Nat) (a : Agent) (f : Group → Group) : (s.modGroup c a f).opSeq = s.opSeq := rfl
@[simp] theorem State.modGroup_grids (s : State) (c : Nat) (a : Agent) (f : Group → Group) : (s.modGroup c a f).grids = s.grids := rfl
@[simp] theorem State.modGroup_gridCnt (s : State) (c : Nat) (a : Agent) (f : Group → Group) : (s.modGroup c a f).gridCnt = s.gridCnt := rfl
@[simp] theorem State.modGroup_swapped (s : State) (c : Nat) (a : Agent) (f : Group → Group) : (s.modGroup c a f).swapped = s.swapped := rfl
@[simp] theorem State.modGroup_held (s : State) (c : Nat) (a : Agent) (f : Group → Group) : (s.modGroup c a f).held = s.held := rfl
@[simp] theorem State.modGroup_replCnt (s : State) (c : Nat) (a : Agent) (f : Group → Group) : (s.modGroup c a f).replCnt = s.replCnt := rfl
@[simp] theorem State.modGroup_barriers (s : State) (c : Nat) (a : Agent) (f : Group → Group) : (s.modGroup c a f).barriers = s.barriers := rfl
@[simp] theorem State.modGroup_migs (s : State) (c : Nat) (a : Agent) (f : Group → Group) : (s.modGroup c a f).migs = s.migs := rfl
@[simp] theorem State.modGroup_tlb (s : State) (c : Nat) (a : Agent) (f : Group → Group) : (s.modGroup c a f).tlb = s.tlb := rfl
@[simp] theorem State.modGroup_ptes (s : State) (c : Nat) (a : Agent) (f : Group → Group) : (s.modGroup c a f).ptes = s.ptes := rfl
@[simp] theorem State.modGroup_kept (s : State) (c : Nat) (a : Agent) (f : Group → Group) : (s.modGroup c a f).kept = s.kept := rfl
@[simp] theorem State.modGroup_asked (s : State) (c : Nat) (a : Agent) (f : Group → Group) : (s.modGroup c a f).asked = s.asked := rfl
@[simp] theorem State.modGroup_autos (s : State) (c : Nat) (a : Agent) (f : Group → Group) : (s.modGroup c a f).autos = s.autos := rfl
@[simp] theorem State.modGroup_hbmDown (s : State) (c : Nat) (a : Agent) (f : Group → Group) : (s.modGroup c a f).hbmDown = s.hbmDown := rfl
@[simp] theorem State.modGroup_hbmFails (s : State) (c : Nat) (a : Agent) (f : Group → Group) : (s.modGroup c a f).hbmFails = s.hbmFails := rfl
@[simp] theorem State.modGroup_portDown (s : State) (c : Nat) (a : Agent) (f : Group → Group) : (s.modGroup c a f).portDown = s.portDown := rfl
@[simp] theorem State.modGroup_pwrNow (s : State) (c : Nat) (a : Agent) (f : Group → Group) : (s.modGroup c a f).pwrNow = s.pwrNow := rfl
@[simp] theorem State.modGroup_viSync (s : State) (c : Nat) (a : Agent) (f : Group → Group) : (s.modGroup c a f).viSync = s.viSync := rfl
@[simp] theorem State.modGroup_ptInval (s : State) (c : Nat) (a : Agent) (f : Group → Group) : (s.modGroup c a f).ptInval = s.ptInval := rfl
@[simp] theorem State.modGroup_turns (s : State) (c : Nat) (a : Agent) (f : Group → Group) : (s.modGroup c a f).turns = s.turns := rfl
@[simp] theorem State.modGroup_dlkPrev (s : State) (c : Nat) (a : Agent) (f : Group → Group) : (s.modGroup c a f).dlkPrev = s.dlkPrev := rfl
@[simp] theorem State.modGroup_dlkDone (s : State) (c : Nat) (a : Agent) (f : Group → Group) : (s.modGroup c a f).dlkDone = s.dlkDone := rfl
@[simp] theorem State.modGroup_aborted (s : State) (c : Nat) (a : Agent) (f : Group → Group) : (s.modGroup c a f).aborted = s.aborted := rfl
@[simp] theorem State.modGroup_promos (s : State) (c : Nat) (a : Agent) (f : Group → Group) : (s.modGroup c a f).promos = s.promos := rfl
@[simp] theorem State.modGroup_cold (s : State) (c : Nat) (a : Agent) (f : Group → Group) : (s.modGroup c a f).cold = s.cold := rfl
@[simp] theorem State.modGroup_report (s : State) (c : Nat) (a : Agent) (f : Group → Group) : (s.modGroup c a f).report = s.report := rfl
@[simp] theorem State.modGroup_gpValue (s : State) (c : Nat) (a : Agent) (f : Group → Group) : (s.modGroup c a f).gpValue = s.gpValue := rfl
@[simp] theorem State.modGroup_gpFault (s : State) (c : Nat) (a : Agent) (f : Group → Group) : (s.modGroup c a f).gpFault = s.gpFault := rfl
@[simp] theorem State.modGroup_gpHeld (s : State) (c : Nat) (a : Agent) (f : Group → Group) : (s.modGroup c a f).gpHeld = s.gpHeld := rfl
@[simp] theorem State.modGroup_gpKept (s : State) (c : Nat) (a : Agent) (f : Group → Group) : (s.modGroup c a f).gpKept = s.gpKept := rfl
@[simp] theorem State.modGroup_retryNext (s : State) (c : Nat) (a : Agent) (f : Group → Group) : (s.modGroup c a f).retryNext = s.retryNext := rfl
@[simp] theorem State.modGroup_inbox (s : State) (c : Nat) (a : Agent) (f : Group → Group) : (s.modGroup c a f).inbox = s.inbox := rfl
@[simp] theorem State.modGroup_agenda (s : State) (c : Nat) (a : Agent) (f : Group → Group) : (s.modGroup c a f).agenda = s.agenda := rfl
@[simp] theorem State.modGroup_cursor (s : State) (c : Nat) (a : Agent) (f : Group → Group) : (s.modGroup c a f).cursor = s.cursor := rfl
@[simp] theorem State.modGroup_issue (s : State) (c : Nat) (a : Agent) (f : Group → Group) : (s.modGroup c a f).issue = s.issue := rfl
@[simp] theorem State.modGroup_freeCtr (s : State) (c : Nat) (a : Agent) (f : Group → Group) : (s.modGroup c a f).freeCtr = s.freeCtr := rfl
@[simp] theorem State.modGroup_badPa (s : State) (c : Nat) (a : Agent) (f : Group → Group) : (s.modGroup c a f).badPa = s.badPa := rfl

/-! modMe. -/

@[simp] theorem State.modMe_clk (s : State) (f : Group → Group) : (s.modMe f).clk = s.clk := rfl
@[simp] theorem State.modMe_mem (s : State) (f : Group → Group) : (s.modMe f).mem = s.mem := rfl
@[simp] theorem State.modMe_poison (s : State) (f : Group → Group) : (s.modMe f).poison = s.poison := rfl
@[simp] theorem State.modMe_latentCe (s : State) (f : Group → Group) : (s.modMe f).latentCe = s.latentCe := rfl
@[simp] theorem State.modMe_latentUe (s : State) (f : Group → Group) : (s.modMe f).latentUe = s.latentUe := rfl
@[simp] theorem State.modMe_ceCounts (s : State) (f : Group → Group) : (s.modMe f).ceCounts = s.ceCounts := rfl
@[simp] theorem State.modMe_cfg (s : State) (f : Group → Group) : (s.modMe f).cfg = s.cfg := rfl
@[simp] theorem State.modMe_vcoreMap (s : State) (f : Group → Group) : (s.modMe f).vcoreMap = s.vcoreMap := rfl
@[simp] theorem State.modMe_fabRoute (s : State) (f : Group → Group) : (s.modMe f).fabRoute = s.fabRoute := rfl
@[simp] theorem State.modMe_lq (s : State) (f : Group → Group) : (s.modMe f).lq = s.lq := rfl
@[simp] theorem State.modMe_windows (s : State) (f : Group → Group) : (s.modMe f).windows = s.windows := rfl
@[simp] theorem State.modMe_cxlLost (s : State) (f : Group → Group) : (s.modMe f).cxlLost = s.cxlLost := rfl
@[simp] theorem State.modMe_claims (s : State) (f : Group → Group) : (s.modMe f).claims = s.claims := rfl
@[simp] theorem State.modMe_lifeCycle (s : State) (f : Group → Group) : (s.modMe f).lifeCycle = s.lifeCycle := rfl
@[simp] theorem State.modMe_lifeNext (s : State) (f : Group → Group) : (s.modMe f).lifeNext = s.lifeNext := rfl
@[simp] theorem State.modMe_idKey (s : State) (f : Group → Group) : (s.modMe f).idKey = s.idKey := rfl
@[simp] theorem State.modMe_boots (s : State) (f : Group → Group) : (s.modMe f).boots = s.boots := rfl
@[simp] theorem State.modMe_bootStopped (s : State) (f : Group → Group) : (s.modMe f).bootStopped = s.bootStopped := rfl
@[simp] theorem State.modMe_poxus (s : State) (f : Group → Group) : (s.modMe f).poxus = s.poxus := rfl
@[simp] theorem State.modMe_watches (s : State) (f : Group → Group) : (s.modMe f).watches = s.watches := rfl
@[simp] theorem State.modMe_watchSeq (s : State) (f : Group → Group) : (s.modMe f).watchSeq = s.watchSeq := rfl
@[simp] theorem State.modMe_trigs (s : State) (f : Group → Group) : (s.modMe f).trigs = s.trigs := rfl
@[simp] theorem State.modMe_pushed (s : State) (f : Group → Group) : (s.modMe f).pushed = s.pushed := rfl
@[simp] theorem State.modMe_binds (s : State) (f : Group → Group) : (s.modMe f).binds = s.binds := rfl
@[simp] theorem State.modMe_pairs (s : State) (f : Group → Group) : (s.modMe f).pairs = s.pairs := rfl
@[simp] theorem State.modMe_ops (s : State) (f : Group → Group) : (s.modMe f).ops = s.ops := rfl
@[simp] theorem State.modMe_opSeq (s : State) (f : Group → Group) : (s.modMe f).opSeq = s.opSeq := rfl
@[simp] theorem State.modMe_grids (s : State) (f : Group → Group) : (s.modMe f).grids = s.grids := rfl
@[simp] theorem State.modMe_gridCnt (s : State) (f : Group → Group) : (s.modMe f).gridCnt = s.gridCnt := rfl
@[simp] theorem State.modMe_swapped (s : State) (f : Group → Group) : (s.modMe f).swapped = s.swapped := rfl
@[simp] theorem State.modMe_held (s : State) (f : Group → Group) : (s.modMe f).held = s.held := rfl
@[simp] theorem State.modMe_replCnt (s : State) (f : Group → Group) : (s.modMe f).replCnt = s.replCnt := rfl
@[simp] theorem State.modMe_barriers (s : State) (f : Group → Group) : (s.modMe f).barriers = s.barriers := rfl
@[simp] theorem State.modMe_migs (s : State) (f : Group → Group) : (s.modMe f).migs = s.migs := rfl
@[simp] theorem State.modMe_tlb (s : State) (f : Group → Group) : (s.modMe f).tlb = s.tlb := rfl
@[simp] theorem State.modMe_ptes (s : State) (f : Group → Group) : (s.modMe f).ptes = s.ptes := rfl
@[simp] theorem State.modMe_kept (s : State) (f : Group → Group) : (s.modMe f).kept = s.kept := rfl
@[simp] theorem State.modMe_asked (s : State) (f : Group → Group) : (s.modMe f).asked = s.asked := rfl
@[simp] theorem State.modMe_autos (s : State) (f : Group → Group) : (s.modMe f).autos = s.autos := rfl
@[simp] theorem State.modMe_hbmDown (s : State) (f : Group → Group) : (s.modMe f).hbmDown = s.hbmDown := rfl
@[simp] theorem State.modMe_hbmFails (s : State) (f : Group → Group) : (s.modMe f).hbmFails = s.hbmFails := rfl
@[simp] theorem State.modMe_portDown (s : State) (f : Group → Group) : (s.modMe f).portDown = s.portDown := rfl
@[simp] theorem State.modMe_pwrNow (s : State) (f : Group → Group) : (s.modMe f).pwrNow = s.pwrNow := rfl
@[simp] theorem State.modMe_viSync (s : State) (f : Group → Group) : (s.modMe f).viSync = s.viSync := rfl
@[simp] theorem State.modMe_ptInval (s : State) (f : Group → Group) : (s.modMe f).ptInval = s.ptInval := rfl
@[simp] theorem State.modMe_turns (s : State) (f : Group → Group) : (s.modMe f).turns = s.turns := rfl
@[simp] theorem State.modMe_dlkPrev (s : State) (f : Group → Group) : (s.modMe f).dlkPrev = s.dlkPrev := rfl
@[simp] theorem State.modMe_dlkDone (s : State) (f : Group → Group) : (s.modMe f).dlkDone = s.dlkDone := rfl
@[simp] theorem State.modMe_aborted (s : State) (f : Group → Group) : (s.modMe f).aborted = s.aborted := rfl
@[simp] theorem State.modMe_promos (s : State) (f : Group → Group) : (s.modMe f).promos = s.promos := rfl
@[simp] theorem State.modMe_cold (s : State) (f : Group → Group) : (s.modMe f).cold = s.cold := rfl
@[simp] theorem State.modMe_report (s : State) (f : Group → Group) : (s.modMe f).report = s.report := rfl
@[simp] theorem State.modMe_gpValue (s : State) (f : Group → Group) : (s.modMe f).gpValue = s.gpValue := rfl
@[simp] theorem State.modMe_gpFault (s : State) (f : Group → Group) : (s.modMe f).gpFault = s.gpFault := rfl
@[simp] theorem State.modMe_gpHeld (s : State) (f : Group → Group) : (s.modMe f).gpHeld = s.gpHeld := rfl
@[simp] theorem State.modMe_gpKept (s : State) (f : Group → Group) : (s.modMe f).gpKept = s.gpKept := rfl
@[simp] theorem State.modMe_retryNext (s : State) (f : Group → Group) : (s.modMe f).retryNext = s.retryNext := rfl
@[simp] theorem State.modMe_inbox (s : State) (f : Group → Group) : (s.modMe f).inbox = s.inbox := rfl
@[simp] theorem State.modMe_agenda (s : State) (f : Group → Group) : (s.modMe f).agenda = s.agenda := rfl
@[simp] theorem State.modMe_cursor (s : State) (f : Group → Group) : (s.modMe f).cursor = s.cursor := rfl
@[simp] theorem State.modMe_issue (s : State) (f : Group → Group) : (s.modMe f).issue = s.issue := rfl
@[simp] theorem State.modMe_freeCtr (s : State) (f : Group → Group) : (s.modMe f).freeCtr = s.freeCtr := rfl
@[simp] theorem State.modMe_badPa (s : State) (f : Group → Group) : (s.modMe f).badPa = s.badPa := rfl

/-! cfgPut. -/

@[simp] theorem State.cfgPut_clk (s : State) (n k v : Nat) : (s.cfgPut n k v).clk = s.clk := rfl
@[simp] theorem State.cfgPut_mem (s : State) (n k v : Nat) : (s.cfgPut n k v).mem = s.mem := rfl
@[simp] theorem State.cfgPut_poison (s : State) (n k v : Nat) : (s.cfgPut n k v).poison = s.poison := rfl
@[simp] theorem State.cfgPut_latentCe (s : State) (n k v : Nat) : (s.cfgPut n k v).latentCe = s.latentCe := rfl
@[simp] theorem State.cfgPut_latentUe (s : State) (n k v : Nat) : (s.cfgPut n k v).latentUe = s.latentUe := rfl
@[simp] theorem State.cfgPut_ceCounts (s : State) (n k v : Nat) : (s.cfgPut n k v).ceCounts = s.ceCounts := rfl
@[simp] theorem State.cfgPut_vcoreMap (s : State) (n k v : Nat) : (s.cfgPut n k v).vcoreMap = s.vcoreMap := rfl
@[simp] theorem State.cfgPut_fabRoute (s : State) (n k v : Nat) : (s.cfgPut n k v).fabRoute = s.fabRoute := rfl
@[simp] theorem State.cfgPut_lq (s : State) (n k v : Nat) : (s.cfgPut n k v).lq = s.lq := rfl
@[simp] theorem State.cfgPut_windows (s : State) (n k v : Nat) : (s.cfgPut n k v).windows = s.windows := rfl
@[simp] theorem State.cfgPut_cxlLost (s : State) (n k v : Nat) : (s.cfgPut n k v).cxlLost = s.cxlLost := rfl
@[simp] theorem State.cfgPut_claims (s : State) (n k v : Nat) : (s.cfgPut n k v).claims = s.claims := rfl
@[simp] theorem State.cfgPut_lifeCycle (s : State) (n k v : Nat) : (s.cfgPut n k v).lifeCycle = s.lifeCycle := rfl
@[simp] theorem State.cfgPut_lifeNext (s : State) (n k v : Nat) : (s.cfgPut n k v).lifeNext = s.lifeNext := rfl
@[simp] theorem State.cfgPut_idKey (s : State) (n k v : Nat) : (s.cfgPut n k v).idKey = s.idKey := rfl
@[simp] theorem State.cfgPut_boots (s : State) (n k v : Nat) : (s.cfgPut n k v).boots = s.boots := rfl
@[simp] theorem State.cfgPut_bootStopped (s : State) (n k v : Nat) : (s.cfgPut n k v).bootStopped = s.bootStopped := rfl
@[simp] theorem State.cfgPut_poxus (s : State) (n k v : Nat) : (s.cfgPut n k v).poxus = s.poxus := rfl
@[simp] theorem State.cfgPut_cores (s : State) (n k v : Nat) : (s.cfgPut n k v).cores = s.cores := rfl
@[simp] theorem State.cfgPut_watches (s : State) (n k v : Nat) : (s.cfgPut n k v).watches = s.watches := rfl
@[simp] theorem State.cfgPut_watchSeq (s : State) (n k v : Nat) : (s.cfgPut n k v).watchSeq = s.watchSeq := rfl
@[simp] theorem State.cfgPut_trigs (s : State) (n k v : Nat) : (s.cfgPut n k v).trigs = s.trigs := rfl
@[simp] theorem State.cfgPut_pushed (s : State) (n k v : Nat) : (s.cfgPut n k v).pushed = s.pushed := rfl
@[simp] theorem State.cfgPut_binds (s : State) (n k v : Nat) : (s.cfgPut n k v).binds = s.binds := rfl
@[simp] theorem State.cfgPut_pairs (s : State) (n k v : Nat) : (s.cfgPut n k v).pairs = s.pairs := rfl
@[simp] theorem State.cfgPut_ops (s : State) (n k v : Nat) : (s.cfgPut n k v).ops = s.ops := rfl
@[simp] theorem State.cfgPut_opSeq (s : State) (n k v : Nat) : (s.cfgPut n k v).opSeq = s.opSeq := rfl
@[simp] theorem State.cfgPut_grids (s : State) (n k v : Nat) : (s.cfgPut n k v).grids = s.grids := rfl
@[simp] theorem State.cfgPut_gridCnt (s : State) (n k v : Nat) : (s.cfgPut n k v).gridCnt = s.gridCnt := rfl
@[simp] theorem State.cfgPut_swapped (s : State) (n k v : Nat) : (s.cfgPut n k v).swapped = s.swapped := rfl
@[simp] theorem State.cfgPut_held (s : State) (n k v : Nat) : (s.cfgPut n k v).held = s.held := rfl
@[simp] theorem State.cfgPut_replCnt (s : State) (n k v : Nat) : (s.cfgPut n k v).replCnt = s.replCnt := rfl
@[simp] theorem State.cfgPut_barriers (s : State) (n k v : Nat) : (s.cfgPut n k v).barriers = s.barriers := rfl
@[simp] theorem State.cfgPut_migs (s : State) (n k v : Nat) : (s.cfgPut n k v).migs = s.migs := rfl
@[simp] theorem State.cfgPut_tlb (s : State) (n k v : Nat) : (s.cfgPut n k v).tlb = s.tlb := rfl
@[simp] theorem State.cfgPut_ptes (s : State) (n k v : Nat) : (s.cfgPut n k v).ptes = s.ptes := rfl
@[simp] theorem State.cfgPut_kept (s : State) (n k v : Nat) : (s.cfgPut n k v).kept = s.kept := rfl
@[simp] theorem State.cfgPut_asked (s : State) (n k v : Nat) : (s.cfgPut n k v).asked = s.asked := rfl
@[simp] theorem State.cfgPut_autos (s : State) (n k v : Nat) : (s.cfgPut n k v).autos = s.autos := rfl
@[simp] theorem State.cfgPut_hbmDown (s : State) (n k v : Nat) : (s.cfgPut n k v).hbmDown = s.hbmDown := rfl
@[simp] theorem State.cfgPut_hbmFails (s : State) (n k v : Nat) : (s.cfgPut n k v).hbmFails = s.hbmFails := rfl
@[simp] theorem State.cfgPut_portDown (s : State) (n k v : Nat) : (s.cfgPut n k v).portDown = s.portDown := rfl
@[simp] theorem State.cfgPut_pwrNow (s : State) (n k v : Nat) : (s.cfgPut n k v).pwrNow = s.pwrNow := rfl
@[simp] theorem State.cfgPut_viSync (s : State) (n k v : Nat) : (s.cfgPut n k v).viSync = s.viSync := rfl
@[simp] theorem State.cfgPut_ptInval (s : State) (n k v : Nat) : (s.cfgPut n k v).ptInval = s.ptInval := rfl
@[simp] theorem State.cfgPut_turns (s : State) (n k v : Nat) : (s.cfgPut n k v).turns = s.turns := rfl
@[simp] theorem State.cfgPut_dlkPrev (s : State) (n k v : Nat) : (s.cfgPut n k v).dlkPrev = s.dlkPrev := rfl
@[simp] theorem State.cfgPut_dlkDone (s : State) (n k v : Nat) : (s.cfgPut n k v).dlkDone = s.dlkDone := rfl
@[simp] theorem State.cfgPut_aborted (s : State) (n k v : Nat) : (s.cfgPut n k v).aborted = s.aborted := rfl
@[simp] theorem State.cfgPut_promos (s : State) (n k v : Nat) : (s.cfgPut n k v).promos = s.promos := rfl
@[simp] theorem State.cfgPut_cold (s : State) (n k v : Nat) : (s.cfgPut n k v).cold = s.cold := rfl
@[simp] theorem State.cfgPut_report (s : State) (n k v : Nat) : (s.cfgPut n k v).report = s.report := rfl
@[simp] theorem State.cfgPut_gpValue (s : State) (n k v : Nat) : (s.cfgPut n k v).gpValue = s.gpValue := rfl
@[simp] theorem State.cfgPut_gpFault (s : State) (n k v : Nat) : (s.cfgPut n k v).gpFault = s.gpFault := rfl
@[simp] theorem State.cfgPut_gpHeld (s : State) (n k v : Nat) : (s.cfgPut n k v).gpHeld = s.gpHeld := rfl
@[simp] theorem State.cfgPut_gpKept (s : State) (n k v : Nat) : (s.cfgPut n k v).gpKept = s.gpKept := rfl
@[simp] theorem State.cfgPut_retryNext (s : State) (n k v : Nat) : (s.cfgPut n k v).retryNext = s.retryNext := rfl
@[simp] theorem State.cfgPut_inbox (s : State) (n k v : Nat) : (s.cfgPut n k v).inbox = s.inbox := rfl
@[simp] theorem State.cfgPut_agenda (s : State) (n k v : Nat) : (s.cfgPut n k v).agenda = s.agenda := rfl
@[simp] theorem State.cfgPut_cursor (s : State) (n k v : Nat) : (s.cfgPut n k v).cursor = s.cursor := rfl
@[simp] theorem State.cfgPut_issue (s : State) (n k v : Nat) : (s.cfgPut n k v).issue = s.issue := rfl
@[simp] theorem State.cfgPut_freeCtr (s : State) (n k v : Nat) : (s.cfgPut n k v).freeCtr = s.freeCtr := rfl
@[simp] theorem State.cfgPut_badPa (s : State) (n k v : Nat) : (s.cfgPut n k v).badPa = s.badPa := rfl

/-! poke. -/

@[simp] theorem State.poke_clk (s : State) (pa : Nat) (bs : List Byte) : (s.poke pa bs).clk = s.clk := rfl
@[simp] theorem State.poke_poison (s : State) (pa : Nat) (bs : List Byte) : (s.poke pa bs).poison = s.poison := rfl
@[simp] theorem State.poke_latentCe (s : State) (pa : Nat) (bs : List Byte) : (s.poke pa bs).latentCe = s.latentCe := rfl
@[simp] theorem State.poke_latentUe (s : State) (pa : Nat) (bs : List Byte) : (s.poke pa bs).latentUe = s.latentUe := rfl
@[simp] theorem State.poke_ceCounts (s : State) (pa : Nat) (bs : List Byte) : (s.poke pa bs).ceCounts = s.ceCounts := rfl
@[simp] theorem State.poke_cfg (s : State) (pa : Nat) (bs : List Byte) : (s.poke pa bs).cfg = s.cfg := rfl
@[simp] theorem State.poke_vcoreMap (s : State) (pa : Nat) (bs : List Byte) : (s.poke pa bs).vcoreMap = s.vcoreMap := rfl
@[simp] theorem State.poke_fabRoute (s : State) (pa : Nat) (bs : List Byte) : (s.poke pa bs).fabRoute = s.fabRoute := rfl
@[simp] theorem State.poke_lq (s : State) (pa : Nat) (bs : List Byte) : (s.poke pa bs).lq = s.lq := rfl
@[simp] theorem State.poke_windows (s : State) (pa : Nat) (bs : List Byte) : (s.poke pa bs).windows = s.windows := rfl
@[simp] theorem State.poke_cxlLost (s : State) (pa : Nat) (bs : List Byte) : (s.poke pa bs).cxlLost = s.cxlLost := rfl
@[simp] theorem State.poke_claims (s : State) (pa : Nat) (bs : List Byte) : (s.poke pa bs).claims = s.claims := rfl
@[simp] theorem State.poke_lifeCycle (s : State) (pa : Nat) (bs : List Byte) : (s.poke pa bs).lifeCycle = s.lifeCycle := rfl
@[simp] theorem State.poke_lifeNext (s : State) (pa : Nat) (bs : List Byte) : (s.poke pa bs).lifeNext = s.lifeNext := rfl
@[simp] theorem State.poke_idKey (s : State) (pa : Nat) (bs : List Byte) : (s.poke pa bs).idKey = s.idKey := rfl
@[simp] theorem State.poke_boots (s : State) (pa : Nat) (bs : List Byte) : (s.poke pa bs).boots = s.boots := rfl
@[simp] theorem State.poke_bootStopped (s : State) (pa : Nat) (bs : List Byte) : (s.poke pa bs).bootStopped = s.bootStopped := rfl
@[simp] theorem State.poke_poxus (s : State) (pa : Nat) (bs : List Byte) : (s.poke pa bs).poxus = s.poxus := rfl
@[simp] theorem State.poke_cores (s : State) (pa : Nat) (bs : List Byte) : (s.poke pa bs).cores = s.cores := rfl
@[simp] theorem State.poke_watches (s : State) (pa : Nat) (bs : List Byte) : (s.poke pa bs).watches = s.watches := rfl
@[simp] theorem State.poke_watchSeq (s : State) (pa : Nat) (bs : List Byte) : (s.poke pa bs).watchSeq = s.watchSeq := rfl
@[simp] theorem State.poke_trigs (s : State) (pa : Nat) (bs : List Byte) : (s.poke pa bs).trigs = s.trigs := rfl
@[simp] theorem State.poke_pushed (s : State) (pa : Nat) (bs : List Byte) : (s.poke pa bs).pushed = s.pushed := rfl
@[simp] theorem State.poke_binds (s : State) (pa : Nat) (bs : List Byte) : (s.poke pa bs).binds = s.binds := rfl
@[simp] theorem State.poke_pairs (s : State) (pa : Nat) (bs : List Byte) : (s.poke pa bs).pairs = s.pairs := rfl
@[simp] theorem State.poke_ops (s : State) (pa : Nat) (bs : List Byte) : (s.poke pa bs).ops = s.ops := rfl
@[simp] theorem State.poke_opSeq (s : State) (pa : Nat) (bs : List Byte) : (s.poke pa bs).opSeq = s.opSeq := rfl
@[simp] theorem State.poke_grids (s : State) (pa : Nat) (bs : List Byte) : (s.poke pa bs).grids = s.grids := rfl
@[simp] theorem State.poke_gridCnt (s : State) (pa : Nat) (bs : List Byte) : (s.poke pa bs).gridCnt = s.gridCnt := rfl
@[simp] theorem State.poke_swapped (s : State) (pa : Nat) (bs : List Byte) : (s.poke pa bs).swapped = s.swapped := rfl
@[simp] theorem State.poke_held (s : State) (pa : Nat) (bs : List Byte) : (s.poke pa bs).held = s.held := rfl
@[simp] theorem State.poke_replCnt (s : State) (pa : Nat) (bs : List Byte) : (s.poke pa bs).replCnt = s.replCnt := rfl
@[simp] theorem State.poke_barriers (s : State) (pa : Nat) (bs : List Byte) : (s.poke pa bs).barriers = s.barriers := rfl
@[simp] theorem State.poke_migs (s : State) (pa : Nat) (bs : List Byte) : (s.poke pa bs).migs = s.migs := rfl
@[simp] theorem State.poke_tlb (s : State) (pa : Nat) (bs : List Byte) : (s.poke pa bs).tlb = s.tlb := rfl
@[simp] theorem State.poke_ptes (s : State) (pa : Nat) (bs : List Byte) : (s.poke pa bs).ptes = s.ptes := rfl
@[simp] theorem State.poke_kept (s : State) (pa : Nat) (bs : List Byte) : (s.poke pa bs).kept = s.kept := rfl
@[simp] theorem State.poke_asked (s : State) (pa : Nat) (bs : List Byte) : (s.poke pa bs).asked = s.asked := rfl
@[simp] theorem State.poke_autos (s : State) (pa : Nat) (bs : List Byte) : (s.poke pa bs).autos = s.autos := rfl
@[simp] theorem State.poke_hbmDown (s : State) (pa : Nat) (bs : List Byte) : (s.poke pa bs).hbmDown = s.hbmDown := rfl
@[simp] theorem State.poke_hbmFails (s : State) (pa : Nat) (bs : List Byte) : (s.poke pa bs).hbmFails = s.hbmFails := rfl
@[simp] theorem State.poke_portDown (s : State) (pa : Nat) (bs : List Byte) : (s.poke pa bs).portDown = s.portDown := rfl
@[simp] theorem State.poke_pwrNow (s : State) (pa : Nat) (bs : List Byte) : (s.poke pa bs).pwrNow = s.pwrNow := rfl
@[simp] theorem State.poke_viSync (s : State) (pa : Nat) (bs : List Byte) : (s.poke pa bs).viSync = s.viSync := rfl
@[simp] theorem State.poke_ptInval (s : State) (pa : Nat) (bs : List Byte) : (s.poke pa bs).ptInval = s.ptInval := rfl
@[simp] theorem State.poke_turns (s : State) (pa : Nat) (bs : List Byte) : (s.poke pa bs).turns = s.turns := rfl
@[simp] theorem State.poke_dlkPrev (s : State) (pa : Nat) (bs : List Byte) : (s.poke pa bs).dlkPrev = s.dlkPrev := rfl
@[simp] theorem State.poke_dlkDone (s : State) (pa : Nat) (bs : List Byte) : (s.poke pa bs).dlkDone = s.dlkDone := rfl
@[simp] theorem State.poke_aborted (s : State) (pa : Nat) (bs : List Byte) : (s.poke pa bs).aborted = s.aborted := rfl
@[simp] theorem State.poke_promos (s : State) (pa : Nat) (bs : List Byte) : (s.poke pa bs).promos = s.promos := rfl
@[simp] theorem State.poke_cold (s : State) (pa : Nat) (bs : List Byte) : (s.poke pa bs).cold = s.cold := rfl
@[simp] theorem State.poke_report (s : State) (pa : Nat) (bs : List Byte) : (s.poke pa bs).report = s.report := rfl
@[simp] theorem State.poke_gpValue (s : State) (pa : Nat) (bs : List Byte) : (s.poke pa bs).gpValue = s.gpValue := rfl
@[simp] theorem State.poke_gpFault (s : State) (pa : Nat) (bs : List Byte) : (s.poke pa bs).gpFault = s.gpFault := rfl
@[simp] theorem State.poke_gpHeld (s : State) (pa : Nat) (bs : List Byte) : (s.poke pa bs).gpHeld = s.gpHeld := rfl
@[simp] theorem State.poke_gpKept (s : State) (pa : Nat) (bs : List Byte) : (s.poke pa bs).gpKept = s.gpKept := rfl
@[simp] theorem State.poke_retryNext (s : State) (pa : Nat) (bs : List Byte) : (s.poke pa bs).retryNext = s.retryNext := rfl
@[simp] theorem State.poke_inbox (s : State) (pa : Nat) (bs : List Byte) : (s.poke pa bs).inbox = s.inbox := rfl
@[simp] theorem State.poke_agenda (s : State) (pa : Nat) (bs : List Byte) : (s.poke pa bs).agenda = s.agenda := rfl
@[simp] theorem State.poke_cursor (s : State) (pa : Nat) (bs : List Byte) : (s.poke pa bs).cursor = s.cursor := rfl
@[simp] theorem State.poke_issue (s : State) (pa : Nat) (bs : List Byte) : (s.poke pa bs).issue = s.issue := rfl
@[simp] theorem State.poke_freeCtr (s : State) (pa : Nat) (bs : List Byte) : (s.poke pa bs).freeCtr = s.freeCtr := rfl
@[simp] theorem State.poke_badPa (s : State) (pa : Nat) (bs : List Byte) : (s.poke pa bs).badPa = s.badPa := rfl

/-! due. -/

@[simp] theorem State.due_clk (s : State) (e : Instr) : (s.due e).clk = s.clk := rfl
@[simp] theorem State.due_mem (s : State) (e : Instr) : (s.due e).mem = s.mem := rfl
@[simp] theorem State.due_poison (s : State) (e : Instr) : (s.due e).poison = s.poison := rfl
@[simp] theorem State.due_latentCe (s : State) (e : Instr) : (s.due e).latentCe = s.latentCe := rfl
@[simp] theorem State.due_latentUe (s : State) (e : Instr) : (s.due e).latentUe = s.latentUe := rfl
@[simp] theorem State.due_ceCounts (s : State) (e : Instr) : (s.due e).ceCounts = s.ceCounts := rfl
@[simp] theorem State.due_cfg (s : State) (e : Instr) : (s.due e).cfg = s.cfg := rfl
@[simp] theorem State.due_vcoreMap (s : State) (e : Instr) : (s.due e).vcoreMap = s.vcoreMap := rfl
@[simp] theorem State.due_fabRoute (s : State) (e : Instr) : (s.due e).fabRoute = s.fabRoute := rfl
@[simp] theorem State.due_lq (s : State) (e : Instr) : (s.due e).lq = s.lq := rfl
@[simp] theorem State.due_windows (s : State) (e : Instr) : (s.due e).windows = s.windows := rfl
@[simp] theorem State.due_cxlLost (s : State) (e : Instr) : (s.due e).cxlLost = s.cxlLost := rfl
@[simp] theorem State.due_claims (s : State) (e : Instr) : (s.due e).claims = s.claims := rfl
@[simp] theorem State.due_lifeCycle (s : State) (e : Instr) : (s.due e).lifeCycle = s.lifeCycle := rfl
@[simp] theorem State.due_lifeNext (s : State) (e : Instr) : (s.due e).lifeNext = s.lifeNext := rfl
@[simp] theorem State.due_idKey (s : State) (e : Instr) : (s.due e).idKey = s.idKey := rfl
@[simp] theorem State.due_boots (s : State) (e : Instr) : (s.due e).boots = s.boots := rfl
@[simp] theorem State.due_bootStopped (s : State) (e : Instr) : (s.due e).bootStopped = s.bootStopped := rfl
@[simp] theorem State.due_poxus (s : State) (e : Instr) : (s.due e).poxus = s.poxus := rfl
@[simp] theorem State.due_cores (s : State) (e : Instr) : (s.due e).cores = s.cores := rfl
@[simp] theorem State.due_watches (s : State) (e : Instr) : (s.due e).watches = s.watches := rfl
@[simp] theorem State.due_watchSeq (s : State) (e : Instr) : (s.due e).watchSeq = s.watchSeq := rfl
@[simp] theorem State.due_trigs (s : State) (e : Instr) : (s.due e).trigs = s.trigs := rfl
@[simp] theorem State.due_pushed (s : State) (e : Instr) : (s.due e).pushed = s.pushed := rfl
@[simp] theorem State.due_binds (s : State) (e : Instr) : (s.due e).binds = s.binds := rfl
@[simp] theorem State.due_pairs (s : State) (e : Instr) : (s.due e).pairs = s.pairs := rfl
@[simp] theorem State.due_ops (s : State) (e : Instr) : (s.due e).ops = s.ops := rfl
@[simp] theorem State.due_opSeq (s : State) (e : Instr) : (s.due e).opSeq = s.opSeq := rfl
@[simp] theorem State.due_grids (s : State) (e : Instr) : (s.due e).grids = s.grids := rfl
@[simp] theorem State.due_gridCnt (s : State) (e : Instr) : (s.due e).gridCnt = s.gridCnt := rfl
@[simp] theorem State.due_swapped (s : State) (e : Instr) : (s.due e).swapped = s.swapped := rfl
@[simp] theorem State.due_held (s : State) (e : Instr) : (s.due e).held = s.held := rfl
@[simp] theorem State.due_replCnt (s : State) (e : Instr) : (s.due e).replCnt = s.replCnt := rfl
@[simp] theorem State.due_barriers (s : State) (e : Instr) : (s.due e).barriers = s.barriers := rfl
@[simp] theorem State.due_migs (s : State) (e : Instr) : (s.due e).migs = s.migs := rfl
@[simp] theorem State.due_tlb (s : State) (e : Instr) : (s.due e).tlb = s.tlb := rfl
@[simp] theorem State.due_ptes (s : State) (e : Instr) : (s.due e).ptes = s.ptes := rfl
@[simp] theorem State.due_kept (s : State) (e : Instr) : (s.due e).kept = s.kept := rfl
@[simp] theorem State.due_asked (s : State) (e : Instr) : (s.due e).asked = s.asked := rfl
@[simp] theorem State.due_autos (s : State) (e : Instr) : (s.due e).autos = s.autos := rfl
@[simp] theorem State.due_hbmDown (s : State) (e : Instr) : (s.due e).hbmDown = s.hbmDown := rfl
@[simp] theorem State.due_hbmFails (s : State) (e : Instr) : (s.due e).hbmFails = s.hbmFails := rfl
@[simp] theorem State.due_portDown (s : State) (e : Instr) : (s.due e).portDown = s.portDown := rfl
@[simp] theorem State.due_pwrNow (s : State) (e : Instr) : (s.due e).pwrNow = s.pwrNow := rfl
@[simp] theorem State.due_viSync (s : State) (e : Instr) : (s.due e).viSync = s.viSync := rfl
@[simp] theorem State.due_ptInval (s : State) (e : Instr) : (s.due e).ptInval = s.ptInval := rfl
@[simp] theorem State.due_turns (s : State) (e : Instr) : (s.due e).turns = s.turns := rfl
@[simp] theorem State.due_dlkPrev (s : State) (e : Instr) : (s.due e).dlkPrev = s.dlkPrev := rfl
@[simp] theorem State.due_dlkDone (s : State) (e : Instr) : (s.due e).dlkDone = s.dlkDone := rfl
@[simp] theorem State.due_aborted (s : State) (e : Instr) : (s.due e).aborted = s.aborted := rfl
@[simp] theorem State.due_promos (s : State) (e : Instr) : (s.due e).promos = s.promos := rfl
@[simp] theorem State.due_cold (s : State) (e : Instr) : (s.due e).cold = s.cold := rfl
@[simp] theorem State.due_report (s : State) (e : Instr) : (s.due e).report = s.report := rfl
@[simp] theorem State.due_gpValue (s : State) (e : Instr) : (s.due e).gpValue = s.gpValue := rfl
@[simp] theorem State.due_gpFault (s : State) (e : Instr) : (s.due e).gpFault = s.gpFault := rfl
@[simp] theorem State.due_gpHeld (s : State) (e : Instr) : (s.due e).gpHeld = s.gpHeld := rfl
@[simp] theorem State.due_gpKept (s : State) (e : Instr) : (s.due e).gpKept = s.gpKept := rfl
@[simp] theorem State.due_retryNext (s : State) (e : Instr) : (s.due e).retryNext = s.retryNext := rfl
@[simp] theorem State.due_inbox (s : State) (e : Instr) : (s.due e).inbox = s.inbox := rfl
@[simp] theorem State.due_cursor (s : State) (e : Instr) : (s.due e).cursor = s.cursor := rfl
@[simp] theorem State.due_issue (s : State) (e : Instr) : (s.due e).issue = s.issue := rfl
@[simp] theorem State.due_freeCtr (s : State) (e : Instr) : (s.due e).freeCtr = s.freeCtr := rfl
@[simp] theorem State.due_badPa (s : State) (e : Instr) : (s.due e).badPa = s.badPa := rfl

/-! addOp. -/

@[simp] theorem State.addOp_clk (s : State) (ls : List Nat) (k : OpKind) (fl : Option Nat) (e : Option Entry) : (s.addOp ls k fl e).clk = s.clk := rfl
@[simp] theorem State.addOp_mem (s : State) (ls : List Nat) (k : OpKind) (fl : Option Nat) (e : Option Entry) : (s.addOp ls k fl e).mem = s.mem := rfl
@[simp] theorem State.addOp_poison (s : State) (ls : List Nat) (k : OpKind) (fl : Option Nat) (e : Option Entry) : (s.addOp ls k fl e).poison = s.poison := rfl
@[simp] theorem State.addOp_latentCe (s : State) (ls : List Nat) (k : OpKind) (fl : Option Nat) (e : Option Entry) : (s.addOp ls k fl e).latentCe = s.latentCe := rfl
@[simp] theorem State.addOp_latentUe (s : State) (ls : List Nat) (k : OpKind) (fl : Option Nat) (e : Option Entry) : (s.addOp ls k fl e).latentUe = s.latentUe := rfl
@[simp] theorem State.addOp_ceCounts (s : State) (ls : List Nat) (k : OpKind) (fl : Option Nat) (e : Option Entry) : (s.addOp ls k fl e).ceCounts = s.ceCounts := rfl
@[simp] theorem State.addOp_cfg (s : State) (ls : List Nat) (k : OpKind) (fl : Option Nat) (e : Option Entry) : (s.addOp ls k fl e).cfg = s.cfg := rfl
@[simp] theorem State.addOp_vcoreMap (s : State) (ls : List Nat) (k : OpKind) (fl : Option Nat) (e : Option Entry) : (s.addOp ls k fl e).vcoreMap = s.vcoreMap := rfl
@[simp] theorem State.addOp_fabRoute (s : State) (ls : List Nat) (k : OpKind) (fl : Option Nat) (e : Option Entry) : (s.addOp ls k fl e).fabRoute = s.fabRoute := rfl
@[simp] theorem State.addOp_lq (s : State) (ls : List Nat) (k : OpKind) (fl : Option Nat) (e : Option Entry) : (s.addOp ls k fl e).lq = s.lq := rfl
@[simp] theorem State.addOp_windows (s : State) (ls : List Nat) (k : OpKind) (fl : Option Nat) (e : Option Entry) : (s.addOp ls k fl e).windows = s.windows := rfl
@[simp] theorem State.addOp_cxlLost (s : State) (ls : List Nat) (k : OpKind) (fl : Option Nat) (e : Option Entry) : (s.addOp ls k fl e).cxlLost = s.cxlLost := rfl
@[simp] theorem State.addOp_claims (s : State) (ls : List Nat) (k : OpKind) (fl : Option Nat) (e : Option Entry) : (s.addOp ls k fl e).claims = s.claims := rfl
@[simp] theorem State.addOp_lifeCycle (s : State) (ls : List Nat) (k : OpKind) (fl : Option Nat) (e : Option Entry) : (s.addOp ls k fl e).lifeCycle = s.lifeCycle := rfl
@[simp] theorem State.addOp_lifeNext (s : State) (ls : List Nat) (k : OpKind) (fl : Option Nat) (e : Option Entry) : (s.addOp ls k fl e).lifeNext = s.lifeNext := rfl
@[simp] theorem State.addOp_idKey (s : State) (ls : List Nat) (k : OpKind) (fl : Option Nat) (e : Option Entry) : (s.addOp ls k fl e).idKey = s.idKey := rfl
@[simp] theorem State.addOp_boots (s : State) (ls : List Nat) (k : OpKind) (fl : Option Nat) (e : Option Entry) : (s.addOp ls k fl e).boots = s.boots := rfl
@[simp] theorem State.addOp_bootStopped (s : State) (ls : List Nat) (k : OpKind) (fl : Option Nat) (e : Option Entry) : (s.addOp ls k fl e).bootStopped = s.bootStopped := rfl
@[simp] theorem State.addOp_poxus (s : State) (ls : List Nat) (k : OpKind) (fl : Option Nat) (e : Option Entry) : (s.addOp ls k fl e).poxus = s.poxus := rfl
@[simp] theorem State.addOp_cores (s : State) (ls : List Nat) (k : OpKind) (fl : Option Nat) (e : Option Entry) : (s.addOp ls k fl e).cores = s.cores := rfl
@[simp] theorem State.addOp_watches (s : State) (ls : List Nat) (k : OpKind) (fl : Option Nat) (e : Option Entry) : (s.addOp ls k fl e).watches = s.watches := rfl
@[simp] theorem State.addOp_watchSeq (s : State) (ls : List Nat) (k : OpKind) (fl : Option Nat) (e : Option Entry) : (s.addOp ls k fl e).watchSeq = s.watchSeq := rfl
@[simp] theorem State.addOp_trigs (s : State) (ls : List Nat) (k : OpKind) (fl : Option Nat) (e : Option Entry) : (s.addOp ls k fl e).trigs = s.trigs := rfl
@[simp] theorem State.addOp_pushed (s : State) (ls : List Nat) (k : OpKind) (fl : Option Nat) (e : Option Entry) : (s.addOp ls k fl e).pushed = s.pushed := rfl
@[simp] theorem State.addOp_binds (s : State) (ls : List Nat) (k : OpKind) (fl : Option Nat) (e : Option Entry) : (s.addOp ls k fl e).binds = s.binds := rfl
@[simp] theorem State.addOp_pairs (s : State) (ls : List Nat) (k : OpKind) (fl : Option Nat) (e : Option Entry) : (s.addOp ls k fl e).pairs = s.pairs := rfl
@[simp] theorem State.addOp_grids (s : State) (ls : List Nat) (k : OpKind) (fl : Option Nat) (e : Option Entry) : (s.addOp ls k fl e).grids = s.grids := rfl
@[simp] theorem State.addOp_gridCnt (s : State) (ls : List Nat) (k : OpKind) (fl : Option Nat) (e : Option Entry) : (s.addOp ls k fl e).gridCnt = s.gridCnt := rfl
@[simp] theorem State.addOp_swapped (s : State) (ls : List Nat) (k : OpKind) (fl : Option Nat) (e : Option Entry) : (s.addOp ls k fl e).swapped = s.swapped := rfl
@[simp] theorem State.addOp_held (s : State) (ls : List Nat) (k : OpKind) (fl : Option Nat) (e : Option Entry) : (s.addOp ls k fl e).held = s.held := rfl
@[simp] theorem State.addOp_replCnt (s : State) (ls : List Nat) (k : OpKind) (fl : Option Nat) (e : Option Entry) : (s.addOp ls k fl e).replCnt = s.replCnt := rfl
@[simp] theorem State.addOp_barriers (s : State) (ls : List Nat) (k : OpKind) (fl : Option Nat) (e : Option Entry) : (s.addOp ls k fl e).barriers = s.barriers := rfl
@[simp] theorem State.addOp_migs (s : State) (ls : List Nat) (k : OpKind) (fl : Option Nat) (e : Option Entry) : (s.addOp ls k fl e).migs = s.migs := rfl
@[simp] theorem State.addOp_tlb (s : State) (ls : List Nat) (k : OpKind) (fl : Option Nat) (e : Option Entry) : (s.addOp ls k fl e).tlb = s.tlb := rfl
@[simp] theorem State.addOp_ptes (s : State) (ls : List Nat) (k : OpKind) (fl : Option Nat) (e : Option Entry) : (s.addOp ls k fl e).ptes = s.ptes := rfl
@[simp] theorem State.addOp_kept (s : State) (ls : List Nat) (k : OpKind) (fl : Option Nat) (e : Option Entry) : (s.addOp ls k fl e).kept = s.kept := rfl
@[simp] theorem State.addOp_asked (s : State) (ls : List Nat) (k : OpKind) (fl : Option Nat) (e : Option Entry) : (s.addOp ls k fl e).asked = s.asked := rfl
@[simp] theorem State.addOp_autos (s : State) (ls : List Nat) (k : OpKind) (fl : Option Nat) (e : Option Entry) : (s.addOp ls k fl e).autos = s.autos := rfl
@[simp] theorem State.addOp_hbmDown (s : State) (ls : List Nat) (k : OpKind) (fl : Option Nat) (e : Option Entry) : (s.addOp ls k fl e).hbmDown = s.hbmDown := rfl
@[simp] theorem State.addOp_hbmFails (s : State) (ls : List Nat) (k : OpKind) (fl : Option Nat) (e : Option Entry) : (s.addOp ls k fl e).hbmFails = s.hbmFails := rfl
@[simp] theorem State.addOp_portDown (s : State) (ls : List Nat) (k : OpKind) (fl : Option Nat) (e : Option Entry) : (s.addOp ls k fl e).portDown = s.portDown := rfl
@[simp] theorem State.addOp_pwrNow (s : State) (ls : List Nat) (k : OpKind) (fl : Option Nat) (e : Option Entry) : (s.addOp ls k fl e).pwrNow = s.pwrNow := rfl
@[simp] theorem State.addOp_viSync (s : State) (ls : List Nat) (k : OpKind) (fl : Option Nat) (e : Option Entry) : (s.addOp ls k fl e).viSync = s.viSync := rfl
@[simp] theorem State.addOp_ptInval (s : State) (ls : List Nat) (k : OpKind) (fl : Option Nat) (e : Option Entry) : (s.addOp ls k fl e).ptInval = s.ptInval := rfl
@[simp] theorem State.addOp_turns (s : State) (ls : List Nat) (k : OpKind) (fl : Option Nat) (e : Option Entry) : (s.addOp ls k fl e).turns = s.turns := rfl
@[simp] theorem State.addOp_dlkPrev (s : State) (ls : List Nat) (k : OpKind) (fl : Option Nat) (e : Option Entry) : (s.addOp ls k fl e).dlkPrev = s.dlkPrev := rfl
@[simp] theorem State.addOp_dlkDone (s : State) (ls : List Nat) (k : OpKind) (fl : Option Nat) (e : Option Entry) : (s.addOp ls k fl e).dlkDone = s.dlkDone := rfl
@[simp] theorem State.addOp_aborted (s : State) (ls : List Nat) (k : OpKind) (fl : Option Nat) (e : Option Entry) : (s.addOp ls k fl e).aborted = s.aborted := rfl
@[simp] theorem State.addOp_promos (s : State) (ls : List Nat) (k : OpKind) (fl : Option Nat) (e : Option Entry) : (s.addOp ls k fl e).promos = s.promos := rfl
@[simp] theorem State.addOp_cold (s : State) (ls : List Nat) (k : OpKind) (fl : Option Nat) (e : Option Entry) : (s.addOp ls k fl e).cold = s.cold := rfl
@[simp] theorem State.addOp_report (s : State) (ls : List Nat) (k : OpKind) (fl : Option Nat) (e : Option Entry) : (s.addOp ls k fl e).report = s.report := rfl
@[simp] theorem State.addOp_gpValue (s : State) (ls : List Nat) (k : OpKind) (fl : Option Nat) (e : Option Entry) : (s.addOp ls k fl e).gpValue = s.gpValue := rfl
@[simp] theorem State.addOp_gpFault (s : State) (ls : List Nat) (k : OpKind) (fl : Option Nat) (e : Option Entry) : (s.addOp ls k fl e).gpFault = s.gpFault := rfl
@[simp] theorem State.addOp_gpHeld (s : State) (ls : List Nat) (k : OpKind) (fl : Option Nat) (e : Option Entry) : (s.addOp ls k fl e).gpHeld = s.gpHeld := rfl
@[simp] theorem State.addOp_gpKept (s : State) (ls : List Nat) (k : OpKind) (fl : Option Nat) (e : Option Entry) : (s.addOp ls k fl e).gpKept = s.gpKept := rfl
@[simp] theorem State.addOp_retryNext (s : State) (ls : List Nat) (k : OpKind) (fl : Option Nat) (e : Option Entry) : (s.addOp ls k fl e).retryNext = s.retryNext := rfl
@[simp] theorem State.addOp_inbox (s : State) (ls : List Nat) (k : OpKind) (fl : Option Nat) (e : Option Entry) : (s.addOp ls k fl e).inbox = s.inbox := rfl
@[simp] theorem State.addOp_agenda (s : State) (ls : List Nat) (k : OpKind) (fl : Option Nat) (e : Option Entry) : (s.addOp ls k fl e).agenda = s.agenda := rfl
@[simp] theorem State.addOp_cursor (s : State) (ls : List Nat) (k : OpKind) (fl : Option Nat) (e : Option Entry) : (s.addOp ls k fl e).cursor = s.cursor := rfl
@[simp] theorem State.addOp_issue (s : State) (ls : List Nat) (k : OpKind) (fl : Option Nat) (e : Option Entry) : (s.addOp ls k fl e).issue = s.issue := rfl
@[simp] theorem State.addOp_freeCtr (s : State) (ls : List Nat) (k : OpKind) (fl : Option Nat) (e : Option Entry) : (s.addOp ls k fl e).freeCtr = s.freeCtr := rfl
@[simp] theorem State.addOp_badPa (s : State) (ls : List Nat) (k : OpKind) (fl : Option Nat) (e : Option Entry) : (s.addOp ls k fl e).badPa = s.badPa := rfl

/-! endOp. -/

@[simp] theorem State.endOp_clk (s : State) (id : Nat) : (s.endOp id).clk = s.clk := rfl
@[simp] theorem State.endOp_mem (s : State) (id : Nat) : (s.endOp id).mem = s.mem := rfl
@[simp] theorem State.endOp_poison (s : State) (id : Nat) : (s.endOp id).poison = s.poison := rfl
@[simp] theorem State.endOp_latentCe (s : State) (id : Nat) : (s.endOp id).latentCe = s.latentCe := rfl
@[simp] theorem State.endOp_latentUe (s : State) (id : Nat) : (s.endOp id).latentUe = s.latentUe := rfl
@[simp] theorem State.endOp_ceCounts (s : State) (id : Nat) : (s.endOp id).ceCounts = s.ceCounts := rfl
@[simp] theorem State.endOp_cfg (s : State) (id : Nat) : (s.endOp id).cfg = s.cfg := rfl
@[simp] theorem State.endOp_vcoreMap (s : State) (id : Nat) : (s.endOp id).vcoreMap = s.vcoreMap := rfl
@[simp] theorem State.endOp_fabRoute (s : State) (id : Nat) : (s.endOp id).fabRoute = s.fabRoute := rfl
@[simp] theorem State.endOp_lq (s : State) (id : Nat) : (s.endOp id).lq = s.lq := rfl
@[simp] theorem State.endOp_windows (s : State) (id : Nat) : (s.endOp id).windows = s.windows := rfl
@[simp] theorem State.endOp_cxlLost (s : State) (id : Nat) : (s.endOp id).cxlLost = s.cxlLost := rfl
@[simp] theorem State.endOp_claims (s : State) (id : Nat) : (s.endOp id).claims = s.claims := rfl
@[simp] theorem State.endOp_lifeCycle (s : State) (id : Nat) : (s.endOp id).lifeCycle = s.lifeCycle := rfl
@[simp] theorem State.endOp_lifeNext (s : State) (id : Nat) : (s.endOp id).lifeNext = s.lifeNext := rfl
@[simp] theorem State.endOp_idKey (s : State) (id : Nat) : (s.endOp id).idKey = s.idKey := rfl
@[simp] theorem State.endOp_boots (s : State) (id : Nat) : (s.endOp id).boots = s.boots := rfl
@[simp] theorem State.endOp_bootStopped (s : State) (id : Nat) : (s.endOp id).bootStopped = s.bootStopped := rfl
@[simp] theorem State.endOp_poxus (s : State) (id : Nat) : (s.endOp id).poxus = s.poxus := rfl
@[simp] theorem State.endOp_cores (s : State) (id : Nat) : (s.endOp id).cores = s.cores := rfl
@[simp] theorem State.endOp_watches (s : State) (id : Nat) : (s.endOp id).watches = s.watches := rfl
@[simp] theorem State.endOp_watchSeq (s : State) (id : Nat) : (s.endOp id).watchSeq = s.watchSeq := rfl
@[simp] theorem State.endOp_trigs (s : State) (id : Nat) : (s.endOp id).trigs = s.trigs := rfl
@[simp] theorem State.endOp_pushed (s : State) (id : Nat) : (s.endOp id).pushed = s.pushed := rfl
@[simp] theorem State.endOp_binds (s : State) (id : Nat) : (s.endOp id).binds = s.binds := rfl
@[simp] theorem State.endOp_pairs (s : State) (id : Nat) : (s.endOp id).pairs = s.pairs := rfl
@[simp] theorem State.endOp_opSeq (s : State) (id : Nat) : (s.endOp id).opSeq = s.opSeq := rfl
@[simp] theorem State.endOp_grids (s : State) (id : Nat) : (s.endOp id).grids = s.grids := rfl
@[simp] theorem State.endOp_gridCnt (s : State) (id : Nat) : (s.endOp id).gridCnt = s.gridCnt := rfl
@[simp] theorem State.endOp_swapped (s : State) (id : Nat) : (s.endOp id).swapped = s.swapped := rfl
@[simp] theorem State.endOp_held (s : State) (id : Nat) : (s.endOp id).held = s.held := rfl
@[simp] theorem State.endOp_replCnt (s : State) (id : Nat) : (s.endOp id).replCnt = s.replCnt := rfl
@[simp] theorem State.endOp_barriers (s : State) (id : Nat) : (s.endOp id).barriers = s.barriers := rfl
@[simp] theorem State.endOp_migs (s : State) (id : Nat) : (s.endOp id).migs = s.migs := rfl
@[simp] theorem State.endOp_tlb (s : State) (id : Nat) : (s.endOp id).tlb = s.tlb := rfl
@[simp] theorem State.endOp_ptes (s : State) (id : Nat) : (s.endOp id).ptes = s.ptes := rfl
@[simp] theorem State.endOp_kept (s : State) (id : Nat) : (s.endOp id).kept = s.kept := rfl
@[simp] theorem State.endOp_asked (s : State) (id : Nat) : (s.endOp id).asked = s.asked := rfl
@[simp] theorem State.endOp_autos (s : State) (id : Nat) : (s.endOp id).autos = s.autos := rfl
@[simp] theorem State.endOp_hbmDown (s : State) (id : Nat) : (s.endOp id).hbmDown = s.hbmDown := rfl
@[simp] theorem State.endOp_hbmFails (s : State) (id : Nat) : (s.endOp id).hbmFails = s.hbmFails := rfl
@[simp] theorem State.endOp_portDown (s : State) (id : Nat) : (s.endOp id).portDown = s.portDown := rfl
@[simp] theorem State.endOp_pwrNow (s : State) (id : Nat) : (s.endOp id).pwrNow = s.pwrNow := rfl
@[simp] theorem State.endOp_viSync (s : State) (id : Nat) : (s.endOp id).viSync = s.viSync := rfl
@[simp] theorem State.endOp_ptInval (s : State) (id : Nat) : (s.endOp id).ptInval = s.ptInval := rfl
@[simp] theorem State.endOp_turns (s : State) (id : Nat) : (s.endOp id).turns = s.turns := rfl
@[simp] theorem State.endOp_dlkPrev (s : State) (id : Nat) : (s.endOp id).dlkPrev = s.dlkPrev := rfl
@[simp] theorem State.endOp_dlkDone (s : State) (id : Nat) : (s.endOp id).dlkDone = s.dlkDone := rfl
@[simp] theorem State.endOp_aborted (s : State) (id : Nat) : (s.endOp id).aborted = s.aborted := rfl
@[simp] theorem State.endOp_promos (s : State) (id : Nat) : (s.endOp id).promos = s.promos := rfl
@[simp] theorem State.endOp_cold (s : State) (id : Nat) : (s.endOp id).cold = s.cold := rfl
@[simp] theorem State.endOp_report (s : State) (id : Nat) : (s.endOp id).report = s.report := rfl
@[simp] theorem State.endOp_gpValue (s : State) (id : Nat) : (s.endOp id).gpValue = s.gpValue := rfl
@[simp] theorem State.endOp_gpFault (s : State) (id : Nat) : (s.endOp id).gpFault = s.gpFault := rfl
@[simp] theorem State.endOp_gpHeld (s : State) (id : Nat) : (s.endOp id).gpHeld = s.gpHeld := rfl
@[simp] theorem State.endOp_gpKept (s : State) (id : Nat) : (s.endOp id).gpKept = s.gpKept := rfl
@[simp] theorem State.endOp_retryNext (s : State) (id : Nat) : (s.endOp id).retryNext = s.retryNext := rfl
@[simp] theorem State.endOp_inbox (s : State) (id : Nat) : (s.endOp id).inbox = s.inbox := rfl
@[simp] theorem State.endOp_agenda (s : State) (id : Nat) : (s.endOp id).agenda = s.agenda := rfl
@[simp] theorem State.endOp_cursor (s : State) (id : Nat) : (s.endOp id).cursor = s.cursor := rfl
@[simp] theorem State.endOp_issue (s : State) (id : Nat) : (s.endOp id).issue = s.issue := rfl
@[simp] theorem State.endOp_freeCtr (s : State) (id : Nat) : (s.endOp id).freeCtr = s.freeCtr := rfl
@[simp] theorem State.endOp_badPa (s : State) (id : Nat) : (s.endOp id).badPa = s.badPa := rfl

end Sys2Proof.Machine
end

