-- ==== Sys2Proof/Laws/Groups.lean ====
section
/-!
SUPPORT. Cores, groups, registers and lanes: what a read gives after an update, and what each update leaves alone.
-/
namespace Sys2Proof.Machine

/-! Cores and groups. -/

@[simp] theorem State.core_modCore_self (s : State) (c : Nat) (f : Core → Core) : (s.modCore c f).core c = f (s.core c) := by
  simp [State.core, State.modCore]

theorem State.core_modCore_ne (s : State) {c d : Nat} (f : Core → Core) (h : d ≠ c) : (s.modCore c f).core d = s.core d := by
  simp [State.core, State.modCore, NMap.find_put_ne _ _ h]

@[simp] theorem Core.group?_modGroup_self (k : Core) (a : Agent) (f : Group → Group) :
    (k.modGroup a f).group? a = (k.group? a).map f := by
  cases a with
  | ct => rfl
  | grp n =>
    simp only [Core.modGroup, Core.group?]
    split <;> simp [*]

theorem Core.group?_modGroup_ne (k : Core) {a b : Agent} (f : Group → Group) (h : b ≠ a) :
    (k.modGroup a f).group? b = k.group? b := by
  cases a with
  | ct => cases b with
    | ct => exact absurd rfl h
    | grp m => rfl
  | grp n =>
    simp only [Core.modGroup]
    split
    · cases b with
      | ct => rfl
      | grp m =>
        simp only [Core.group?]
        exact NMap.find_put_ne _ _ (by intro e; exact h (by rw [e]))
    · rfl

@[simp] theorem State.group?_modGroup_self (s : State) (c : Nat) (a : Agent) (f : Group → Group) :
    (s.modGroup c a f).group? c a = (s.group? c a).map f := by
  simp [State.group?, State.modGroup]

theorem State.group?_modGroup_ne (s : State) {c d : Nat} {a b : Agent} (f : Group → Group) (h : (d, b) ≠ (c, a)) :
    (s.modGroup c a f).group? d b = s.group? d b := by
  simp only [State.group?, State.modGroup]
  by_cases hd : d = c
  · subst hd
    rw [State.core_modCore_self, Core.group?_modGroup_ne _ _ (by intro e; exact h (by rw [e]))]
  · rw [State.core_modCore_ne _ _ hd]

/-- A group's update leaves the rest of its core as it was. -/
theorem Core.modGroup_rest (k : Core) (a : Agent) (f : Group → Group) :
    { k.modGroup a f with ct := k.ct, groups := k.groups } = k := by
  cases a with
  | ct => rfl
  | grp n =>
    simp only [Core.modGroup]
    split <;> rfl

@[simp] theorem Core.modGroup_teams (k : Core) (a : Agent) (f : Group → Group) : (k.modGroup a f).teams = k.teams := by
  cases a with
  | ct => rfl
  | grp n => simp only [Core.modGroup]; split <;> rfl

/-- A group's update leaves the parts of every core outside groups as they were. -/
theorem State.core_modGroup_rest (s : State) (c : Nat) (a : Agent) (f : Group → Group) (d : Nat) :
    { (s.modGroup c a f).core d with ct := (s.core d).ct, groups := (s.core d).groups } = s.core d := by
  unfold State.modGroup
  by_cases hd : d = c
  · subst hd
    rw [State.core_modCore_self]
    exact Core.modGroup_rest _ _ _
  · rw [State.core_modCore_ne _ _ hd]

@[simp] theorem State.team?_modGroup (s : State) (c : Nat) (a : Agent) (f : Group → Group) (d t : Nat) :
    (s.modGroup c a f).team? d t = s.team? d t := by
  unfold State.team? State.modGroup
  by_cases hd : d = c
  · subst hd; simp
  · rw [State.core_modCore_ne _ _ hd]

@[simp] theorem State.team?_modMe (s : State) (f : Group → Group) (d t : Nat) : (s.modMe f).team? d t = s.team? d t :=
  State.team?_modGroup s _ _ f d t

/-! The issuing group. -/

@[simp] theorem State.me?_modMe (s : State) (f : Group → Group) : (s.modMe f).me? = s.me?.map f := by
  simp [State.me?, State.modMe]

theorem State.me_modMe (s : State) (f : Group → Group) (h : s.me?.isSome) : (s.modMe f).me = f s.me := by
  obtain ⟨g, hg⟩ := Option.isSome_iff_exists.mp h
  simp [State.me, hg]

/-- Two updates of one group are one. -/
theorem Core.modGroup_modGroup (k : Core) (a : Agent) (f h : Group → Group) :
    (k.modGroup a f).modGroup a h = k.modGroup a fun g => h (f g) := by
  cases a with
  | ct => rfl
  | grp n =>
    simp only [Core.modGroup]
    cases hn : NMap.find k.groups n with
    | none => simp only [hn]
    | some g =>
      simp only [NMap.find_put_self]
      congr 1
      induction k.groups with
      | nil => simp [NMap.put]
      | cons p t ih =>
        obtain ⟨j, w⟩ := p
        simp only [NMap.put]
        split
        · simp [NMap.put]
        · split
          · simp [NMap.put]
          · rename_i h1 h2
            simp only [NMap.put, if_neg h1, if_neg h2, ih]

/-! Registers. -/

@[simp] theorem Group.reg_setReg_self (g : Group) (l r : Nat) (v : Word) : (g.setReg l r v).reg l r = v := by
  simp [Group.reg, Group.setReg]

theorem Group.reg_setReg_ne (g : Group) {l r k q : Nat} (v : Word) (h : 128 * k + q ≠ 128 * l + r) :
    (g.setReg l r v).reg k q = g.reg k q := by
  simp [Group.reg, Group.setReg, Mem.get_set_ne _ _ h]

/-- Several register writes touch registers and poison marks alone. -/
theorem Group.setRegs_eq (g : Group) (l : Nat) (ws : List (Nat × Word)) :
    ∃ rs ps, g.setRegs l ws = { g with regs := rs, poison := ps } := by
  unfold Group.setRegs
  induction ws generalizing g with
  | nil => exact ⟨_, _, rfl⟩
  | cons w ws ih =>
    obtain ⟨rs, ps, h⟩ := ih (g.setReg l w.1 w.2)
    exact ⟨rs, ps, by rw [List.foldl_cons, h]; rfl⟩

/-- A register that no write names keeps its value. -/
theorem Group.reg_setRegs_ne (g : Group) (l : Nat) (ws : List (Nat × Word)) {k q : Nat}
    (h : ∀ w ∈ ws, 128 * k + q ≠ 128 * l + w.1) : (g.setRegs l ws).reg k q = g.reg k q := by
  unfold Group.setRegs
  induction ws generalizing g with
  | nil => rfl
  | cons w ws ih =>
    rw [List.foldl_cons, ih _ (fun x hx => h x (List.mem_cons_of_mem _ hx)),
      Group.reg_setReg_ne _ _ (h w List.mem_cons_self)]

/-- What a register holds after some writes of its lane: the last that names it, else what it held. -/
def lastWrite (ws : List (Nat × Word)) (q : Nat) (old : Word) : Word := ws.foldl (fun v w => if w.1 = q then w.2 else v) old

theorem lastWrite_lastWrite (ws : List (Nat × Word)) (q : Nat) (old : Word) :
    lastWrite ws q (lastWrite ws q old) = lastWrite ws q old := by
  have key : ∀ (xs : List (Nat × Word)) (a b : Word), lastWrite xs q a = lastWrite xs q b ∨
      (lastWrite xs q a = a ∧ lastWrite xs q b = b) := by
    intro xs
    induction xs with
    | nil => intro a b; exact .inr ⟨rfl, rfl⟩
    | cons x xs ih =>
      intro a b
      simp only [lastWrite, List.foldl_cons]
      by_cases h : x.1 = q
      · left
        rw [if_pos h, if_pos h]
      · simp only [if_neg h]
        exact ih a b
  rcases key ws (lastWrite ws q old) old with h | ⟨h, -⟩ <;> exact h

theorem Group.reg_setRegs (g : Group) (l q : Nat) (ws : List (Nat × Word)) :
    (g.setRegs l ws).reg l q = lastWrite ws q (g.reg l q) := by
  unfold Group.setRegs lastWrite
  induction ws generalizing g with
  | nil => rfl
  | cons w ws ih =>
    rw [List.foldl_cons, List.foldl_cons, ih]
    congr 1
    split
    · rename_i h
      rw [← h, Group.reg_setReg_self]
    · rw [Group.reg_setReg_ne]
      omega

/-- Writes to several lanes touch registers and poison marks alone. -/
theorem Group.setLanes_eq (g : Group) (ls : List Nat) (w : Nat → List (Nat × Word)) :
    ∃ rs ps, ls.foldl (fun h l => h.setRegs l (w l)) g = { g with regs := rs, poison := ps } := by
  induction ls generalizing g with
  | nil => exact ⟨_, _, rfl⟩
  | cons l ls ih =>
    obtain ⟨rs, ps, h⟩ := Group.setRegs_eq g l (w l)
    obtain ⟨rs', ps', h'⟩ := ih (g.setRegs l (w l))
    exact ⟨rs', ps', by rw [List.foldl_cons, h', h]⟩

/-- A register after writes to several lanes: the last write of its own lane, if its lane is among them. -/
theorem Group.reg_setLanes (g : Group) (ls : List Nat) (w : Nat → List (Nat × Word)) (k q : Nat)
    (h : ∀ l ∈ ls, ∀ x ∈ w l, x.1 < q + 128 ∧ q < x.1 + 128) :
    (ls.foldl (fun h l => h.setRegs l (w l)) g).reg k q = if k ∈ ls then lastWrite (w k) q (g.reg k q) else g.reg k q := by
  induction ls generalizing g with
  | nil => simp
  | cons l ls ih =>
    rw [List.foldl_cons, ih _ (fun a ha => h a (List.mem_cons_of_mem _ ha))]
    by_cases e : k = l
    · subst e
      rw [Group.reg_setRegs, if_pos List.mem_cons_self]
      split
      · exact lastWrite_lastWrite _ _ _
      · rfl
    · rw [Group.reg_setRegs_ne]
      · simp [e]
      · intro x hx
        have := h l List.mem_cons_self x hx
        omega

/-! Lanes. -/

theorem length_modAt {α : Type} (f : α → α) (i : Nat) (xs : List α) : (modAt f i xs).length = xs.length := by
  induction xs generalizing i with
  | nil => cases i <;> rfl
  | cons x xs ih => cases i with
    | zero => rfl
    | succ i => simp [modAt, ih]

theorem getElem?_modAt {α : Type} (f : α → α) (i j : Nat) (xs : List α) :
    (modAt f i xs)[j]? = if j = i then xs[j]?.map f else xs[j]? := by
  induction xs generalizing i j with
  | nil => cases i <;> simp [modAt]
  | cons x xs ih => cases i with
    | zero => cases j <;> simp [modAt]
    | succ i => cases j with
      | zero => simp [modAt]
      | succ j => simp [modAt, ih]

theorem Group.lane_modLane_self (g : Group) (l : Nat) (f : Lane → Lane) (h : l < g.lanes.length) :
    (g.modLane l f).lane l = f (g.lane l) := by
  simp [Group.lane, Group.modLane, getElem?_modAt, h]

theorem Group.lane_modLane_ne (g : Group) {l k : Nat} (f : Lane → Lane) (h : k ≠ l) : (g.modLane l f).lane k = g.lane k := by
  simp [Group.lane, Group.modLane, getElem?_modAt, h]

@[simp] theorem Group.length_modLane (g : Group) (l : Nat) (f : Lane → Lane) : (g.modLane l f).lanes.length = g.lanes.length :=
  length_modAt f l g.lanes

@[simp] theorem Group.modLane_regs (g : Group) (l : Nat) (f : Lane → Lane) : (g.modLane l f).regs = g.regs := rfl
@[simp] theorem Group.modLane_reg (g : Group) (l : Nat) (f : Lane → Lane) (k r : Nat) : (g.modLane l f).reg k r = g.reg k r := rfl

/-- Changes of lanes touch the lanes alone. -/
theorem Group.modLanes_eq (g : Group) (ls : List Nat) (f : Lane → Lane) :
    ∃ xs, g.modLanes ls f = { g with lanes := xs } ∧ xs.length = g.lanes.length := by
  unfold Group.modLanes
  induction ls generalizing g with
  | nil => exact ⟨_, rfl, rfl⟩
  | cons l ls ih =>
    obtain ⟨xs, h, hn⟩ := ih (g.modLane l f)
    exact ⟨xs, by rw [List.foldl_cons, h]; rfl, by rw [hn]; exact length_modAt f l g.lanes⟩

@[simp] theorem Group.length_modLanes (g : Group) (ls : List Nat) (f : Lane → Lane) :
    (g.modLanes ls f).lanes.length = g.lanes.length := by
  unfold Group.modLanes
  induction ls generalizing g with
  | nil => rfl
  | cons l ls ih => rw [List.foldl_cons, ih, Group.length_modLane]

/-- A lane that is not among those changed stays as it was. -/
theorem Group.lane_modLanes_ne (g : Group) (ls : List Nat) (f : Lane → Lane) {k : Nat} (h : k ∉ ls) :
    (g.modLanes ls f).lane k = g.lane k := by
  unfold Group.modLanes
  induction ls generalizing g with
  | nil => rfl
  | cons l ls ih =>
    rw [List.foldl_cons, ih _ (fun hm => h (List.mem_cons_of_mem _ hm)),
      Group.lane_modLane_ne _ _ (fun e => h (by rw [e]; exact List.mem_cons_self))]

/-- A lane changed once or more by an idempotent change. -/
theorem Group.lane_modLanes_mem (g : Group) (ls : List Nat) (f : Lane → Lane) {k : Nat} (h : k ∈ ls) (hk : k < g.lanes.length)
    (hf : ∀ x, f (f x) = f x) : (g.modLanes ls f).lane k = f (g.lane k) := by
  unfold Group.modLanes
  induction ls generalizing g with
  | nil => cases h
  | cons l ls ih =>
    rw [List.foldl_cons]
    by_cases hl : k ∈ ls
    · rw [ih _ hl (by simpa using hk)]
      by_cases e : k = l
      · subst e
        rw [Group.lane_modLane_self _ _ _ hk, hf]
      · rw [Group.lane_modLane_ne _ _ e]
    · have e : k = l := by
        rcases List.mem_cons.mp h with e | e
        · exact e
        · exact absurd e hl
      subst e
      have := Group.lane_modLanes_ne (g.modLane k f) ls f hl
      unfold Group.modLanes at this
      rw [this, Group.lane_modLane_self _ _ _ hk]

end Sys2Proof.Machine
end

