-- ==== Sys2Proof/Laws/Issue.lean ====
section
/-!
SUPPORT. The frame of an instruction issue: what tracing and counting leave alone, what the end of an issue does, and that an issue which
nothing holds or stops runs its body.
-/
namespace Sys2Proof.Machine

/-! Tracing writes no group. -/

@[simp] theorem State.group?_tracePut (s : State) (c : Nat) (bs : List Nat) (d : Nat) (a : Agent) :
    (s.tracePut c bs).group? d a = s.group? d a := rfl

/-- A core's update that leaves its groups alone leaves every group alone. -/
theorem State.group?_modCore (s : State) (c : Nat) (f : Core → Core) (hc : ∀ k, (f k).ct = k.ct) (hg : ∀ k, (f k).groups = k.groups)
    (d : Nat) (a : Agent) : (s.modCore c f).group? d a = s.group? d a := by
  unfold State.group?
  by_cases h : d = c
  · subst h
    rw [State.core_modCore_self]
    cases a <;> simp [Core.group?, hc, hg]
  · rw [State.core_modCore_ne _ _ h]

@[simp] theorem State.group?_trace (s : State) (c v : Nat) (p : List Nat) (d : Nat) (a : Agent) :
    (s.trace c v p).group? d a = s.group? d a := by
  unfold State.trace State.traceWrite
  dsimp only
  split_ifs <;> simp [State.group?_modCore]

@[simp] theorem State.issue_trace (s : State) (c v : Nat) (p : List Nat) : (s.trace c v p).issue = s.issue := by
  unfold State.trace State.traceWrite
  dsimp only
  split_ifs <;> rfl

@[simp] theorem State.ops_trace (s : State) (c v : Nat) (p : List Nat) : (s.trace c v p).ops = s.ops := by
  unfold State.trace State.traceWrite
  dsimp only
  split_ifs <;> rfl

@[simp] theorem State.badPa_trace (s : State) (c v : Nat) (p : List Nat) : (s.trace c v p).badPa = s.badPa := by
  unfold State.trace State.traceWrite
  dsimp only
  split_ifs <;> rfl

@[simp] theorem State.issue_traceIssue (s : State) : s.traceIssue.issue = s.issue := by
  unfold State.traceIssue
  split <;> simp

@[simp] theorem State.group?_traceIssue (s : State) (d : Nat) (a : Agent) : s.traceIssue.group? d a = s.group? d a := by
  unfold State.traceIssue
  split <;> simp

@[simp] theorem State.ops_traceIssue (s : State) : s.traceIssue.ops = s.ops := by
  unfold State.traceIssue
  split <;> simp

@[simp] theorem State.badPa_traceIssue (s : State) : s.traceIssue.badPa = s.badPa := by
  unfold State.traceIssue
  split <;> simp

theorem State.traceIssue_untraced {s : State} (h : s.Untraced) : s.traceIssue = s := by
  unfold State.traceIssue
  split
  · rename_i n hn
    rcases h with h | h
    · simp [State.isCt, hn] at h
    · unfold State.trace
      rw [if_pos h]
  · rfl

/-! Counting. -/

/-- What counting does to the issuing group. -/
def State.countGroup (s : State) (g : Group) : Group :=
  if s.issue.lanes.any (fun l => !(s.me.lane l).counted) then
    { g with rwc := (g.rwc + 1) % 2 ^ 48 }.modLanes s.issue.lanes (·.count g.rwc)
  else g

@[simp] theorem State.issue_countIssue (s : State) : s.countIssue.issue = s.issue := by
  unfold State.countIssue
  split <;> simp

@[simp] theorem State.ops_countIssue (s : State) : s.countIssue.ops = s.ops := by
  unfold State.countIssue
  split <;> simp

@[simp] theorem State.badPa_countIssue (s : State) : s.countIssue.badPa = s.badPa := by
  unfold State.countIssue
  split <;> simp

theorem State.countIssue_me? (s : State) : s.countIssue.me? = s.me?.map s.countGroup := by
  unfold State.countIssue State.countGroup
  split
  · rename_i h
    simp only [State.me?_modMe]
    congr 1
    simp [State.me?]
  · simp

/-- Counting touches lanes and `$rwc` alone. -/
theorem State.countGroup_eq (s : State) (g : Group) :
    ∃ n xs, s.countGroup g = { g with rwc := n, lanes := xs } ∧ xs.length = g.lanes.length := by
  unfold State.countGroup
  split
  · obtain ⟨xs, h, hn⟩ := Group.modLanes_eq { g with rwc := (g.rwc + 1) % 2 ^ 48 } s.issue.lanes (·.count g.rwc)
    exact ⟨_, xs, by rw [h], hn⟩
  · exact ⟨_, _, rfl, rfl⟩

/-! The end of an issue. -/

/-- What the end of an issue does to a lane. -/
def State.passLane (s : State) (x : Lane) : Lane := { s.pastIssue x with counted := false, back := none }

theorem State.passLane_idem (s : State) (x : Lane) : s.passLane (s.passLane x) = s.passLane x := rfl

/-- What the end of an issue does to the issuing group. -/
def State.retireGroup (s : State) (g : Group) : Group := (s.countGroup g).modLanes s.issue.lanes s.passLane

theorem State.retire_me? (s : State) : s.retire.me? = s.me?.map s.retireGroup := by
  unfold State.retire
  simp only [State.me?_modMe, State.countIssue_me?, Option.map_map]
  rfl

@[simp] theorem State.issue_retire (s : State) : s.retire.issue = s.issue := by
  unfold State.retire
  simp

@[simp] theorem State.ops_retire (s : State) : s.retire.ops = s.ops := by
  unfold State.retire
  simp

@[simp] theorem State.badPa_retire (s : State) : s.retire.badPa = s.badPa := by
  unfold State.retire
  simp

/-- The end of an issue touches lanes and `$rwc` alone. -/
theorem State.retireGroup_eq (s : State) (g : Group) :
    ∃ n xs, s.retireGroup g = { g with rwc := n, lanes := xs } ∧ xs.length = g.lanes.length := by
  obtain ⟨n, ys, h, hy⟩ := s.countGroup_eq g
  obtain ⟨xs, h', hx⟩ := Group.modLanes_eq (s.countGroup g) s.issue.lanes s.passLane
  refine ⟨n, xs, ?_, ?_⟩
  · unfold State.retireGroup
    rw [h', h]
  · rw [hx, h]
    exact hy

@[simp] theorem State.retireGroup_reg (s : State) (g : Group) (l r : Nat) : (s.retireGroup g).reg l r = g.reg l r := by
  obtain ⟨n, xs, h, -⟩ := s.retireGroup_eq g
  rw [h]
  rfl

/-- The issuing group after its issue has ended. -/
theorem State.retire_me {s : State} (h : s.me?.isSome = true) : s.retire.me = s.retireGroup s.me := by
  obtain ⟨g, hg⟩ := Option.isSome_iff_exists.mp h
  simp [State.me, State.retire_me?, hg]

/-- The end of an issue writes no register. -/
theorem State.retire_reg {s : State} (h : s.me?.isSome = true) (l r : Nat) : s.retire.me.reg l r = s.me.reg l r := by
  rw [State.retire_me h, State.retireGroup_reg]

/-- An active lane stands past the word after the issue has ended. -/
theorem State.retireGroup_lane (s : State) (g : Group) {l : Nat} (hl : l ∈ s.issue.lanes) (hn : l < g.lanes.length) :
    ∃ x, (s.retireGroup g).lane l = s.passLane x := by
  obtain ⟨n, ys, h, hy⟩ := s.countGroup_eq g
  refine ⟨_, Group.lane_modLanes_mem _ _ _ hl ?_ s.passLane_idem⟩
  rw [h]
  exact hy ▸ hn

/-! Issues that nothing holds or stops. -/

/-- An issue that nothing holds or stops runs its body. -/
theorem issueWith_free {s : State} {u : Bool} {reads writes : List Nat} (h : s.Free u reads writes) (k : State → Out) :
    issueWith u reads writes s k = k s := by
  obtain ⟨⟨hm, hl⟩, hr, hf, hp⟩ := h
  obtain ⟨g, hg⟩ := Option.isSome_iff_exists.mp hm
  have hme : s.me = g := by simp [State.me, hg]
  have hlow : g.lowestOutside (reads ++ writes) = none := by
    unfold Group.lowestOutside
    rw [List.filter_eq_nil_iff.mpr]
    · rfl
    · intro r hmem
      have := (hr r hmem).1
      rw [hme] at this
      simp only [decide_eq_true_eq]
      omega
  unfold issueWith
  split
  · rename_i h1
    exact absurd (hg.symm.trans h1) (by simp)
  · rename_i h1 _
    exact absurd h1 hl
  · rename_i g' _ _ h1 _
    have : g' = g := Option.some.inj (h1.symm.trans hg)
    subst this
    simp only [hlow, hf, hp, if_true]

/-- An access that nothing holds or stops runs its body. -/
theorem accessWith_free {s : State} {u : Bool} {reads writes : List Nat} (h : s.AccessFree u reads writes) (k : State → Out) :
    accessWith u reads writes s k = k s := by
  unfold accessWith
  rw [issueWith_free h.1]
  simp only [h.2, if_true]

/-- A register instruction that nothing holds or stops writes its results and ends. -/
theorem laneOp_free {s : State} {u : Bool} {reads writes : List Nat} (h : s.Free u reads writes)
    (f : Group → Nat → List (Nat × Word)) : laneOp u reads writes s f = .next (s.writeLanes u f).retire := by
  unfold laneOp
  rw [issueWith_free h]

/-- A flag instruction that nothing holds or stops writes its flag and ends. -/
theorem flagOp_free {s : State} {u : Bool} {reads : List Nat} {c : Nat} (h : s.Free u reads []) (f : Group → Nat → Bool) :
    flagOp u reads c s f = .next (s.modMe fun g =>
      s.issue.lanes.foldl (fun h l => h.setFlag l c (f g (srcLane u s.issue.lanes l))) g).retire := by
  unfold flagOp
  rw [issueWith_free h]

/-! Results of lanes. -/

@[simp] theorem State.issue_writeLanes (s : State) (u : Bool) (f : Group → Nat → List (Nat × Word)) :
    (s.writeLanes u f).issue = s.issue := rfl

/-- A register of a lane after an instruction has written its results: the result of the lane's source lane, if the lane is active. -/
theorem State.writeLanes_reg {s : State} (hm : s.me?.isSome = true) (u : Bool) (f : Group → Nat → List (Nat × Word)) (l q : Nat)
    (hq : ∀ k ∈ s.issue.lanes, ∀ x ∈ f s.me (srcLane u s.issue.lanes k), x.1 < q + 128 ∧ q < x.1 + 128) :
    (s.writeLanes u f).retire.me.reg l q =
      if l ∈ s.issue.lanes then lastWrite (f s.me (srcLane u s.issue.lanes l)) q (s.me.reg l q) else s.me.reg l q := by
  have h' : (s.writeLanes u f).me?.isSome = true := by
    unfold State.writeLanes
    rw [State.me?_modMe]
    simpa using hm
  rw [State.retire_reg h']
  unfold State.writeLanes
  rw [State.me_modMe _ _ hm]
  exact Group.reg_setLanes _ _ _ _ _ hq

end Sys2Proof.Machine
end

