-- ==== Sys2Proof/Laws/Alu.lean ====
section
/-!
SUPPORT. What the shared operations of the ALU class do in an issue that nothing holds or stops: one lemma for each.
-/
namespace Sys2Proof.Machine

/-- An issue that ends leaves its active lanes at the next word, whatever else it has done to its group. -/
theorem State.retire_passed {s t : State} (hi : t.issue = s.issue) (hl : t.me.lanes.length = s.me.lanes.length)
    (ht : t.me?.isSome = true) : s.AllPassed t.retire := by
  intro l hl' hn
  rw [State.Passed, State.retire_me ht]
  obtain ⟨x, hx⟩ := State.retireGroup_lane t t.me (hi ▸ hl') (hl ▸ hn)
  have hs : t.issueSize = s.issueSize := by simp [State.issueSize, State.issueHeader, hi]
  have hc : t.clauseEnd = s.clauseEnd := by simp [State.clauseEnd, hi]
  rw [hx]
  simp only [State.passLane, State.pastIssue, hs, hc, hi, and_self]

/-- The same of an issue that changes its group by `f` and ends. -/
theorem State.modMe_retire_passed {s : State} (hm : s.me?.isSome = true) (f : Group → Group)
    (hf : (f s.me).lanes.length = s.me.lanes.length) : s.AllPassed (s.modMe f).retire := by
  refine State.retire_passed (t := s.modMe f) rfl ?_ ?_
  · rw [State.me_modMe _ _ hm, hf]
  · rw [State.me?_modMe]
    simpa using hm

theorem State.writeLanes_passed {s : State} (hm : s.me?.isSome = true) (u : Bool) (f : Group → Nat → List (Nat × Word)) :
    s.AllPassed (s.writeLanes u f).retire := by
  apply State.modMe_retire_passed hm
  obtain ⟨rs, ps, h⟩ := Group.setLanes_eq s.me s.issue.lanes fun l => f s.me (srcLane u s.issue.lanes l)
  rw [h]

/-- A register instruction with one result. -/
theorem laneOp_one {s : State} {u : Bool} {reads : List Nat} {d : Nat} (h : s.Free u reads [d]) (f : Group → Nat → Word) :
    ∃ t, laneOp u reads [d] s (fun g l => [(d, f g l)]) = .next t ∧ s.AllPassed t ∧ s.Result t u d (f s.me) := by
  refine ⟨_, laneOp_free h _, State.writeLanes_passed h.1.1 _ _, ?_⟩
  intro l hl
  rw [State.writeLanes_reg h.1.1 u _ l d (by intro k _ x hx; simp at hx; subst hx; omega), if_pos hl]
  simp [lastWrite]

/-- A register instruction with a pair as its result. -/
theorem laneOp_pair {s : State} {u : Bool} {reads : List Nat} {d : Nat} (h : s.Free u reads [d, d + 1])
    (f : Group → Nat → Double) :
    ∃ t, laneOp u reads [d, d + 1] s (fun g l => pairWrites d (f g l)) = .next t ∧ s.AllPassed t ∧
      s.PairResult t u d (f s.me) := by
  refine ⟨_, laneOp_free h _, State.writeLanes_passed h.1.1 _ _, ?_⟩
  intro l hl
  unfold Group.pair
  rw [State.writeLanes_reg h.1.1 u _ l d (by
      intro k _ x hx; simp only [pairWrites, List.mem_cons, List.not_mem_nil, or_false] at hx
      rcases hx with rfl | rfl <;> dsimp only <;> omega), if_pos hl,
    State.writeLanes_reg h.1.1 u _ l (d + 1) (by
      intro k _ x hx; simp only [pairWrites, List.mem_cons, List.not_mem_nil, or_false] at hx
      rcases hx with rfl | rfl <;> dsimp only <;> omega), if_pos hl]
  simp only [lastWrite, pairWrites, List.foldl_cons, List.foldl_nil, if_true]
  apply BitVec.eq_of_getLsbD_eq
  intro i hi
  rw [BitVec.getLsbD_append]
  simp only [BitVec.getLsbD_extractLsb']
  by_cases h32 : i < 32
  · simp [h32]
  · simp only [h32]
    rw [show 32 + (i - 32) = i by omega]
    simp only [show i - 32 < 32 by omega, decide_true, Bool.true_and]
    rfl

/-- A 32-bit result of two registers. -/
theorem alu2_result {s : State} {u : Bool} {d a b : Nat} (h : s.Free u [a, b] [d]) (f : Word → Word → Word) :
    ∃ t, alu2 u d a b s f = .next t ∧ s.AllPassed t ∧ s.Result t u d fun k => f (s.me.reg k a) (s.me.reg k b) :=
  laneOp_one h _

/-- A 32-bit result of one register. -/
theorem alu1_result {s : State} {u : Bool} {d a : Nat} (h : s.Free u [a] [d]) (f : Word → Word) :
    ∃ t, alu1 u d a s f = .next t ∧ s.AllPassed t ∧ s.Result t u d fun k => f (s.me.reg k a) :=
  laneOp_one h _

/-- A 64-bit result of two pairs. -/
theorem aluPair_result {s : State} {u : Bool} {d a b : Nat} (h : s.Free u [a, a + 1, b, b + 1] [d, d + 1])
    (f : Double → Double → Double) :
    ∃ t, aluPair u d a b s f = .next t ∧ s.AllPassed t ∧ s.PairResult t u d fun k => f (s.me.pair k a) (s.me.pair k b) :=
  laneOp_pair h _

/-! Condition flags. -/

theorem Group.flag_setFlag_self (g : Group) (l c : Nat) (b : Bool) (hl : l < g.lanes.length) (hc : c < 8) :
    (g.setFlag l c b).flag l c = b := by
  unfold Group.flag Group.setFlag
  rw [Group.lane_modLane_self _ _ _ hl]
  have : c = 0 ∨ c = 1 ∨ c = 2 ∨ c = 3 ∨ c = 4 ∨ c = 5 ∨ c = 6 ∨ c = 7 := by omega
  rcases this with rfl | rfl | rfl | rfl | rfl | rfl | rfl | rfl <;> cases b <;> simp

theorem Group.setFlag_eq (g : Group) (l c : Nat) (b : Bool) :
    ∃ xs, g.setFlag l c b = { g with lanes := xs } ∧ xs.length = g.lanes.length :=
  ⟨_, rfl, length_modAt _ _ _⟩

/-- Flag writes to several lanes touch the lanes alone. -/
theorem Group.setFlags_eq (g : Group) (ls : List Nat) (c : Nat) (b : Nat → Bool) :
    ∃ xs, ls.foldl (fun h l => h.setFlag l c (b l)) g = { g with lanes := xs } ∧ xs.length = g.lanes.length := by
  induction ls generalizing g with
  | nil => exact ⟨_, rfl, rfl⟩
  | cons l ls ih =>
    obtain ⟨xs, h, hn⟩ := ih (g.setFlag l c (b l))
    exact ⟨xs, by rw [List.foldl_cons, h]; rfl, by rw [hn]; exact length_modAt _ _ _⟩

/-- A flag of a lane among those written. -/
theorem Group.flag_setFlags (g : Group) (ls : List Nat) (c : Nat) (b : Nat → Bool) {k : Nat} (hk : k ∈ ls)
    (hn : k < g.lanes.length) (hc : c < 8) : (ls.foldl (fun h l => h.setFlag l c (b l)) g).flag k c = b k := by
  induction ls generalizing g with
  | nil => cases hk
  | cons l ls ih =>
    rw [List.foldl_cons]
    by_cases hl : k ∈ ls
    · exact ih _ hl (by rw [show (g.setFlag l c (b l)).lanes.length = g.lanes.length from length_modAt _ _ _]; exact hn)
    · have e : k = l := by
        rcases List.mem_cons.mp hk with e | e
        · exact e
        · exact absurd e hl
      subst e
      have keep : ∀ (xs : List Nat) (h : Group), k ∉ xs → (xs.foldl (fun h l => h.setFlag l c (b l)) h).lane k = h.lane k := by
        intro xs
        induction xs with
        | nil => intros; rfl
        | cons x xs ihx =>
          intro h hx
          rw [List.foldl_cons, ihx _ (fun hm => hx (List.mem_cons_of_mem _ hm))]
          exact Group.lane_modLane_ne _ _ (fun e => hx (by rw [e]; exact List.mem_cons_self))
      have := Group.flag_setFlag_self g k c (b k) hn hc
      unfold Group.flag at this ⊢
      rw [keep ls _ hl]
      exact this

/-- The end of an issue writes no condition flag. -/
theorem State.retireGroup_flag (s : State) (g : Group) (l c : Nat) : (s.retireGroup g).flag l c = g.flag l c := by
  have keep : ∀ (ls : List Nat) (f : Lane → Lane) (h : Group), (∀ x, (f x).cflags = x.cflags) →
      ((h.modLanes ls f).lane l).cflags = (h.lane l).cflags := by
    intro ls f
    induction ls with
    | nil => intros; rfl
    | cons x xs ih =>
      intro h hf
      have step : ((h.modLane x f).lane l).cflags = (h.lane l).cflags := by
        by_cases e : l = x
        · subst e
          by_cases hn : l < h.lanes.length
          · rw [Group.lane_modLane_self _ _ _ hn, hf]
          · simp [Group.lane, Group.modLane, getElem?_modAt, List.getElem?_eq_none (Nat.le_of_not_lt hn)]
        · rw [Group.lane_modLane_ne _ _ e]
      have := ih (h.modLane x f) hf
      unfold Group.modLanes at this ⊢
      rw [List.foldl_cons, this, step]
  unfold Group.flag State.retireGroup
  rw [keep _ s.passLane _ (fun _ => rfl)]
  unfold State.countGroup
  split
  · rw [keep _ (·.count g.rwc) _ (fun _ => rfl)]
    rfl
  · rfl

/-- A flag instruction that nothing holds or stops. -/
theorem flagOp_result {s : State} {u : Bool} {reads : List Nat} {c : Nat} (h : s.Free u reads []) (hc : c < 8)
    (f : Group → Nat → Bool) :
    ∃ t, flagOp u reads c s f = .next t ∧ s.AllPassed t ∧ s.FlagResult t u c (f s.me) := by
  obtain ⟨xs, he, hn⟩ := Group.setFlags_eq s.me s.issue.lanes c fun l => f s.me (srcLane u s.issue.lanes l)
  have hm := h.1.1
  have ht : (s.modMe fun g => s.issue.lanes.foldl (fun h l => h.setFlag l c (f g (srcLane u s.issue.lanes l))) g).me?.isSome = true := by
    rw [State.me?_modMe]
    simpa using hm
  refine ⟨_, flagOp_free h f, State.modMe_retire_passed hm _ (by rw [he]; exact hn), ?_⟩
  intro l hl hln
  rw [State.retire_me ht, State.retireGroup_flag, State.me_modMe _ _ hm]
  exact Group.flag_setFlags _ _ _ _ hl hln hc

end Sys2Proof.Machine
end

