-- ==== Sys2Proof/Laws/Fpu.lean ====
section
/-!
SUPPORT. What the frame of the floating-point instructions does in an issue that nothing holds or stops.
-/
namespace Sys2Proof.Machine

/-- What a floating-point instruction leaves in its group: flags, results, and the stochastic-rounding states of the lanes that drew. -/
def State.fpGroup (s : State) (u : Bool) (f : Nat → FpOut) (g : Group) : Group :=
  let g1 : Group := { g with fpf := g.fpf ||| (s.sources u).foldl (fun x l => x ||| (f l).flags) 0 }
  let g2 := s.issue.lanes.foldl (fun h l =>
    let o := f (srcLane u s.issue.lanes l)
    match o.cflag with
    | some (c, b) => (h.setRegs l (o.regs (s.me.reg l))).setFlag l c b
    | none => h.setRegs l (o.regs (s.me.reg l))) g1
  (s.sources u).foldl (fun h l => match (f l).sr with | some x => h.modLane l ({ · with sr := x }) | none => h) g2

theorem State.mem_sources {s : State} {u : Bool} {l : Nat} (h : l ∈ s.issue.lanes) : srcLane u s.issue.lanes l ∈ s.sources u := by
  unfold srcLane State.sources
  cases u
  · simpa using h
  · cases hl : s.issue.lanes with
    | nil => rw [hl] at h; cases h
    | cons x xs => simp

theorem find?_outs (xs : List Nat) (f : Nat → FpOut) {k : Nat} (h : k ∈ xs) :
    (xs.map fun l => (l, f l)).find? (fun o => o.1 == k) = some (k, f k) := by
  induction xs with
  | nil => cases h
  | cons x xs ih =>
    rw [List.map_cons, List.find?_cons]
    by_cases e : x = k
    · subst e; simp
    · have : (x == k) = false := by simpa using e
      simp only [this]
      exact ih (by rcases List.mem_cons.mp h with h | h; exacts [absurd h.symm e, h])

theorem foldl_congr_mem {α β : Type} (xs : List α) (f g : β → α → β) (b : β) (h : ∀ b, ∀ x ∈ xs, f b x = g b x) :
    xs.foldl f b = xs.foldl g b := by
  induction xs generalizing b with
  | nil => rfl
  | cons x xs ih =>
    rw [List.foldl_cons, List.foldl_cons, h b x List.mem_cons_self]
    exact ih _ fun b y hy => h b y (List.mem_cons_of_mem _ hy)

theorem State.modMe_modMe (s : State) (f g : Group → Group) : (s.modMe f).modMe g = s.modMe fun x => g (f x) := by
  unfold State.modMe State.modGroup State.modCore
  simp only [State.core]
  have key : ∀ (m : NMap Core) (c : Nat) (v w : Core), NMap.put (NMap.put m c v) c w = NMap.put m c w := by
    intro m c v w
    induction m with
    | nil => simp [NMap.put]
    | cons x xs ih =>
      obtain ⟨j, y⟩ := x
      simp only [NMap.put]
      split_ifs <;> simp_all [NMap.put]
  rw [key]
  have fnd : ∀ (m : NMap Core) (c : Nat) (v : Core), NMap.find (NMap.put m c v) c = some v := by
    intro m c v
    induction m with
    | nil => simp [NMap.put, NMap.find]
    | cons x xs ih =>
      obtain ⟨j, y⟩ := x
      simp only [NMap.put]
      split_ifs with h1 h2
      · simp [NMap.find]
      · simp [NMap.find]
      · simp [NMap.find, Ne.symm h2, ih]
  simp only [fnd, Option.getD_some, Core.modGroup_modGroup]

/-- A floating-point instruction that nothing holds or stops. -/
theorem fpOp_free {s : State} {u : Bool} {reads writes : List Nat} {operands : List (Nat × Nat)} {a : Nat} {flag : State → Option Nat}
    {f : State → Nat → FpOut} (h : s.FpFree u reads writes (operands.map (·.2)) (fun l => (f s l).flags)) :
    fpOp u reads writes operands a flag s f = .next (((s.modMe (s.fpGroup u (f s))).track (flag s)).retire) := by
  obtain ⟨hf, hv, hq⟩ := h
  have e1 : (if s.vtrap then s.verdictOperand u operands else none) = none := by
    split
    · rename_i ht
      unfold State.verdictOperand
      rw [List.findSome?_eq_none_iff]
      intro l hl
      rw [List.findSome?_eq_none_iff]
      intro o ho
      rw [hv ht l hl o.2 (List.mem_map_of_mem ho)]
      rfl
    · rfl
  have e2 : ((s.sources u).map fun l => (l, f s l)).find? (fun o => decide (o.2.flags &&& s.fpEnables ≠ 0)) = none := by
    rw [List.find?_eq_none]
    intro o ho
    obtain ⟨l, hl, rfl⟩ := List.mem_map.mp ho
    simp [hq l hl]
  unfold fpOp
  rw [issueWith_free hf]
  unfold fpStep
  simp only [e1]
  have e2' := e2
  unfold State.sources at e2'
  simp only [e2', State.modMe_modMe]
  congr 2
  congr 1
  congr 1
  funext g
  unfold State.fpGroup
  have e3 : ∀ (xs : List Nat) (b : FpFlags), (xs.map fun l => (l, f s l)).foldl (fun x o => x ||| o.2.flags) b =
      xs.foldl (fun x l => x ||| (f s l).flags) b := fun xs b => by rw [List.foldl_map]
  simp only [State.sources, e3, List.foldl_map]
  congr 1
  apply foldl_congr_mem
  intro b l hl
  have := find?_outs (s.sources u) (f s) (State.mem_sources (u := u) hl)
  unfold State.sources at this
  rw [this] <;>
    (dsimp only
     generalize f s (srcLane u s.issue.lanes l) = o
     rcases o with ⟨_, _ | ⟨c, b⟩, _, _, _⟩ <;> rfl)

@[simp] theorem State.me_track (s : State) (n : Option Nat) : (s.track n).me = s.me := by
  cases n <;> rfl

@[simp] theorem State.me?_track (s : State) (n : Option Nat) : (s.track n).me? = s.me? := by
  cases n <;> rfl

@[simp] theorem State.issue_track (s : State) (n : Option Nat) : (s.track n).issue = s.issue := by
  cases n <;> rfl

/-- The last part of a floating-point instruction touches lanes alone. -/
theorem Group.setSr_eq (g : Group) (ls : List Nat) (f : Nat → FpOut) :
    ∃ xs, ls.foldl (fun h l => match (f l).sr with | some x => h.modLane l ({ · with sr := x }) | none => h) g = { g with lanes := xs } ∧
      xs.length = g.lanes.length := by
  induction ls generalizing g with
  | nil => exact ⟨_, rfl, rfl⟩
  | cons l ls ih =>
    rw [List.foldl_cons]
    cases (f l).sr with
    | none => exact ih g
    | some x =>
      obtain ⟨xs, h, hn⟩ := ih (g.modLane l ({ · with sr := x }))
      exact ⟨xs, by rw [h]; rfl, by rw [hn]; exact length_modAt _ _ _⟩

/-- The group of a floating-point instruction whose results are registers. -/
theorem State.fpGroup_regs (s : State) (u : Bool) (f : Nat → FpOut) (hc : ∀ l, (f l).cflag = none) (g : Group) :
    ∃ xs, s.fpGroup u f g = { s.issue.lanes.foldl (fun h l => h.setRegs l ((f (srcLane u s.issue.lanes l)).regs (s.me.reg l)))
        { g with fpf := g.fpf ||| (s.sources u).foldl (fun x l => x ||| (f l).flags) 0 } with lanes := xs } ∧
      xs.length = g.lanes.length := by
  unfold State.fpGroup
  obtain ⟨xs, h, hn⟩ := Group.setSr_eq (s.issue.lanes.foldl (fun h l => h.setRegs l ((f (srcLane u s.issue.lanes l)).regs (s.me.reg l)))
        { g with fpf := g.fpf ||| (s.sources u).foldl (fun x l => x ||| (f l).flags) 0 }) (s.sources u) f
  refine ⟨xs, ?_, ?_⟩
  · rw [← h]
    simp only [hc]
  · rw [hn]
    obtain ⟨rs, ps, h⟩ := Group.setLanes_eq { g with fpf := g.fpf ||| (s.sources u).foldl (fun x l => x ||| (f l).flags) 0 }
      s.issue.lanes fun l => (f (srcLane u s.issue.lanes l)).regs (s.me.reg l)
    rw [h]

/-- A floating-point instruction that nothing holds or stops, whose results are registers. -/
theorem fpOp_regs {s : State} {u : Bool} {reads writes : List Nat} {operands : List (Nat × Nat)} {a : Nat} {flag : State → Option Nat}
    {f : State → Nat → FpOut} (h : s.FpFree u reads writes (operands.map (·.2)) (fun l => (f s l).flags))
    (hc : ∀ l, (f s l).cflag = none) :
    ∃ t, fpOp u reads writes operands a flag s f = .next t ∧ s.AllPassed t ∧ s.FpfAfter t u (fun l => (f s l).flags) ∧
      ∀ l q, (∀ k ∈ s.issue.lanes, ∀ x ∈ (f s (srcLane u s.issue.lanes k)).regs (s.me.reg k), x.1 < q + 128 ∧ q < x.1 + 128) →
        t.me.reg l q = if l ∈ s.issue.lanes then lastWrite ((f s (srcLane u s.issue.lanes l)).regs (s.me.reg l)) q (s.me.reg l q)
          else s.me.reg l q := by
  have hm := h.1.1.1
  obtain ⟨xs, he, hn⟩ := s.fpGroup_regs u (f s) hc s.me
  have ht : ((s.modMe (s.fpGroup u (f s))).track (flag s)).me?.isSome = true := by
    rw [State.me?_track, State.me?_modMe]; simpa using hm
  refine ⟨_, fpOp_free h, State.retire_passed (by simp) ?_ ht, ?_, ?_⟩
  · rw [State.me_track, State.me_modMe _ _ hm, he]
    exact hn
  · unfold State.FpfAfter
    rw [State.retire_me ht, State.me_track, State.me_modMe _ _ hm]
    obtain ⟨n, ys, hr, -⟩ := ((s.modMe (s.fpGroup u (f s))).track (flag s)).retireGroup_eq (s.fpGroup u (f s) s.me)
    rw [hr, he]
    obtain ⟨rs, ps, hl⟩ := Group.setLanes_eq { s.me with fpf := s.me.fpf ||| (s.sources u).foldl (fun x l => x ||| (f s l).flags) 0 }
      s.issue.lanes fun l => (f s (srcLane u s.issue.lanes l)).regs (s.me.reg l)
    simp only [hl]
  · intro l q hq
    rw [State.retire_reg ht, State.me_track, State.me_modMe _ _ hm, he]
    exact Group.reg_setLanes _ _ _ _ _ hq

/-- The same with one result register. -/
theorem fpOp_one {s : State} {u : Bool} {reads : List Nat} {d : Nat} {operands : List (Nat × Nat)} {a : Nat}
    {flag : State → Option Nat} {f : State → Nat → FRes}
    (h : s.FpFree u reads [d] (operands.map (·.2)) (fun l => (f s l).flags)) :
    ∃ t, fpOp u reads [d] operands a flag s (fun t l => (f t l).out d) = .next t ∧ s.AllPassed t ∧
      s.FpfAfter t u (fun l => (f s l).flags) ∧ s.Result t u d fun l => BitVec.ofNat 32 (f s l).bits := by
  obtain ⟨t, h1, h2, h3, h4⟩ := fpOp_regs (a := a) (flag := flag) (f := fun t l => (f t l).out d) h fun _ => rfl
  refine ⟨t, h1, h2, h3, fun l hl => ?_⟩
  rw [h4 l d (by intro k _ x hx; simp only [FpOut.regs, FRes.out, List.mem_singleton] at hx; subst hx; simp), if_pos hl]
  simp [lastWrite, FpOut.regs, FRes.out]

/-- Writes above a register leave it. -/
theorem lastWrite_wordWrites_below (n : Nat) {d q : Nat} (v : Nat) (old : Word) (h : q < d) :
    lastWrite (wordWrites d v n) q old = old := by
  induction n generalizing d v old with
  | zero => rfl
  | succ n ih =>
    have e : lastWrite (wordWrites d v (n + 1)) q old =
      lastWrite (wordWrites (d + 1) (v / 4294967296) n) q (if d = q then BitVec.ofNat 32 v else old) := by
      simp only [wordWrites, lastWrite, List.foldl_cons]
    rw [e, if_neg (by omega)]
    exact ih _ _ (by omega)

/-- The words of a number written to registers from `d` up. -/
theorem lastWrite_wordWrites (d v n k : Nat) (old : Word) (hk : k < n) :
    lastWrite (wordWrites d v n) (d + k) old = BitVec.ofNat 32 (v / 2 ^ (32 * k)) := by
  induction n generalizing d v k old with
  | zero => omega
  | succ n ih =>
    have e : lastWrite (wordWrites d v (n + 1)) (d + k) old =
      lastWrite (wordWrites (d + 1) (v / 4294967296) n) (d + k) (if d = d + k then BitVec.ofNat 32 v else old) := by
      simp only [wordWrites, lastWrite, List.foldl_cons]
    rw [e]
    cases k with
    | zero =>
      rw [lastWrite_wordWrites_below _ _ _ (by omega)]
      simp
    | succ k =>
      have e2 : 2 ^ (32 * (k + 1)) = 4294967296 * 2 ^ (32 * k) := by
        rw [show 32 * (k + 1) = 32 + 32 * k by omega, pow_add]
        norm_num
      rw [show d + (k + 1) = d + 1 + k by omega, ih _ _ _ _ (by omega), Nat.div_div_eq_div_mul, e2]

theorem wordWrites_mem {d v n : Nat} {x : Nat × Word} (h : x ∈ wordWrites d v n) : d ≤ x.1 ∧ x.1 < d + n := by
  induction n generalizing d v with
  | zero => cases h
  | succ n ih =>
    rcases List.mem_cons.mp h with rfl | h
    · simp
    · have := ih h
      omega

/-- The same with a result of `n` registers. -/
theorem fpOp_words {s : State} {u : Bool} {reads writes : List Nat} {d n : Nat} (hn : n ≤ 128) {operands : List (Nat × Nat)} {a : Nat}
    {flag : State → Option Nat} {f : State → Nat → FpOut} (v : State → Nat → Nat)
    (h : s.FpFree u reads writes (operands.map (·.2)) (fun l => (f s l).flags)) (hc : ∀ l, (f s l).cflag = none)
    (hw : ∀ l, (f s l).writes = wordWrites d (v s l) n) (hb : ∀ l, (f s l).byte = none) :
    ∃ t, fpOp u reads writes operands a flag s f = .next t ∧ s.AllPassed t ∧
      s.FpfAfter t u (fun l => (f s l).flags) ∧ s.WordsResult t u d n (v s) := by
  obtain ⟨t, h1, h2, h3, h4⟩ := fpOp_regs (a := a) (flag := flag) h hc
  have hr : ∀ l old, (f s l).regs old = wordWrites d (v s l) n := fun l old => by unfold FpOut.regs; rw [hb]; exact hw l
  refine ⟨t, h1, h2, h3, fun l hl k hk => ?_⟩
  rw [h4 l (d + k) (by
    intro j _ x hx
    rw [hr] at hx
    have := wordWrites_mem hx
    omega), if_pos hl, hr]
  exact lastWrite_wordWrites _ _ _ _ _ hk

end Sys2Proof.Machine
end

