-- ==== Sys2Proof/Laws/Heap.lean ====
section
/-!
SUPPORT. Reads, writes and atomics of memory that nothing stands before (`State.Calm`): what each answers and all that it changes.
-/
namespace Sys2Proof.Machine

theorem NMap.find_mem {α : Type} {m : NMap α} {k : Nat} {v : α} (h : NMap.find m k = some v) : (k, v) ∈ m := by
  induction m with
  | nil => cases h
  | cons x xs ih =>
    obtain ⟨j, w⟩ := x
    unfold NMap.find at h
    split at h
    · rename_i e
      cases h
      subst e
      exact List.mem_cons_self
    · exact List.mem_cons_of_mem _ (ih h)

theorem State.Calm.sideLog {s : State} (h : s.Calm) (c : Nat) : (s.core c).sideLog = [] := by
  unfold State.core
  cases hf : NMap.find s.cores c with
  | none => rfl
  | some k => exact h.logs _ (NMap.find_mem hf)

theorem State.Calm.claimed {s : State} (h : s.Calm) (me : Nat × Agent × Nat) (space lo n : Nat) : s.claimed me space lo n = false := by
  have : s.loggedElsewhere me.1 space lo n = false := by
    unfold State.loggedElsewhere
    rw [List.any_eq_false]
    intro k hk
    simp [h.logs k hk]
  unfold State.claimed State.heldBy State.claimedBy State.channelDown
  simp [this, h.claims, h.channels]

theorem State.Calm.unclaim {s : State} (h : s.Calm) (me : Nat × Agent × Nat) : s.unclaim me = s := by
  unfold State.unclaim
  rw [h.claims]
  exact congrArg (fun x => { s with claims := x }) h.claims.symm

theorem State.extents_heap {s : State} {r : Ref} {n pa : Nat} (h : s.HeapRef r n pa) :
    s.extents r.space r.va n = [(0, n, some pa)] := by
  unfold State.extents
  have := h.some_
  rw [if_neg (by omega), if_pos h.window, h.place]

theorem State.prepare_heap {s : State} {r : Ref} {n pa : Nat} (h : s.HeapRef r n pa) : s.prepare r n = s := by
  unfold State.prepare
  have hf : s.fillPage r.space (r.va + 0) r.stack = s := by
    unfold State.fillPage
    rw [if_pos]
    rcases h.window with w | w
    · exact .inl w
    · exact .inr (.inl (by simpa using w.1))
  simp only [State.extents_heap h, List.foldl_cons, List.foldl_nil, hf]
  have hl := h.last
  simp [h.first, hl]

theorem State.autoTouch_heap {s : State} {r : Ref} {n pa : Nat} (h : s.HeapRef r n pa) (c : Nat) : s.autoTouch r c = s := by
  unfold State.autoTouch
  rw [if_pos (.inl h.fixed)]

theorem State.touch_heap {s : State} {r : Ref} {n pa : Nat} (h : s.HeapRef r n pa) (me : Nat × Agent × Nat) (c : Nat) :
    s.touch me r c = s := by
  unfold State.touch
  split
  · rw [State.autoTouch_heap h, ite_self]
  · exact State.autoTouch_heap h c

theorem State.missing_heap {s : State} {r : Ref} {n pa : Nat} (h : s.HeapRef r n pa) : s.missing r.space r.va n = none := by
  unfold State.missing
  rw [State.extents_heap h]
  rfl

theorem State.locate_heap {s : State} {r : Ref} {n pa : Nat} (h : s.HeapRef r n pa) : s.locate r.space r.va n = some [(pa, n)] := by
  unfold State.locate
  rw [State.extents_heap h]
  rfl

theorem State.Calm.applyFor {s : State} (h : s.Calm) (rs : List (Nat × Nat)) : s.applyFor rs = .ok s := by
  unfold State.applyFor State.dueFolios
  rw [if_pos h.pairs]
  rfl

theorem State.Calm.pairsLogged {s : State} (h : s.Calm) (rs : List (Nat × Nat)) : s.pairsLogged rs = false := by
  unfold State.pairsLogged State.loggedOn State.dueFolios
  rw [if_pos h.pairs]
  rfl

theorem State.Calm.aliased {s : State} (h : s.Calm) (c space lo n : Nat) : s.aliased c space lo n = false := by
  unfold State.aliased
  rw [h.sideLog]
  rfl

theorem State.Calm.detect {s : State} (h : s.Calm) (pa n : Nat) : s.detect pa n = s := by
  unfold State.detect
  simp [h.latentCe, h.latentUe]

theorem State.Calm.detectRuns {s : State} (h : s.Calm) (rs : List (Nat × Nat)) : s.detectRuns rs = s := by
  unfold State.detectRuns
  induction rs with
  | nil => rfl
  | cons r rs ih => rw [List.foldl_cons, h.detect, ih]

theorem State.Calm.poisonOff {s : State} (h : s.Calm) (r : Ref) (n : Nat) : s.poisonOff r n = none := by
  unfold State.poisonOff
  rw [if_pos ⟨h.poison, h.cxlLost⟩]

theorem forwardBytes_nil (space va : Nat) (bs : List Byte) : forwardBytes [] space va bs = some bs := rfl

/-- A read of memory that nothing stands before answers its bytes, and changes nothing. -/
theorem State.Calm.readAt {s : State} (h : s.Calm) (a : Actor) (me : Nat × Agent × Nat) {r : Ref} {n pa : Nat} (k : Nat)
    (hr : s.HeapRef r n pa) : s.readAt a me r n k = (s, .value (leNat (Mem.bytes s.mem pa n))) := by
  unfold State.readAt
  simp [h.claimed, h.sideLog, h.aliased, h.pairsLogged, State.touch_heap hr, State.prepare_heap hr, State.missing_heap hr, State.locate_heap hr, h.applyFor,
    h.detectRuns, h.unclaim, h.poisonOff, forwardBytes_nil, State.readRuns]

/-! Writes. -/

theorem State.Calm.poisonWrite {s : State} (h : s.Calm) (a : Actor) (clear : List Nat) (w : Wr) : s.poisonWrite a clear w = s := by
  unfold State.poisonWrite
  rw [if_pos ⟨h.poison, h.latentUe, h.latentCe⟩]

theorem State.Calm.poke {s : State} (h : s.Calm) (pa : Nat) (bs : List Byte) : (s.poke pa bs).Calm := ⟨h.1, h.2, h.3, h.4, h.5, h.6, h.7, h.8, h.9, h.10, h.11, h.12, h.13, h.14⟩

theorem foldl_fix {α β : Type} {f : β → α → β} {b : β} {xs : List α} (h : ∀ x ∈ xs, f b x = b) : xs.foldl f b = b := by
  induction xs with
  | nil => rfl
  | cons x xs ih =>
    rw [List.foldl_cons, h x List.mem_cons_self]
    exact ih fun y hy => h y (List.mem_cons_of_mem _ hy)

theorem State.Calm.monitors {s : State} (h : s.Calm) (ws : List Wr) : s.monitors ws = s := by
  unfold State.monitors
  dsimp only
  rw [foldl_fix (b := s) (xs := s.ops), foldl_fix (b := s) (xs := s.lq), List.map_congr_left (g := id)]
  · simp
  · intro w hw
    simp [h.swapped w hw]
  · intro q hq
    rw [if_neg (by simp [h.launches q hq])]
  · intro o ho
    split
    · rename_i d c e
      exact absurd e (h.waits o ho d c)
    · rfl

/-- With no live watch, a comparison changes nothing. -/
theorem State.compareBy_dropped {b : State} (h : ∀ w ∈ b.watches, w.dropped = true) (cnt : Counter) (s : State) (ws : List Wr) :
    State.compareBy cnt b s ws = .ok s := by
  have hl : b.watches.filter (!·.dropped) = [] := by
    rw [List.filter_eq_nil_iff]
    intro w hw
    simp [h w hw]
  unfold State.compareBy
  rw [hl]
  rfl

/-- Writes to memory that nothing stands before are made, and no more. -/
theorem State.Calm.commit {s : State} (h : s.Calm) (a : Actor) (clear : List Nat) (w : Wr) :
    s.commit a clear [w] = .ok (s.poke w.pa w.bytes) := by
  have hs : s.store [w] = s.poke w.pa w.bytes := by
    unfold State.store
    simp [h.cxlLost]
  unfold State.commit
  simp [hs, State.compareBy_dropped h.watches, (h.poke w.pa w.bytes).poisonWrite, (h.poke w.pa w.bytes).monitors]

/-- A store to memory that nothing stands before writes its bytes, and no more. -/
theorem State.Calm.storeAt {s : State} (h : s.Calm) (a : Actor) (me : Nat × Agent × Nat) {r : Ref} {pa : Nat} (id hd : Nat)
    (clear : List Nat) (bs : List Byte) (hr : s.HeapRef r bs.length pa) :
    s.storeAt a me r id hd clear bs = (s.poke pa bs, .done) := by
  unfold State.storeAt State.writeAt
  have hm : s.mustLog me.1 r.space r.va bs.length = false := by
    unfold State.mustLog
    simp [h.sideLog, State.missing_heap hr]
  simp [h.claimed, h.pairsLogged, State.touch_heap hr, State.prepare_heap hr, hm, State.locate_heap hr, h.applyFor, runWrites, h.commit,
    (h.poke pa bs).unclaim]

/-- An atomic on memory that nothing stands before answers the old value and leaves the new one. -/
theorem State.Calm.rmwAt {s : State} (h : s.Calm) (a : Actor) (me : Nat × Agent × Nat) {r : Ref} {n pa : Nat} (hd : Nat)
    (f : Nat → Nat) (hr : s.HeapRef r n pa) :
    let old := leNat (Mem.bytes s.mem pa n)
    s.rmwAt a me r n hd f = (s.poke pa (leBytes (f old) n), .value old) := by
  have hl : ∀ (n v : Nat), (leBytes v n).length = n := by
    intro n
    induction n with
    | zero => intro; rfl
    | succ n ih => intro v; simp [leBytes, ih]
  have ht : ∀ v, (leBytes v n).take n = leBytes v n := fun v => List.take_of_length_le (by rw [hl])
  have hg : s.logged me.1 r.space r.va n = false := by
    unfold State.logged
    simp [h.sideLog]
  intro old
  unfold State.rmwAt State.atomAt
  simp [h.claimed, h.pairsLogged, hg, State.touch_heap hr, State.prepare_heap hr, State.missing_heap hr, State.locate_heap hr, h.applyFor,
    h.detectRuns, h.poisonOff, State.readRuns, runWrites, h.commit, ht, old]
  exact (h.poke _ _).unclaim me

end Sys2Proof.Machine
end

