-- ==== Sys2Proof/Laws/Access.lean ====
section
/-!
SUPPORT. Loads and stores that nothing holds or stops: the reads of the lanes, how an access ends, and what a load leaves in the group.
-/
namespace Sys2Proof.Machine

/-- What a lane's end does to it. -/
def State.endLane (s : State) (e : LaneEnd) (x : Lane) : Lane :=
  match e with
  | .go => { s.pastIssue x with counted := false, back := none }
  | .hold w => s.heldLane w x
  | .wait w => { s.pastIssue x with counted := false, wait := w, back := some (s.issue.pc, s.issue.clause) }

theorem State.settle_const (s : State) (ls : List Nat) (e : LaneEnd) :
    s.settle (ls.map (·, e)) = s.countIssue.modMe (·.modLanes ls (s.endLane e)) := by
  unfold State.settle Group.modLanes
  congr 1
  funext g
  rw [List.foldl_map]
  cases e <;> rfl

theorem State.endLane_idem (s : State) (e : LaneEnd) (x : Lane) : s.endLane e (s.endLane e x) = s.endLane e x := by
  cases e with
  | go => rfl
  | hold w =>
    show s.heldLane w (s.heldLane w x) = s.heldLane w x
    cases x
    rename_i heldAt _ _ _ _ _
    cases h : w.access <;> cases heldAt <;> simp [State.heldLane, h]
  | wait w => rfl

/-- The group after lanes have ended alike. -/
theorem State.settle_me {s : State} (hm : s.me?.isSome = true) (ls : List Nat) (e : LaneEnd) :
    (s.settle (ls.map (·, e))).me = (s.countGroup s.me).modLanes ls (s.endLane e) := by
  rw [State.settle_const]
  obtain ⟨g, hg⟩ := Option.isSome_iff_exists.mp hm
  simp [State.me, State.countIssue_me?, hg]

/-- Lanes that have gone on, or wait, stand past the word. -/
theorem State.settle_passed {s t : State} (hi : t.issue = s.issue) (hl : t.me.lanes.length = s.me.lanes.length)
    (hm : t.me?.isSome = true) (e : LaneEnd) (he : ∀ w, e ≠ .hold w) : s.AllPassed (t.settle (s.issue.lanes.map (·, e))) := by
  intro l hl' hn
  rw [State.Passed, State.settle_me hm]
  obtain ⟨k, ys, h, hy⟩ := t.countGroup_eq t.me
  rw [Group.lane_modLanes_mem _ _ _ hl' (by rw [h]; exact hy ▸ hl ▸ hn) (t.endLane_idem e)]
  have hs : t.issueSize = s.issueSize := by simp [State.issueSize, State.issueHeader, hi]
  have hc : t.clauseEnd = s.clauseEnd := by simp [State.clauseEnd, hi]
  cases e with
  | go => simp only [State.endLane, State.pastIssue, hs, hc, hi, and_self]
  | hold w => exact absurd rfl (he w)
  | wait w => simp only [State.endLane, State.pastIssue, hs, hc, hi, and_self]

/-- Registers after lanes have ended. -/
theorem State.settle_reg {s : State} (hm : s.me?.isSome = true) (ls : List Nat) (e : LaneEnd) (l r : Nat) :
    (s.settle (ls.map (·, e))).me.reg l r = s.me.reg l r := by
  rw [State.settle_me hm]
  obtain ⟨k, ys, h, -⟩ := s.countGroup_eq s.me
  obtain ⟨xs, h', -⟩ := Group.modLanes_eq (s.countGroup s.me) ls (s.endLane e)
  rw [h', h]
  rfl

theorem State.settle_wait {s : State} (hm : s.me?.isSome = true) {l : Nat} (ls : List Nat) (w : Wait) (hl : l ∈ ls)
    (hn : l < s.me.lanes.length) : ((s.settle (ls.map (·, .wait w))).me.lane l).wait = w := by
  rw [State.settle_me hm]
  obtain ⟨k, ys, h, hy⟩ := s.countGroup_eq s.me
  rw [Group.lane_modLanes_mem _ _ _ hl (by rw [h]; exact hy ▸ hn) (s.endLane_idem _)]
  rfl

/-! Reads. -/

theorem State.readLanes_same {s : State} {h n : Nat} {os : List (Nat × Nat)} {v : Nat → Nat}
    (hr : ∀ o ∈ os, s.readLane h n o = (s, .value (v o.1))) : s.readLanes h n os = (s, os.map fun o => (o.1, .value (v o.1))) := by
  induction os with
  | nil => rfl
  | cons o os ih =>
    unfold State.readLanes
    rw [hr o List.mem_cons_self]
    simp only [ih fun x hx => hr x (List.mem_cons_of_mem _ hx)]
    rfl

theorem State.forLanes_values {s : State} (hl : s.issue.lanes ≠ []) (u : Bool) (a i z : Nat) (v : Nat → Nat) :
    s.forLanes u ((s.offsets u a i z).map fun o => (o.1, Got.value (v o.1))) =
      s.issue.lanes.map fun l => (l, Got.value (v (srcLane u s.issue.lanes l))) := by
  unfold State.forLanes State.offsets State.addrLanes srcLane
  cases u
  · simp
  · obtain ⟨x, xs, hx⟩ := List.exists_cons_of_ne_nil hl
    simp [hx]

theorem heldEnds_values (ls : List Nat) (v : Nat → Nat) : heldEnds (ls.map fun l => (l, Got.value (v l))) = [] := by
  induction ls with
  | nil => rfl
  | cons l ls ih => simp [heldEnds]

theorem answered_values (ls : List Nat) (v : Nat → Nat) : answered (ls.map fun l => (l, Got.value (v l))) = ls := by
  induction ls with
  | nil => rfl
  | cons l ls ih => simpa [answered] using ih

theorem firstPoison_values (ls : List Nat) (v : Nat → Nat) : firstPoison (ls.map fun l => (l, Got.value (v l))) = none := by
  induction ls with
  | nil => rfl
  | cons l ls ih => simp [firstPoison]

theorem Group.takeValues_values (g : Group) (ls : List Nat) (v : Nat → Nat) (w : Nat → Nat → List (Nat × Word)) :
    g.takeValues (ls.map fun l => (l, Got.value (v l))) w = ls.foldl (fun h l => h.setRegs l (w l (v l))) g := by
  unfold Group.takeValues
  rw [List.foldl_map]

/-- The values that lanes got, in their registers. -/
theorem State.takeValues_reg {s : State} (v : Nat → Nat) (w : Nat → List (Nat × Word)) (l q : Nat)
    (hq : ∀ k ∈ s.issue.lanes, ∀ x ∈ w (v k), x.1 < q + 128 ∧ q < x.1 + 128) :
    (s.me.takeValues (s.issue.lanes.map fun l => (l, Got.value (v l))) fun _ => w).reg l q =
      if l ∈ s.issue.lanes then lastWrite (w (v l)) q (s.me.reg l q) else s.me.reg l q := by
  rw [Group.takeValues_values]
  exact Group.reg_setLanes s.me s.issue.lanes (fun l => w (v l)) l q hq

theorem Group.takeValues_lanes (g : Group) (ls : List Nat) (v : Nat → Nat) (w : Nat → Nat → List (Nat × Word)) :
    (g.takeValues (ls.map fun l => (l, Got.value (v l))) w).lanes = g.lanes := by
  rw [Group.takeValues_values]
  obtain ⟨rs, ps, h⟩ := Group.setLanes_eq g ls fun l => w l (v l)
  rw [h]

/-- A load that reads its values now. -/
theorem loadOp_now {s : State} {u : Bool} {a h i n : Nat} {regs : List Nat} {form : ReplyForm} {w : Nat → List (Nat × Word)}
    {v : Nat → Nat} (hf : s.AccessFree u [a] regs) (hr : s.ReadsNow u a h i n v) :
    loadOp u a h i n regs form w s =
      finish (if h < 12 then s.globalEnd h (s.issue.lanes.map fun l => (l, .value (v (srcLane u s.issue.lanes l)))) .load 0 fun _ => w
        else s.localEnd (s.issue.lanes.map fun l => (l, .value (v (srcLane u s.issue.lanes l)))) fun _ => w) := by
  obtain ⟨h1, h2, h3, h4⟩ := hr
  unfold loadOp
  rw [accessWith_free hf]
  simp only [h1, h2, h3, State.readLanes_same h4, State.forLanes_values hf.1.1.2]

/-- A load from global memory: registers hold the values, the lanes wait for the reply, which is due, and SETA's flag tracks it. -/
theorem loadOp_heap {s : State} {u : Bool} {a h i n : Nat} {regs : List Nat} {form : ReplyForm} {w : Nat → List (Nat × Word)}
    {v : Nat → Nat} (hf : s.AccessFree u [a] regs) (hr : s.ReadsNow u a h i n v) (hh : h < 12) (hb : s.badPa = none) :
    ∃ t, loadOp u a h i n regs form w s = .next t ∧ s.AllPassed t ∧
      (∀ l q, (∀ k ∈ s.issue.lanes, ∀ x ∈ w (v (srcLane u s.issue.lanes k)), x.1 < q + 128 ∧ q < x.1 + 128) →
        t.me.reg l q = if l ∈ s.issue.lanes then lastWrite (w (v (srcLane u s.issue.lanes l))) q (s.me.reg l q) else s.me.reg l q) ∧
      ∀ l ∈ s.issue.lanes, l < s.me.lanes.length → (t.me.lane l).wait = .op s.opSeq .load := by
  have hm := hf.1.1.1
  let vv := fun l => v (srcLane u s.issue.lanes l)
  have hne : s.issue.lanes ≠ [] := hf.1.1.2
  let t1 := (s.modMe (·.takeValues (s.issue.lanes.map fun l => (l, Got.value (vv l))) fun _ => w)).addOpDue s.issue.lanes .reply s.setA
    none (.accessReply · 0 0)
  have hm1 : t1.me?.isSome = true := by
    show (State.modMe s _).me?.isSome = true
    rw [State.me?_modMe]
    simpa using hm
  have hme : t1.me = s.me.takeValues (s.issue.lanes.map fun l => (l, Got.value (vv l))) fun _ => w := State.me_modMe s _ hm
  have e : s.globalEnd h (s.issue.lanes.map fun l => (l, .value (vv l))) .load 0 (fun _ => w) =
      t1.settle (s.issue.lanes.map (·, .wait (.op s.opSeq .load))) := by
    unfold State.globalEnd State.replyEnd
    simp only [answered_values s.issue.lanes vv, heldEnds_values s.issue.lanes vv, firstPoison_values s.issue.lanes vv, if_neg hne,
      List.nil_append]
    rfl
  have hbt : (t1.settle (s.issue.lanes.map (·, .wait (.op s.opSeq .load)))).badPa = none := by
    have : t1.badPa = none := hb
    unfold State.settle
    simp [this]
  have hlen : t1.me.lanes.length = s.me.lanes.length := by rw [hme, Group.takeValues_lanes]
  refine ⟨_, ?_, State.settle_passed (s := s) (t := t1) rfl hlen hm1 (.wait (.op s.opSeq .load)) (by simp), ?_, ?_⟩
  · rw [loadOp_now hf hr, if_pos hh]
    show finish (s.globalEnd h (s.issue.lanes.map fun l => (l, .value (vv l))) .load 0 fun _ => w) = _
    rw [e]
    unfold finish
    rw [hbt]
  · intro l q hq
    rw [State.settle_reg hm1, hme]
    exact State.takeValues_reg (s := s) vv w l q hq
  · intro l hl hn
    exact State.settle_wait hm1 s.issue.lanes _ hl (by rw [hlen]; exact hn)

/-- A load from AB or WB: registers hold the values and the lanes go on. -/
theorem loadOp_local {s : State} {u : Bool} {a h i n : Nat} {regs : List Nat} {form : ReplyForm} {w : Nat → List (Nat × Word)}
    {v : Nat → Nat} (hf : s.AccessFree u [a] regs) (hr : s.ReadsNow u a h i n v) (hh : 12 ≤ h) (hb : s.badPa = none) :
    ∃ t, loadOp u a h i n regs form w s = .next t ∧ s.AllPassed t ∧
      ∀ l q, (∀ k ∈ s.issue.lanes, ∀ x ∈ w (v (srcLane u s.issue.lanes k)), x.1 < q + 128 ∧ q < x.1 + 128) →
        t.me.reg l q = if l ∈ s.issue.lanes then lastWrite (w (v (srcLane u s.issue.lanes l))) q (s.me.reg l q) else s.me.reg l q := by
  have hm := hf.1.1.1
  let vv := fun l => v (srcLane u s.issue.lanes l)
  have hne : s.issue.lanes ≠ [] := hf.1.1.2
  let t1 := (s.modMe (·.takeValues (s.issue.lanes.map fun l => (l, Got.value (vv l))) fun _ => w)).track s.setA
  have hm1 : t1.me?.isSome = true := by
    rw [State.me?_track, State.me?_modMe]
    simpa using hm
  have hme : t1.me = s.me.takeValues (s.issue.lanes.map fun l => (l, Got.value (vv l))) fun _ => w := by
    rw [State.me_track]
    exact State.me_modMe s _ hm
  have hi : t1.issue = s.issue := by rw [State.issue_track]; rfl
  have e : s.localEnd (s.issue.lanes.map fun l => (l, .value (vv l))) (fun _ => w) = t1.settle (s.issue.lanes.map (·, .go)) := by
    unfold State.localEnd
    simp only [answered_values s.issue.lanes vv, heldEnds_values s.issue.lanes vv, if_neg hne, List.nil_append]
    show State.settle _ _ = State.settle (State.track _ s.setA) _
    have ha : (s.modMe (·.takeValues (s.issue.lanes.map fun l => (l, Got.value (vv l))) fun _ => w)).setA = s.setA := rfl
    rw [ha]
    cases s.setA <;> rfl
  have hbt : (t1.settle (s.issue.lanes.map (·, .go))).badPa = none := by
    have : t1.badPa = none := by
      show (State.track _ s.setA).badPa = none
      cases s.setA <;> exact hb
    unfold State.settle
    simp [this]
  have hlen : t1.me.lanes.length = s.me.lanes.length := by rw [hme, Group.takeValues_lanes]
  refine ⟨_, ?_, State.settle_passed (s := s) (t := t1) hi hlen hm1 .go (by simp), ?_⟩
  · rw [loadOp_now hf hr, if_neg (by omega)]
    show finish (s.localEnd (s.issue.lanes.map fun l => (l, .value (vv l))) fun _ => w) = _
    rw [e]
    unfold finish
    rw [hbt]
  · intro l q hq
    rw [State.settle_reg hm1, hme]
    exact State.takeValues_reg (s := s) vv w l q hq

end Sys2Proof.Machine
end

