-- ==== Sys2Proof/Laws/Dispatch.lean ====
section
/-!
SUPPORT. The arms of `exec`, one lemma each, so that no proof unfolds the dispatch.
-/
namespace Sys2Proof.Machine

@[simp] theorem exec_iadd (u : Bool) (d : Nat) (a : Nat) (b : Nat) (s : State) : exec (.iadd u d a b) s = execIadd u d a b s := rfl
@[simp] theorem exec_isub (u : Bool) (d : Nat) (a : Nat) (b : Nat) (s : State) : exec (.isub u d a b) s = execIsub u d a b s := rfl
@[simp] theorem exec_iaddi (u : Bool) (d : Nat) (a : Nat) (i : Nat) (s : State) : exec (.iaddi u d a i) s = execIaddi u d a i s := rfl
@[simp] theorem exec_imul (u : Bool) (d : Nat) (a : Nat) (b : Nat) (s : State) : exec (.imul u d a b) s = execImul u d a b s := rfl
@[simp] theorem exec_imulh (u : Bool) (d : Nat) (a : Nat) (b : Nat) (m : Nat) (s : State) : exec (.imulh u d a b m) s = execImulh u d a b m s := rfl
@[simp] theorem exec_imad (u : Bool) (d : Nat) (a : Nat) (b : Nat) (m : Nat) (s : State) : exec (.imad u d a b m) s = execImad u d a b m s := rfl
@[simp] theorem exec_imin (u : Bool) (d : Nat) (a : Nat) (b : Nat) (m : Nat) (s : State) : exec (.imin u d a b m) s = execImin u d a b m s := rfl
@[simp] theorem exec_imax (u : Bool) (d : Nat) (a : Nat) (b : Nat) (m : Nat) (s : State) : exec (.imax u d a b m) s = execImax u d a b m s := rfl
@[simp] theorem exec_iabs (u : Bool) (d : Nat) (a : Nat) (m : Nat) (s : State) : exec (.iabs u d a m) s = execIabs u d a m s := rfl
@[simp] theorem exec_iadds (u : Bool) (d : Nat) (a : Nat) (b : Nat) (m : Nat) (s : State) : exec (.iadds u d a b m) s = execIadds u d a b m s := rfl
@[simp] theorem exec_iadd64 (u : Bool) (d : Nat) (a : Nat) (b : Nat) (s : State) : exec (.iadd64 u d a b) s = execIadd64 u d a b s := rfl
@[simp] theorem exec_isub64 (u : Bool) (d : Nat) (a : Nat) (b : Nat) (s : State) : exec (.isub64 u d a b) s = execIsub64 u d a b s := rfl
@[simp] theorem exec_ixadd (u : Bool) (d : Nat) (a : Nat) (b : Nat) (m : Nat) (s : State) : exec (.ixadd u d a b m) s = execIxadd u d a b m s := rfl
@[simp] theorem exec_and (u : Bool) (d : Nat) (a : Nat) (b : Nat) (s : State) : exec (.and u d a b) s = execAnd u d a b s := rfl
@[simp] theorem exec_or (u : Bool) (d : Nat) (a : Nat) (b : Nat) (s : State) : exec (.or u d a b) s = execOr u d a b s := rfl
@[simp] theorem exec_xor (u : Bool) (d : Nat) (a : Nat) (b : Nat) (s : State) : exec (.xor u d a b) s = execXor u d a b s := rfl
@[simp] theorem exec_andn (u : Bool) (d : Nat) (a : Nat) (b : Nat) (s : State) : exec (.andn u d a b) s = execAndn u d a b s := rfl
@[simp] theorem exec_andi (u : Bool) (d : Nat) (a : Nat) (i : Nat) (s : State) : exec (.andi u d a i) s = execAndi u d a i s := rfl
@[simp] theorem exec_ori (u : Bool) (d : Nat) (a : Nat) (i : Nat) (s : State) : exec (.ori u d a i) s = execOri u d a i s := rfl
@[simp] theorem exec_xori (u : Bool) (d : Nat) (a : Nat) (i : Nat) (s : State) : exec (.xori u d a i) s = execXori u d a i s := rfl
@[simp] theorem exec_shl (u : Bool) (d : Nat) (a : Nat) (b : Nat) (s : State) : exec (.shl u d a b) s = execShl u d a b s := rfl
@[simp] theorem exec_shr (u : Bool) (d : Nat) (a : Nat) (b : Nat) (s : State) : exec (.shr u d a b) s = execShr u d a b s := rfl
@[simp] theorem exec_sar (u : Bool) (d : Nat) (a : Nat) (b : Nat) (s : State) : exec (.sar u d a b) s = execSar u d a b s := rfl
@[simp] theorem exec_shli (u : Bool) (d : Nat) (a : Nat) (i : Nat) (s : State) : exec (.shli u d a i) s = execShli u d a i s := rfl
@[simp] theorem exec_shri (u : Bool) (d : Nat) (a : Nat) (i : Nat) (s : State) : exec (.shri u d a i) s = execShri u d a i s := rfl
@[simp] theorem exec_sari (u : Bool) (d : Nat) (a : Nat) (i : Nat) (s : State) : exec (.sari u d a i) s = execSari u d a i s := rfl
@[simp] theorem exec_popc (u : Bool) (d : Nat) (a : Nat) (s : State) : exec (.popc u d a) s = execPopc u d a s := rfl
@[simp] theorem exec_clz (u : Bool) (d : Nat) (a : Nat) (s : State) : exec (.clz u d a) s = execClz u d a s := rfl
@[simp] theorem exec_brev (u : Bool) (d : Nat) (a : Nat) (s : State) : exec (.brev u d a) s = execBrev u d a s := rfl
@[simp] theorem exec_bfe (u : Bool) (d : Nat) (a : Nat) (b : Nat) (m : Nat) (pos : Nat) (len : Nat) (sgn : Bool) (s : State) : exec (.bfe u d a b m pos len sgn) s = execBfe u d a b m pos len sgn s := rfl
@[simp] theorem exec_bfi (u : Bool) (d : Nat) (a : Nat) (b : Nat) (m : Nat) (pos : Nat) (len : Nat) (s : State) : exec (.bfi u d a b m pos len) s = execBfi u d a b m pos len s := rfl
@[simp] theorem exec_mov (u : Bool) (d : Nat) (a : Nat) (m : Nat) (s : State) : exec (.mov u d a m) s = execMov u d a m s := rfl
@[simp] theorem exec_li (u : Bool) (d : Nat) (m : Nat) (i : Nat) (s : State) : exec (.li u d m i) s = execLi u d m i s := rfl
@[simp] theorem exec_lix (u : Bool) (d : Nat) (m : Nat) (i : Nat) (x : Nat) (s : State) : exec (.lix u d m i x) s = execLix u d m i x s := rfl
@[simp] theorem exec_sel (u : Bool) (d : Nat) (a : Nat) (b : Nat) (m : Nat) (cf : Nat) (inv : Bool) (s : State) : exec (.sel u d a b m cf inv) s = execSel u d a b m cf inv s := rfl
@[simp] theorem exec_movs (u : Bool) (d : Nat) (n : Nat) (s : State) : exec (.movs u d n) s = execMovs u d n s := rfl
@[simp] theorem exec_movsw (u : Bool) (d : Nat) (n : Nat) (s : State) : exec (.movsw u d n) s = execMovsw u d n s := rfl
@[simp] theorem exec_icmp (u : Bool) (c : Nat) (k : Nat) (a : Nat) (b : Nat) (m : Nat) (s : State) : exec (.icmp u c k a b m) s = execIcmp u c k a b m s := rfl
@[simp] theorem exec_clog (u : Bool) (c : Nat) (k : Nat) (p : Nat) (q : Nat) (s : State) : exec (.clog u c k p q) s = execClog u c k p q s := rfl
@[simp] theorem exec_fadd (u : Bool) (d : Nat) (a : Nat) (b : Nat) (m : Nat) (s : State) : exec (.fadd u d a b m) s = execFadd u d a b m s := rfl
@[simp] theorem exec_fsub (u : Bool) (d : Nat) (a : Nat) (b : Nat) (m : Nat) (s : State) : exec (.fsub u d a b m) s = execFsub u d a b m s := rfl
@[simp] theorem exec_fmul (u : Bool) (d : Nat) (a : Nat) (b : Nat) (m : Nat) (s : State) : exec (.fmul u d a b m) s = execFmul u d a b m s := rfl
@[simp] theorem exec_ffma (u : Bool) (d : Nat) (a : Nat) (b : Nat) (m : Nat) (s : State) : exec (.ffma u d a b m) s = execFfma u d a b m s := rfl
@[simp] theorem exec_fmin (u : Bool) (d : Nat) (a : Nat) (b : Nat) (m : Nat) (s : State) : exec (.fmin u d a b m) s = execFmin u d a b m s := rfl
@[simp] theorem exec_fmax (u : Bool) (d : Nat) (a : Nat) (b : Nat) (m : Nat) (s : State) : exec (.fmax u d a b m) s = execFmax u d a b m s := rfl
@[simp] theorem exec_fcmp (u : Bool) (c : Nat) (k : Nat) (a : Nat) (b : Nat) (m : Nat) (s : State) : exec (.fcmp u c k a b m) s = execFcmp u c k a b m s := rfl
@[simp] theorem exec_frcp (u : Bool) (d : Nat) (a : Nat) (m : Nat) (s : State) : exec (.frcp u d a m) s = execFrcp u d a m s := rfl
@[simp] theorem exec_frsq (u : Bool) (d : Nat) (a : Nat) (s : State) : exec (.frsq u d a) s = execFrsq u d a s := rfl
@[simp] theorem exec_fsqrt (u : Bool) (d : Nat) (a : Nat) (m : Nat) (s : State) : exec (.fsqrt u d a m) s = execFsqrt u d a m s := rfl
@[simp] theorem exec_fexp2 (u : Bool) (d : Nat) (a : Nat) (s : State) : exec (.fexp2 u d a) s = execFexp2 u d a s := rfl
@[simp] theorem exec_flog2 (u : Bool) (d : Nat) (a : Nat) (s : State) : exec (.flog2 u d a) s = execFlog2 u d a s := rfl
@[simp] theorem exec_fsin (u : Bool) (d : Nat) (a : Nat) (s : State) : exec (.fsin u d a) s = execFsin u d a s := rfl
@[simp] theorem exec_fcos (u : Bool) (d : Nat) (a : Nat) (s : State) : exec (.fcos u d a) s = execFcos u d a s := rfl
@[simp] theorem exec_ftanh (u : Bool) (d : Nat) (a : Nat) (s : State) : exec (.ftanh u d a) s = execFtanh u d a s := rfl
@[simp] theorem exec_frnd (u : Bool) (d : Nat) (a : Nat) (m : Nat) (s : State) : exec (.frnd u d a m) s = execFrnd u d a m s := rfl
@[simp] theorem exec_fcps (u : Bool) (d : Nat) (a : Nat) (b : Nat) (m : Nat) (s : State) : exec (.fcps u d a b m) s = execFcps u d a b m s := rfl
@[simp] theorem exec_hadd2 (u : Bool) (d : Nat) (a : Nat) (b : Nat) (bf : Bool) (s : State) : exec (.hadd2 u d a b bf) s = execHadd2 u d a b bf s := rfl
@[simp] theorem exec_hmul2 (u : Bool) (d : Nat) (a : Nat) (b : Nat) (bf : Bool) (s : State) : exec (.hmul2 u d a b bf) s = execHmul2 u d a b bf s := rfl
@[simp] theorem exec_hfma2 (u : Bool) (d : Nat) (a : Nat) (b : Nat) (bf : Bool) (s : State) : exec (.hfma2 u d a b bf) s = execHfma2 u d a b bf s := rfl
@[simp] theorem exec_hmin2 (u : Bool) (d : Nat) (a : Nat) (b : Nat) (bf : Bool) (s : State) : exec (.hmin2 u d a b bf) s = execHmin2 u d a b bf s := rfl
@[simp] theorem exec_hmax2 (u : Bool) (d : Nat) (a : Nat) (b : Nat) (bf : Bool) (s : State) : exec (.hmax2 u d a b bf) s = execHmax2 u d a b bf s := rfl
@[simp] theorem exec_hdot2 (u : Bool) (d : Nat) (a : Nat) (b : Nat) (bf : Bool) (s : State) : exec (.hdot2 u d a b bf) s = execHdot2 u d a b bf s := rfl
@[simp] theorem exec_cvt (u : Bool) (d : Nat) (a : Nat) (src : Nat) (dst : Nat) (rm : Nat) (satx : Bool) (ncnt : Nat) (s : State) : exec (.cvt u d a src dst rm satx ncnt) s = execCvt u d a src dst rm satx ncnt s := rfl
@[simp] theorem exec_cvtq (u : Bool) (d : Nat) (a : Nat) (b : Nat) (src : Nat) (dst : Nat) (rm : Nat) (satx : Bool) (vtype : Nat) (blk : Bool) (had : Bool) (smode : Bool) (sbyte : Nat) (s : State) : exec (.cvtq u d a b src dst rm satx vtype blk had smode sbyte) s = execCvtq u d a b src dst rm satx vtype blk had smode sbyte s := rfl
@[simp] theorem exec_cvtd (u : Bool) (d : Nat) (a : Nat) (b : Nat) (src : Nat) (dst : Nat) (rm : Nat) (blk : Bool) (had : Bool) (scl : Bool) (sbyte : Nat) (s : State) : exec (.cvtd u d a b src dst rm blk had scl sbyte) s = execCvtd u d a b src dst rm blk had scl sbyte s := rfl
@[simp] theorem exec_bscl (u : Bool) (d : Nat) (a : Nat) (b : Nat) (rm : Nat) (styp : Bool) (inv : Bool) (sbyte : Nat) (s : State) : exec (.bscl u d a b rm styp inv sbyte) s = execBscl u d a b rm styp inv sbyte s := rfl
@[simp] theorem exec_hadm (u : Bool) (d : Nat) (a : Nat) (typ : Nat) (rm : Nat) (nrm : Bool) (blk : Bool) (s : State) : exec (.hadm u d a typ rm nrm blk) s = execHadm u d a typ rm nrm blk s := rfl
@[simp] theorem exec_vclass (u : Bool) (d : Nat) (a : Nat) (s : State) : exec (.vclass u d a) s = execVclass u d a s := rfl
@[simp] theorem exec_vzero (u : Bool) (d : Nat) (a : Nat) (m : Nat) (s : State) : exec (.vzero u d a m) s = execVzero u d a m s := rfl
@[simp] theorem exec_vfill (u : Bool) (d : Nat) (a : Nat) (b : Nat) (s : State) : exec (.vfill u d a b) s = execVfill u d a b s := rfl
@[simp] theorem exec_shfl (d : Nat) (a : Nat) (b : Nat) (m : Nat) (s : State) : exec (.shfl d a b m) s = execShfl d a b m s := rfl
@[simp] theorem exec_vote (d : Nat) (p : Nat) (m : Nat) (s : State) : exec (.vote d p m) s = execVote d p m s := rfl
@[simp] theorem exec_prfx (d : Nat) (a : Nat) (m : Nat) (s : State) : exec (.prfx d a m) s = execPrfx d a m s := rfl
@[simp] theorem exec_rduc (d : Nat) (a : Nat) (k : Nat) (s : State) : exec (.rduc d a k) s = execRduc d a k s := rfl
@[simp] theorem exec_ldb (u : Bool) (d : Nat) (a : Nat) (h : Nat) (i : Nat) (s : State) : exec (.ldb u d a h i) s = execLdb u d a h i s := rfl
@[simp] theorem exec_ldbs (u : Bool) (d : Nat) (a : Nat) (h : Nat) (i : Nat) (s : State) : exec (.ldbs u d a h i) s = execLdbs u d a h i s := rfl
@[simp] theorem exec_ldh (u : Bool) (d : Nat) (a : Nat) (h : Nat) (i : Nat) (s : State) : exec (.ldh u d a h i) s = execLdh u d a h i s := rfl
@[simp] theorem exec_ldhs (u : Bool) (d : Nat) (a : Nat) (h : Nat) (i : Nat) (s : State) : exec (.ldhs u d a h i) s = execLdhs u d a h i s := rfl
@[simp] theorem exec_ldw (u : Bool) (d : Nat) (a : Nat) (h : Nat) (i : Nat) (s : State) : exec (.ldw u d a h i) s = execLdw u d a h i s := rfl
@[simp] theorem exec_ldd (u : Bool) (d : Nat) (a : Nat) (h : Nat) (i : Nat) (s : State) : exec (.ldd u d a h i) s = execLdd u d a h i s := rfl
@[simp] theorem exec_ldq (u : Bool) (d : Nat) (a : Nat) (h : Nat) (i : Nat) (s : State) : exec (.ldq u d a h i) s = execLdq u d a h i s := rfl
@[simp] theorem exec_stb (u : Bool) (d : Nat) (a : Nat) (h : Nat) (i : Nat) (s : State) : exec (.stb u d a h i) s = execStb u d a h i s := rfl
@[simp] theorem exec_sth (u : Bool) (d : Nat) (a : Nat) (h : Nat) (i : Nat) (s : State) : exec (.sth u d a h i) s = execSth u d a h i s := rfl
@[simp] theorem exec_stw (u : Bool) (d : Nat) (a : Nat) (h : Nat) (i : Nat) (s : State) : exec (.stw u d a h i) s = execStw u d a h i s := rfl
@[simp] theorem exec_std (u : Bool) (d : Nat) (a : Nat) (h : Nat) (i : Nat) (s : State) : exec (.std u d a h i) s = execStd u d a h i s := rfl
@[simp] theorem exec_stq (u : Bool) (d : Nat) (a : Nat) (h : Nat) (i : Nat) (s : State) : exec (.stq u d a h i) s = execStq u d a h i s := rfl
@[simp] theorem exec_pfch (u : Bool) (a : Nat) (h : Nat) (i : Nat) (s : State) : exec (.pfch u a h i) s = execPfch u a h i s := rfl
@[simp] theorem exec_aadd (d : Nat) (a : Nat) (h : Nat) (i : Nat) (src : Nat) (nr : Bool) (ty : Nat) (s : State) : exec (.aadd d a h i src nr ty) s = execAadd d a h i src nr ty s := rfl
@[simp] theorem exec_ainc (d : Nat) (a : Nat) (h : Nat) (i : Nat) (src : Nat) (nr : Bool) (ty : Nat) (s : State) : exec (.ainc d a h i src nr ty) s = execAinc d a h i src nr ty s := rfl
@[simp] theorem exec_adec (d : Nat) (a : Nat) (h : Nat) (i : Nat) (nr : Bool) (ty : Nat) (s : State) : exec (.adec d a h i nr ty) s = execAdec d a h i nr ty s := rfl
@[simp] theorem exec_amin (d : Nat) (a : Nat) (h : Nat) (i : Nat) (src : Nat) (nr : Bool) (ty : Nat) (s : State) : exec (.amin d a h i src nr ty) s = execAmin d a h i src nr ty s := rfl
@[simp] theorem exec_amax (d : Nat) (a : Nat) (h : Nat) (i : Nat) (src : Nat) (nr : Bool) (ty : Nat) (s : State) : exec (.amax d a h i src nr ty) s = execAmax d a h i src nr ty s := rfl
@[simp] theorem exec_aand (d : Nat) (a : Nat) (h : Nat) (i : Nat) (src : Nat) (nr : Bool) (ty : Nat) (s : State) : exec (.aand d a h i src nr ty) s = execAand d a h i src nr ty s := rfl
@[simp] theorem exec_aor (d : Nat) (a : Nat) (h : Nat) (i : Nat) (src : Nat) (nr : Bool) (ty : Nat) (s : State) : exec (.aor d a h i src nr ty) s = execAor d a h i src nr ty s := rfl
@[simp] theorem exec_axor (d : Nat) (a : Nat) (h : Nat) (i : Nat) (src : Nat) (nr : Bool) (ty : Nat) (s : State) : exec (.axor d a h i src nr ty) s = execAxor d a h i src nr ty s := rfl
@[simp] theorem exec_aswp (d : Nat) (a : Nat) (h : Nat) (i : Nat) (src : Nat) (nr : Bool) (ty : Nat) (s : State) : exec (.aswp d a h i src nr ty) s = execAswp d a h i src nr ty s := rfl
@[simp] theorem exec_acas (d : Nat) (a : Nat) (h : Nat) (i : Nat) (src : Nat) (cmp : Nat) (nr : Bool) (ty : Nat) (s : State) : exec (.acas d a h i src cmp nr ty) s = execAcas d a h i src cmp nr ty s := rfl
@[simp] theorem exec_upd (u : Bool) (d : Nat) (a : Nat) (h : Nat) (i : Nat) (s : State) : exec (.upd u d a h i) s = execUpd u d a h i s := rfl
@[simp] theorem exec_updd (u : Bool) (d : Nat) (a : Nat) (h : Nat) (i : Nat) (s : State) : exec (.updd u d a h i) s = execUpdd u d a h i s := rfl
@[simp] theorem exec_uflush (u : Bool) (s : State) : exec (.uflush u) s = execUflush u s := rfl
@[simp] theorem exec_uapply (u : Bool) (a : Nat) (h : Nat) (i : Nat) (s : State) : exec (.uapply u a h i) s = execUapply u a h i s := rfl
@[simp] theorem exec_waitc (u : Bool) (d : Nat) (a : Nat) (h : Nat) (i : Nat) (cmp : Nat) (k : Nat) (ty : Nat) (s : State) : exec (.waitc u d a h i cmp k ty) s = execWaitc u d a h i cmp k ty s := rfl
@[simp] theorem exec_fence (u : Bool) (m : Nat) (s : State) : exec (.fence u m) s = execFence u m s := rfl
@[simp] theorem exec_mbsend (u : Bool) (d : Nat) (a : Nat) (b : Nat) (mbox : Nat) (s : State) : exec (.mbsend u d a b mbox) s = execMbsend u d a b mbox s := rfl
@[simp] theorem exec_mbrecv (u : Bool) (d : Nat) (mbox : Nat) (s : State) : exec (.mbrecv u d mbox) s = execMbrecv u d mbox s := rfl
@[simp] theorem exec_mbpoll (u : Bool) (d : Nat) (a : Nat) (mbox : Nat) (s : State) : exec (.mbpoll u d a mbox) s = execMbpoll u d a mbox s := rfl
@[simp] theorem exec_boinit (u : Bool) (d : Nat) (a : Nat) (h : Nat) (i : Nat) (s : State) : exec (.boinit u d a h i) s = execBoinit u d a h i s := rfl
@[simp] theorem exec_boarr (u : Bool) (d : Nat) (a : Nat) (h : Nat) (i : Nat) (s : State) : exec (.boarr u d a h i) s = execBoarr u d a h i s := rfl
@[simp] theorem exec_bowait (u : Bool) (d : Nat) (a : Nat) (h : Nat) (i : Nat) (s : State) : exec (.bowait u d a h i) s = execBowait u d a h i s := rfl
@[simp] theorem exec_botst (u : Bool) (d : Nat) (a : Nat) (h : Nat) (i : Nat) (s : State) : exec (.botst u d a h i) s = execBotst u d a h i s := rfl
@[simp] theorem exec_watch (u : Bool) (d : Nat) (a : Nat) (h : Nat) (i : Nat) (susp : Bool) (s : State) : exec (.watch u d a h i susp) s = execWatch u d a h i susp s := rfl
@[simp] theorem exec_wdrop (u : Bool) (d : Nat) (a : Nat) (h : Nat) (i : Nat) (s : State) : exec (.wdrop u d a h i) s = execWdrop u d a h i s := rfl
@[simp] theorem exec_wresume (u : Bool) (d : Nat) (a : Nat) (h : Nat) (i : Nat) (s : State) : exec (.wresume u d a h i) s = execWresume u d a h i s := rfl
@[simp] theorem exec_wstat (u : Bool) (d : Nat) (a : Nat) (h : Nat) (i : Nat) (s : State) : exec (.wstat u d a h i) s = execWstat u d a h i s := rfl
@[simp] theorem exec_bind (u : Bool) (h : Nat) (opc : Nat) (eager : Bool) (s : State) : exec (.bind u h opc eager) s = execBind u h opc eager s := rfl
@[simp] theorem exec_unbind (u : Bool) (h : Nat) (s : State) : exec (.unbind u h) s = execUnbind u h s := rfl
@[simp] theorem exec_hset (u : Bool) (a : Nat) (s0 : Nat) (s : State) : exec (.hset u a s0) s = execHset u a s0 s := rfl
@[simp] theorem exec_hget (u : Bool) (d : Nat) (s0 : Nat) (s : State) : exec (.hget u d s0) s = execHget u d s0 s := rfl
@[simp] theorem exec_hlen (u : Bool) (d : Nat) (s0 : Nat) (s : State) : exec (.hlen u d s0) s = execHlen u d s0 s := rfl
@[simp] theorem exec_mma (a : Nat) (b : Nat) (o : Nat) (ssel : Nat) (xz : Nat) (acc : Bool) (v : Nat) (t : Nat) (sb : Nat) (sa : Nat) (s : State) : exec (.mma a b o ssel xz acc v t sb sa) s = execMma a b o ssel xz acc v t sb sa s := rfl
@[simp] theorem exec_mmav (a : Nat) (b : Nat) (o : Nat) (ssel : Nat) (xz : Nat) (acc : Bool) (v : Nat) (t : Nat) (sb : Nat) (sa : Nat) (s : State) : exec (.mmav a b o ssel xz acc v t sb sa) s = execMmav a b o ssel xz acc v t sb sa s := rfl
@[simp] theorem exec_orset (d : Nat) (a : Nat) (s : State) : exec (.orset d a) s = execOrset d a s := rfl
@[simp] theorem exec_orget (d : Nat) (a : Nat) (s : State) : exec (.orget d a) s = execOrget d a s := rfl
@[simp] theorem exec_accz (d : Nat) (q : Nat) (t : Nat) (s : State) : exec (.accz d q t) s = execAccz d q t s := rfl
@[simp] theorem exec_accrd (d : Nat) (t : Nat) (row0 : Nat) (col0 : Nat) (nreg : Nat) (s : State) : exec (.accrd d t row0 col0 nreg) s = execAccrd d t row0 col0 nreg s := rfl
@[simp] theorem exec_accwr (d : Nat) (t : Nat) (row0 : Nat) (col0 : Nat) (nreg : Nat) (s : State) : exec (.accwr d t row0 col0 nreg) s = execAccwr d t row0 col0 nreg s := rfl
@[simp] theorem exec_mthr (d : Nat) (a : Nat) (b : Nat) (m : Nat) (s : State) : exec (.mthr d a b m) s = execMthr d a b m s := rfl
@[simp] theorem exec_mvst (d : Nat) (a : Nat) (b : Nat) (m : Nat) (s : State) : exec (.mvst d a b m) s = execMvst d a b m s := rfl
@[simp] theorem exec_mstat (d : Nat) (k : Nat) (s : State) : exec (.mstat d k) s = execMstat d k s := rfl
@[simp] theorem exec_msync (m : Nat) (s : State) : exec (.msync m) s = execMsync m s := rfl
@[simp] theorem exec_tload (u : Bool) (d : Nat) (a : Nat) (n : Nat) (s : State) : exec (.tload u d a n) s = execTload u d a n s := rfl
@[simp] theorem exec_tstore (u : Bool) (d : Nat) (a : Nat) (n : Nat) (s : State) : exec (.tstore u d a n) s = execTstore u d a n s := rfl
@[simp] theorem exec_tgath (u : Bool) (d : Nat) (a : Nat) (n : Nat) (s : State) : exec (.tgath u d a n) s = execTgath u d a n s := rfl
@[simp] theorem exec_tscat (u : Bool) (d : Nat) (a : Nat) (n : Nat) (s : State) : exec (.tscat u d a n) s = execTscat u d a n s := rfl
@[simp] theorem exec_tcast (u : Bool) (d : Nat) (a : Nat) (n : Nat) (s : State) : exec (.tcast u d a n) s = execTcast u d a n s := rfl
@[simp] theorem exec_tfill (u : Bool) (d : Nat) (a : Nat) (n : Nat) (s : State) : exec (.tfill u d a n) s = execTfill u d a n s := rfl
@[simp] theorem exec_fwait (u : Bool) (a : Nat) (m : Nat) (s : State) : exec (.fwait u a m) s = execFwait u a m s := rfl
@[simp] theorem exec_ftest (u : Bool) (d : Nat) (a : Nat) (s : State) : exec (.ftest u d a) s = execFtest u d a s := rfl
@[simp] theorem exec_fcancel (u : Bool) (a : Nat) (s : State) : exec (.fcancel u a) s = execFcancel u a s := rfl
@[simp] theorem exec_launch (u : Bool) (d : Nat) (a : Nat) (n : Nat) (repl : Bool) (s : State) : exec (.launch u d a n repl) s = execLaunch u d a n repl s := rfl
@[simp] theorem exec_zopen (u : Bool) (z : Nat) (a : Nat) (s : State) : exec (.zopen u z a) s = execZopen u z a s := rfl
@[simp] theorem exec_zadv (u : Bool) (z : Nat) (i : Nat) (s : State) : exec (.zadv u z i) s = execZadv u z i s := rfl
@[simp] theorem exec_zend (u : Bool) (c : Nat) (z : Nat) (s : State) : exec (.zend u c z) s = execZend u c z s := rfl
@[simp] theorem exec_zclose (u : Bool) (z : Nat) (s : State) : exec (.zclose u z) s = execZclose u z s := rfl
@[simp] theorem exec_zld (u : Bool) (d : Nat) (z : Nat) (s : State) : exec (.zld u d z) s = execZld u d z s := rfl
@[simp] theorem exec_zcrd (u : Bool) (d : Nat) (z : Nat) (s : State) : exec (.zcrd u d z) s = execZcrd u d z s := rfl
@[simp] theorem exec_evpop (u : Bool) (d : Nat) (w : Bool) (s : State) : exec (.evpop u d w) s = execEvpop u d w s := rfl
@[simp] theorem exec_evpeek (u : Bool) (d : Nat) (s : State) : exec (.evpeek u d) s = execEvpeek u d s := rfl
@[simp] theorem exec_qcfg (u : Bool) (d : Nat) (a : Nat) (s : State) : exec (.qcfg u d a) s = execQcfg u d a s := rfl
@[simp] theorem exec_br (c : Nat) (s0 : Bool) (o : Nat) (s : State) : exec (.br c s0 o) s = execBr c s0 o s := rfl
@[simp] theorem exec_jmp (o : Nat) (s : State) : exec (.jmp o) s = execJmp o s := rfl
@[simp] theorem exec_jmpi (a : Nat) (s : State) : exec (.jmpi a) s = execJmpi a s := rfl
@[simp] theorem exec_call (o : Nat) (s : State) : exec (.call o) s = execCall o s := rfl
@[simp] theorem exec_calli (a : Nat) (s : State) : exec (.calli a) s = execCalli a s := rfl
@[simp] theorem exec_ret (s : State) : exec .ret s = execRet s := rfl
@[simp] theorem exec_exit (s : State) : exec .exit s = execExit s := rfl
@[simp] theorem exec_bar (b : Nat) (s : State) : exec (.bar b) s = execBar b s := rfl
@[simp] theorem exec_bara (b : Nat) (s : State) : exec (.bara b) s = execBara b s := rfl
@[simp] theorem exec_barw (b : Nat) (s : State) : exec (.barw b) s = execBarw b s := rfl
@[simp] theorem exec_racq (k : Nat) (s : State) : exec (.racq k) s = execRacq k s := rfl
@[simp] theorem exec_rrel (k : Nat) (s : State) : exec (.rrel k) s = execRrel k s := rfl
@[simp] theorem exec_pmark (s : State) : exec .pmark s = execPmark s := rfl
@[simp] theorem exec_sleep (i : Nat) (s : State) : exec (.sleep i) s = execSleep i s := rfl
@[simp] theorem exec_trap (i : Nat) (s : State) : exec (.trap i) s = execTrap i s := rfl
@[simp] theorem exec_bkpt (i : Nat) (s : State) : exec (.bkpt i) s = execBkpt i s := rfl
@[simp] theorem exec_nop (s : State) : exec .nop s = execNop s := rfl
@[simp] theorem exec_cfgrd (d : Nat) (i : Nat) (s : State) : exec (.cfgrd d i) s = execCfgrd d i s := rfl
@[simp] theorem exec_cfgwr (d : Nat) (i : Nat) (s : State) : exec (.cfgwr d i) s = execCfgwr d i s := rfl
@[simp] theorem exec_eret (s : State) : exec .eret s = execEret s := rfl
@[simp] theorem exec_gstat (d : Nat) (a : Nat) (m : Nat) (s : State) : exec (.gstat d a m) s = execGstat d a m s := rfl
@[simp] theorem exec_gsave (a : Nat) (b : Nat) (m : Nat) (s : State) : exec (.gsave a b m) s = execGsave a b m s := rfl
@[simp] theorem exec_gload (d : Nat) (a : Nat) (b : Nat) (m : Nat) (s : State) : exec (.gload d a b m) s = execGload d a b m s := rfl
@[simp] theorem exec_gstop (a : Nat) (m : Nat) (s : State) : exec (.gstop a m) s = execGstop a m s := rfl
@[simp] theorem exec_gkill (a : Nat) (m : Nat) (s : State) : exec (.gkill a m) s = execGkill a m s := rfl
@[simp] theorem exec_registerWriteback (id : Nat) (s : State) : exec (.registerWriteback id) s = execRegisterWriteback id s := rfl
@[simp] theorem exec_accessReply (id : Nat) (code : Nat) (data : Nat) (s : State) : exec (.accessReply id code data) s = execAccessReply id code data s := rfl
@[simp] theorem exec_storeAck (id : Nat) (code : Nat) (s : State) : exec (.storeAck id code) s = execStoreAck id code s := rfl
@[simp] theorem exec_matrixOpEnd (id : Nat) (s : State) : exec (.matrixOpEnd id) s = execMatrixOpEnd id s := rfl
@[simp] theorem exec_tileCopyBatchDelivery (id : Nat) (s : State) : exec (.tileCopyBatchDelivery id) s = execTileCopyBatchDelivery id s := rfl
@[simp] theorem exec_futureWritten (id : Nat) (s : State) : exec (.futureWritten id) s = execFutureWritten id s := rfl
@[simp] theorem exec_monitorWakeup (id : Nat) (s : State) : exec (.monitorWakeup id) s = execMonitorWakeup id s := rfl
@[simp] theorem exec_waitcRecompare (core : Nat) (agent : Nat) (s : State) : exec (.waitcRecompare core agent) s = execWaitcRecompare core agent s := rfl
@[simp] theorem exec_mailboxDelivery (core : Nat) (mbox : Nat) (s : State) : exec (.mailboxDelivery core mbox) s = execMailboxDelivery core mbox s := rfl
@[simp] theorem exec_racqGrant (core : Nat) (s : State) : exec (.racqGrant core) s = execRacqGrant core s := rfl
@[simp] theorem exec_sleepExpiry (core : Nat) (agent : Nat) (s : State) : exec (.sleepExpiry core agent) s = execSleepExpiry core agent s := rfl
@[simp] theorem exec_batchClose (bindery : Nat) (s : State) : exec (.batchClose bindery) s = execBatchClose bindery s := rfl
@[simp] theorem exec_triggerDispatch (slice : Nat) (s : State) : exec (.triggerDispatch slice) s = execTriggerDispatch slice s := rfl
@[simp] theorem exec_triggerSpillReturn (vi : Nat) (s : State) : exec (.triggerSpillReturn vi) s = execTriggerSpillReturn vi s := rfl
@[simp] theorem exec_launchDispatch (core : Nat) (s : State) : exec (.launchDispatch core) s = execLaunchDispatch core s := rfl
@[simp] theorem exec_overflowEntryReturn (core : Nat) (team : Nat) (queue : Nat) (s : State) : exec (.overflowEntryReturn core team queue) s = execOverflowEntryReturn core team queue s := rfl
@[simp] theorem exec_launchQueueTailWrite (queue : Nat) (value : Nat) (s : State) : exec (.launchQueueTailWrite queue value) s = execLaunchQueueTailWrite queue value s := rfl
@[simp] theorem exec_launchPacketRead (queue : Nat) (s : State) : exec (.launchPacketRead queue) s = execLaunchPacketRead queue s := rfl
@[simp] theorem exec_launchWaitMet (queue : Nat) (s : State) : exec (.launchWaitMet queue) s = execLaunchWaitMet queue s := rfl
@[simp] theorem exec_launchReplicaArrival (gen : Nat) (rank : Nat) (accepted : Bool) (bits : Nat) (vi : Nat) (prio : Nat) (depth : Nat) (chips : Nat) (s : State) : exec (.launchReplicaArrival gen rank accepted bits vi prio depth chips) s = execLaunchReplicaArrival gen rank accepted bits vi prio depth chips s := rfl
@[simp] theorem exec_startBarrierPass (gen : Nat) (s : State) : exec (.startBarrierPass gen) s = execStartBarrierPass gen s := rfl
@[simp] theorem exec_remoteAccessArrival (rank : Nat) (vi : Nat) (handle : Nat) (off : Nat) (bytes : Nat) (kind : Nat) (ty : Nat) (data : Nat) (depth : Nat) (s : State) : exec (.remoteAccessArrival rank vi handle off bytes kind ty data depth) s = execRemoteAccessArrival rank vi handle off bytes kind ty data depth s := rfl
@[simp] theorem exec_remoteTimeout (id : Nat) (s : State) : exec (.remoteTimeout id) s = execRemoteTimeout id s := rfl
@[simp] theorem exec_replicationTimeout (gen : Nat) (s : State) : exec (.replicationTimeout gen) s = execReplicationTimeout gen s := rfl
@[simp] theorem exec_replAbortWrite (gen : Nat) (s : State) : exec (.replAbortWrite gen) s = execReplAbortWrite gen s := rfl
@[simp] theorem exec_sideLogReplay (core : Nat) (s : State) : exec (.sideLogReplay core) s = execSideLogReplay core s := rfl
@[simp] theorem exec_sideLogFull (core : Nat) (s : State) : exec (.sideLogFull core) s = execSideLogFull core s := rfl
@[simp] theorem exec_pageInComplete (vi : Nat) (va : Nat) (ok : Bool) (s : State) : exec (.pageInComplete vi va ok) s = execPageInComplete vi va ok s := rfl
@[simp] theorem exec_migrationLineCopy (entry : Nat) (s : State) : exec (.migrationLineCopy entry) s = execMigrationLineCopy entry s := rfl
@[simp] theorem exec_migrationFailed (entry : Nat) (s : State) : exec (.migrationFailed entry) s = execMigrationFailed entry s := rfl
@[simp] theorem exec_accessBitSweep (tier : Nat) (s : State) : exec (.accessBitSweep tier) s = execAccessBitSweep tier s := rfl
@[simp] theorem exec_binderyQuota (vi : Nat) (core : Nat) (team : Nat) (s : State) : exec (.binderyQuota vi core team) s = execBinderyQuota vi core team s := rfl
@[simp] theorem exec_thermalReading (core : Nat) (celsius : Nat) (s : State) : exec (.thermalReading core celsius) s = execThermalReading core celsius s := rfl
@[simp] theorem exec_droopEvent (core : Nat) (s : State) : exec (.droopEvent core) s = execDroopEvent core s := rfl
@[simp] theorem exec_droopHoldExpiry (core : Nat) (s : State) : exec (.droopHoldExpiry core) s = execDroopHoldExpiry core s := rfl
@[simp] theorem exec_idleSwap (core : Nat) (team : Nat) (s : State) : exec (.idleSwap core team) s = execIdleSwap core team s := rfl
@[simp] theorem exec_watchdog (core : Nat) (team : Nat) (s : State) : exec (.watchdog core team) s = execWatchdog core team s := rfl
@[simp] theorem exec_gstopDrainComplete (core : Nat) (s : State) : exec (.gstopDrainComplete core) s = execGstopDrainComplete core s := rfl
@[simp] theorem exec_ctRunWrite (core : Nat) (value : Nat) (s : State) : exec (.ctRunWrite core value) s = execCtRunWrite core value s := rfl
@[simp] theorem exec_swapOutWrite (core : Nat) (value : Nat) (s : State) : exec (.swapOutWrite core value) s = execSwapOutWrite core value s := rfl
@[simp] theorem exec_viSyncWrite (vi : Nat) (s : State) : exec (.viSyncWrite vi) s = execViSyncWrite vi s := rfl
@[simp] theorem exec_viSyncComplete (vi : Nat) (s : State) : exec (.viSyncComplete vi) s = execViSyncComplete vi s := rfl
@[simp] theorem exec_ptInvalWrite (vi : Nat) (value : Nat) (s : State) : exec (.ptInvalWrite vi value) s = execPtInvalWrite vi value s := rfl
@[simp] theorem exec_ptInvalComplete (vi : Nat) (s : State) : exec (.ptInvalComplete vi) s = execPtInvalComplete vi s := rfl
@[simp] theorem exec_pwrModeWrite (value : Nat) (s : State) : exec (.pwrModeWrite value) s = execPwrModeWrite value s := rfl
@[simp] theorem exec_fabRouteWrite (value : Nat) (s : State) : exec (.fabRouteWrite value) s = execFabRouteWrite value s := rfl
@[simp] theorem exec_trcCtlWrite (core : Nat) (value : Nat) (s : State) : exec (.trcCtlWrite core value) s = execTrcCtlWrite core value s := rfl
@[simp] theorem exec_dstopEnWrite (vi : Nat) (value : Nat) (s : State) : exec (.dstopEnWrite vi value) s = execDstopEnWrite vi value s := rfl
@[simp] theorem exec_dstopHit (core : Nat) (group : Nat) (s : State) : exec (.dstopHit core group) s = execDstopHit core group s := rfl
@[simp] theorem exec_counterReadClear (number : Nat) (core : Nat) (vi : Nat) (s : State) : exec (.counterReadClear number core vi) s = execCounterReadClear number core vi s := rfl
@[simp] theorem exec_configRegisterWrite (number : Nat) (core : Nat) (vi : Nat) (value : Nat) (s : State) : exec (.configRegisterWrite number core vi value) s = execConfigRegisterWrite number core vi value s := rfl
@[simp] theorem exec_apertureAccess (window : Nat) (off : Nat) (bytes : Nat) (kind : Nat) (ty : Nat) (data : Nat) (s : State) : exec (.apertureAccess window off bytes kind ty data) s = execApertureAccess window off bytes kind ty data s := rfl
@[simp] theorem exec_gpPlainAccess (pa : Nat) (bytes : Nat) (write : Bool) (data : Nat) (s : State) : exec (.gpPlainAccess pa bytes write data) s = execGpPlainAccess pa bytes write data s := rfl
@[simp] theorem exec_flitCrcError (port : Nat) (ok : Bool) (s : State) : exec (.flitCrcError port ok) s = execFlitCrcError port ok s := rfl
@[simp] theorem exec_linkDown (port : Nat) (s : State) : exec (.linkDown port) s = execLinkDown port s := rfl
@[simp] theorem exec_hbmCrcError (channel : Nat) (ok : Bool) (s : State) : exec (.hbmCrcError channel ok) s = execHbmCrcError channel ok s := rfl
@[simp] theorem exec_hbmRetrainComplete (channel : Nat) (ok : Bool) (s : State) : exec (.hbmRetrainComplete channel ok) s = execHbmRetrainComplete channel ok s := rfl
@[simp] theorem exec_cxlDeviceLost (port : Nat) (pa : Nat) (bytes : Nat) (s : State) : exec (.cxlDeviceLost port pa bytes) s = execCxlDeviceLost port pa bytes s := rfl
@[simp] theorem exec_attestationRequest (nonce : Nat) (s : State) : exec (.attestationRequest nonce) s = execAttestationRequest nonce s := rfl
@[simp] theorem exec_deployCommand (signed : Bool) (s : State) : exec (.deployCommand signed) s = execDeployCommand signed s := rfl
@[simp] theorem exec_rmaCommand (signed : Bool) (s : State) : exec (.rmaCommand signed) s = execRmaCommand signed s := rfl
@[simp] theorem exec_bindComplete (core : Nat) (agent : Nat) (s : State) : exec (.bindComplete core agent) s = execBindComplete core agent s := rfl
@[simp] theorem exec_cxlPortError (port : Nat) (status : Nat) (s : State) : exec (.cxlPortError port status) s = execCxlPortError port status s := rfl
@[simp] theorem exec_tick (s : State) : exec .tick s = execTick s := rfl
@[simp] theorem exec_updatePairArrival (s : State) : exec .updatePairArrival s = execUpdatePairArrival s := rfl
@[simp] theorem exec_teamPlacement (s : State) : exec .teamPlacement s = execTeamPlacement s := rfl
@[simp] theorem exec_packetDispatch (s : State) : exec .packetDispatch s = execPacketDispatch s := rfl
@[simp] theorem exec_rehomeEpoch (s : State) : exec .rehomeEpoch s = execRehomeEpoch s := rfl
@[simp] theorem exec_quantumExpiry (s : State) : exec .quantumExpiry s = execQuantumExpiry s := rfl
@[simp] theorem exec_samplePoint (s : State) : exec .samplePoint s = execSamplePoint s := rfl
@[simp] theorem exec_deadlockScan (s : State) : exec .deadlockScan s = execDeadlockScan s := rfl
@[simp] theorem exec_partReset (s : State) : exec .partReset s = execPartReset s := rfl
@[simp] theorem exec_provisionCommand (s : State) : exec .provisionCommand s = execProvisionCommand s := rfl
@[simp] theorem exec_decommissionCommand (s : State) : exec .decommissionCommand s = execDecommissionCommand s := rfl

end Sys2Proof.Machine
end

