-- ==== Sys2Proof/Laws/Frame.lean ====
section
/-!
SUPPORT. The frame of an issue: what the issuing group alone changes, and what a register instruction leaves of its group.
-/

namespace Sys2Proof.Machine

/-- A change of the issuing group changes nothing else. -/
theorem State.modMe_onlyGroup (s : State) (f : Group → Group) : s.OnlyGroup (s.modMe f) := by
  refine ⟨rfl, ?_, ?_⟩
  · intro d
    have := s.core_modGroup_rest s.issue.core s.issue.agent f d
    exact this
  · intro d a h
    exact State.group?_modGroup_ne s f h

theorem State.OnlyGroup.trans {s t u : State} (h1 : s.OnlyGroup t) (h2 : t.OnlyGroup u) : s.OnlyGroup u := by
  obtain ⟨a1, b1, c1⟩ := h1
  obtain ⟨a2, b2, c2⟩ := h2
  have hi : t.issue = s.issue := by rw [← a1]
  refine ⟨?_, ?_, ?_⟩
  · rw [← a1, ← a2]
  · intro d
    rw [← b1 d, ← b2 d]
  · intro d a h
    rw [c2 d a (by rw [hi]; exact h), c1 d a h]

theorem State.retire_untraced {s : State} (h : s.Untraced) : s.retire = s.modMe s.retireGroup := by
  unfold State.retire State.countIssue State.retireGroup State.countGroup
  split
  · rw [State.traceIssue_untraced h, State.modMe_modMe]
    rfl
  · rfl

theorem Group.setRegs_poison (g : Group) (l : Nat) (ws : List (Nat × Word)) :
    (∀ x ∈ (g.setRegs l ws).poison, x ∈ g.poison) ∧
      ∀ x ∈ g.poison, ¬(x.1 = l ∧ x.2 ∈ ws.map (·.1)) → x ∈ (g.setRegs l ws).poison := by
  induction ws generalizing g with
  | nil => exact ⟨fun _ h => h, fun _ h _ => h⟩
  | cons w ws ih =>
    obtain ⟨h1, h2⟩ := ih (g.setReg l w.1 w.2)
    have e : g.setRegs l (w :: ws) = (g.setReg l w.1 w.2).setRegs l ws := rfl
    rw [e]
    constructor
    · intro x hx
      exact List.mem_of_mem_filter (h1 x hx)
    · intro x hx hn
      refine h2 x ?_ fun h => hn ⟨h.1, List.mem_cons_of_mem _ h.2⟩
      show x ∈ g.poison.filter _
      rw [List.mem_filter]
      refine ⟨hx, ?_⟩
      simp only [ne_eq, decide_not, Bool.not_eq_eq_eq_not, Bool.not_true, decide_eq_false_iff_not]
      rintro rfl
      exact hn ⟨rfl, List.mem_cons_self⟩

theorem Group.setLanes_poison (g : Group) (ls : List Nat) (w : Nat → List (Nat × Word)) (ds : List Nat)
    (hw : ∀ l, ∀ x ∈ w l, x.1 ∈ ds) :
    (∀ x ∈ (ls.foldl (fun h l => h.setRegs l (w l)) g).poison, x ∈ g.poison) ∧
      ∀ x ∈ g.poison, ¬(x.1 ∈ ls ∧ x.2 ∈ ds) → x ∈ (ls.foldl (fun h l => h.setRegs l (w l)) g).poison := by
  induction ls generalizing g with
  | nil => exact ⟨fun _ h => h, fun _ h _ => h⟩
  | cons l ls ih =>
    obtain ⟨h1, h2⟩ := ih (g.setRegs l (w l))
    obtain ⟨h3, h4⟩ := Group.setRegs_poison g l (w l)
    rw [List.foldl_cons]
    refine ⟨fun x hx => h3 x (h1 x hx), fun x hx hn => h2 x (h4 x hx ?_) ?_⟩
    · rintro ⟨rfl, hm⟩
      obtain ⟨y, hy, e⟩ := List.mem_map.mp hm
      exact hn ⟨List.mem_cons_self, e ▸ hw _ y hy⟩
    · exact fun h => hn ⟨List.mem_cons_of_mem _ h.1, h.2⟩

/-- What the end of an issue does to any lane. -/
theorem State.retireGroup_lanes (s : State) (g : Group) (l : Nat) :
    (l ∉ s.issue.lanes → (s.retireGroup g).lane l = g.lane l) ∧
      ((s.retireGroup g).lane l).standAs (g.lane l) = g.lane l := by
  have one : ∀ (f : Lane → Lane), (∀ x y : Lane, x.standAs y = y → (f x).standAs y = y) → ∀ (ls : List Nat) (h : Group) (y : Lane),
      (h.lane l).standAs y = y → ((h.modLanes ls f).lane l).standAs y = y := by
    intro f hf ls
    induction ls with
    | nil => intro h y hy; exact hy
    | cons k ks ih =>
      intro h y hy
      refine ih (h.modLane k f) y ?_
      by_cases e : l = k
      · subst e
        by_cases hn : l < h.lanes.length
        · rw [Group.lane_modLane_self _ _ _ hn]
          exact hf _ _ hy
        · have : (h.modLane l f).lane l = h.lane l := by
            simp [Group.lane, Group.modLane, getElem?_modAt, List.getElem?_eq_none (Nat.le_of_not_lt hn)]
          rw [this]
          exact hy
      · rw [Group.lane_modLane_ne _ _ e]
        exact hy
  constructor
  · intro hl
    unfold State.retireGroup
    rw [Group.lane_modLanes_ne _ _ _ hl]
    unfold State.countGroup
    split
    · rw [Group.lane_modLanes_ne _ _ _ hl]
      rfl
    · rfl
  · unfold State.retireGroup
    refine one _ ?_ _ _ _ ?_
    · intro x y h
      exact h
    · unfold State.countGroup
      split
      · refine one _ ?_ _ _ _ rfl
        intro x y h
        exact h
      · rfl

/-- The end of an issue counts it once at most. -/
theorem State.retireGroup_rwc (s : State) (g : Group) :
    (s.retireGroup g).rwc = g.rwc ∨ (s.retireGroup g).rwc = (g.rwc + 1) % 2 ^ 48 := by
  unfold State.retireGroup
  obtain ⟨xs, h, -⟩ := Group.modLanes_eq (s.countGroup g) s.issue.lanes s.passLane
  rw [h]
  unfold State.countGroup
  split
  · obtain ⟨ys, h', -⟩ := Group.modLanes_eq { g with rwc := (g.rwc + 1) % 2 ^ 48 } s.issue.lanes (·.count g.rwc)
    rw [h']
    exact .inr rfl
  · exact .inl rfl

/-- The frame of a register instruction that nothing holds or stops. -/
theorem laneOp_frame {s : State} {u : Bool} {reads writes : List Nat} (h : s.Free u reads writes) (ht : s.Untraced)
    (f : Group → Nat → List (Nat × Word)) (hw : ∀ l, ∀ x ∈ f s.me l, x.1 ∈ writes) :
    ∃ t, laneOp u reads writes s f = .next t ∧ s.OnlyGroup t ∧ s.me.OnlyRegs t.me s.issue.lanes writes := by
  have hm := h.1.1
  have hu : (s.writeLanes u f).Untraced := by
    unfold State.Untraced State.isCt State.myVi State.myTeam? at ht ⊢
    unfold State.writeLanes
    rw [State.me_modMe _ _ hm]
    obtain ⟨rs, ps, hl⟩ := Group.setLanes_eq s.me s.issue.lanes fun l => f s.me (srcLane u s.issue.lanes l)
    rw [hl]
    simp only [State.team?_modMe]
    exact ht
  have hme : (s.writeLanes u f).me?.isSome = true := by
    unfold State.writeLanes
    rw [State.me?_modMe]
    simpa using hm
  refine ⟨_, laneOp_free h f, ?_, ?_⟩
  · rw [State.retire_untraced hu]
    exact (State.modMe_onlyGroup s _).trans (State.modMe_onlyGroup _ _)
  · rw [State.retire_me hme]
    unfold State.writeLanes
    rw [State.me_modMe _ _ hm]
    generalize hs : (s.modMe _) = t
    have hi : t.issue = s.issue := by rw [← hs]; rfl
    obtain ⟨rs, ps, hl⟩ := Group.setLanes_eq s.me s.issue.lanes fun l => f s.me (srcLane u s.issue.lanes l)
    obtain ⟨n, xs, hr, -⟩ := t.retireGroup_eq (s.issue.lanes.foldl (fun h l => h.setRegs l (f s.me (srcLane u s.issue.lanes l))) s.me)
    refine ⟨?_, ?_, ?_, ?_, ?_, ?_, ?_⟩
    · rw [hr, hl]
    · intro l r hr128 hn
      rw [State.retireGroup_reg, Group.reg_setLanes]
      · split
        · rename_i hmem
          have : ∀ (ws : List (Nat × Word)) (o : Word), (∀ x ∈ ws, x.1 ∈ writes) → lastWrite ws r o = o := by
            intro ws
            induction ws with
            | nil => intros; rfl
            | cons w ws ih =>
              intro o hws
              have hne : w.1 ≠ r := fun e => hn ⟨hmem, e ▸ hws w List.mem_cons_self⟩
              simp only [lastWrite, List.foldl_cons, if_neg hne]
              exact ih o fun x hx => hws x (List.mem_cons_of_mem _ hx)
          exact this _ _ (hw _)
        · rfl
      · intro k _ x hx
        have := (h.2.1 x.1 (List.mem_append_right _ (hw _ x hx))).2
        omega
    · rw [hr]
      exact (Group.setLanes_poison s.me s.issue.lanes _ writes fun l => hw _).1
    · rw [hr]
      exact (Group.setLanes_poison s.me s.issue.lanes _ writes fun l => hw _).2
    · have := t.retireGroup_rwc (s.issue.lanes.foldl (fun h l => h.setRegs l (f s.me (srcLane u s.issue.lanes l))) s.me)
      rw [hl] at this ⊢
      exact this
    · intro l hnl
      have := (t.retireGroup_lanes (s.issue.lanes.foldl (fun h l => h.setRegs l (f s.me (srcLane u s.issue.lanes l))) s.me) l).1 (hi ▸ hnl)
      rw [this, hl]
      rfl
    · intro l
      have := (t.retireGroup_lanes (s.issue.lanes.foldl (fun h l => h.setRegs l (f s.me (srcLane u s.issue.lanes l))) s.me) l).2
      rw [hl] at this ⊢
      exact this

end Sys2Proof.Machine
end

