-- ==== Sys2Proof/Laws/PerInstr.lean ====
section
/-!
SUPPORT. The family `Words`, one lemma per constructor of `Instr`: an instruction whose fields fit their formats has an instruction word
of 32 bits, or one and its extension word of 32 (R148), and an event has no word.
-/
namespace Sys2Proof.Laws

/-- The words of `i` take 32 bits, or 64 with an extension word. -/
def Words.Statement (i : Instr) : Prop :=
  ∀ w, i.inRange = true → encode i = some w → w.bits < if w.ext then 2 ^ 64 else 2 ^ 32

/-- The number of a bit is 0 or 1. -/
theorem toNat_le_one (b : Bool) : b.toNat ≤ 1 := by cases b <;> decide

theorem Words.iadd (u : Bool) (d : Nat) (a : Nat) (b : Nat) : Words.Statement (.iadd u d a b) := by
  intro w h e
  cases e
  have := toNat_le_one u
  have h := of_decide_eq_true (p := _) (show decide _ = true from h)
  show _ < 2 ^ 32
  dsimp only
  omega

theorem Words.isub (u : Bool) (d : Nat) (a : Nat) (b : Nat) : Words.Statement (.isub u d a b) := by
  intro w h e
  cases e
  have := toNat_le_one u
  have h := of_decide_eq_true (p := _) (show decide _ = true from h)
  show _ < 2 ^ 32
  dsimp only
  omega

theorem Words.iaddi (u : Bool) (d : Nat) (a : Nat) (i : Nat) : Words.Statement (.iaddi u d a i) := by
  intro w h e
  cases e
  have := toNat_le_one u
  have h := of_decide_eq_true (p := _) (show decide _ = true from h)
  show _ < 2 ^ 32
  dsimp only
  omega

theorem Words.imul (u : Bool) (d : Nat) (a : Nat) (b : Nat) : Words.Statement (.imul u d a b) := by
  intro w h e
  cases e
  have := toNat_le_one u
  have h := of_decide_eq_true (p := _) (show decide _ = true from h)
  show _ < 2 ^ 32
  dsimp only
  omega

theorem Words.imulh (u : Bool) (d : Nat) (a : Nat) (b : Nat) (m : Nat) : Words.Statement (.imulh u d a b m) := by
  intro w h e
  cases e
  have := toNat_le_one u
  have h := of_decide_eq_true (p := _) (show decide _ = true from h)
  show _ < 2 ^ 32
  dsimp only
  omega

theorem Words.imad (u : Bool) (d : Nat) (a : Nat) (b : Nat) (m : Nat) : Words.Statement (.imad u d a b m) := by
  intro w h e
  cases e
  have := toNat_le_one u
  have h := of_decide_eq_true (p := _) (show decide _ = true from h)
  show _ < 2 ^ 32
  dsimp only
  omega

theorem Words.imin (u : Bool) (d : Nat) (a : Nat) (b : Nat) (m : Nat) : Words.Statement (.imin u d a b m) := by
  intro w h e
  cases e
  have := toNat_le_one u
  have h := of_decide_eq_true (p := _) (show decide _ = true from h)
  show _ < 2 ^ 32
  dsimp only
  omega

theorem Words.imax (u : Bool) (d : Nat) (a : Nat) (b : Nat) (m : Nat) : Words.Statement (.imax u d a b m) := by
  intro w h e
  cases e
  have := toNat_le_one u
  have h := of_decide_eq_true (p := _) (show decide _ = true from h)
  show _ < 2 ^ 32
  dsimp only
  omega

theorem Words.iabs (u : Bool) (d : Nat) (a : Nat) (m : Nat) : Words.Statement (.iabs u d a m) := by
  intro w h e
  cases e
  have := toNat_le_one u
  have h := of_decide_eq_true (p := _) (show decide _ = true from h)
  show _ < 2 ^ 32
  dsimp only
  omega

theorem Words.iadds (u : Bool) (d : Nat) (a : Nat) (b : Nat) (m : Nat) : Words.Statement (.iadds u d a b m) := by
  intro w h e
  cases e
  have := toNat_le_one u
  have h := of_decide_eq_true (p := _) (show decide _ = true from h)
  show _ < 2 ^ 32
  dsimp only
  omega

theorem Words.iadd64 (u : Bool) (d : Nat) (a : Nat) (b : Nat) : Words.Statement (.iadd64 u d a b) := by
  intro w h e
  cases e
  have := toNat_le_one u
  have h := of_decide_eq_true (p := _) (show decide _ = true from h)
  show _ < 2 ^ 32
  dsimp only
  omega

theorem Words.isub64 (u : Bool) (d : Nat) (a : Nat) (b : Nat) : Words.Statement (.isub64 u d a b) := by
  intro w h e
  cases e
  have := toNat_le_one u
  have h := of_decide_eq_true (p := _) (show decide _ = true from h)
  show _ < 2 ^ 32
  dsimp only
  omega

theorem Words.ixadd (u : Bool) (d : Nat) (a : Nat) (b : Nat) (m : Nat) : Words.Statement (.ixadd u d a b m) := by
  intro w h e
  cases e
  have := toNat_le_one u
  have h := of_decide_eq_true (p := _) (show decide _ = true from h)
  show _ < 2 ^ 32
  dsimp only
  omega

theorem Words.and (u : Bool) (d : Nat) (a : Nat) (b : Nat) : Words.Statement (.and u d a b) := by
  intro w h e
  cases e
  have := toNat_le_one u
  have h := of_decide_eq_true (p := _) (show decide _ = true from h)
  show _ < 2 ^ 32
  dsimp only
  omega

theorem Words.or (u : Bool) (d : Nat) (a : Nat) (b : Nat) : Words.Statement (.or u d a b) := by
  intro w h e
  cases e
  have := toNat_le_one u
  have h := of_decide_eq_true (p := _) (show decide _ = true from h)
  show _ < 2 ^ 32
  dsimp only
  omega

theorem Words.xor (u : Bool) (d : Nat) (a : Nat) (b : Nat) : Words.Statement (.xor u d a b) := by
  intro w h e
  cases e
  have := toNat_le_one u
  have h := of_decide_eq_true (p := _) (show decide _ = true from h)
  show _ < 2 ^ 32
  dsimp only
  omega

theorem Words.andn (u : Bool) (d : Nat) (a : Nat) (b : Nat) : Words.Statement (.andn u d a b) := by
  intro w h e
  cases e
  have := toNat_le_one u
  have h := of_decide_eq_true (p := _) (show decide _ = true from h)
  show _ < 2 ^ 32
  dsimp only
  omega

theorem Words.andi (u : Bool) (d : Nat) (a : Nat) (i : Nat) : Words.Statement (.andi u d a i) := by
  intro w h e
  cases e
  have := toNat_le_one u
  have h := of_decide_eq_true (p := _) (show decide _ = true from h)
  show _ < 2 ^ 32
  dsimp only
  omega

theorem Words.ori (u : Bool) (d : Nat) (a : Nat) (i : Nat) : Words.Statement (.ori u d a i) := by
  intro w h e
  cases e
  have := toNat_le_one u
  have h := of_decide_eq_true (p := _) (show decide _ = true from h)
  show _ < 2 ^ 32
  dsimp only
  omega

theorem Words.xori (u : Bool) (d : Nat) (a : Nat) (i : Nat) : Words.Statement (.xori u d a i) := by
  intro w h e
  cases e
  have := toNat_le_one u
  have h := of_decide_eq_true (p := _) (show decide _ = true from h)
  show _ < 2 ^ 32
  dsimp only
  omega

theorem Words.shl (u : Bool) (d : Nat) (a : Nat) (b : Nat) : Words.Statement (.shl u d a b) := by
  intro w h e
  cases e
  have := toNat_le_one u
  have h := of_decide_eq_true (p := _) (show decide _ = true from h)
  show _ < 2 ^ 32
  dsimp only
  omega

theorem Words.shr (u : Bool) (d : Nat) (a : Nat) (b : Nat) : Words.Statement (.shr u d a b) := by
  intro w h e
  cases e
  have := toNat_le_one u
  have h := of_decide_eq_true (p := _) (show decide _ = true from h)
  show _ < 2 ^ 32
  dsimp only
  omega

theorem Words.sar (u : Bool) (d : Nat) (a : Nat) (b : Nat) : Words.Statement (.sar u d a b) := by
  intro w h e
  cases e
  have := toNat_le_one u
  have h := of_decide_eq_true (p := _) (show decide _ = true from h)
  show _ < 2 ^ 32
  dsimp only
  omega

theorem Words.shli (u : Bool) (d : Nat) (a : Nat) (i : Nat) : Words.Statement (.shli u d a i) := by
  intro w h e
  cases e
  have := toNat_le_one u
  have h := of_decide_eq_true (p := _) (show decide _ = true from h)
  show _ < 2 ^ 32
  dsimp only
  omega

theorem Words.shri (u : Bool) (d : Nat) (a : Nat) (i : Nat) : Words.Statement (.shri u d a i) := by
  intro w h e
  cases e
  have := toNat_le_one u
  have h := of_decide_eq_true (p := _) (show decide _ = true from h)
  show _ < 2 ^ 32
  dsimp only
  omega

theorem Words.sari (u : Bool) (d : Nat) (a : Nat) (i : Nat) : Words.Statement (.sari u d a i) := by
  intro w h e
  cases e
  have := toNat_le_one u
  have h := of_decide_eq_true (p := _) (show decide _ = true from h)
  show _ < 2 ^ 32
  dsimp only
  omega

theorem Words.popc (u : Bool) (d : Nat) (a : Nat) : Words.Statement (.popc u d a) := by
  intro w h e
  cases e
  have := toNat_le_one u
  have h := of_decide_eq_true (p := _) (show decide _ = true from h)
  show _ < 2 ^ 32
  dsimp only
  omega

theorem Words.clz (u : Bool) (d : Nat) (a : Nat) : Words.Statement (.clz u d a) := by
  intro w h e
  cases e
  have := toNat_le_one u
  have h := of_decide_eq_true (p := _) (show decide _ = true from h)
  show _ < 2 ^ 32
  dsimp only
  omega

theorem Words.brev (u : Bool) (d : Nat) (a : Nat) : Words.Statement (.brev u d a) := by
  intro w h e
  cases e
  have := toNat_le_one u
  have h := of_decide_eq_true (p := _) (show decide _ = true from h)
  show _ < 2 ^ 32
  dsimp only
  omega

theorem Words.bfe (u : Bool) (d : Nat) (a : Nat) (b : Nat) (m : Nat) (pos : Nat) (len : Nat) (sgn : Bool) : Words.Statement (.bfe u d a b m pos len sgn) := by
  intro w h e
  cases e
  have := toNat_le_one u
  have := toNat_le_one sgn
  have h := of_decide_eq_true (p := _) (show decide _ = true from h)
  show _ < 2 ^ 64
  dsimp only
  omega

theorem Words.bfi (u : Bool) (d : Nat) (a : Nat) (b : Nat) (m : Nat) (pos : Nat) (len : Nat) : Words.Statement (.bfi u d a b m pos len) := by
  intro w h e
  cases e
  have := toNat_le_one u
  have h := of_decide_eq_true (p := _) (show decide _ = true from h)
  show _ < 2 ^ 64
  dsimp only
  omega

theorem Words.mov (u : Bool) (d : Nat) (a : Nat) (m : Nat) : Words.Statement (.mov u d a m) := by
  intro w h e
  cases e
  have := toNat_le_one u
  have h := of_decide_eq_true (p := _) (show decide _ = true from h)
  show _ < 2 ^ 32
  dsimp only
  omega

theorem Words.li (u : Bool) (d : Nat) (m : Nat) (i : Nat) : Words.Statement (.li u d m i) := by
  intro w h e
  cases e
  have := toNat_le_one u
  have h := of_decide_eq_true (p := _) (show decide _ = true from h)
  show _ < 2 ^ 32
  dsimp only
  omega

theorem Words.lix (u : Bool) (d : Nat) (m : Nat) (i : Nat) (x : Nat) : Words.Statement (.lix u d m i x) := by
  intro w h e
  cases e
  have := toNat_le_one u
  have h := of_decide_eq_true (p := _) (show decide _ = true from h)
  show _ < 2 ^ 64
  dsimp only
  omega

theorem Words.sel (u : Bool) (d : Nat) (a : Nat) (b : Nat) (m : Nat) (cf : Nat) (inv : Bool) : Words.Statement (.sel u d a b m cf inv) := by
  intro w h e
  cases e
  have := toNat_le_one u
  have := toNat_le_one inv
  have h := of_decide_eq_true (p := _) (show decide _ = true from h)
  show _ < 2 ^ 64
  dsimp only
  omega

theorem Words.movs (u : Bool) (d : Nat) (n : Nat) : Words.Statement (.movs u d n) := by
  intro w h e
  cases e
  have := toNat_le_one u
  have h := of_decide_eq_true (p := _) (show decide _ = true from h)
  show _ < 2 ^ 32
  dsimp only
  omega

theorem Words.movsw (u : Bool) (d : Nat) (n : Nat) : Words.Statement (.movsw u d n) := by
  intro w h e
  cases e
  have := toNat_le_one u
  have h := of_decide_eq_true (p := _) (show decide _ = true from h)
  show _ < 2 ^ 32
  dsimp only
  omega

theorem Words.icmp (u : Bool) (c : Nat) (k : Nat) (a : Nat) (b : Nat) (m : Nat) : Words.Statement (.icmp u c k a b m) := by
  intro w h e
  cases e
  have := toNat_le_one u
  have h := of_decide_eq_true (p := _) (show decide _ = true from h)
  show _ < 2 ^ 32
  dsimp only
  omega

theorem Words.clog (u : Bool) (c : Nat) (k : Nat) (p : Nat) (q : Nat) : Words.Statement (.clog u c k p q) := by
  intro w h e
  cases e
  have := toNat_le_one u
  have h := of_decide_eq_true (p := _) (show decide _ = true from h)
  show _ < 2 ^ 32
  dsimp only
  omega

theorem Words.fadd (u : Bool) (d : Nat) (a : Nat) (b : Nat) (m : Nat) : Words.Statement (.fadd u d a b m) := by
  intro w h e
  cases e
  have := toNat_le_one u
  have h := of_decide_eq_true (p := _) (show decide _ = true from h)
  show _ < 2 ^ 32
  dsimp only
  omega

theorem Words.fsub (u : Bool) (d : Nat) (a : Nat) (b : Nat) (m : Nat) : Words.Statement (.fsub u d a b m) := by
  intro w h e
  cases e
  have := toNat_le_one u
  have h := of_decide_eq_true (p := _) (show decide _ = true from h)
  show _ < 2 ^ 32
  dsimp only
  omega

theorem Words.fmul (u : Bool) (d : Nat) (a : Nat) (b : Nat) (m : Nat) : Words.Statement (.fmul u d a b m) := by
  intro w h e
  cases e
  have := toNat_le_one u
  have h := of_decide_eq_true (p := _) (show decide _ = true from h)
  show _ < 2 ^ 32
  dsimp only
  omega

theorem Words.ffma (u : Bool) (d : Nat) (a : Nat) (b : Nat) (m : Nat) : Words.Statement (.ffma u d a b m) := by
  intro w h e
  cases e
  have := toNat_le_one u
  have h := of_decide_eq_true (p := _) (show decide _ = true from h)
  show _ < 2 ^ 32
  dsimp only
  omega

theorem Words.fmin (u : Bool) (d : Nat) (a : Nat) (b : Nat) (m : Nat) : Words.Statement (.fmin u d a b m) := by
  intro w h e
  cases e
  have := toNat_le_one u
  have h := of_decide_eq_true (p := _) (show decide _ = true from h)
  show _ < 2 ^ 32
  dsimp only
  omega

theorem Words.fmax (u : Bool) (d : Nat) (a : Nat) (b : Nat) (m : Nat) : Words.Statement (.fmax u d a b m) := by
  intro w h e
  cases e
  have := toNat_le_one u
  have h := of_decide_eq_true (p := _) (show decide _ = true from h)
  show _ < 2 ^ 32
  dsimp only
  omega

theorem Words.fcmp (u : Bool) (c : Nat) (k : Nat) (a : Nat) (b : Nat) (m : Nat) : Words.Statement (.fcmp u c k a b m) := by
  intro w h e
  cases e
  have := toNat_le_one u
  have h := of_decide_eq_true (p := _) (show decide _ = true from h)
  show _ < 2 ^ 32
  dsimp only
  omega

theorem Words.frcp (u : Bool) (d : Nat) (a : Nat) (m : Nat) : Words.Statement (.frcp u d a m) := by
  intro w h e
  cases e
  have := toNat_le_one u
  have h := of_decide_eq_true (p := _) (show decide _ = true from h)
  show _ < 2 ^ 32
  dsimp only
  omega

theorem Words.frsq (u : Bool) (d : Nat) (a : Nat) : Words.Statement (.frsq u d a) := by
  intro w h e
  cases e
  have := toNat_le_one u
  have h := of_decide_eq_true (p := _) (show decide _ = true from h)
  show _ < 2 ^ 32
  dsimp only
  omega

theorem Words.fsqrt (u : Bool) (d : Nat) (a : Nat) (m : Nat) : Words.Statement (.fsqrt u d a m) := by
  intro w h e
  cases e
  have := toNat_le_one u
  have h := of_decide_eq_true (p := _) (show decide _ = true from h)
  show _ < 2 ^ 32
  dsimp only
  omega

theorem Words.fexp2 (u : Bool) (d : Nat) (a : Nat) : Words.Statement (.fexp2 u d a) := by
  intro w h e
  cases e
  have := toNat_le_one u
  have h := of_decide_eq_true (p := _) (show decide _ = true from h)
  show _ < 2 ^ 32
  dsimp only
  omega

theorem Words.flog2 (u : Bool) (d : Nat) (a : Nat) : Words.Statement (.flog2 u d a) := by
  intro w h e
  cases e
  have := toNat_le_one u
  have h := of_decide_eq_true (p := _) (show decide _ = true from h)
  show _ < 2 ^ 32
  dsimp only
  omega

theorem Words.fsin (u : Bool) (d : Nat) (a : Nat) : Words.Statement (.fsin u d a) := by
  intro w h e
  cases e
  have := toNat_le_one u
  have h := of_decide_eq_true (p := _) (show decide _ = true from h)
  show _ < 2 ^ 32
  dsimp only
  omega

theorem Words.fcos (u : Bool) (d : Nat) (a : Nat) : Words.Statement (.fcos u d a) := by
  intro w h e
  cases e
  have := toNat_le_one u
  have h := of_decide_eq_true (p := _) (show decide _ = true from h)
  show _ < 2 ^ 32
  dsimp only
  omega

theorem Words.ftanh (u : Bool) (d : Nat) (a : Nat) : Words.Statement (.ftanh u d a) := by
  intro w h e
  cases e
  have := toNat_le_one u
  have h := of_decide_eq_true (p := _) (show decide _ = true from h)
  show _ < 2 ^ 32
  dsimp only
  omega

theorem Words.frnd (u : Bool) (d : Nat) (a : Nat) (m : Nat) : Words.Statement (.frnd u d a m) := by
  intro w h e
  cases e
  have := toNat_le_one u
  have h := of_decide_eq_true (p := _) (show decide _ = true from h)
  show _ < 2 ^ 32
  dsimp only
  omega

theorem Words.fcps (u : Bool) (d : Nat) (a : Nat) (b : Nat) (m : Nat) : Words.Statement (.fcps u d a b m) := by
  intro w h e
  cases e
  have := toNat_le_one u
  have h := of_decide_eq_true (p := _) (show decide _ = true from h)
  show _ < 2 ^ 32
  dsimp only
  omega

theorem Words.hadd2 (u : Bool) (d : Nat) (a : Nat) (b : Nat) (bf : Bool) : Words.Statement (.hadd2 u d a b bf) := by
  intro w h e
  cases e
  have := toNat_le_one u
  have := toNat_le_one bf
  have h := of_decide_eq_true (p := _) (show decide _ = true from h)
  show _ < 2 ^ 32
  dsimp only
  omega

theorem Words.hmul2 (u : Bool) (d : Nat) (a : Nat) (b : Nat) (bf : Bool) : Words.Statement (.hmul2 u d a b bf) := by
  intro w h e
  cases e
  have := toNat_le_one u
  have := toNat_le_one bf
  have h := of_decide_eq_true (p := _) (show decide _ = true from h)
  show _ < 2 ^ 32
  dsimp only
  omega

theorem Words.hfma2 (u : Bool) (d : Nat) (a : Nat) (b : Nat) (bf : Bool) : Words.Statement (.hfma2 u d a b bf) := by
  intro w h e
  cases e
  have := toNat_le_one u
  have := toNat_le_one bf
  have h := of_decide_eq_true (p := _) (show decide _ = true from h)
  show _ < 2 ^ 32
  dsimp only
  omega

theorem Words.hmin2 (u : Bool) (d : Nat) (a : Nat) (b : Nat) (bf : Bool) : Words.Statement (.hmin2 u d a b bf) := by
  intro w h e
  cases e
  have := toNat_le_one u
  have := toNat_le_one bf
  have h := of_decide_eq_true (p := _) (show decide _ = true from h)
  show _ < 2 ^ 32
  dsimp only
  omega

theorem Words.hmax2 (u : Bool) (d : Nat) (a : Nat) (b : Nat) (bf : Bool) : Words.Statement (.hmax2 u d a b bf) := by
  intro w h e
  cases e
  have := toNat_le_one u
  have := toNat_le_one bf
  have h := of_decide_eq_true (p := _) (show decide _ = true from h)
  show _ < 2 ^ 32
  dsimp only
  omega

theorem Words.hdot2 (u : Bool) (d : Nat) (a : Nat) (b : Nat) (bf : Bool) : Words.Statement (.hdot2 u d a b bf) := by
  intro w h e
  cases e
  have := toNat_le_one u
  have := toNat_le_one bf
  have h := of_decide_eq_true (p := _) (show decide _ = true from h)
  show _ < 2 ^ 32
  dsimp only
  omega

theorem Words.cvt (u : Bool) (d : Nat) (a : Nat) (src : Nat) (dst : Nat) (rm : Nat) (satx : Bool) (ncnt : Nat) : Words.Statement (.cvt u d a src dst rm satx ncnt) := by
  intro w h e
  cases e
  have := toNat_le_one u
  have := toNat_le_one satx
  have h := of_decide_eq_true (p := _) (show decide _ = true from h)
  show _ < 2 ^ 64
  dsimp only
  omega

theorem Words.cvtq (u : Bool) (d : Nat) (a : Nat) (b : Nat) (src : Nat) (dst : Nat) (rm : Nat) (satx : Bool) (vtype : Nat) (blk : Bool) (had : Bool) (smode : Bool) (sbyte : Nat) : Words.Statement (.cvtq u d a b src dst rm satx vtype blk had smode sbyte) := by
  intro w h e
  cases e
  have := toNat_le_one u
  have := toNat_le_one satx
  have := toNat_le_one blk
  have := toNat_le_one had
  have := toNat_le_one smode
  have h := of_decide_eq_true (p := _) (show decide _ = true from h)
  show _ < 2 ^ 64
  dsimp only
  omega

theorem Words.cvtd (u : Bool) (d : Nat) (a : Nat) (b : Nat) (src : Nat) (dst : Nat) (rm : Nat) (blk : Bool) (had : Bool) (scl : Bool) (sbyte : Nat) : Words.Statement (.cvtd u d a b src dst rm blk had scl sbyte) := by
  intro w h e
  cases e
  have := toNat_le_one u
  have := toNat_le_one blk
  have := toNat_le_one had
  have := toNat_le_one scl
  have h := of_decide_eq_true (p := _) (show decide _ = true from h)
  show _ < 2 ^ 64
  dsimp only
  omega

theorem Words.bscl (u : Bool) (d : Nat) (a : Nat) (b : Nat) (rm : Nat) (styp : Bool) (inv : Bool) (sbyte : Nat) : Words.Statement (.bscl u d a b rm styp inv sbyte) := by
  intro w h e
  cases e
  have := toNat_le_one u
  have := toNat_le_one styp
  have := toNat_le_one inv
  have h := of_decide_eq_true (p := _) (show decide _ = true from h)
  show _ < 2 ^ 64
  dsimp only
  omega

theorem Words.hadm (u : Bool) (d : Nat) (a : Nat) (typ : Nat) (rm : Nat) (nrm : Bool) (blk : Bool) : Words.Statement (.hadm u d a typ rm nrm blk) := by
  intro w h e
  cases e
  have := toNat_le_one u
  have := toNat_le_one nrm
  have := toNat_le_one blk
  have h := of_decide_eq_true (p := _) (show decide _ = true from h)
  show _ < 2 ^ 64
  dsimp only
  omega

theorem Words.vclass (u : Bool) (d : Nat) (a : Nat) : Words.Statement (.vclass u d a) := by
  intro w h e
  cases e
  have := toNat_le_one u
  have h := of_decide_eq_true (p := _) (show decide _ = true from h)
  show _ < 2 ^ 32
  dsimp only
  omega

theorem Words.vzero (u : Bool) (d : Nat) (a : Nat) (m : Nat) : Words.Statement (.vzero u d a m) := by
  intro w h e
  cases e
  have := toNat_le_one u
  have h := of_decide_eq_true (p := _) (show decide _ = true from h)
  show _ < 2 ^ 32
  dsimp only
  omega

theorem Words.vfill (u : Bool) (d : Nat) (a : Nat) (b : Nat) : Words.Statement (.vfill u d a b) := by
  intro w h e
  cases e
  have := toNat_le_one u
  have h := of_decide_eq_true (p := _) (show decide _ = true from h)
  show _ < 2 ^ 32
  dsimp only
  omega

theorem Words.shfl (d : Nat) (a : Nat) (b : Nat) (m : Nat) : Words.Statement (.shfl d a b m) := by
  intro w h e
  cases e
  have h := of_decide_eq_true (p := _) (show decide _ = true from h)
  show _ < 2 ^ 32
  dsimp only
  omega

theorem Words.vote (d : Nat) (p : Nat) (m : Nat) : Words.Statement (.vote d p m) := by
  intro w h e
  cases e
  have h := of_decide_eq_true (p := _) (show decide _ = true from h)
  show _ < 2 ^ 32
  dsimp only
  omega

theorem Words.prfx (d : Nat) (a : Nat) (m : Nat) : Words.Statement (.prfx d a m) := by
  intro w h e
  cases e
  have h := of_decide_eq_true (p := _) (show decide _ = true from h)
  show _ < 2 ^ 32
  dsimp only
  omega

theorem Words.rduc (d : Nat) (a : Nat) (k : Nat) : Words.Statement (.rduc d a k) := by
  intro w h e
  cases e
  have h := of_decide_eq_true (p := _) (show decide _ = true from h)
  show _ < 2 ^ 32
  dsimp only
  omega

theorem Words.ldb (u : Bool) (d : Nat) (a : Nat) (h : Nat) (i : Nat) : Words.Statement (.ldb u d a h i) := by
  intro w h e
  cases e
  have := toNat_le_one u
  have h := of_decide_eq_true (p := _) (show decide _ = true from h)
  show _ < 2 ^ 32
  dsimp only
  omega

theorem Words.ldbs (u : Bool) (d : Nat) (a : Nat) (h : Nat) (i : Nat) : Words.Statement (.ldbs u d a h i) := by
  intro w h e
  cases e
  have := toNat_le_one u
  have h := of_decide_eq_true (p := _) (show decide _ = true from h)
  show _ < 2 ^ 32
  dsimp only
  omega

theorem Words.ldh (u : Bool) (d : Nat) (a : Nat) (h : Nat) (i : Nat) : Words.Statement (.ldh u d a h i) := by
  intro w h e
  cases e
  have := toNat_le_one u
  have h := of_decide_eq_true (p := _) (show decide _ = true from h)
  show _ < 2 ^ 32
  dsimp only
  omega

theorem Words.ldhs (u : Bool) (d : Nat) (a : Nat) (h : Nat) (i : Nat) : Words.Statement (.ldhs u d a h i) := by
  intro w h e
  cases e
  have := toNat_le_one u
  have h := of_decide_eq_true (p := _) (show decide _ = true from h)
  show _ < 2 ^ 32
  dsimp only
  omega

theorem Words.ldw (u : Bool) (d : Nat) (a : Nat) (h : Nat) (i : Nat) : Words.Statement (.ldw u d a h i) := by
  intro w h e
  cases e
  have := toNat_le_one u
  have h := of_decide_eq_true (p := _) (show decide _ = true from h)
  show _ < 2 ^ 32
  dsimp only
  omega

theorem Words.ldd (u : Bool) (d : Nat) (a : Nat) (h : Nat) (i : Nat) : Words.Statement (.ldd u d a h i) := by
  intro w h e
  cases e
  have := toNat_le_one u
  have h := of_decide_eq_true (p := _) (show decide _ = true from h)
  show _ < 2 ^ 32
  dsimp only
  omega

theorem Words.ldq (u : Bool) (d : Nat) (a : Nat) (h : Nat) (i : Nat) : Words.Statement (.ldq u d a h i) := by
  intro w h e
  cases e
  have := toNat_le_one u
  have h := of_decide_eq_true (p := _) (show decide _ = true from h)
  show _ < 2 ^ 32
  dsimp only
  omega

theorem Words.stb (u : Bool) (d : Nat) (a : Nat) (h : Nat) (i : Nat) : Words.Statement (.stb u d a h i) := by
  intro w h e
  cases e
  have := toNat_le_one u
  have h := of_decide_eq_true (p := _) (show decide _ = true from h)
  show _ < 2 ^ 32
  dsimp only
  omega

theorem Words.sth (u : Bool) (d : Nat) (a : Nat) (h : Nat) (i : Nat) : Words.Statement (.sth u d a h i) := by
  intro w h e
  cases e
  have := toNat_le_one u
  have h := of_decide_eq_true (p := _) (show decide _ = true from h)
  show _ < 2 ^ 32
  dsimp only
  omega

theorem Words.stw (u : Bool) (d : Nat) (a : Nat) (h : Nat) (i : Nat) : Words.Statement (.stw u d a h i) := by
  intro w h e
  cases e
  have := toNat_le_one u
  have h := of_decide_eq_true (p := _) (show decide _ = true from h)
  show _ < 2 ^ 32
  dsimp only
  omega

theorem Words.std (u : Bool) (d : Nat) (a : Nat) (h : Nat) (i : Nat) : Words.Statement (.std u d a h i) := by
  intro w h e
  cases e
  have := toNat_le_one u
  have h := of_decide_eq_true (p := _) (show decide _ = true from h)
  show _ < 2 ^ 32
  dsimp only
  omega

theorem Words.stq (u : Bool) (d : Nat) (a : Nat) (h : Nat) (i : Nat) : Words.Statement (.stq u d a h i) := by
  intro w h e
  cases e
  have := toNat_le_one u
  have h := of_decide_eq_true (p := _) (show decide _ = true from h)
  show _ < 2 ^ 32
  dsimp only
  omega

theorem Words.pfch (u : Bool) (a : Nat) (h : Nat) (i : Nat) : Words.Statement (.pfch u a h i) := by
  intro w h e
  cases e
  have := toNat_le_one u
  have h := of_decide_eq_true (p := _) (show decide _ = true from h)
  show _ < 2 ^ 32
  dsimp only
  omega

theorem Words.aadd (d : Nat) (a : Nat) (h : Nat) (i : Nat) (src : Nat) (nr : Bool) (ty : Nat) : Words.Statement (.aadd d a h i src nr ty) := by
  intro w h e
  cases e
  have := toNat_le_one nr
  have h := of_decide_eq_true (p := _) (show decide _ = true from h)
  show _ < 2 ^ 64
  dsimp only
  omega

theorem Words.ainc (d : Nat) (a : Nat) (h : Nat) (i : Nat) (src : Nat) (nr : Bool) (ty : Nat) : Words.Statement (.ainc d a h i src nr ty) := by
  intro w h e
  cases e
  have := toNat_le_one nr
  have h := of_decide_eq_true (p := _) (show decide _ = true from h)
  show _ < 2 ^ 64
  dsimp only
  omega

theorem Words.adec (d : Nat) (a : Nat) (h : Nat) (i : Nat) (nr : Bool) (ty : Nat) : Words.Statement (.adec d a h i nr ty) := by
  intro w h e
  cases e
  have := toNat_le_one nr
  have h := of_decide_eq_true (p := _) (show decide _ = true from h)
  show _ < 2 ^ 64
  dsimp only
  omega

theorem Words.amin (d : Nat) (a : Nat) (h : Nat) (i : Nat) (src : Nat) (nr : Bool) (ty : Nat) : Words.Statement (.amin d a h i src nr ty) := by
  intro w h e
  cases e
  have := toNat_le_one nr
  have h := of_decide_eq_true (p := _) (show decide _ = true from h)
  show _ < 2 ^ 64
  dsimp only
  omega

theorem Words.amax (d : Nat) (a : Nat) (h : Nat) (i : Nat) (src : Nat) (nr : Bool) (ty : Nat) : Words.Statement (.amax d a h i src nr ty) := by
  intro w h e
  cases e
  have := toNat_le_one nr
  have h := of_decide_eq_true (p := _) (show decide _ = true from h)
  show _ < 2 ^ 64
  dsimp only
  omega

theorem Words.aand (d : Nat) (a : Nat) (h : Nat) (i : Nat) (src : Nat) (nr : Bool) (ty : Nat) : Words.Statement (.aand d a h i src nr ty) := by
  intro w h e
  cases e
  have := toNat_le_one nr
  have h := of_decide_eq_true (p := _) (show decide _ = true from h)
  show _ < 2 ^ 64
  dsimp only
  omega

theorem Words.aor (d : Nat) (a : Nat) (h : Nat) (i : Nat) (src : Nat) (nr : Bool) (ty : Nat) : Words.Statement (.aor d a h i src nr ty) := by
  intro w h e
  cases e
  have := toNat_le_one nr
  have h := of_decide_eq_true (p := _) (show decide _ = true from h)
  show _ < 2 ^ 64
  dsimp only
  omega

theorem Words.axor (d : Nat) (a : Nat) (h : Nat) (i : Nat) (src : Nat) (nr : Bool) (ty : Nat) : Words.Statement (.axor d a h i src nr ty) := by
  intro w h e
  cases e
  have := toNat_le_one nr
  have h := of_decide_eq_true (p := _) (show decide _ = true from h)
  show _ < 2 ^ 64
  dsimp only
  omega

theorem Words.aswp (d : Nat) (a : Nat) (h : Nat) (i : Nat) (src : Nat) (nr : Bool) (ty : Nat) : Words.Statement (.aswp d a h i src nr ty) := by
  intro w h e
  cases e
  have := toNat_le_one nr
  have h := of_decide_eq_true (p := _) (show decide _ = true from h)
  show _ < 2 ^ 64
  dsimp only
  omega

theorem Words.acas (d : Nat) (a : Nat) (h : Nat) (i : Nat) (src : Nat) (cmp : Nat) (nr : Bool) (ty : Nat) : Words.Statement (.acas d a h i src cmp nr ty) := by
  intro w h e
  cases e
  have := toNat_le_one nr
  have h := of_decide_eq_true (p := _) (show decide _ = true from h)
  show _ < 2 ^ 64
  dsimp only
  omega

theorem Words.upd (u : Bool) (d : Nat) (a : Nat) (h : Nat) (i : Nat) : Words.Statement (.upd u d a h i) := by
  intro w h e
  cases e
  have := toNat_le_one u
  have h := of_decide_eq_true (p := _) (show decide _ = true from h)
  show _ < 2 ^ 32
  dsimp only
  omega

theorem Words.updd (u : Bool) (d : Nat) (a : Nat) (h : Nat) (i : Nat) : Words.Statement (.updd u d a h i) := by
  intro w h e
  cases e
  have := toNat_le_one u
  have h := of_decide_eq_true (p := _) (show decide _ = true from h)
  show _ < 2 ^ 32
  dsimp only
  omega

theorem Words.uflush (u : Bool) : Words.Statement (.uflush u) := by
  intro w h e
  cases e
  have := toNat_le_one u
  show _ < 2 ^ 32
  dsimp only
  omega

theorem Words.uapply (u : Bool) (a : Nat) (h : Nat) (i : Nat) : Words.Statement (.uapply u a h i) := by
  intro w h e
  cases e
  have := toNat_le_one u
  have h := of_decide_eq_true (p := _) (show decide _ = true from h)
  show _ < 2 ^ 32
  dsimp only
  omega

theorem Words.waitc (u : Bool) (d : Nat) (a : Nat) (h : Nat) (i : Nat) (cmp : Nat) (k : Nat) (ty : Nat) : Words.Statement (.waitc u d a h i cmp k ty) := by
  intro w h e
  cases e
  have := toNat_le_one u
  have h := of_decide_eq_true (p := _) (show decide _ = true from h)
  show _ < 2 ^ 64
  dsimp only
  omega

theorem Words.fence (u : Bool) (m : Nat) : Words.Statement (.fence u m) := by
  intro w h e
  cases e
  have := toNat_le_one u
  have h := of_decide_eq_true (p := _) (show decide _ = true from h)
  show _ < 2 ^ 32
  dsimp only
  omega

theorem Words.mbsend (u : Bool) (d : Nat) (a : Nat) (b : Nat) (mbox : Nat) : Words.Statement (.mbsend u d a b mbox) := by
  intro w h e
  cases e
  have := toNat_le_one u
  have h := of_decide_eq_true (p := _) (show decide _ = true from h)
  show _ < 2 ^ 64
  dsimp only
  omega

theorem Words.mbrecv (u : Bool) (d : Nat) (mbox : Nat) : Words.Statement (.mbrecv u d mbox) := by
  intro w h e
  cases e
  have := toNat_le_one u
  have h := of_decide_eq_true (p := _) (show decide _ = true from h)
  show _ < 2 ^ 32
  dsimp only
  omega

theorem Words.mbpoll (u : Bool) (d : Nat) (a : Nat) (mbox : Nat) : Words.Statement (.mbpoll u d a mbox) := by
  intro w h e
  cases e
  have := toNat_le_one u
  have h := of_decide_eq_true (p := _) (show decide _ = true from h)
  show _ < 2 ^ 32
  dsimp only
  omega

theorem Words.boinit (u : Bool) (d : Nat) (a : Nat) (h : Nat) (i : Nat) : Words.Statement (.boinit u d a h i) := by
  intro w h e
  cases e
  have := toNat_le_one u
  have h := of_decide_eq_true (p := _) (show decide _ = true from h)
  show _ < 2 ^ 32
  dsimp only
  omega

theorem Words.boarr (u : Bool) (d : Nat) (a : Nat) (h : Nat) (i : Nat) : Words.Statement (.boarr u d a h i) := by
  intro w h e
  cases e
  have := toNat_le_one u
  have h := of_decide_eq_true (p := _) (show decide _ = true from h)
  show _ < 2 ^ 32
  dsimp only
  omega

theorem Words.bowait (u : Bool) (d : Nat) (a : Nat) (h : Nat) (i : Nat) : Words.Statement (.bowait u d a h i) := by
  intro w h e
  cases e
  have := toNat_le_one u
  have h := of_decide_eq_true (p := _) (show decide _ = true from h)
  show _ < 2 ^ 32
  dsimp only
  omega

theorem Words.botst (u : Bool) (d : Nat) (a : Nat) (h : Nat) (i : Nat) : Words.Statement (.botst u d a h i) := by
  intro w h e
  cases e
  have := toNat_le_one u
  have h := of_decide_eq_true (p := _) (show decide _ = true from h)
  show _ < 2 ^ 32
  dsimp only
  omega

theorem Words.watch (u : Bool) (d : Nat) (a : Nat) (h : Nat) (i : Nat) (susp : Bool) : Words.Statement (.watch u d a h i susp) := by
  intro w h e
  cases e
  have := toNat_le_one u
  have := toNat_le_one susp
  have h := of_decide_eq_true (p := _) (show decide _ = true from h)
  show _ < 2 ^ 64
  dsimp only
  omega

theorem Words.wdrop (u : Bool) (d : Nat) (a : Nat) (h : Nat) (i : Nat) : Words.Statement (.wdrop u d a h i) := by
  intro w h e
  cases e
  have := toNat_le_one u
  have h := of_decide_eq_true (p := _) (show decide _ = true from h)
  show _ < 2 ^ 32
  dsimp only
  omega

theorem Words.wresume (u : Bool) (d : Nat) (a : Nat) (h : Nat) (i : Nat) : Words.Statement (.wresume u d a h i) := by
  intro w h e
  cases e
  have := toNat_le_one u
  have h := of_decide_eq_true (p := _) (show decide _ = true from h)
  show _ < 2 ^ 32
  dsimp only
  omega

theorem Words.wstat (u : Bool) (d : Nat) (a : Nat) (h : Nat) (i : Nat) : Words.Statement (.wstat u d a h i) := by
  intro w h e
  cases e
  have := toNat_le_one u
  have h := of_decide_eq_true (p := _) (show decide _ = true from h)
  show _ < 2 ^ 32
  dsimp only
  omega

theorem Words.bind (u : Bool) (h : Nat) (opc : Nat) (eager : Bool) : Words.Statement (.bind u h opc eager) := by
  intro w h e
  cases e
  have := toNat_le_one u
  have := toNat_le_one eager
  have h := of_decide_eq_true (p := _) (show decide _ = true from h)
  show _ < 2 ^ 64
  dsimp only
  omega

theorem Words.unbind (u : Bool) (h : Nat) : Words.Statement (.unbind u h) := by
  intro w h e
  cases e
  have := toNat_le_one u
  have h := of_decide_eq_true (p := _) (show decide _ = true from h)
  show _ < 2 ^ 32
  dsimp only
  omega

theorem Words.hset (u : Bool) (a : Nat) (s : Nat) : Words.Statement (.hset u a s) := by
  intro w h e
  cases e
  have := toNat_le_one u
  have h := of_decide_eq_true (p := _) (show decide _ = true from h)
  show _ < 2 ^ 32
  dsimp only
  omega

theorem Words.hget (u : Bool) (d : Nat) (s : Nat) : Words.Statement (.hget u d s) := by
  intro w h e
  cases e
  have := toNat_le_one u
  have h := of_decide_eq_true (p := _) (show decide _ = true from h)
  show _ < 2 ^ 32
  dsimp only
  omega

theorem Words.hlen (u : Bool) (d : Nat) (s : Nat) : Words.Statement (.hlen u d s) := by
  intro w h e
  cases e
  have := toNat_le_one u
  have h := of_decide_eq_true (p := _) (show decide _ = true from h)
  show _ < 2 ^ 32
  dsimp only
  omega

theorem Words.mma (a : Nat) (b : Nat) (o : Nat) (ssel : Nat) (xz : Nat) (acc : Bool) (v : Nat) (t : Nat) (sb : Nat) (sa : Nat) : Words.Statement (.mma a b o ssel xz acc v t sb sa) := by
  intro w h e
  cases e
  have := toNat_le_one acc
  have h := of_decide_eq_true (p := _) (show decide _ = true from h)
  show _ < 2 ^ 64
  dsimp only
  omega

theorem Words.mmav (a : Nat) (b : Nat) (o : Nat) (ssel : Nat) (xz : Nat) (acc : Bool) (v : Nat) (t : Nat) (sb : Nat) (sa : Nat) : Words.Statement (.mmav a b o ssel xz acc v t sb sa) := by
  intro w h e
  cases e
  have := toNat_le_one acc
  have h := of_decide_eq_true (p := _) (show decide _ = true from h)
  show _ < 2 ^ 64
  dsimp only
  omega

theorem Words.orset (d : Nat) (a : Nat) : Words.Statement (.orset d a) := by
  intro w h e
  cases e
  have h := of_decide_eq_true (p := _) (show decide _ = true from h)
  show _ < 2 ^ 32
  dsimp only
  omega

theorem Words.orget (d : Nat) (a : Nat) : Words.Statement (.orget d a) := by
  intro w h e
  cases e
  have h := of_decide_eq_true (p := _) (show decide _ = true from h)
  show _ < 2 ^ 32
  dsimp only
  omega

theorem Words.accz (d : Nat) (q : Nat) (t : Nat) : Words.Statement (.accz d q t) := by
  intro w h e
  cases e
  have h := of_decide_eq_true (p := _) (show decide _ = true from h)
  show _ < 2 ^ 32
  dsimp only
  omega

theorem Words.accrd (d : Nat) (t : Nat) (row0 : Nat) (col0 : Nat) (nreg : Nat) : Words.Statement (.accrd d t row0 col0 nreg) := by
  intro w h e
  cases e
  have h := of_decide_eq_true (p := _) (show decide _ = true from h)
  show _ < 2 ^ 64
  dsimp only
  omega

theorem Words.accwr (d : Nat) (t : Nat) (row0 : Nat) (col0 : Nat) (nreg : Nat) : Words.Statement (.accwr d t row0 col0 nreg) := by
  intro w h e
  cases e
  have h := of_decide_eq_true (p := _) (show decide _ = true from h)
  show _ < 2 ^ 64
  dsimp only
  omega

theorem Words.mthr (d : Nat) (a : Nat) (b : Nat) (m : Nat) : Words.Statement (.mthr d a b m) := by
  intro w h e
  cases e
  have h := of_decide_eq_true (p := _) (show decide _ = true from h)
  show _ < 2 ^ 32
  dsimp only
  omega

theorem Words.mvst (d : Nat) (a : Nat) (b : Nat) (m : Nat) : Words.Statement (.mvst d a b m) := by
  intro w h e
  cases e
  have h := of_decide_eq_true (p := _) (show decide _ = true from h)
  show _ < 2 ^ 32
  dsimp only
  omega

theorem Words.mstat (d : Nat) (k : Nat) : Words.Statement (.mstat d k) := by
  intro w h e
  cases e
  have h := of_decide_eq_true (p := _) (show decide _ = true from h)
  show _ < 2 ^ 32
  dsimp only
  omega

theorem Words.msync (m : Nat) : Words.Statement (.msync m) := by
  intro w h e
  cases e
  have h := of_decide_eq_true (p := _) (show decide _ = true from h)
  show _ < 2 ^ 32
  dsimp only
  omega

theorem Words.tload (u : Bool) (d : Nat) (a : Nat) (n : Nat) : Words.Statement (.tload u d a n) := by
  intro w h e
  cases e
  have := toNat_le_one u
  have h := of_decide_eq_true (p := _) (show decide _ = true from h)
  show _ < 2 ^ 32
  dsimp only
  omega

theorem Words.tstore (u : Bool) (d : Nat) (a : Nat) (n : Nat) : Words.Statement (.tstore u d a n) := by
  intro w h e
  cases e
  have := toNat_le_one u
  have h := of_decide_eq_true (p := _) (show decide _ = true from h)
  show _ < 2 ^ 32
  dsimp only
  omega

theorem Words.tgath (u : Bool) (d : Nat) (a : Nat) (n : Nat) : Words.Statement (.tgath u d a n) := by
  intro w h e
  cases e
  have := toNat_le_one u
  have h := of_decide_eq_true (p := _) (show decide _ = true from h)
  show _ < 2 ^ 32
  dsimp only
  omega

theorem Words.tscat (u : Bool) (d : Nat) (a : Nat) (n : Nat) : Words.Statement (.tscat u d a n) := by
  intro w h e
  cases e
  have := toNat_le_one u
  have h := of_decide_eq_true (p := _) (show decide _ = true from h)
  show _ < 2 ^ 32
  dsimp only
  omega

theorem Words.tcast (u : Bool) (d : Nat) (a : Nat) (n : Nat) : Words.Statement (.tcast u d a n) := by
  intro w h e
  cases e
  have := toNat_le_one u
  have h := of_decide_eq_true (p := _) (show decide _ = true from h)
  show _ < 2 ^ 32
  dsimp only
  omega

theorem Words.tfill (u : Bool) (d : Nat) (a : Nat) (n : Nat) : Words.Statement (.tfill u d a n) := by
  intro w h e
  cases e
  have := toNat_le_one u
  have h := of_decide_eq_true (p := _) (show decide _ = true from h)
  show _ < 2 ^ 32
  dsimp only
  omega

theorem Words.fwait (u : Bool) (a : Nat) (m : Nat) : Words.Statement (.fwait u a m) := by
  intro w h e
  cases e
  have := toNat_le_one u
  have h := of_decide_eq_true (p := _) (show decide _ = true from h)
  show _ < 2 ^ 32
  dsimp only
  omega

theorem Words.ftest (u : Bool) (d : Nat) (a : Nat) : Words.Statement (.ftest u d a) := by
  intro w h e
  cases e
  have := toNat_le_one u
  have h := of_decide_eq_true (p := _) (show decide _ = true from h)
  show _ < 2 ^ 32
  dsimp only
  omega

theorem Words.fcancel (u : Bool) (a : Nat) : Words.Statement (.fcancel u a) := by
  intro w h e
  cases e
  have := toNat_le_one u
  have h := of_decide_eq_true (p := _) (show decide _ = true from h)
  show _ < 2 ^ 32
  dsimp only
  omega

theorem Words.launch (u : Bool) (d : Nat) (a : Nat) (n : Nat) (repl : Bool) : Words.Statement (.launch u d a n repl) := by
  intro w h e
  cases e
  have := toNat_le_one u
  have := toNat_le_one repl
  have h := of_decide_eq_true (p := _) (show decide _ = true from h)
  show _ < 2 ^ 32
  dsimp only
  omega

theorem Words.zopen (u : Bool) (z : Nat) (a : Nat) : Words.Statement (.zopen u z a) := by
  intro w h e
  cases e
  have := toNat_le_one u
  have h := of_decide_eq_true (p := _) (show decide _ = true from h)
  show _ < 2 ^ 32
  dsimp only
  omega

theorem Words.zadv (u : Bool) (z : Nat) (i : Nat) : Words.Statement (.zadv u z i) := by
  intro w h e
  cases e
  have := toNat_le_one u
  have h := of_decide_eq_true (p := _) (show decide _ = true from h)
  show _ < 2 ^ 32
  dsimp only
  omega

theorem Words.zend (u : Bool) (c : Nat) (z : Nat) : Words.Statement (.zend u c z) := by
  intro w h e
  cases e
  have := toNat_le_one u
  have h := of_decide_eq_true (p := _) (show decide _ = true from h)
  show _ < 2 ^ 32
  dsimp only
  omega

theorem Words.zclose (u : Bool) (z : Nat) : Words.Statement (.zclose u z) := by
  intro w h e
  cases e
  have := toNat_le_one u
  have h := of_decide_eq_true (p := _) (show decide _ = true from h)
  show _ < 2 ^ 32
  dsimp only
  omega

theorem Words.zld (u : Bool) (d : Nat) (z : Nat) : Words.Statement (.zld u d z) := by
  intro w h e
  cases e
  have := toNat_le_one u
  have h := of_decide_eq_true (p := _) (show decide _ = true from h)
  show _ < 2 ^ 32
  dsimp only
  omega

theorem Words.zcrd (u : Bool) (d : Nat) (z : Nat) : Words.Statement (.zcrd u d z) := by
  intro w h e
  cases e
  have := toNat_le_one u
  have h := of_decide_eq_true (p := _) (show decide _ = true from h)
  show _ < 2 ^ 32
  dsimp only
  omega

theorem Words.evpop (u : Bool) (d : Nat) (w : Bool) : Words.Statement (.evpop u d w) := by
  intro w h e
  cases e
  have := toNat_le_one u
  have := toNat_le_one w
  have h := of_decide_eq_true (p := _) (show decide _ = true from h)
  show _ < 2 ^ 32
  dsimp only
  omega

theorem Words.evpeek (u : Bool) (d : Nat) : Words.Statement (.evpeek u d) := by
  intro w h e
  cases e
  have := toNat_le_one u
  have h := of_decide_eq_true (p := _) (show decide _ = true from h)
  show _ < 2 ^ 32
  dsimp only
  omega

theorem Words.qcfg (u : Bool) (d : Nat) (a : Nat) : Words.Statement (.qcfg u d a) := by
  intro w h e
  cases e
  have := toNat_le_one u
  have h := of_decide_eq_true (p := _) (show decide _ = true from h)
  show _ < 2 ^ 32
  dsimp only
  omega

theorem Words.br (c : Nat) (s : Bool) (o : Nat) : Words.Statement (.br c s o) := by
  intro w h e
  cases e
  have := toNat_le_one s
  have h := of_decide_eq_true (p := _) (show decide _ = true from h)
  show _ < 2 ^ 32
  dsimp only
  omega

theorem Words.jmp (o : Nat) : Words.Statement (.jmp o) := by
  intro w h e
  cases e
  have h := of_decide_eq_true (p := _) (show decide _ = true from h)
  show _ < 2 ^ 32
  dsimp only
  omega

theorem Words.jmpi (a : Nat) : Words.Statement (.jmpi a) := by
  intro w h e
  cases e
  have h := of_decide_eq_true (p := _) (show decide _ = true from h)
  show _ < 2 ^ 32
  dsimp only
  omega

theorem Words.call (o : Nat) : Words.Statement (.call o) := by
  intro w h e
  cases e
  have h := of_decide_eq_true (p := _) (show decide _ = true from h)
  show _ < 2 ^ 32
  dsimp only
  omega

theorem Words.calli (a : Nat) : Words.Statement (.calli a) := by
  intro w h e
  cases e
  have h := of_decide_eq_true (p := _) (show decide _ = true from h)
  show _ < 2 ^ 32
  dsimp only
  omega

theorem Words.ret : Words.Statement (.ret) := by
  intro w h e
  cases e
  show _ < 2 ^ 32
  dsimp only
  omega

theorem Words.exit : Words.Statement (.exit) := by
  intro w h e
  cases e
  show _ < 2 ^ 32
  dsimp only
  omega

theorem Words.bar (b : Nat) : Words.Statement (.bar b) := by
  intro w h e
  cases e
  have h := of_decide_eq_true (p := _) (show decide _ = true from h)
  show _ < 2 ^ 32
  dsimp only
  omega

theorem Words.bara (b : Nat) : Words.Statement (.bara b) := by
  intro w h e
  cases e
  have h := of_decide_eq_true (p := _) (show decide _ = true from h)
  show _ < 2 ^ 32
  dsimp only
  omega

theorem Words.barw (b : Nat) : Words.Statement (.barw b) := by
  intro w h e
  cases e
  have h := of_decide_eq_true (p := _) (show decide _ = true from h)
  show _ < 2 ^ 32
  dsimp only
  omega

theorem Words.racq (k : Nat) : Words.Statement (.racq k) := by
  intro w h e
  cases e
  have h := of_decide_eq_true (p := _) (show decide _ = true from h)
  show _ < 2 ^ 32
  dsimp only
  omega

theorem Words.rrel (k : Nat) : Words.Statement (.rrel k) := by
  intro w h e
  cases e
  have h := of_decide_eq_true (p := _) (show decide _ = true from h)
  show _ < 2 ^ 32
  dsimp only
  omega

theorem Words.pmark : Words.Statement (.pmark) := by
  intro w h e
  cases e
  show _ < 2 ^ 32
  dsimp only
  omega

theorem Words.sleep (i : Nat) : Words.Statement (.sleep i) := by
  intro w h e
  cases e
  have h := of_decide_eq_true (p := _) (show decide _ = true from h)
  show _ < 2 ^ 32
  dsimp only
  omega

theorem Words.trap (i : Nat) : Words.Statement (.trap i) := by
  intro w h e
  cases e
  have h := of_decide_eq_true (p := _) (show decide _ = true from h)
  show _ < 2 ^ 32
  dsimp only
  omega

theorem Words.bkpt (i : Nat) : Words.Statement (.bkpt i) := by
  intro w h e
  cases e
  have h := of_decide_eq_true (p := _) (show decide _ = true from h)
  show _ < 2 ^ 32
  dsimp only
  omega

theorem Words.nop : Words.Statement (.nop) := by
  intro w h e
  cases e
  show _ < 2 ^ 32
  dsimp only
  omega

theorem Words.cfgrd (d : Nat) (i : Nat) : Words.Statement (.cfgrd d i) := by
  intro w h e
  cases e
  have h := of_decide_eq_true (p := _) (show decide _ = true from h)
  show _ < 2 ^ 32
  dsimp only
  omega

theorem Words.cfgwr (d : Nat) (i : Nat) : Words.Statement (.cfgwr d i) := by
  intro w h e
  cases e
  have h := of_decide_eq_true (p := _) (show decide _ = true from h)
  show _ < 2 ^ 32
  dsimp only
  omega

theorem Words.eret : Words.Statement (.eret) := by
  intro w h e
  cases e
  show _ < 2 ^ 32
  dsimp only
  omega

theorem Words.gstat (d : Nat) (a : Nat) (m : Nat) : Words.Statement (.gstat d a m) := by
  intro w h e
  cases e
  have h := of_decide_eq_true (p := _) (show decide _ = true from h)
  show _ < 2 ^ 32
  dsimp only
  omega

theorem Words.gsave (a : Nat) (b : Nat) (m : Nat) : Words.Statement (.gsave a b m) := by
  intro w h e
  cases e
  have h := of_decide_eq_true (p := _) (show decide _ = true from h)
  show _ < 2 ^ 32
  dsimp only
  omega

theorem Words.gload (d : Nat) (a : Nat) (b : Nat) (m : Nat) : Words.Statement (.gload d a b m) := by
  intro w h e
  cases e
  have h := of_decide_eq_true (p := _) (show decide _ = true from h)
  show _ < 2 ^ 32
  dsimp only
  omega

theorem Words.gstop (a : Nat) (m : Nat) : Words.Statement (.gstop a m) := by
  intro w h e
  cases e
  have h := of_decide_eq_true (p := _) (show decide _ = true from h)
  show _ < 2 ^ 32
  dsimp only
  omega

theorem Words.gkill (a : Nat) (m : Nat) : Words.Statement (.gkill a m) := by
  intro w h e
  cases e
  have h := of_decide_eq_true (p := _) (show decide _ = true from h)
  show _ < 2 ^ 32
  dsimp only
  omega

theorem Words.registerWriteback (id : Nat) : Words.Statement (.registerWriteback id) := by
  intro w _ e
  nomatch e

theorem Words.accessReply (id : Nat) (code : Nat) (data : Nat) : Words.Statement (.accessReply id code data) := by
  intro w _ e
  nomatch e

theorem Words.storeAck (id : Nat) (code : Nat) : Words.Statement (.storeAck id code) := by
  intro w _ e
  nomatch e

theorem Words.matrixOpEnd (id : Nat) : Words.Statement (.matrixOpEnd id) := by
  intro w _ e
  nomatch e

theorem Words.tileCopyBatchDelivery (id : Nat) : Words.Statement (.tileCopyBatchDelivery id) := by
  intro w _ e
  nomatch e

theorem Words.futureWritten (id : Nat) : Words.Statement (.futureWritten id) := by
  intro w _ e
  nomatch e

theorem Words.monitorWakeup (id : Nat) : Words.Statement (.monitorWakeup id) := by
  intro w _ e
  nomatch e

theorem Words.waitcRecompare (core : Nat) (agent : Nat) : Words.Statement (.waitcRecompare core agent) := by
  intro w _ e
  nomatch e

theorem Words.mailboxDelivery (core : Nat) (mbox : Nat) : Words.Statement (.mailboxDelivery core mbox) := by
  intro w _ e
  nomatch e

theorem Words.racqGrant (core : Nat) : Words.Statement (.racqGrant core) := by
  intro w _ e
  nomatch e

theorem Words.sleepExpiry (core : Nat) (agent : Nat) : Words.Statement (.sleepExpiry core agent) := by
  intro w _ e
  nomatch e

theorem Words.batchClose (bindery : Nat) : Words.Statement (.batchClose bindery) := by
  intro w _ e
  nomatch e

theorem Words.triggerDispatch (slice : Nat) : Words.Statement (.triggerDispatch slice) := by
  intro w _ e
  nomatch e

theorem Words.triggerSpillReturn (vi : Nat) : Words.Statement (.triggerSpillReturn vi) := by
  intro w _ e
  nomatch e

theorem Words.launchDispatch (core : Nat) : Words.Statement (.launchDispatch core) := by
  intro w _ e
  nomatch e

theorem Words.overflowEntryReturn (core : Nat) (team : Nat) (queue : Nat) : Words.Statement (.overflowEntryReturn core team queue) := by
  intro w _ e
  nomatch e

theorem Words.launchQueueTailWrite (queue : Nat) (value : Nat) : Words.Statement (.launchQueueTailWrite queue value) := by
  intro w _ e
  nomatch e

theorem Words.launchPacketRead (queue : Nat) : Words.Statement (.launchPacketRead queue) := by
  intro w _ e
  nomatch e

theorem Words.launchWaitMet (queue : Nat) : Words.Statement (.launchWaitMet queue) := by
  intro w _ e
  nomatch e

theorem Words.launchReplicaArrival (gen : Nat) (rank : Nat) (accepted : Bool) (bits : Nat) (vi : Nat) (prio : Nat) (depth : Nat) (chips : Nat) : Words.Statement (.launchReplicaArrival gen rank accepted bits vi prio depth chips) := by
  intro w _ e
  nomatch e

theorem Words.startBarrierPass (gen : Nat) : Words.Statement (.startBarrierPass gen) := by
  intro w _ e
  nomatch e

theorem Words.remoteAccessArrival (rank : Nat) (vi : Nat) (handle : Nat) (off : Nat) (bytes : Nat) (kind : Nat) (ty : Nat) (data : Nat) (depth : Nat) : Words.Statement (.remoteAccessArrival rank vi handle off bytes kind ty data depth) := by
  intro w _ e
  nomatch e

theorem Words.remoteTimeout (id : Nat) : Words.Statement (.remoteTimeout id) := by
  intro w _ e
  nomatch e

theorem Words.replicationTimeout (gen : Nat) : Words.Statement (.replicationTimeout gen) := by
  intro w _ e
  nomatch e

theorem Words.replAbortWrite (gen : Nat) : Words.Statement (.replAbortWrite gen) := by
  intro w _ e
  nomatch e

theorem Words.sideLogReplay (core : Nat) : Words.Statement (.sideLogReplay core) := by
  intro w _ e
  nomatch e

theorem Words.sideLogFull (core : Nat) : Words.Statement (.sideLogFull core) := by
  intro w _ e
  nomatch e

theorem Words.pageInComplete (vi : Nat) (va : Nat) (ok : Bool) : Words.Statement (.pageInComplete vi va ok) := by
  intro w _ e
  nomatch e

theorem Words.migrationLineCopy (entry : Nat) : Words.Statement (.migrationLineCopy entry) := by
  intro w _ e
  nomatch e

theorem Words.migrationFailed (entry : Nat) : Words.Statement (.migrationFailed entry) := by
  intro w _ e
  nomatch e

theorem Words.accessBitSweep (tier : Nat) : Words.Statement (.accessBitSweep tier) := by
  intro w _ e
  nomatch e

theorem Words.binderyQuota (vi : Nat) (core : Nat) (team : Nat) : Words.Statement (.binderyQuota vi core team) := by
  intro w _ e
  nomatch e

theorem Words.thermalReading (core : Nat) (celsius : Nat) : Words.Statement (.thermalReading core celsius) := by
  intro w _ e
  nomatch e

theorem Words.droopEvent (core : Nat) : Words.Statement (.droopEvent core) := by
  intro w _ e
  nomatch e

theorem Words.droopHoldExpiry (core : Nat) : Words.Statement (.droopHoldExpiry core) := by
  intro w _ e
  nomatch e

theorem Words.idleSwap (core : Nat) (team : Nat) : Words.Statement (.idleSwap core team) := by
  intro w _ e
  nomatch e

theorem Words.watchdog (core : Nat) (team : Nat) : Words.Statement (.watchdog core team) := by
  intro w _ e
  nomatch e

theorem Words.gstopDrainComplete (core : Nat) : Words.Statement (.gstopDrainComplete core) := by
  intro w _ e
  nomatch e

theorem Words.ctRunWrite (core : Nat) (value : Nat) : Words.Statement (.ctRunWrite core value) := by
  intro w _ e
  nomatch e

theorem Words.swapOutWrite (core : Nat) (value : Nat) : Words.Statement (.swapOutWrite core value) := by
  intro w _ e
  nomatch e

theorem Words.viSyncWrite (vi : Nat) : Words.Statement (.viSyncWrite vi) := by
  intro w _ e
  nomatch e

theorem Words.viSyncComplete (vi : Nat) : Words.Statement (.viSyncComplete vi) := by
  intro w _ e
  nomatch e

theorem Words.ptInvalWrite (vi : Nat) (value : Nat) : Words.Statement (.ptInvalWrite vi value) := by
  intro w _ e
  nomatch e

theorem Words.ptInvalComplete (vi : Nat) : Words.Statement (.ptInvalComplete vi) := by
  intro w _ e
  nomatch e

theorem Words.pwrModeWrite (value : Nat) : Words.Statement (.pwrModeWrite value) := by
  intro w _ e
  nomatch e

theorem Words.fabRouteWrite (value : Nat) : Words.Statement (.fabRouteWrite value) := by
  intro w _ e
  nomatch e

theorem Words.trcCtlWrite (core : Nat) (value : Nat) : Words.Statement (.trcCtlWrite core value) := by
  intro w _ e
  nomatch e

theorem Words.dstopEnWrite (vi : Nat) (value : Nat) : Words.Statement (.dstopEnWrite vi value) := by
  intro w _ e
  nomatch e

theorem Words.dstopHit (core : Nat) (group : Nat) : Words.Statement (.dstopHit core group) := by
  intro w _ e
  nomatch e

theorem Words.counterReadClear (number : Nat) (core : Nat) (vi : Nat) : Words.Statement (.counterReadClear number core vi) := by
  intro w _ e
  nomatch e

theorem Words.configRegisterWrite (number : Nat) (core : Nat) (vi : Nat) (value : Nat) : Words.Statement (.configRegisterWrite number core vi value) := by
  intro w _ e
  nomatch e

theorem Words.apertureAccess (window : Nat) (off : Nat) (bytes : Nat) (kind : Nat) (ty : Nat) (data : Nat) : Words.Statement (.apertureAccess window off bytes kind ty data) := by
  intro w _ e
  nomatch e

theorem Words.gpPlainAccess (pa : Nat) (bytes : Nat) (write : Bool) (data : Nat) : Words.Statement (.gpPlainAccess pa bytes write data) := by
  intro w _ e
  nomatch e

theorem Words.flitCrcError (port : Nat) (ok : Bool) : Words.Statement (.flitCrcError port ok) := by
  intro w _ e
  nomatch e

theorem Words.linkDown (port : Nat) : Words.Statement (.linkDown port) := by
  intro w _ e
  nomatch e

theorem Words.hbmCrcError (channel : Nat) (ok : Bool) : Words.Statement (.hbmCrcError channel ok) := by
  intro w _ e
  nomatch e

theorem Words.hbmRetrainComplete (channel : Nat) (ok : Bool) : Words.Statement (.hbmRetrainComplete channel ok) := by
  intro w _ e
  nomatch e

theorem Words.cxlDeviceLost (port : Nat) (pa : Nat) (bytes : Nat) : Words.Statement (.cxlDeviceLost port pa bytes) := by
  intro w _ e
  nomatch e

theorem Words.attestationRequest (nonce : Nat) : Words.Statement (.attestationRequest nonce) := by
  intro w _ e
  nomatch e

theorem Words.deployCommand (signed : Bool) : Words.Statement (.deployCommand signed) := by
  intro w _ e
  nomatch e

theorem Words.rmaCommand (signed : Bool) : Words.Statement (.rmaCommand signed) := by
  intro w _ e
  nomatch e

theorem Words.bindComplete (core : Nat) (agent : Nat) : Words.Statement (.bindComplete core agent) := by
  intro w _ e
  nomatch e

theorem Words.cxlPortError (port : Nat) (status : Nat) : Words.Statement (.cxlPortError port status) := by
  intro w _ e
  nomatch e

theorem Words.tick : Words.Statement (.tick) := by
  intro w _ e
  nomatch e

theorem Words.updatePairArrival : Words.Statement (.updatePairArrival) := by
  intro w _ e
  nomatch e

theorem Words.teamPlacement : Words.Statement (.teamPlacement) := by
  intro w _ e
  nomatch e

theorem Words.packetDispatch : Words.Statement (.packetDispatch) := by
  intro w _ e
  nomatch e

theorem Words.rehomeEpoch : Words.Statement (.rehomeEpoch) := by
  intro w _ e
  nomatch e

theorem Words.quantumExpiry : Words.Statement (.quantumExpiry) := by
  intro w _ e
  nomatch e

theorem Words.samplePoint : Words.Statement (.samplePoint) := by
  intro w _ e
  nomatch e

theorem Words.deadlockScan : Words.Statement (.deadlockScan) := by
  intro w _ e
  nomatch e

theorem Words.partReset : Words.Statement (.partReset) := by
  intro w _ e
  nomatch e

theorem Words.provisionCommand : Words.Statement (.provisionCommand) := by
  intro w _ e
  nomatch e

theorem Words.decommissionCommand : Words.Statement (.decommissionCommand) := by
  intro w _ e
  nomatch e

end Sys2Proof.Laws
end

