-- ==== Sys2Proof/Laws/Store.lean ====
section
/-!
SUPPORT. Stores that nothing holds or stops: where each lane's bytes go, and all that the instruction changes.
-/
namespace Sys2Proof.Machine

/-- A core with bytes in AB; the granules `clear` lose their poison. -/
def Core.storeAb (clear : List Nat) (a : Nat) (bs : List Byte) (k : Core) : Core :=
  { k.abPut a bs with poisonAb := if k.poisonAb = [] then [] else k.poisonAb.filter (!clear.contains ·) }

/-- The state with bytes at a place: physical memory, or a core's AB, whose granules `clear` lose their poison. -/
def State.putAt (s : State) (clear : List Nat) (bs : List Byte) : Option Nat × Nat → State
  | (none, pa) => s.poke pa bs
  | (some c, a) => s.modCore c (Core.storeAb clear a bs)

theorem State.Calm.serveBowait {s : State} (h : s.Calm) (c : Nat) : s.serveBowait c = s := by
  unfold State.serveBowait
  refine foldl_fix fun o ho => ?_
  split
  · rename_i d home addr e
    exact absurd e (h.bowaits o ho d home addr)
  · rfl

theorem NMap.mem_put {α : Type} {m : NMap α} {k : Nat} {v : α} {x : Nat × α} (h : x ∈ NMap.put m k v) : x = (k, v) ∨ x ∈ m := by
  induction m with
  | nil => exact .inl (by simpa [NMap.put] using h)
  | cons y ys ih =>
    obtain ⟨j, w⟩ := y
    unfold NMap.put at h
    split_ifs at h with h1 h2
    · rcases List.mem_cons.mp h with h | h
      · exact .inl h
      · exact .inr h
    · rcases List.mem_cons.mp h with h | h
      · exact .inl h
      · exact .inr (List.mem_cons_of_mem _ h)
    · rcases List.mem_cons.mp h with h | h
      · exact .inr (h ▸ List.mem_cons_self)
      · rcases ih h with h | h
        · exact .inl h
        · exact .inr (List.mem_cons_of_mem _ h)

theorem State.Calm.modCore {s : State} (h : s.Calm) (c : Nat) (f : Core → Core) (hf : ∀ k, (f k).sideLog = k.sideLog) :
    (s.modCore c f).Calm := by
  refine ⟨h.1, h.2, ?_, h.4, h.5, h.6, h.7, h.8, h.9, h.10, h.11, h.12, h.13, h.14⟩
  intro k hk
  rcases NMap.mem_put hk with rfl | hk
  · rw [hf]
    exact h.sideLog c
  · exact h.logs k hk

theorem State.Calm.putAt {s : State} (h : s.Calm) (clear : List Nat) (bs : List Byte) (p : Option Nat × Nat) :
    (s.putAt clear bs p).Calm := by
  obtain ⟨_ | c, a⟩ := p
  · exact h.poke a bs
  · exact h.modCore c (Core.storeAb clear a bs) fun _ => rfl

/-- One lane's store, to memory that nothing stands before, or to AB. -/
theorem State.Calm.storeLane {s : State} (h : s.Calm) {hd id : Nat} {clear : List Nat} {o : Nat × Nat} {bs : List Byte}
    {p : Option Nat × Nat} (hp : s.StoreAt hd o bs.length p) : s.storeLane hd id clear o bs = (s.putAt clear bs p, .done) := by
  obtain ⟨_ | c, a⟩ := p
  · obtain ⟨h12, r, hr, href⟩ := hp
    unfold State.storeLane
    rw [if_neg (by omega), hr]
    exact h.storeAt _ _ _ _ _ _ href
  · obtain ⟨rfl, hab, hcl⟩ := hp
    unfold State.storeLane
    rw [if_pos rfl, hab]
    simp only [hcl]
    show ((s.modCore c (Core.storeAb clear a bs)).serveBowait c, Put.done) = _
    rw [(h.modCore c (Core.storeAb clear a bs) fun _ => rfl).serveBowait]
    rfl

/-- All lanes' stores. -/
theorem State.Calm.storeLanes {s : State} (h : s.Calm) {hd id : Nat} {clear : List Nat} {data : Nat → List Byte} {os : List (Nat × Nat)}
    {ps : List (Option Nat × Nat)} (hp : s.StoresTo hd id clear data os ps) :
    s.storeLanes hd id clear data [] os =
      ((os.zip ps).foldl (fun t q => t.putAt clear (data q.1.1) q.2) s, os.map fun o => (o.1, .done)) := by
  induction os generalizing s ps with
  | nil => cases ps <;> [rfl; exact False.elim hp]
  | cons o os ih =>
    cases ps with
    | nil => exact False.elim hp
    | cons p ps =>
      obtain ⟨h1, h2⟩ := hp
      have e := h.storeLane (id := id) (clear := clear) h1
      rw [e] at h2
      unfold State.storeLanes
      simp only [List.find?_nil]
      rw [e]
      simp only [ih (h.putAt clear (data o.1) p) h2]
      rfl

/-- What bytes at places leave alone. -/
theorem State.putAt_rest (s : State) (clear : List Nat) (bs : List Byte) (p : Option Nat × Nat) :
    (s.putAt clear bs p).issue = s.issue ∧ (s.putAt clear bs p).ops = s.ops ∧ (s.putAt clear bs p).opSeq = s.opSeq ∧
      (s.putAt clear bs p).cfg = s.cfg ∧ (∀ d a, (s.putAt clear bs p).group? d a = s.group? d a) ∧
      ∀ d t, (s.putAt clear bs p).team? d t = s.team? d t := by
  obtain ⟨_ | c, a⟩ := p
  · exact ⟨rfl, rfl, rfl, rfl, fun _ _ => rfl, fun _ _ => rfl⟩
  · refine ⟨rfl, rfl, rfl, rfl, fun d b => State.group?_modCore s c (Core.storeAb clear a bs) (fun _ => rfl) (fun _ => rfl) d b, fun d t => ?_⟩
    unfold State.putAt State.team?
    by_cases e : d = c
    · subst e
      rw [State.core_modCore_self]
      rfl
    · rw [State.core_modCore_ne _ _ e]

theorem State.putAts_rest (s : State) (clear : List Nat) (data : Nat → List Byte) (qs : List ((Nat × Nat) × Option Nat × Nat)) :
    let t := qs.foldl (fun t q => t.putAt clear (data q.1.1) q.2) s
    t.issue = s.issue ∧ t.ops = s.ops ∧ t.opSeq = s.opSeq ∧ t.cfg = s.cfg ∧ (∀ d a, t.group? d a = s.group? d a) ∧
      ∀ d m, t.team? d m = s.team? d m := by
  induction qs generalizing s with
  | nil => exact ⟨rfl, rfl, rfl, rfl, fun _ _ => rfl, fun _ _ => rfl⟩
  | cons q qs ih =>
    obtain ⟨a1, a2, a3, a4, a5, a6⟩ := ih (s.putAt clear (data q.1.1) q.2)
    obtain ⟨b1, b2, b3, b4, b5, b6⟩ := s.putAt_rest clear (data q.1.1) q.2
    exact ⟨a1.trans b1, a2.trans b2, a3.trans b3, a4.trans b4, fun d a => (a5 d a).trans (b5 d a), fun d m => (a6 d m).trans (b6 d m)⟩

theorem State.putAts_mem (s : State) (clear : List Nat) (data : Nat → List Byte) (qs : List ((Nat × Nat) × Option Nat × Nat)) :
    (qs.foldl (fun t q => t.putAt clear (data q.1.1) q.2) s).mem = storedIn none data s.mem qs := by
  induction qs generalizing s with
  | nil => rfl
  | cons q qs ih =>
    rw [List.foldl_cons, ih]
    obtain ⟨o, _ | c, a⟩ := q <;> rfl

theorem State.putAts_ab (s : State) (clear : List Nat) (data : Nat → List Byte) (qs : List ((Nat × Nat) × Option Nat × Nat)) (c : Nat) :
    ((qs.foldl (fun t q => t.putAt clear (data q.1.1) q.2) s).core c).ab = storedIn (some c) data (s.core c).ab qs := by
  induction qs generalizing s with
  | nil => rfl
  | cons q qs ih =>
    rw [List.foldl_cons, ih]
    obtain ⟨o, _ | d, a⟩ := q
    · rfl
    · unfold storedIn
      rw [List.foldl_cons]
      congr 1
      simp only [State.putAt, Option.some.injEq]
      by_cases e : d = c
      · subst e
        rw [State.core_modCore_self, if_pos rfl]
        rfl
      · rw [State.core_modCore_ne _ _ (Ne.symm e), if_neg e]

/-- Bytes outside the places keep their values. -/
theorem storedIn_outside (space : Option Nat) (data : Nat → List Byte) (m : Mem 8) (qs : List ((Nat × Nat) × Option Nat × Nat)) (x : Nat)
    (hx : ∀ q ∈ qs, q.2.1 = space → x < q.2.2 ∨ q.2.2 + (data q.1.1).length ≤ x) : Mem.get (storedIn space data m qs) x = Mem.get m x := by
  induction qs generalizing m with
  | nil => rfl
  | cons q qs ih =>
    unfold storedIn at ih ⊢
    rw [List.foldl_cons, ih _ fun y hy => hx y (List.mem_cons_of_mem _ hy)]
    split
    · rename_i e
      exact Mem.get_setBytes_outside _ _ _ _ (hx q List.mem_cons_self e)
    · rfl

/-! The end of a store. -/

theorem putEnds_done (ls : List Nat) : putEnds (ls.map fun l => (l, Put.done)) = ls.map (·, .go) := by
  simp [putEnds]

theorem placed_done (ls : List Nat) : placed (ls.map fun l => (l, Put.done)) = ls := by
  induction ls with
  | nil => rfl
  | cons l ls ih => simpa [placed] using ih

theorem State.forLanes_done {s t : State} (ht : t.issue = s.issue) (hl : s.issue.lanes ≠ []) (u : Bool) (a i z : Nat) :
    t.forLanes u ((s.offsets u a i z).map fun o => (o.1, Put.done)) = s.issue.lanes.map fun l => (l, Put.done) := by
  unfold State.forLanes State.offsets State.addrLanes
  cases u
  · simp
  · obtain ⟨x, xs, hx⟩ := List.exists_cons_of_ne_nil hl
    simp [hx, ht]

/-- A settled issue of an untraced group changes nothing but that group. -/
theorem State.settle_untraced {s : State} (h : s.Untraced) (ls : List Nat) (e : LaneEnd) :
    s.settle (ls.map (·, e)) = s.modMe fun g => (s.countGroup g).modLanes ls (s.endLane e) := by
  rw [State.settle_const]
  unfold State.countIssue State.countGroup
  split
  · rw [State.traceIssue_untraced h, State.modMe_modMe]
  · rfl

/-- A store whose lanes go to places: AB and memory hold the bytes, no register of the group changes, and SETB's flag tracks it. -/
theorem storeOp_now {s : State} {u : Bool} {a h i n : Nat} {regs : List Nat} {ps : List (Option Nat × Nat)}
    (hf : s.AccessFree u (a :: regs) []) (hc : s.Calm) (ht : s.Untraced)
    (h1 : s.accessFault h n 0 [.write] true (s.offsets u a i n) = none)
    (h2 : s.remoteRank h (((s.offsets u a i n).map (·.2)).headD 0) = none) :
    let data := fun l => leBytes (s.me.words l (regs.headD 0) regs.length) n
    let clear := if h < 12 then s.storeClears h n (s.offsets u a i n) else s.abClears n (s.offsets u a i n)
    s.StoresTo h s.opSeq clear data (s.offsets u a i n) ps →
    ∃ t, storeOp u a h i n regs s = .next t ∧ s.AllPassed t ∧
      t.mem = storedIn none data s.mem ((s.offsets u a i n).zip ps) ∧
      (∀ c, (t.core c).ab = storedIn (some c) data (s.core c).ab ((s.offsets u a i n).zip ps)) ∧
      (∀ l r, t.me.reg l r = s.me.reg l r) ∧ ∀ k, s.setB = some k → t.flagSet s.issue.core s.issue.agent k = true := by
  intro data clear hp
  have hm := hf.1.1.1
  have hne : s.issue.lanes ≠ [] := hf.1.1.2
  let qs := (s.offsets u a i n).zip ps
  let t0 := qs.foldl (fun t q => t.putAt clear (data q.1.1) q.2) s
  obtain ⟨r1, r2, r3, r4, r5, r6⟩ := s.putAts_rest clear data qs
  have hc0 : t0.Calm := by
    have : ∀ (qs : List ((Nat × Nat) × Option Nat × Nat)) (x : State), x.Calm →
        (qs.foldl (fun t q => t.putAt clear (data q.1.1) q.2) x).Calm := by
      intro qs
      induction qs with
      | nil => intro x hx; exact hx
      | cons q qs ih => intro x hx; exact ih _ (hx.putAt _ _ _)
    exact this qs s hc
  have hme0 : t0.me = s.me := by
    show (t0.group? t0.issue.core t0.issue.agent).getD _ = _
    rw [r1, r5]
    rfl
  let t1 := t0.addOpDue s.issue.lanes .store s.setB none (.storeAck · 0)
  have hm1 : t1.me?.isSome = true := by
    show (t0.group? t0.issue.core t0.issue.agent).isSome = true
    rw [r1, r5]
    exact hm
  have hme1 : t1.me = s.me := hme0
  have hi1 : t1.issue = s.issue := r1
  have hu1 : t1.Untraced := by
    unfold State.Untraced State.isCt State.myVi State.myTeam? State.cfgGet at ht ⊢
    rw [hi1, hme1, show t1.cfg = s.cfg from r4]
    rcases ht with ht | ht
    · exact .inl ht
    · refine .inr ?_
      have : ∀ d m, t1.team? d m = s.team? d m := r6
      simp only [this]
      exact ht
  have hset : t0.setB = s.setB := by
    unfold State.setB State.issueHeader
    rw [r1]
  have e : storeOp u a h i n regs s = finish (t1.settle (s.issue.lanes.map (·, .go))) := by
    unfold storeOp
    rw [accessWith_free hf]
    simp only [h1, h2]
    have hs := hc.storeLanes hp
    simp only [data, clear] at hs
    rw [hs]
    dsimp only
    rw [State.forLanes_done (s := s) r1 hne]
    unfold State.putEnd
    simp only [placed_done, if_neg hne, putEnds_done]
    rw [if_neg (by simp)]
    show finish (State.settle (State.addOpDue t0 s.issue.lanes .store t0.setB none _) _) = _
    rw [hset]
  have hb : (t1.settle (s.issue.lanes.map (·, .go))).badPa = none := by
    have : t1.badPa = none := hc0.badPa
    unfold State.settle
    simp [this]
  refine ⟨t1.settle (s.issue.lanes.map (·, .go)), by rw [e]; unfold finish; rw [hb],
    State.settle_passed hi1 (by rw [hme1]) hm1 .go (by simp), ?_, ?_, ?_, ?_⟩
  · rw [State.settle_untraced hu1]
    exact s.putAts_mem clear data qs
  · intro c
    rw [State.settle_untraced hu1]
    have := (t1.modMe_onlyGroup fun g => (t1.countGroup g).modLanes s.issue.lanes (t1.endLane .go)).2.1 c
    have h3 := congrArg Core.ab this
    exact h3.trans (s.putAts_ab clear data qs c)
  · intro l r
    rw [State.settle_reg hm1, hme1]
  · intro k hk
    have ho : (t1.settle (s.issue.lanes.map (·, .go))).ops = t1.ops := by
      unfold State.settle
      simp
    unfold State.flagSet State.opsOf
    rw [ho, Bool.or_eq_true, List.any_eq_true]
    left
    refine ⟨⟨t0.opSeq, s.issue.core, s.issue.agent, s.issue.lanes, .store, some k, none, t0.clk, false, t0.issue.pc, t0.issueRwc,
      t0.opTeam⟩, ?_, by simp⟩
    rw [List.mem_filter]
    refine ⟨?_, by simp⟩
    show _ ∈ t0.ops ++ [_]
    rw [← hk, r1]
    exact List.mem_append_right _ List.mem_cons_self

end Sys2Proof.Machine
end

