-- ==== Sys2Proof/Tests/Slice0.lean ====
section
/-!
SUPPORT. Tests: words of the spec's encodings, ill-formed instructions, one witness for each statement of Obligations.lean that has hypotheses, and a few
single steps of the spec's worked examples.
-/
open Sys2Proof Sys2Proof.Machine

namespace Sys2Proof.Tests

set_option Elab.async false

/-! Small states. -/

/-- A buffer-table entry of 4,096 bytes at `base` with every right, of generation and owner 0, and more bits. -/
def entry (base more : Nat) : Nat := base + 4095 * 2 ^ 64 + 2 ^ 127 + 31 * 2 ^ 128 + more

/-- A clause header of class `c` with four words. -/
def header (c : Cls) : Nat := headerWord c 4

/-- A group of 32 lanes that stand at offset 4 of a clause at 0; slot 3 holds handle 1 and slot 4 handle 2. -/
def group (c : Cls) : Group :=
  { placedGroup with
    lanes := List.replicate 32 { Lane.start 4 with clause := some ⟨0, header c⟩ }, slots := [(3, 1), (4, 2)] }

/-- Core 0 with one group of one team, which issues for `ls`; buffers 1 and 2, the second watched and a binding region, at 0x1000 and 0x2000; code in buffer 1. -/
def base (c : Cls) (ls : List Nat) : State :=
  let s := (((State.reset.cfgPut Config.nBtSize 0 3).cfgPut Config.nHeapLimit 0 1).poke 32 (leBytes (entry 0x1000 0) 32)).poke 64
    (leBytes (entry 0x2000 (2 ^ 133 + 2 ^ 134)) 32)
  ({ s.modCore 0 fun k => { k with groups := [(0, group c)], teams := [(0, placedTeam)] } with
    issue := ⟨0, .grp 0, ls, 4, ⟨0, header c⟩, 0, 0, 0⟩ } : State).poke 0x1000 (leBytes (header c) 4)

/-- The same for the control thread. -/
def ctBase : State :=
  let s := ((State.reset.cfgPut Config.nCtBtSize 0 3).poke 32 (leBytes (entry 0x1000 0) 32)).cfgPut Config.nCtRun 0 1
  { s.modCore 0 fun k =>
      { k with ct := { k.ct with lanes := [{ Lane.start 4 with clause := some ⟨0, header .ctl⟩ }], slots := [(0, 1)] },
               groups := [(0, group .ctl)], teams := [(0, placedTeam)] } with
    issue := ⟨0, .ct, [0], 4, ⟨0, header .ctl⟩, 0, 0, 0⟩ }

/-- Register `r` of lane `l` set. -/
def put (s : State) (l r : Nat) (v : Word) : State := s.modMe (·.setReg l r v)

/-- A launch record of one group of `n` blocks (Table Sc-1). -/
def recordOf (n : Nat) : Nat := n * 2 ^ 226

/-! What those states satisfy. -/

/-- Eight blocks, no pending future, no poison: any registers are free. -/
def Plain (s : State) : Prop :=
  s.Issuing ∧ s.me.blocks = 8 ∧ s.me.pend = [] ∧ s.me.poison = [] ∧ ∀ l ∈ s.issue.lanes, (s.me.lane l).flushing = []

theorem free_of {s : State} (h : Plain s) (u : Bool) (reads writes : List Nat) (hr : ∀ r ∈ reads ++ writes, r < 128) :
    s.Free u reads writes := by
  obtain ⟨h1, h2, h3, h4, -⟩ := h
  refine ⟨h1, fun r hm => ⟨by have := hr r hm; omega, hr r hm⟩, ?_, ?_⟩
  · unfold State.futureLanes
    simp [h3]
  · unfold State.poisonRead
    simp [h4]

theorem accessFree_of {s : State} (h : Plain s) (u : Bool) (reads writes : List Nat) (hr : ∀ r ∈ reads ++ writes, r < 128) :
    s.AccessFree u reads writes := by
  refine ⟨free_of h u reads writes hr, ?_⟩
  unfold State.flushLanes
  have : (s.issue.lanes.filter fun l => (s.me.lane l).flushing.any fun id => (s.op? id).isSome) = [] := by
    rw [List.filter_eq_nil_iff]
    intro l hl
    simp [h.2.2.2.2 l hl]
  simp [this]

theorem fpFree_of {s : State} (h : Plain s) (hv : s.vtrap = false) (he : s.fpEnables = 0) (u : Bool) (reads writes operands : List Nat)
    (flags : Nat → FpFlags) (hr : ∀ r ∈ reads ++ writes, r < 128) : s.FpFree u reads writes operands flags :=
  ⟨free_of h u reads writes hr, fun ht => absurd ht (by simp [hv]), fun l _ => by simp [he]⟩

theorem calm_of {s : State} (h : s.claims = [] ∧ s.hbmDown = [] ∧ s.pairs = [] ∧ s.poison = [] ∧ s.latentUe = [] ∧ s.latentCe = [] ∧
    s.cxlLost = [] ∧ s.watches = [] ∧ s.ops = [] ∧ s.lq = [] ∧ s.swapped = [] ∧ s.badPa = none)
    (hl : ∀ k ∈ s.cores, k.2.sideLog = []) : s.Calm := by
  obtain ⟨h1, h2, h3, h4, h5, h6, h7, h8, h9, h10, h11, h12⟩ := h
  exact ⟨h1, h2, hl, h3, h4, h5, h6, h7, by simp [h8], by simp [h9], by simp [h10], by simp [h11], by simp [h9], h12⟩

/-- The usual state: lanes 3 and 31 of a group issue. -/
def w : State := base .alu [3, 31]

theorem plain_w : Plain w := by unfold Plain State.Issuing; decide +kernel

theorem calm_w : w.Calm := calm_of (by decide +kernel) (by decide +kernel)

theorem fp_w : w.vtrap = false ∧ w.fpEnables = 0 := by decide +kernel

/-! Encodings. -/

/-- Each of some words of class `c` decodes to the instruction beside it. -/
def reads (c : Cls) (ws : List (Nat × Instr)) : Bool := ws.all fun w => decide (decode c true w.1 = .ok w.2)

theorem test_decode_alu_1 : reads .alu [
    (0x861454, .iadd true 6 10 21), (0x1861454, .isub true 6 10 21), (0x2861405, .iaddi true 6 10 5),
    (0x3861454, .imul true 6 10 21), (0x4861455, .imulh true 6 10 21 1), (0x5861456, .imad true 6 10 21 2),
    (0x6861455, .imin true 6 10 21 1), (0x7861455, .imax true 6 10 21 1), (0x8861401, .iabs true 6 10 1),
    (0x9861457, .iadds true 6 10 21 3), (0xA861458, .iadd64 true 6 10 22), (0xB861458, .isub64 true 6 10 22),
    (0xC861457, .ixadd true 6 10 21 3), (0x10861454, .and true 6 10 21), (0x11861454, .or true 6 10 21),
    (0x12861454, .xor true 6 10 21), (0x13861454, .andn true 6 10 21), (0x14861405, .andi true 6 10 5),
    (0x15861405, .ori true 6 10 5), (0x16861405, .xori true 6 10 5), (0x18861454, .shl true 6 10 21),
    (0x19861454, .shr true 6 10 21), (0x1A861454, .sar true 6 10 21), (0x1B861405, .shli true 6 10 5),
    (0x1C861405, .shri true 6 10 5), (0x1D861405, .sari true 6 10 5), (0x20861400, .popc true 6 10)] = true := by decide +kernel

theorem test_decode_alu_2 : reads .alu [
    (0x1D861405, .sari true 6 10 5), (0x20861400, .popc true 6 10), (0x21861400, .clz true 6 10),
    (0x22861400, .brev true 6 10), (0x4C0823861400, .bfe true 6 10 0 0 8 12 true), (0x24861455, .bfi true 6 10 21 1 0 0),
    (0x28861401, .mov true 6 10 1), (0x2986812C, .li true 6 1 300), (0x123456782A860000, .lix true 6 0 0 305419896),
    (0xD2B861454, .sel true 6 10 21 0 5 true), (0x2C86000C, .movs true 6 12), (0x2D86000E, .movsw true 6 14),
    (0x30D21455, .icmp true 5 2 10 21 1), (0x32D90618, .clog true 5 9 3 6), (0x40861456, .fadd true 6 10 21 2),
    (0x41861457, .fsub true 6 10 21 3), (0x42861455, .fmul true 6 10 21 1), (0x43861457, .ffma true 6 10 21 3),
    (0x45861455, .fmin true 6 10 21 1), (0x46861455, .fmax true 6 10 21 1), (0x47D61455, .fcmp true 5 6 10 21 1),
    (0x48861402, .frcp true 6 10 2), (0x49861400, .frsq true 6 10), (0x4A861403, .fsqrt true 6 10 3),
    (0x4B861400, .fexp2 true 6 10), (0x4C861400, .flog2 true 6 10), (0x4D861400, .fsin true 6 10)] = true := by decide +kernel

theorem test_decode_alu_3 : reads .alu [
    (0x4C861400, .flog2 true 6 10), (0x4D861400, .fsin true 6 10), (0x4E861400, .fcos true 6 10),
    (0x4F861400, .ftanh true 6 10), (0x50861403, .frnd true 6 10 3), (0x51861456, .fcps true 6 10 21 2),
    (0x58861455, .hadd2 true 6 10 21 true), (0x59861455, .hmul2 true 6 10 21 true), (0x5A861455, .hfma2 true 6 10 21 true),
    (0x5B861455, .hmin2 true 6 10 21 true), (0x5C861455, .hmax2 true 6 10 21 true), (0x5D861455, .hdot2 true 6 10 21 true),
    (0x3A01080861400, .cvt true 6 10 0 1 5 true 1), (0x2A0A081940878, .cvtq true 20 4 30 0 10 5 false 1 false false false 0), (0xA8A00382A80878, .cvtd true 40 4 30 3 0 5 true false true 2),
    (0xB0A00083861454, .bscl true 6 10 21 5 true true 2), (0xC400184A80800, .hadm true 40 4 1 2 true true), (0x88861400, .vclass true 6 10),
    (0x89861401, .vzero true 6 10 1), (0x8A861454, .vfill true 6 10 21), (0xA0061457, .shfl 6 10 21 3),
    (0xA1060602, .vote 6 3 2), (0xA2061403, .prfx 6 10 3), (0xA3061420, .rduc 6 10 8)] = true := by decide +kernel

theorem test_decode_mem_1 : reads .mem [
    (0x861465, .ldb true 6 10 3 5), (0x1861465, .ldbs true 6 10 3 5), (0x2861465, .ldh true 6 10 3 5),
    (0x3861465, .ldhs true 6 10 3 5), (0x4861465, .ldw true 6 10 3 5), (0x5861465, .ldd true 6 10 3 5),
    (0x6881465, .ldq true 8 10 3 5), (0x8861465, .stb true 6 10 3 5), (0x9861465, .sth true 6 10 3 5),
    (0xA861465, .stw true 6 10 3 5), (0xB861465, .std true 6 10 3 5), (0xC8C1465, .stq true 12 10 3 5),
    (0xE801465, .pfch true 10 3 5), (0x2402120801465, .aadd 0 10 3 5 33 true 4), (0x802121861465, .ainc 6 10 3 5 33 false 1),
    (0x800022861465, .adec 6 10 3 5 false 1), (0x1002223861465, .amin 6 10 3 5 34 false 2), (0x802124861465, .amax 6 10 3 5 33 false 1),
    (0x802125861465, .aand 6 10 3 5 33 false 1), (0x802126861465, .aor 6 10 3 5 33 false 1), (0x802127861465, .axor 6 10 3 5 33 false 1),
    (0x802128861465, .aswp 6 10 3 5 33 false 1), (0x962129861465, .acas 6 10 3 5 33 44 false 1), (0x30861465, .upd true 6 10 3 5),
    (0x31861465, .updd true 6 10 3 5), (0x32800000, .uflush true), (0x33801465, .uapply true 10 3 5)] = true := by decide +kernel

theorem test_decode_mem_2 : reads .mem [
    (0x32800000, .uflush true), (0x33801465, .uapply true 10 3 5), (0xA2C40861465, .waitc true 6 10 3 5 44 4 1),
    (0x41800002, .fence true 2), (0x542861454, .mbsend true 6 10 21 5), (0x43860014, .mbrecv true 6 5),
    (0x44A81414, .mbpoll true 40 10 5), (0x48861585, .boinit true 6 10 12 5), (0x49861585, .boarr true 6 10 12 5),
    (0x4A861585, .bowait true 6 10 12 5), (0x4B861585, .botst true 6 10 12 5), (0x150861465, .watch true 6 10 3 5 true),
    (0x51861465, .wdrop true 6 10 3 5), (0x52861465, .wresume true 6 10 3 5), (0x53861465, .wstat true 6 10 3 5),
    (0x11354800060, .bind true 3 19 true), (0x55800060, .unbind true 3), (0x60801404, .hset true 10 4),
    (0x61860004, .hget true 6 4), (0x62860004, .hlen true 6 4)] = true := by decide +kernel

theorem test_decode_mtx_1 : reads .mtx [
    (0x50A41984000A2A1E, .mma 10 21 7 2 0 true 48 6 41 40), (0x50A41984010A2A1E, .mmav 10 21 7 2 0 true 48 6 41 40), (0x8032800, .orset 3 20),
    (0x9140600, .orget 20 3), (0x10011EC8, .accz 1 15 200), (0xE8210411060000, .accrd 6 4 33 16 7),
    (0xE8210412060000, .accwr 6 4 33 16 7), (0x18021480, .mthr 2 10 32 0), (0x190C0455, .mvst 12 2 21 1),
    (0x1A0E0014, .mstat 14 5), (0x20000001, .msync 1)] = true := by decide +kernel

theorem test_decode_eng_1 : reads .eng [
    (0x861403, .tload true 6 10 3), (0x1861403, .tstore true 6 10 3), (0x2861403, .tgath true 6 10 3),
    (0x3861403, .tscat true 6 10 3), (0x4861403, .tcast true 6 10 3), (0x5861403, .tfill true 6 10 3),
    (0x10801400, .fwait true 10 0), (0x11861400, .ftest true 6 10), (0x12801400, .fcancel true 10),
    (0x18861502, .launch true 6 10 2 true), (0x20861400, .zopen true 6 10), (0x2186012C, .zadv true 6 300),
    (0x22850006, .zend true 5 6), (0x23860000, .zclose true 6), (0x24860006, .zld true 6 6),
    (0x25860006, .zcrd true 6 6), (0x30900001, .evpop true 16 true), (0x31900000, .evpeek true 16),
    (0x38861400, .qcfg true 6 10)] = true := by decide +kernel

theorem test_decode_ctl_1 : reads .ctl [
    (0x2FFFFD, .br 2 true 524285), (0x100004D, .jmp 77), (0x2001400, .jmpi 10),
    (0x3000028, .call 40), (0x4001400, .calli 10), (0x5000000, .ret),
    (0x6000000, .exit), (0x8000003, .bar 3), (0x9000003, .bara 3),
    (0xA000003, .barw 3), (0x10000004, .racq 4), (0x11000004, .rrel 4),
    (0x12000000, .pmark), (0x1300012C, .sleep 300), (0x1800012C, .trap 300),
    (0x190001FF, .bkpt 511), (0x1A000000, .nop), (0x20060010, .cfgrd 6 16),
    (0x2106011B, .cfgwr 6 283), (0x22000000, .eret), (0x23061401, .gstat 6 10 1),
    (0x24001455, .gsave 10 21 1), (0x25060055, .gload 6 0 21 1), (0x26001403, .gstop 10 3),
    (0x27001401, .gkill 10 1)] = true := by decide +kernel

/-! An ill-formed instruction for each check, and one out of range for each constructor. -/

/-- No instruction of a list is well formed. -/
def refusedAll (is : List Instr) : Bool := is.all fun i => !i.wellFormed

theorem test_illFormed_1 : refusedAll [
    .imulh true 6 10 21 2, .imad true 6 10 21 3, .imad true 1 10 21 2, .imin true 6 10 21 2,
    .imax true 6 10 21 2, .iabs true 6 10 2, .iadd64 true 1 10 22, .iadd64 true 6 1 22,
    .iadd64 true 6 10 1, .isub64 true 1 10 22, .isub64 true 6 1 22, .isub64 true 6 10 1,
    .bfe true 6 10 0 2 8 12 true, .bfe true 6 10 1 0 8 12 true, .bfe true 6 10 0 0 33 12 true, .bfe true 6 10 0 0 8 33 true,
    .bfi true 6 10 0 2 0 0, .bfi true 6 10 21 0 0 0, .bfi true 6 10 21 1 1 0, .bfi true 6 10 21 1 0 1,
    .mov true 6 10 2, .mov true 1 10 1, .mov true 6 1 1, .lix true 6 0 1 305419896,
    .lix true 1 1 0 305419896, .sel true 6 10 21 2 5 true, .sel true 6 10 21 1 5 true, .movs true 6 14,
    .movsw true 1 14, .movsw true 6 0, .icmp true 5 6 10 21 1, .icmp true 5 2 10 21 2,
    .fmin true 6 10 21 2, .fmax true 6 10 21 2, .fcmp true 5 8 10 21 1, .fcmp true 5 6 10 21 2,
    .fcps true 6 10 21 3, .cvt true 6 10 10 1 5 true 1, .cvt true 6 10 0 1 6 true 1, .cvt true 6 10 0 5 5 true 1,
    .cvt true 6 10 0 1 5 true 3, .cvt true 6 127 0 1 5 true 1, .cvtq true 20 4 30 3 10 5 false 1 false false false 0, .cvtq true 20 4 30 0 0 5 false 0 false false false 0,
    .cvtq true 20 4 30 0 10 6 false 1 false false false 0, .cvtq true 20 4 30 0 10 5 true 1 false false false 0, .cvtq true 20 4 30 0 3 5 false 1 false false false 0, .cvtq true 20 113 30 0 10 5 false 1 false false false 0,
    .cvtq true 127 4 30 0 10 5 false 1 false false false 0, .cvtd true 40 4 30 0 0 5 true false true 2, .cvtd true 40 4 30 3 3 5 true false true 2, .cvtd true 40 4 30 3 0 6 true false true 2,
    .cvtd true 40 4 30 3 0 5 true false false 2, .cvtd true 40 121 30 3 0 5 true false true 2, .cvtd true 113 4 30 3 0 5 true false true 2, .bscl true 6 10 21 6 true true 2,
    .hadm true 40 4 3 2 true true, .hadm true 40 4 1 6 true true, .hadm true 40 113 1 2 true true, .hadm true 113 4 1 2 true true] = true := by decide +kernel

theorem test_illFormed_2 : refusedAll [
    .vzero true 6 10 2, .rduc 6 10 11, .ldb true 6 10 14 5, .ldbs true 6 10 14 5,
    .ldh true 6 10 14 5, .ldhs true 6 10 14 5, .ldw true 6 10 14 5, .ldd true 6 10 14 5,
    .ldd true 1 10 3 5, .ldq true 8 10 14 5, .ldq true 1 10 3 5, .stb true 6 10 13 5,
    .sth true 6 10 13 5, .stw true 6 10 13 5, .std true 6 10 13 5, .std true 1 10 3 5,
    .stq true 12 10 13 5, .stq true 1 10 3 5, .pfch true 10 12 5, .aadd 0 10 13 5 33 true 4,
    .aadd 0 10 3 5 33 true 5, .aadd 1 10 3 5 33 true 4, .aadd 0 10 3 5 33 true 2, .ainc 6 10 13 5 33 false 1,
    .ainc 6 10 3 5 33 false 0, .ainc 6 10 3 5 33 true 1, .ainc 6 10 3 5 33 false 3, .adec 6 10 13 5 false 1,
    .adec 6 10 3 5 false 0, .adec 6 10 3 5 true 1, .amin 6 10 13 5 34 false 2, .amin 6 10 3 5 34 false 5,
    .amin 1 10 3 5 34 false 2, .amin 6 10 3 5 1 false 2, .amax 6 10 13 5 33 false 1, .amax 6 10 3 5 33 false 5,
    .amax 6 10 3 5 33 true 1, .amax 6 10 3 5 33 false 2, .aand 6 10 13 5 33 false 1, .aand 6 10 3 5 33 false 0,
    .aand 6 10 3 5 33 true 1, .aand 6 10 3 5 33 false 3, .aor 6 10 13 5 33 false 1, .aor 6 10 3 5 33 false 0,
    .aor 6 10 3 5 33 true 1, .aor 6 10 3 5 33 false 3, .axor 6 10 13 5 33 false 1, .axor 6 10 3 5 33 false 0,
    .axor 6 10 3 5 33 true 1, .axor 6 10 3 5 33 false 3, .aswp 6 10 13 5 33 false 1, .aswp 6 10 3 5 33 false 0,
    .aswp 6 10 3 5 33 true 1, .aswp 6 10 3 5 33 false 3, .acas 6 10 13 5 33 44 false 1, .acas 6 10 3 5 33 44 false 0,
    .acas 6 10 3 5 33 44 true 1, .acas 6 10 3 5 33 44 false 3, .upd true 6 10 12 5, .updd true 6 10 12 5] = true := by decide +kernel

theorem test_illFormed_3 : refusedAll [
    .updd true 1 10 3 5, .uapply true 10 12 5, .waitc true 6 10 12 5 44 4 1, .waitc true 6 10 3 5 44 6 1,
    .waitc true 1 10 3 5 44 4 2, .waitc true 6 10 3 5 1 4 2, .fence true 3, .mbsend true 6 113 21 5,
    .mbrecv true 113 5, .mbpoll true 113 10 5, .boinit true 6 10 0 5, .boinit true 126 10 12 5,
    .boarr true 6 10 0 5, .bowait true 6 10 0 5, .botst true 6 10 0 5, .watch true 6 10 12 5 true,
    .wdrop true 6 10 12 5, .wresume true 6 10 12 5, .wstat true 6 10 12 5, .wstat true 125 10 3 5,
    .bind true 12 19 true, .bind true 3 20 true, .unbind true 12, .hset true 10 12,
    .hget true 6 12, .hlen true 1 4, .hlen true 6 12, .orset 3 113,
    .orget 113 3, .accz 1 0 200, .accrd 6 4 33 60 7, .accrd 121 4 33 16 7,
    .accwr 6 4 33 60 7, .accwr 121 4 33 16 7, .mthr 2 10 32 2, .mvst 1 2 21 1,
    .mvst 12 2 21 2, .mstat 1 5, .mstat 14 6, .msync 2,
    .fwait true 0 2, .fwait true 10 1, .ftest true 10 10, .launch true 1 10 2 true,
    .evpop true 113 true, .evpeek true 113, .qcfg true 1 10, .racq 0,
    .rrel 0, .cfgrd 6 2, .cfgwr 6 2, .gstat 6 10 2,
    .gstat 125 10 1, .gsave 10 21 2, .gload 6 0 21 2, .gload 6 1 21 1,
    .gkill 10 2] = true := by decide +kernel

theorem test_outOfRange_1 : refusedAll [
    .iadd true 1099511627776 10 21, .isub true 1099511627776 10 21, .iaddi true 1099511627776 10 5, .imul true 1099511627776 10 21,
    .imulh true 1099511627776 10 21 1, .imad true 1099511627776 10 21 2, .imin true 1099511627776 10 21 1, .imax true 1099511627776 10 21 1,
    .iabs true 1099511627776 10 1, .iadds true 1099511627776 10 21 3, .iadd64 true 1099511627776 10 22, .isub64 true 1099511627776 10 22,
    .ixadd true 1099511627776 10 21 3, .and true 1099511627776 10 21, .or true 1099511627776 10 21, .xor true 1099511627776 10 21,
    .andn true 1099511627776 10 21, .andi true 1099511627776 10 5, .ori true 1099511627776 10 5, .xori true 1099511627776 10 5,
    .shl true 1099511627776 10 21, .shr true 1099511627776 10 21, .sar true 1099511627776 10 21, .shli true 1099511627776 10 5,
    .shri true 1099511627776 10 5, .sari true 1099511627776 10 5, .popc true 1099511627776 10, .clz true 1099511627776 10,
    .brev true 1099511627776 10, .bfe true 1099511627776 10 0 0 8 12 true, .bfi true 1099511627776 10 21 1 0 0, .mov true 1099511627776 10 1,
    .li true 1099511627776 1 300, .lix true 1099511627776 0 0 305419896, .sel true 1099511627776 10 21 0 5 true, .movs true 1099511627776 12,
    .movsw true 1099511627776 14, .icmp true 1099511627776 2 10 21 1, .clog true 1099511627776 9 3 6, .fadd true 1099511627776 10 21 2,
    .fsub true 1099511627776 10 21 3, .fmul true 1099511627776 10 21 1, .ffma true 1099511627776 10 21 3, .fmin true 1099511627776 10 21 1,
    .fmax true 1099511627776 10 21 1, .fcmp true 1099511627776 6 10 21 1, .frcp true 1099511627776 10 2, .frsq true 1099511627776 10,
    .fsqrt true 1099511627776 10 3, .fexp2 true 1099511627776 10, .flog2 true 1099511627776 10, .fsin true 1099511627776 10,
    .fcos true 1099511627776 10, .ftanh true 1099511627776 10, .frnd true 1099511627776 10 3, .fcps true 1099511627776 10 21 2,
    .hadd2 true 1099511627776 10 21 true, .hmul2 true 1099511627776 10 21 true, .hfma2 true 1099511627776 10 21 true, .hmin2 true 1099511627776 10 21 true] = true := by decide +kernel

theorem test_outOfRange_2 : refusedAll [
    .hmax2 true 1099511627776 10 21 true, .hdot2 true 1099511627776 10 21 true, .cvt true 1099511627776 10 0 1 5 true 1, .cvtq true 1099511627776 4 30 0 10 5 false 1 false false false 0,
    .cvtd true 1099511627776 4 30 3 0 5 true false true 2, .bscl true 1099511627776 10 21 5 true true 2, .hadm true 1099511627776 4 1 2 true true, .vclass true 1099511627776 10,
    .vzero true 1099511627776 10 1, .vfill true 1099511627776 10 21, .shfl 1099511627776 10 21 3, .vote 1099511627776 3 2,
    .prfx 1099511627776 10 3, .rduc 1099511627776 10 8, .ldb true 1099511627776 10 3 5, .ldbs true 1099511627776 10 3 5,
    .ldh true 1099511627776 10 3 5, .ldhs true 1099511627776 10 3 5, .ldw true 1099511627776 10 3 5, .ldd true 1099511627776 10 3 5,
    .ldq true 1099511627776 10 3 5, .stb true 1099511627776 10 3 5, .sth true 1099511627776 10 3 5, .stw true 1099511627776 10 3 5,
    .std true 1099511627776 10 3 5, .stq true 1099511627776 10 3 5, .pfch true 1099511627776 3 5, .aadd 1099511627776 10 3 5 33 true 4,
    .ainc 1099511627776 10 3 5 33 false 1, .adec 1099511627776 10 3 5 false 1, .amin 1099511627776 10 3 5 34 false 2, .amax 1099511627776 10 3 5 33 false 1,
    .aand 1099511627776 10 3 5 33 false 1, .aor 1099511627776 10 3 5 33 false 1, .axor 1099511627776 10 3 5 33 false 1, .aswp 1099511627776 10 3 5 33 false 1,
    .acas 1099511627776 10 3 5 33 44 false 1, .upd true 1099511627776 10 3 5, .updd true 1099511627776 10 3 5, .uapply true 1099511627776 3 5,
    .waitc true 1099511627776 10 3 5 44 4 1, .fence true 1099511627776, .mbsend true 1099511627776 10 21 5, .mbrecv true 1099511627776 5,
    .mbpoll true 1099511627776 10 5, .boinit true 1099511627776 10 12 5, .boarr true 1099511627776 10 12 5, .bowait true 1099511627776 10 12 5,
    .botst true 1099511627776 10 12 5, .watch true 1099511627776 10 3 5 true, .wdrop true 1099511627776 10 3 5, .wresume true 1099511627776 10 3 5,
    .wstat true 1099511627776 10 3 5, .bind true 1099511627776 19 true, .unbind true 1099511627776, .hset true 1099511627776 4,
    .hget true 1099511627776 4, .hlen true 1099511627776 4, .mma 1099511627776 21 7 2 0 true 48 6 41 40, .mmav 1099511627776 21 7 2 0 true 48 6 41 40] = true := by decide +kernel

theorem test_outOfRange_3 : refusedAll [
    .orset 1099511627776 20, .orget 1099511627776 3, .accz 1099511627776 15 200, .accrd 1099511627776 4 33 16 7,
    .accwr 1099511627776 4 33 16 7, .mthr 1099511627776 10 32 0, .mvst 1099511627776 2 21 1, .mstat 1099511627776 5,
    .msync 1099511627776, .tload true 1099511627776 10 3, .tstore true 1099511627776 10 3, .tgath true 1099511627776 10 3,
    .tscat true 1099511627776 10 3, .tcast true 1099511627776 10 3, .tfill true 1099511627776 10 3, .fwait true 1099511627776 0,
    .ftest true 1099511627776 10, .fcancel true 1099511627776, .launch true 1099511627776 10 2 true, .zopen true 1099511627776 10,
    .zadv true 1099511627776 300, .zend true 1099511627776 6, .zclose true 1099511627776, .zld true 1099511627776 6,
    .zcrd true 1099511627776 6, .evpop true 1099511627776 true, .evpeek true 1099511627776, .qcfg true 1099511627776 10,
    .br 1099511627776 true 524285, .jmp 1099511627776, .jmpi 1099511627776, .call 1099511627776,
    .calli 1099511627776, .bar 1099511627776, .bara 1099511627776, .barw 1099511627776,
    .racq 1099511627776, .rrel 1099511627776, .sleep 1099511627776, .trap 1099511627776,
    .bkpt 1099511627776, .cfgrd 1099511627776 16, .cfgwr 1099511627776 283, .gstat 1099511627776 10 1,
    .gsave 1099511627776 21 1, .gload 1099511627776 0 21 1, .gstop 1099511627776 3, .gkill 1099511627776 1] = true := by decide +kernel

theorem test_illFormed_more : refusedAll [
    .sel false 7 10 22 1 5 true, .sel false 6 11 22 1 5 true, .icmp true 5 2 11 22 2, .cvt false 6 10 0 10 5 false 0,
    .cvt false 127 10 0 0 5 false 1, .cvtd false 40 4 0 10 0 5 true false false 0, .acas 6 10 3 5 34 45 false 3,
    .mthr 2 127 32 1] = true := by decide +kernel

/-! Witnesses: states and operands that meet the hypotheses of each statement, clause by clause, at ends of their ranges. -/

theorem witness_IntegerArithmetic : w.Free true [0, 127] [127] ∧ w.Free false [0] [127] ∧ w.Free false [0, 1, 126, 127] [126, 127] ∧
    w.Free false [0, 127, 5] [5] ∧ w.Free true [0, 127, 126, 127] [126, 127] := by
  refine ⟨?_, ?_, ?_, ?_, ?_⟩ <;> exact free_of plain_w _ _ _ (by decide)

theorem witness_LogicAndShifts : w.Free true [0, 127] [127] ∧ w.Free false [0] [127] ∧ (Instr.shli true 127 0 511).wellFormed = true :=
  ⟨free_of plain_w _ _ _ (by decide), free_of plain_w _ _ _ (by decide), by decide⟩

theorem witness_BitCountsAndFields : w.Free false [0] [127] ∧ 32 ≤ 32 ∧ w.Free true [0, 127] [127] ∧ w.Free false [0, 127, 1] [1] :=
  ⟨free_of plain_w _ _ _ (by decide), by decide, free_of plain_w _ _ _ (by decide), free_of plain_w _ _ _ (by decide)⟩

theorem witness_MovesAndVerdicts : w.Free false [0] [127] ∧ w.Free true [126, 127] [0, 1] ∧ w.Free false [] [0] ∧ w.Free false [] [126, 127] ∧
    w.Free false [0, 1, 126, 127] [2, 3] ∧ w.Free false [0, 127] [127] ∧ (Instr.mov true 126 0 1).wellFormed = true := by
  refine ⟨?_, ?_, ?_, ?_, ?_, ?_, by decide⟩ <;> exact free_of plain_w _ _ _ (by decide)

theorem witness_FlagInstructions : w.Free false [0, 127] [] ∧ w.Free true [0, 1, 126, 127] [] ∧ w.Free false [] [] ∧ w.Untraced ∧
    (Instr.icmp false 7 5 0 126 3).wellFormed = true := by
  refine ⟨?_, ?_, ?_, ?_, by decide⟩
  iterate 3 exact free_of plain_w _ _ _ (by decide)
  unfold State.Untraced
  decide +kernel

theorem witness_FloatingArithmetic : ∀ flags, w.FpFree true [0, 127] [127] [0, 127] flags ∧ w.FpFree false [0, 127, 5] [5] [0, 127, 5] flags ∧
    w.FpFree false [0] [127] [0] flags ∧ w.FpFree false [0, 127] [] [0, 127] flags ∧ w.Free false [0, 127] [127] := fun f => by
  refine ⟨?_, ?_, ?_, ?_, free_of plain_w _ _ _ (by decide)⟩ <;> exact fpFree_of plain_w fp_w.1 fp_w.2 _ _ _ _ f (by decide)

theorem witness_SpecialFunctions : ∀ flags, w.FpFree false [127] [0] [127] flags :=
  fun f => fpFree_of plain_w fp_w.1 fp_w.2 _ _ _ _ f (by decide)

theorem witness_PackedArithmetic : ∀ flags, w.FpFree false [0, 127] [5] [] flags ∧ w.FpFree false [0, 127, 5] [5] [] flags ∧
    w.FpFree true [0, 127, 5] [5] [5] flags := fun f => by
  refine ⟨?_, ?_, ?_⟩ <;> exact fpFree_of plain_w fp_w.1 fp_w.2 _ _ _ _ f (by decide)

theorem witness_Conversions : ∀ flags, w.FpFree false (regRange 124 4) (regRange 126 2) (regRange 124 4) flags ∧
    w.FpFree false (regRange 126 2 ++ [0]) (regRange 112 16) [] flags ∧ w.FpFree true (regRange 96 32) (regRange 64 32) (regRange 96 32) flags ∧
    w.FpFree false [0, 127] [5] [0] flags := fun f => by
  refine ⟨?_, ?_, ?_, ?_⟩ <;> exact fpFree_of plain_w fp_w.1 fp_w.2 _ _ _ _ f (by decide +kernel)

theorem witness_BlockQuantise : ∀ flags, w.FpFree false (regRange 96 32 ++ [0]) (regRange 1 8 ++ [0]) (regRange 96 32) flags :=
  fun f => fpFree_of plain_w fp_w.1 fp_w.2 _ _ _ _ f (by decide +kernel)

/-- The usual state with a value in FPCTL. -/
def wFp (v : BitVec 16) : State := w.modCore 0 fun k => { k with teams := [(0, { placedTeam with fpctl := v })] }

/-- A verdict in the second operand of lane 31 under VTRAP; a signalling NaN in lane 3 with IVE set. -/
theorem witness_FloatingTraps :
    (let s := put (wFp 0x200) 31 127 0xFFB51001
     s.Free false [0, 127] [5] ∧ s.issue.lanes.Pairwise (· < ·) ∧ s.vtrap = true ∧ 31 ∈ s.sources false ∧
       isVerdict (s.me.reg 31 127) = true ∧ isVerdict (s.me.reg 3 127) = false ∧ isVerdict (s.me.reg 3 0) = false) ∧
    (let s := put (wFp 0x10) 3 0 0x7F800001
     s.Free false [0, 127] [5] ∧ s.vtrap = false ∧ 3 ∈ s.sources false ∧ (fmulRes s.rm s.ftz .f32 0x7F800001 0).flags &&& s.fpEnables ≠ 0) := by
  refine ⟨⟨free_of (by unfold Plain State.Issuing; decide +kernel) _ _ _ (by decide), ?_⟩,
    ⟨free_of (by unfold Plain State.Issuing; decide +kernel) _ _ _ (by decide), ?_⟩⟩ <;> decide +kernel

theorem witness_LaneOperations : w.Free false [0, 127] [5] ∧ w.Free false [] [127] ∧ w.issue.lanes.Nodup ∧ 127 + w.me.width / 32 ≤ 128 ∧
    w.Free false [] (regRange 127 1) ∧ 128 < 128 + w.me.width / 32 ∧ w.Free false [127] [0] ∧ ∀ flags, w.FpFree false [127] [0] [127] flags := by
  refine ⟨?_, ?_, by decide +kernel, by decide +kernel, ?_, by decide +kernel, ?_, fun f => fpFree_of plain_w fp_w.1 fp_w.2 _ _ _ _ f (by decide)⟩ <;>
    exact free_of plain_w _ _ _ (by decide)

theorem untraced_w : w.Untraced := by unfold State.Untraced; decide +kernel

theorem witness_RegisterFrame : w.Untraced ∧ w.Free false [0, 127] [127] ∧ w.Free true [0, 1, 126, 127] [126, 127] ∧ w.Free true [] [127] :=
  ⟨untraced_w, free_of plain_w _ _ _ (by decide), free_of plain_w _ _ _ (by decide), free_of plain_w _ _ _ (by decide)⟩

/-- A group of one block: register 16 is the lowest outside it. -/
theorem witness_UnallocatedRegister :
    let s := w.modMe fun g => { g with blocks := 1 }
    s.Issuing ∧ 16 ∈ [16, 0, 127] ∧ 16 * s.me.blocks ≤ 16 ∧ ∀ q ∈ [16, 0, 127], 16 * s.me.blocks ≤ q → 16 ≤ q := by
  unfold State.Issuing
  decide +kernel

/-! Addresses. -/

/-- What offset `off` of buffer 1 is. -/
def ref (off : Nat) : Ref := ⟨0, 0x1000 + off, entry 0x1000 0, 0, 1, off, entry 0x1000 0, none⟩

theorem heap_w : w.HeapAt 3 4092 4 0x1FFC ∧ w.HeapAt 3 0 16 0x1000 ∧ w.HeapAt 3 4088 8 0x1FF8 := by
  refine ⟨⟨by decide, ref 4092, by decide +kernel, ?_⟩, ⟨by decide, ref 0, by decide +kernel, ?_⟩, ⟨by decide, ref 4088, by decide +kernel, ?_⟩⟩ <;>
    constructor <;> decide +kernel

theorem witness_LaneReads : w.myAb 65532 4 = some (0, 65532) ∧ w.claimed (w.meLane 3) (abSpace 0) 65532 4 = false ∧
    w.myWb 16380 4 = some 16380 ∧ w.claimed (w.meLane 3) (wbSpace 0) 16380 4 = false ∧ w.Calm ∧ w.HeapAt 3 4092 4 0x1FFC := by
  refine ⟨by decide +kernel, by decide +kernel, by decide +kernel, by decide +kernel, calm_w, heap_w.1⟩

/-- Register 0 of lanes 3 and 31 names the last word of AB, or of buffer 1. -/
def wAt (off : Word) : State := put (put w 3 0 off) 31 0 off

theorem plain_at : Plain (wAt 65532) ∧ Plain (wAt 4092) ∧ Plain (wAt 0) ∧ Plain (wAt 4096) := by
  unfold Plain State.Issuing
  decide +kernel

theorem calm_at : (wAt 65532).Calm ∧ (wAt 4092).Calm ∧ (wAt 0).Calm :=
  ⟨calm_of (by decide +kernel) (by decide +kernel), calm_of (by decide +kernel) (by decide +kernel), calm_of (by decide +kernel) (by decide +kernel)⟩

theorem untraced_at : (wAt 65532).Untraced ∧ (wAt 4092).Untraced := by
  unfold State.Untraced
  decide +kernel

theorem witness_Loads : (wAt 65532).badPa = none ∧ (wAt 65532).AccessFree false [0] [127] ∧ (wAt 65532).ReadsNow false 0 12 0 4 (fun _ => 0) ∧
    (wAt 4092).ReadsNow true 0 3 0 4 (fun _ => 0) ∧ (wAt 65532).Untraced ∧ (wAt 0).AccessFree true [0] [] := by
  refine ⟨by decide +kernel, accessFree_of plain_at.1 _ _ _ (by decide), ?_, ?_, untraced_at.1, accessFree_of plain_at.2.2.1 _ _ _ (by decide)⟩ <;>
    unfold State.ReadsNow <;> decide +kernel

/-- One lane stores the last word of AB; one the last of buffer 1. -/
theorem witness_Stores :
    (let s := wAt 65532
     s.Calm ∧ s.Untraced ∧ s.AccessFree true [0, 127] [] ∧ s.accessFault 12 4 0 [.write] true (s.offsets true 0 0 4) = none ∧
       s.remoteRank 12 65532 = none ∧ s.StoresTo 12 s.opSeq (s.abClears 4 (s.offsets true 0 0 4)) (fun _ => [1, 2, 3, 4])
         (s.offsets true 0 0 4) [(some 0, 65532)]) ∧
    (let s := wAt 4092
     s.Calm ∧ s.Untraced ∧ s.AccessFree true [0, 127] [] ∧ s.accessFault 3 4 0 [.write] true (s.offsets true 0 0 4) = none ∧
       s.remoteRank 3 4092 = none ∧ s.StoresTo 3 s.opSeq (s.storeClears 3 4 (s.offsets true 0 0 4)) (fun _ => [1, 2, 3, 4])
         (s.offsets true 0 0 4) [(none, 0x1FFC)]) := by
  refine ⟨⟨calm_at.1, untraced_at.1, accessFree_of plain_at.1 _ _ _ (by decide), by decide +kernel, by decide +kernel, ?_⟩,
    ⟨calm_at.2.1, untraced_at.2, accessFree_of plain_at.2.1 _ _ _ (by decide), by decide +kernel, by decide +kernel, ?_⟩⟩
  · refine ⟨⟨rfl, ?_, ?_⟩, trivial⟩ <;> decide +kernel
  · refine ⟨⟨by decide, ref 4092, by decide +kernel, ?_⟩, trivial⟩
    constructor <;> decide +kernel

/-- A word at offset 4096 of a buffer of 4,096 bytes fails check 4: code 0x11, the lowest lane, the check, the offset and the handle. -/
theorem witness_AccessFaults :
    (wAt 4096).AccessFree true [0] [127] ∧ (wAt 4096).AccessFree true [0, 127] [] ∧
    (wAt 4096).accessFault 3 4 0 [.read] false ((wAt 4096).offsets true 0 0 4) = some (0x11, 3 + 4 * 256, 4096, 1) ∧
    (wAt 4096).accessFault 3 1 0 [.write] true ((wAt 4096).offsets true 0 0 1) = some (0x11, 3 + 4 * 256, 4096, 1) ∧
    w.misaligned 3 2 [(31, 4096)] = none ∧ w.resolve w.actor (w.slotHandle 3) 4096 4 [.read] none = .error 4 ∧
    w.misaligned 12 2 [(31, 65536)] = none ∧ w.myAb 65536 4 = none := by
  refine ⟨accessFree_of plain_at.2.2.2 _ _ _ (by decide), accessFree_of plain_at.2.2.2 _ _ _ (by decide), ?_, ?_, ?_, ?_, ?_, ?_⟩ <;>
    decide +kernel

theorem witness_Atomics :
    (let s := wAt 65532
     s.Calm ∧ s.Untraced ∧ s.AccessFree false [0, 127, 126] [5] ∧ s.nonuniform 12 0 0 4 = none ∧
       s.accessFault 12 4 2 [.atomic] true (s.offsets true 0 0 4) = none ∧ s.myAb 65532 4 = some (0, 65532) ∧ (s.core 0).poisonAb = [] ∧
       s.issue.lanes.Nodup) ∧
    (let s := wAt 4092
     s.Calm ∧ s.Untraced ∧ s.AccessFree false [0, 127, 126] [] ∧ s.nonuniform 3 0 0 4 = none ∧
       s.accessFault 3 4 2 [.atomic] true (s.offsets true 0 0 4) = none ∧ s.HeapAt 3 4092 4 0x1FFC ∧ s.remoteRank 3 4092 = none) := by
  refine ⟨⟨calm_at.1, untraced_at.1, accessFree_of plain_at.1 _ _ _ (by decide), by decide +kernel, by decide +kernel, by decide +kernel,
    by decide +kernel, by decide +kernel⟩, ⟨calm_at.2.1, untraced_at.2, accessFree_of plain_at.2.1 _ _ _ (by decide), by decide +kernel,
    by decide +kernel, ⟨by decide, ref 4092, by decide +kernel, ?_⟩, by decide +kernel⟩⟩
  constructor <;> decide +kernel

/-- Buffer 2 is bound to add.i32. -/
def wBound : State := { wAt 4092 with binds := [⟨0, 2, 0, false⟩] }

/-- What offset `off` of buffer 2 is. -/
def ref2 (off : Nat) : Ref := ⟨0, 0x2000 + off, entry 0x2000 (2 ^ 133 + 2 ^ 134), 0, 2, off, entry 0x2000 (2 ^ 133 + 2 ^ 134), none⟩

theorem heapRef2 (off n : Nat) (h : off = 4092 ∧ n = 4 ∨ off = 0 ∧ n = 1) : wBound.HeapRef (ref2 off) n (0x2000 + off) := by
  rcases h with ⟨rfl, rfl⟩ | ⟨rfl, rfl⟩ <;> constructor <;> decide +kernel

theorem witness_UpdatePairs :
    let s := wBound
    let offs := s.offsets true 0 0 4
    (s.AccessFree true [0, 127] [] ∧ s.misaligned 4 2 offs = none ∧ s.globalFault 4 4 [.update] offs = none ∧ s.bindFault 4 4 offs = none ∧
      s.cascadeFault 4 4 offs = none ∧ s.remoteRank 4 4092 = none ∧ (s.pairLanes true 4 4 s.opSeq (fun _ => 1) offs).1.badPa = none) ∧
    s.resolve s.actor (s.slotHandle 4) 4092 4 [] none = .ok (ref2 4092) ∧ s.HeapRef (ref2 4092) 4 0x2FFC ∧
    s.binding? 0 2 = some ⟨0, 2, 0, false⟩ ∧ s.claims = [] ∧ s.hbmDown = [] ∧ (∀ k ∈ s.cores, k.2.sideLog = []) ∧
    s.spillFull (binderyOf 0x2FFC) 0 = false := by
  refine ⟨⟨accessFree_of (by unfold Plain State.Issuing; decide +kernel) _ _ _ (by decide), ?_, ?_, ?_, ?_, ?_, ?_⟩, ?_,
    heapRef2 4092 4 (by decide), ?_, ?_, ?_, ?_, ?_⟩ <;> decide +kernel

/-- A pair of lane 3 on its way to the element at `pa`. -/
def pairAt (pa : Nat) : Pair := ⟨pa, 7, 0, 0, 0, 2, false, 0, .grp 0, [3], .flight, 0⟩

/-- Lanes with nothing pending, and with a pair; folios without pairs, and with one. -/
theorem witness_FlushAndApply :
    (w.AccessFree true [] [] ∧ w.flushFar.lanePairs 0 (.grp 0) [3, 31] = [] ∧ w.flushFar.loggedPairs 0 (.grp 0) [3, 31] = false ∧
      w.flushFar.remotePairs 0 (.grp 0) [3, 31] w.flushFar.opSeq = false ∧ ∀ l ∈ w.issue.lanes, (w.me.lane l).farPairs = []) ∧
    (let s := { w with pairs := [pairAt 0x1000] }
     s.AccessFree true [] [] ∧ s.flushFar.lanePairs 0 (.grp 0) [3, 31] ≠ []) ∧
    (let s := { wAt 0 with binds := [⟨0, 2, 0, false⟩] }
     s.AccessFree true [0] [] ∧ s.uapplyFault 4 (s.offsets true 0 0 4096) = none ∧ s.remoteRank 4 0 = none ∧ s.HeapAt 4 0 1 0x2000 ∧
       s.badPa = none ∧ s.folioPairs 2 = [] ∧ s.loggedOn [2] s.opSeq = false ∧ ({ s with pairs := [pairAt 0x2000] } : State).folioPairs 2 ≠ [] ∧
       ({ s with pairs := [pairAt 0x2000] } : State).uapplyFault 4 (s.offsets true 0 0 4096) = none) := by
  refine ⟨⟨accessFree_of plain_w _ _ _ (by decide), ?_, ?_, ?_, ?_⟩,
    ⟨accessFree_of (by unfold Plain State.Issuing; decide +kernel) _ _ _ (by decide), ?_⟩,
    ⟨accessFree_of (by unfold Plain State.Issuing; decide +kernel) _ _ _ (by decide), ?_, ?_, ⟨by decide, ref2 0, by decide +kernel, ?_⟩, ?_, ?_,
      ?_, ?_, ?_⟩⟩
  all_goals first | decide +kernel | (constructor <;> decide +kernel)

/-- An operation of lane 3 that has issued and not ended. -/
def opOf (id : Nat) (k : OpKind) : Op := ⟨id, 0, .grp 0, [3], k, none, none, 0, false, 0, 0, some (0, 0, 0)⟩

/-- A FENCE with nothing and with a store before it; a WAITC whose relation holds, and one whose does not. -/
theorem witness_WaitsAndFences :
    (w.Free true [] [] ∧ w.fenceWaits 0 (.grp 0) [3, 31] 2 w.opSeq = false) ∧
    (let s := { w with ops := [opOf 0 .store], opSeq := 1 }
     s.Free true [] [] ∧ s.fenceWaits 0 (.grp 0) [3, 31] 2 s.opSeq = true) ∧
    (let s := wAt 4092
     s.AccessFree true [0, 126] [5] ∧ s.Calm ∧ s.accessFault 3 4 2 [.read] false (s.offsets true 0 0 4) = none ∧ s.remoteRank 3 4092 = none ∧
       s.HeapAt 3 4092 4 0x1FFC ∧ intRel 0 (typedInt 0 (leNat (Mem.bytes s.mem 0x1FFC 4))) (typedInt 0 (s.me.words 3 126 1)) = true ∧
       intRel 1 (typedInt 0 (leNat (Mem.bytes s.mem 0x1FFC 4))) (typedInt 0 (s.me.words 3 126 1)) = false) := by
  refine ⟨⟨free_of plain_w _ _ _ (by decide), ?_⟩, ⟨free_of (by unfold Plain State.Issuing; decide +kernel) _ _ _ (by decide), ?_⟩,
    ⟨accessFree_of plain_at.2.1 _ _ _ (by decide), calm_at.2.1, ?_, ?_, ⟨by decide, ref 4092, by decide +kernel, ?_⟩, ?_, ?_⟩⟩
  all_goals first | decide +kernel | (constructor <;> decide +kernel)

/-- A message of 16 words. -/
def message : List Word := List.replicate 16 9

/-- A core number of 127 and of 128, a full mailbox, and a message in one. -/
theorem witness_Mailboxes :
    (w.AccessFree true (0 :: (List.range 16).map (112 + ·)) [5] ∧ (put w 3 0 127).me.reg 3 0 = 127 ∧ (put w 3 0 128).me.reg 3 0 = 128 ∧
      4 ≤ ((w.modCore 127 fun k => { k with mbox := List.replicate 4 (7, message) }).core 127).mboxCount 7) ∧
    w.AccessFree true [] ((List.range 16).map (112 + ·)) ∧ w.AccessFree true [] (0 :: (List.range 16).map (112 + ·)) ∧
    (let s := w.modCore 0 fun k => { k with mbox := [(6, message), (7, message)] }
     (s.core 0).mbox.findIdx? (·.1 == 7) = some 1 ∧ (s.core 0).mbox[1]? = some (7, message)) ∧
    (w.core 0).mbox.findIdx? (·.1 == 7) = none := by
  refine ⟨⟨accessFree_of plain_w _ _ _ (by decide), ?_, ?_, ?_⟩, accessFree_of plain_w _ _ _ (by decide),
    accessFree_of plain_w _ _ _ (by decide), ?_, ?_⟩ <;> decide +kernel

/-- The last object of AB, which is complete, and one that expects a row. -/
theorem witness_BarrierObjects :
    let s := wAt 65504
    let p := s.modCore 0 fun k => k.abPut 65516 [1, 0, 0, 0]
    s.Calm ∧ p.Calm ∧ s.accessFault 12 32 5 [] false (s.offsets true 0 0 32) = none ∧ s.myAb 65504 32 = some (0, 65504) ∧
    s.AccessFree true [0, 125, 126, 127] [] ∧ s.AccessFree true [0, 127] [] ∧ s.AccessFree true [0] [127] ∧
    (s.boWord 0 65504 2 ≤ s.boWord 0 65504 0 ∧ s.boWord 0 65504 3 ≤ s.boWord 0 65504 1 ∧ s.boWord 0 65504 6 ≤ s.boWord 0 65504 5) ∧
    ¬p.boWord 0 65504 3 ≤ p.boWord 0 65504 1 := by
  have h : Plain (wAt 65504) := by unfold Plain State.Issuing; decide +kernel
  refine ⟨calm_of (by decide +kernel) (by decide +kernel), calm_of (by decide +kernel) (by decide +kernel), ?_, ?_,
    accessFree_of h _ _ _ (by decide), accessFree_of h _ _ _ (by decide), accessFree_of h _ _ _ (by decide), ?_, ?_⟩ <;> decide +kernel

/-- A descriptor at offset 64 of buffer 1: all of buffer 2 watched, status block at offset 128 of buffer 1 (Table Mi-8). -/
def desc : Nat := 2 + 4096 * 2 ^ 64 + 2 * 2 ^ 96 + 2 ^ 256 + 128 * 2 ^ 288 + 2 ^ 432

/-- The descriptor's watch. -/
def watch1 : Watch := ⟨0, 0, 1, 64, ref 64, desc, ref2 0, ref 128, 0, 255, false, 0⟩

/-- Register 0 names the descriptor. -/
def wWatch : State := (wAt 64).poke 0x1040 (leBytes desc 64)

theorem witness_Watches :
    let s := wWatch
    let t := { s with watches := [watch1] }
    s.accessFault 3 64 6 [.read] false (s.offsets true 0 0 64) = none ∧ s.resolve s.actor (s.slotHandle 3) 64 64 [.read] none = .ok (ref 64) ∧
    (ref 64).remote = none ∧ s.badPa = none ∧ s.AccessFree true [0] [5] ∧ s.AccessFree true [0] [124, 125, 126, 127] ∧
    s.readAt s.actor (s.meLane 3) (ref 64) 64 0 = (s, .value desc) ∧ descBad desc (some 4096) = none ∧
    s.resolve s.actor 2 0 0 [] none = .ok (ref2 0) ∧ s.watchBuffers s.actor desc 3 = .ok (ref2 0, ref 128) ∧ (ref 128).remote = none ∧ s.prepare (ref 128) 32 = s ∧
    s.missing 0 0x1080 32 = none ∧ (s.makeWatch 1 (ref 64) (ref2 0) (ref 128) desc 1).1.badPa = none ∧ s.watchAt (ref 64) = none ∧
    t.watchAt (ref 64) = some watch1 ∧ ((t.dropWatch watch1).giveAll [(5, 0)]).retire.badPa = none ∧
    ((t.resumeWatch watch1 s.myDepth).giveAll [(5, 0)]).retire.badPa = none ∧ t.statusReady watch1 = true ∧
    (let c := { t with claims := [⟨0, 0x1084, 0x1088, .inr 7⟩] }
     c.statusReady watch1 = false ∧ ((c.statusAsk watch1).hold c.issue.lanes .line).badPa = none) := by
  have h : Plain wWatch := by unfold Plain State.Issuing; decide +kernel
  refine ⟨?_, ?_, ?_, ?_, accessFree_of h _ _ _ (by decide), accessFree_of h _ _ _ (by decide), ?_, ?_, ?_, ?_, ?_, ?_, ?_, ?_, ?_, ?_, ?_, ?_, ?_, ?_⟩ <;>
    decide +kernel

theorem witness_HandleSlotsAndBindings :
    w.Free true [127] [] ∧ w.Free true [] [127] ∧ w.Free true [] [126, 127] ∧
    (w.AccessFree true [] [] ∧ w.bindRights 4 = none ∧ w.resolve w.actor (w.slotHandle 4) 0 1 [] none = .ok (ref2 0) ∧ w.badPa = none ∧
      (ref2 0).remote = none ∧ w.pairs = [] ∧ w.loggedOf 0 2 = false ∧ w.binding? 0 2 = none ∧ ({ w with binds := [⟨0, 2, 0x13, true⟩] } : State).binding? 0 2 ≠ none) := by
  refine ⟨free_of plain_w _ _ _ (by decide), free_of plain_w _ _ _ (by decide), free_of plain_w _ _ _ (by decide),
    accessFree_of plain_w _ _ _ (by decide), ?_, ?_, ?_, ?_, ?_, ?_, ?_, ?_⟩ <;> decide +kernel

/-- Records and thresholds of the lowest and highest numbers; MSTAT of a group and of a control thread; MSYNC with nothing and with a matrix operation before it. -/
theorem witness_RecordsAndAccumulators :
    (w.AccessFree false (regRange 112 16) [] ∧ 3 < w.records.2 ∧ w.records.2 ≤ 4 ∧ w.AccessFree false [] (regRange 112 16)) ∧
    (lowestFailure (w.fieldChecks (.accz 3 15 0)) = none ∧ w.AccessFree false [] [] ∧ w.EngineFree w.acsTiles.1 4) ∧
    (lowestFailure (w.fieldChecks (.accrd 64 3 96 0 63)) = none ∧ w.AccessFree false [] (regRange 64 64) ∧ w.EngineFree (w.acsTiles.1 + 3) 1 ∧
      (w.core 0).poisonAcs = []) ∧
    (lowestFailure (w.fieldChecks (.accwr 64 3 96 0 63)) = none ∧ w.AccessFree false (regRange 64 64) [] ∧ w.issue.lanes.Nodup) ∧
    (lowestFailure (w.fieldChecks (.mthr 1 127 96 0)) = none ∧ w.AccessFree false [127] [] ∧ w.EngineFree (w.acsTiles.1 + 2) 2 ∧
      96 + w.topLane ≤ 127 ∧ lowestFailure (ctBase.fieldChecks (.mthr 127 126 127 1)) = none ∧ ctBase.AccessFree false [126, 127] [] ∧
      ctBase.EngineFree (ctBase.acsTiles.1 + 254) 2) ∧
    (lowestFailure (w.fieldChecks (.mvst 126 1 96 1)) = none ∧ lowestFailure (w.fieldChecks (.mvst 126 1 96 0)) = none ∧
      w.AccessFree false [] [126, 127]) ∧
    (w.Free false [] [126, 127] ∧ w.myTeam? = some placedTeam ∧ ctBase.myTeam? = none ∧ ctBase.Free false [] [126, 127]) ∧
    w.Free false [] [] ∧ w.msyncIds true = [] ∧ ({ w with ops := [opOf 0 (.mtx (some 0))], opSeq := 1 } : State).msyncIds true ≠ [] := by
  refine ⟨⟨accessFree_of plain_w _ _ _ (by decide), ?_, ?_, accessFree_of plain_w _ _ _ (by decide)⟩,
    ⟨?_, accessFree_of plain_w _ _ _ (by decide), ?_⟩, ⟨?_, accessFree_of plain_w _ _ _ (by decide +kernel), ?_, ?_⟩,
    ⟨?_, accessFree_of plain_w _ _ _ (by decide +kernel), ?_⟩, ⟨?_, accessFree_of plain_w _ _ _ (by decide), ?_, ?_, ?_, accessFree_of (by unfold Plain State.Issuing; decide +kernel) _ _ _ (by decide), ?_⟩,
    ⟨?_, ?_, accessFree_of plain_w _ _ _ (by decide)⟩,
    ⟨free_of plain_w _ _ _ (by decide), ?_, ?_, free_of (by unfold Plain State.Issuing; decide +kernel) _ _ _ (by decide)⟩,
    free_of plain_w _ _ _ (by decide), ?_, ?_⟩ <;> first | decide +kernel | (unfold State.EngineFree; decide +kernel)

/-- A group that issues in all its lanes, with a record 3 of E4M3 by E4M3. -/
def wMx (lo : Nat) : State := (base .mtx (List.range 32)).modCore 0 fun k => { k with recs := Mem.set (Mem.set k.recs 48 (BitVec.ofNat 32 lo)) 49 (BitVec.ofNat 32 (lo / 2 ^ 32)) }

/-- B in registers, in WB, and in buffer 1; a record that the team does not have. -/
theorem witness_MatrixSteps :
    let regs := fun (s : State) => (mxRanges (some ((s.core 0).record 3)) 32 0 (if recSrc ((s.core 0).record 3) = 0 then 124 else 0) 0 0 0 0 false).flatMap
      fun x => regRange x.1 x.2.1
    (let s := wMx 0x33
     s.AccessFree false (regs s) [] ∧ s.EngineFree (s.acsTiles.1 + 3) 2 ∧ s.mxCheck 0 124 3 0 0 true 0 3 0 0 false = .ok none ∧
       recSrc ((s.core 0).record 3) = 0 ∧ s.Issuing ∧ s.mxCheck 0 124 4 0 0 true 0 3 0 0 false = .error (0x14, 3 + 0x1FF * 65536, 4, 0)) ∧
    (let s := wMx (0x33 + 0x2000)
     s.AccessFree false (regs s) [] ∧ s.mxCheck 0 0 3 0 0 true 0 3 0 0 false = .ok none ∧ recSrc ((s.core 0).record 3) ≠ 0 ∧
       ∀ x ∈ mxTiles ((s.core 0).record 3) 32, s.claimed (noLane 0) (wbSpace 0) (4096 * (0 + x.1)) 4096 = false) ∧
    (let s := wMx (0x33 + 0x4000 + 3 * 2 ^ 44)
     s.AccessFree false (regs s) [] ∧ s.mxCheck 0 0 3 0 0 true 0 3 0 0 false = .ok (some (ref 0)) ∧
       (ref 0).remote = none ∧ s.mxRead s.actor (.inl (noLane 0)) (ref 0) 16 = (s, .ok (header .mtx :: List.replicate 127 0, [])) ∧
       (((s.mxPerform (s.mxStepOf 0 0 true 0 3 0 0 ((s.core 0).record 3) false [(List.replicate 128 0, [])]) s.mySlot? s.actor).engineOp
         s.setA).badPa = none)) := by
  refine ⟨⟨accessFree_of (by unfold Plain State.Issuing; decide +kernel) _ _ _ (by decide +kernel), ?_, ?_, ?_, ?_, ?_⟩,
    ⟨accessFree_of (by unfold Plain State.Issuing; decide +kernel) _ _ _ (by decide +kernel), ?_, ?_, ?_⟩,
    ⟨accessFree_of (by unfold Plain State.Issuing; decide +kernel) _ _ _ (by decide +kernel), ?_, ?_, ?_, ?_⟩⟩ <;>
    first | decide +kernel | (unfold State.EngineFree; decide +kernel) | (unfold State.Issuing; decide +kernel)

/-- A step of 32 lanes on tile 3 of the core, E4M3 by E4M3. -/
def mx1 : MxStep := ⟨group .mtx, 0, 0x33, 3, false, 0, 0, true, 0, 0, 0, true, [(List.replicate 128 0x38, [])]⟩

theorem witness_MatrixElements : mx1.isV = false ∧ fld mx1.rcd 8 2 ≤ 2 ∧ recRow mx1.rcd + mx1.g.width ≤ 128 ∧ (w.core mx1.core).poisonAcs = [] ∧
    bit mx1.rcd 18 = false ∧ recRow (0x33 + 3 * 2 ^ 20) + mx1.g.width = 128 := by decide +kernel

/-- A block at the top of AB: AB to AB, `rows` rows of 16 bytes. -/
def block (rows : Nat) : Nat := 1 + 1 * 2 ^ 2 + rows * 2 ^ 96 + 16 * 2 ^ 112

/-- Lane 3 alone posts a block at the top of AB: 65472 + 0. -/
def wPost (b : Nat) : State := (put (base .mem [3]) 3 0 65472).modCore 0 fun k => k.abPut 65472 (leBytes b 64)

theorem one_post (f : Post → Bool) (x : Except AccFault (List Post)) (h : (match x with | .ok [p] => f p | _ => false) = true) :
    ∃ p, x = .ok [p] ∧ f p = true := by
  split at h
  · exact ⟨_, rfl, h⟩
  · exact absurd h (by decide)

theorem bad_post (f : AccFault) (x : Except AccFault (List Post)) (h : (match x with | .error g => g == f | _ => false) = true) : x = .error f := by
  split at h
  · rw [eq_of_beq h]
  · exact absurd h (by decide)

/-- A post with no rows, one with a row, and one whose block is misaligned. -/
theorem witness_TileCopies :
    (let s := wPost (block 0)
     s.AccessFree true [0] [127] ∧ s.issue.lanes = [3] ∧ s.badPa = none ∧ s.Untraced ∧ s.blocksHeld 0 [(3, 65472)] = false ∧ s.copyRoom ≠ none ∧
       ({ s with claims := [⟨abSpace 0, 65472, 65536, .inr 7⟩] } : State).blocksHeld 0 [(3, 65472)] = true ∧
       ∃ p, s.checkPosts 0 [(3, 65472)] = .ok [p] ∧ (p.lane == 3 && emptyPost p.blk) = true) ∧
    (let s := wPost (block 1)
     s.blocksHeld 0 [(3, 65472)] = false ∧ ∃ p, s.checkPosts 0 [(3, 65472)] = .ok [p] ∧
       (let out := s.postAll true 0 127 [p]
        decide (out.1.setA = none) && decide ((out.1.settle out.2).badPa = none) && !p.idle 0 && s.copyRoom.isSome &&
          ({ s with ops := List.replicate 1024 (opOf 0 (.copy ⟨none, [], none, 1, [], 0, true, some 0, true, 0, none, none⟩)) } : State).copyRoom.isNone) =
            true) ∧
    (put w 3 0 4).checkPosts 0 [(3, 4)] = .error (0x08, 3 + 1536, 4, 0) := by
  refine ⟨⟨accessFree_of (by unfold Plain State.Issuing; decide +kernel) _ _ _ (by decide), ?_, ?_, ?_, ?_, ?_, ?_, one_post _ _ ?_⟩,
    ⟨?_, one_post _ _ ?_⟩, bad_post _ _ ?_⟩
  case refine_3 => unfold State.Untraced; decide +kernel
  all_goals decide +kernel

/-- A row of zeros and one of memory, to the ends of AB. -/
def job1 : CopyJob := ⟨0, 32 * 2 ^ 112, 0, 0, 0, 0, [⟨some .zero, [.ab 0 0], false⟩, ⟨some (.glob (ref 4064)), [.ab 0 65504], false⟩], []⟩

theorem witness_CopiedRows : w.Calm ∧ (w.core 0).poisonAb = [] ∧ job1.op ≠ 1 ∧ bit job1.block 12 = false ∧ job1.away = [] ∧
    w.RowsGive 0 job1 job1.rows [(List.replicate 32 0, 0), (Mem.bytes w.mem 0x1FE0 32, 65504)] := by
  refine ⟨calm_w, ?_, ?_, ?_, rfl, rfl, rfl, rfl, ⟨0x1FE0, ?_, ?_⟩, trivial⟩
  all_goals first | decide +kernel | (constructor <;> decide +kernel)

/-- A group that waits for nothing, and one with register 127 of lane 3 pending. -/
theorem witness_Futures :
    (w.Free true [127] [] ∧ w.Free true [] [] ∧ w.Free true [] [127] ∧ 127 < 16 * w.me.blocks ∧ w.Issuing) ∧
    (let s := ({ base .mem [3] with ops := [opOf 0 (.future 0)], opSeq := 1 } : State).modMe fun g => { g with pend := [⟨3, 127, 0⟩] }
     s.Free true [] [] ∧ (∃ p ∈ s.me.pend, p.lane = 3) ∧ s.Issuing ∧ (∀ r ∈ [127, 0], r < 16 * s.me.blocks) ∧
       s.futureLanes true [127] [] = s.issue.lanes ∧ s.futureLanes true [127] [0] = s.issue.lanes) := by
  refine ⟨⟨free_of plain_w _ _ _ (by decide), free_of plain_w _ _ _ (by decide), free_of plain_w _ _ _ (by decide), ?_, ?_⟩,
    ⟨⟨?_, ?_, ?_, ?_⟩, ?_, ?_, ?_, ?_, ?_⟩⟩ <;> first | decide +kernel | (unfold State.Issuing; decide +kernel)

/-- Queues of four and of three launches; records of 8 and of 9 blocks; an overflow area with room. -/
def wLaunch (n held depth : Nat) : State :=
  (((put (base .ctl [3]) 3 0 65472).modCore 0 fun k => k.abPut 65472 (leBytes (recordOf n) 64)).modCore 0 fun k =>
    { k with launchQ := List.replicate held ⟨recordOf 1, 0, 0, 0, 0, 0, 0⟩ }).modTeam 0 0 fun m => { m with qcw0 := BitVec.ofNat 64 (depth * 2 ^ 32 + 6 * 2 ^ 48) }

theorem witness_Launches :
    (let s := wLaunch 8 3 0
     s.Free true [0] [] ∧ s.Free true [0, 126, 127] [] ∧ s.issue.lanes = [3] ∧ (s.me.pair 3 126).toNat = 0 ∧
       ((put s 3 126 1).me.pair 3 126).toNat ≠ 0 ∧ s.misaligned 12 6 [(3, 65472)] = none ∧ s.localFault 12 64 [(3, 65472)] = none ∧
       s.localPoison 12 64 [(3, 65472)] = none ∧ s.recordsHeld [(3, 65472)] = false ∧ s.ops = [] ∧ s.myAb 65472 64 = some (0, 65472) ∧ recordBad (s.abNat 0 65472 64) = none ∧
       (s.core 0).launchOver = [] ∧ (s.core 0).launchQ.length < 4) ∧
    recordBad ((wLaunch 9 3 0).abNat 0 65472 64) = some 226 ∧ recordBad ((wLaunch 0 3 0).abNat 0 65472 64) = some 226 ∧
    recordBad ((wLaunch 1 3 0).abNat 0 65472 64) = none ∧ ¬((wLaunch 8 4 0).core 0).launchQ.length < 4 ∧
    (¬∀ o ∈ ({ w with ops := [opOf 0 (.launch ⟨recordOf 1, 0, 0, 0, 0, 0, 0⟩)] } : State).ops, o.launch? 0 = none) ∧
    (wLaunch 8 4 0).launchArea 0 0 = false ∧ (wLaunch 8 4 1).launchArea 0 0 = true := by
  refine ⟨⟨free_of (by unfold Plain State.Issuing; decide +kernel) _ _ _ (by decide), free_of (by unfold Plain State.Issuing; decide +kernel) _ _ _ (by decide),
    ?_, ?_, ?_, ?_, ?_, ?_, ?_, ?_, ?_, ?_, ?_, ?_⟩, ?_, ?_, ?_, ?_, ?_, ?_, ?_⟩ <;> decide +kernel

/-- A stream of two elements over buffer 1, at its first, its last, and its end. -/
def stream (pos : Nat) : Stream := ⟨pos, 2, 1, 1, 1, 4080, 4088, 1⟩

/-- A descriptor at the top of AB whose three handles are slot 3's, with VW 1; row pointers at the top of buffer 1. -/
def streamDesc (vw : Nat) : Nat := 3 + 3 * 2 ^ 4 + 3 * 2 ^ 8 + vw * 2 ^ 12 + 4088 * 2 ^ 32

theorem witness_Streams :
    (let s := (put w 3 0 65504).modCore 0 fun k => k.abPut 65504 (leBytes (streamDesc 1) 32)
     s.Calm ∧ s.AccessFree true [0] [] ∧ s.accessFault 12 32 5 [] false [(3, 65504)] = none ∧ s.localPoison 12 32 [(3, 65504)] = none ∧
       s.myAb 65504 32 = some (0, 65504) ∧ s.abNat 0 65504 32 = streamDesc 1 ∧ streamBad (streamDesc 1) = none ∧
       (s.streamOf (streamDesc 1)).rpH = 1 ∧ s.handleFault 1 8 [.read] [(3, 4088)] = none ∧ s.resolve s.actor 1 4088 8 [] none = .ok (ref 4088) ∧
       s.HeapRef (ref 4088) 8 0x1FF8) ∧ streamBad (streamDesc 3) = some 12 ∧ streamBad (streamDesc 0) = some 12 ∧
    (∀ p ∈ [0, 1, 2], NMap.find (w.modMe fun g => { g with streams := [(1, stream p)] }).me.streams 1 = some (stream p)) ∧
    (let s := w.modMe fun g => { g with streams := [(1, stream 1)] }
     s.Issuing ∧ s.issue.lanes.Nodup ∧ s.AccessFree true [] [127] ∧ s.Calm ∧ (stream 1).pos < (stream 1).fin ∧ (stream 2).fin ≤ (stream 2).pos ∧
       s.handleFault 1 2 [.read] [(3, 4082)] = none ∧ s.resolve s.actor 1 4082 2 [] none = .ok (ref 4082) ∧ s.HeapRef (ref 4082) 2 0x1FF2 ∧
       s.handleFault 1 4 [.read] [(3, 4092)] = none ∧ s.resolve s.actor 1 4092 4 [] none = .ok (ref 4092) ∧ s.HeapRef (ref 4092) 4 0x1FFC) ∧
    NMap.find w.me.streams 1 = none ∧ w.Issuing := by
  refine ⟨⟨calm_of (by decide +kernel) (by decide +kernel), accessFree_of (by unfold Plain State.Issuing; decide +kernel) _ _ _ (by decide), ?_, ?_, ?_, ?_, ?_,
    ?_, ?_, ?_, ?_⟩, ?_, ?_, ?_, ⟨?_, ?_, accessFree_of (by unfold Plain State.Issuing; decide +kernel) _ _ _ (by decide),
    calm_of (by decide +kernel) (by decide +kernel), ?_, ?_, ?_, ?_, ?_, ?_, ?_, ?_⟩, ?_, ?_⟩
  all_goals first | decide +kernel | (unfold State.Issuing; decide +kernel) | (constructor <;> decide +kernel)

theorem plain_ct : Plain ctBase := by unfold Plain State.Issuing; decide +kernel

/-- A control thread with no event, and with the least record; control words that R413 takes, and one with a reserved bit. -/
theorem witness_QueueInstructions : ctBase.isCt = true ∧ ctBase.Free true [] ((List.range 16).map (112 + ·)) ∧ (ctBase.core 0).events = [] ∧
    ((ctBase.modCore 0 fun k => { k with events := [message] }).core 0).events = message :: [] ∧ ctBase.Free true [126, 127, 0] [] ∧
    ctBase.qcfgBad (6 * 2 ^ 48) 0 = none ∧ ctBase.qcfgBad (6 * 2 ^ 48 + 2 ^ 32 + 64) 0 = none ∧
    ctBase.qcfgBad (6 * 2 ^ 48 + 2 ^ 63) 0 = some (0x03, 1) ∧ ctBase.qcfgBad (6 * 2 ^ 48) 1 = some (0x03, 7) ∧
    ctBase.team? 0 0 = some placedTeam ∧ qcwDepth placedTeam.qcw0 = 0 ∧ qcwDepth placedTeam.qcw1 = 0 := by
  refine ⟨by decide +kernel, free_of plain_ct _ _ _ (by decide), ?_, ?_, free_of plain_ct _ _ _ (by decide), ?_, ?_, ?_, ?_, ?_, ?_, ?_⟩ <;> decide +kernel

/-- The usual state of control words, with a second clause at the end of the code. -/
def wCtl (ls : List Nat) : State := (base .ctl ls).poke 0x1FF8 (leBytes (header .ctl) 4)

theorem headerAt (s : State) (t v : Nat) (h : t % 4 = 0 ∧ s.fetch s.issue.core s.issue.agent t = (s, .word v) ∧ v / 2 ^ 29 = 6) : s.HeaderAt t :=
  ⟨h.1, v, h.2⟩

/-- Where a fetch neither faults nor waits, what it gives, and that it changes nothing. -/
def fetches (s : State) (t v : Nat) : Bool :=
  let x := s.fetch s.issue.core s.issue.agent t
  decide (x.1 = s) && (match x.2 with | .word n => n == v | _ => false)

theorem fetches_eq {s : State} {t v : Nat} (h : fetches s t v = true) : s.fetch s.issue.core s.issue.agent t = (s, .word v) := by
  unfold fetches at h
  simp only [Bool.and_eq_true, decide_eq_true_eq] at h
  obtain ⟨h1, h2⟩ := h
  refine Prod.ext h1 ?_
  split at h2
  · rename_i n hn
    rw [hn, eq_of_beq h2]
  · exact absurd h2 (by decide)

/-- Targets at the first and the last header of the code; words that are no header; a register that is not a multiple of 4. -/
theorem witness_ControlTransfers :
    (let s := put (put (wCtl [3, 31]) 3 0 4088) 31 0 0
     s.Issuing ∧ s.badPa = none ∧ s.Untraced ∧ s.relative 0 19 = 0 ∧ s.HeaderAt 0 ∧ s.relative 1022 19 = 4088 ∧ s.relative 1022 23 = 4088 ∧ s.HeaderAt 4088 ∧
       s.Free false [0] [] ∧ (s.me.reg 3 0).toNat = 4088 ∧ (s.me.reg 31 0).toNat = 0) ∧
    (let s := put (wCtl [3]) 3 0 2
     s.Issuing ∧ s.badPa = none ∧ s.relative 1 23 % 4 = 0 ∧ s.fetch s.issue.core s.issue.agent (s.relative 1 23) = (s, .word 0) ∧ 0 / 2 ^ 29 ≠ 6 ∧
       s.Free false [0] [] ∧ (s.me.reg 3 0).toNat % 4 ≠ 0) := by
  refine ⟨⟨?_, ?_, ?_, ?_, headerAt _ _ (header .ctl) ⟨by decide, fetches_eq ?_, by decide⟩, ?_, ?_, headerAt _ _ (header .ctl) ⟨by decide, fetches_eq ?_, by decide⟩,
    free_of (by unfold Plain State.Issuing; decide +kernel) _ _ _ (by decide), ?_, ?_⟩,
    ⟨?_, ?_, ?_, fetches_eq ?_, by decide, free_of (by unfold Plain State.Issuing; decide +kernel) _ _ _ (by decide), ?_⟩⟩
  case refine_1 => unfold State.Issuing; decide +kernel
  case refine_3 => unfold State.Untraced; decide +kernel
  all_goals first | decide +kernel | (unfold State.Issuing; decide +kernel)

/-- Lane 3 with `n` return addresses in hardware and `m` in its stack area in buffer 2, at offset 0 but for the lane's own part. -/
def wStack (n m : Nat) : State :=
  ((wCtl [3]).cfgPut Config.nStackH 0 2).modMe fun g => { g with lanes := g.lanes.set 3 { g.lane 3 with rstack := List.replicate n 4088, spilled := m } }

/-- Calls with a full hardware stack and an empty or almost full area, and with all 264 entries used; returns from hardware, from the area, and with none. -/
theorem witness_CallsAndReturns :
    (∀ s ∈ [wStack 0 0, wStack 7 0, wStack 8 0], s.Issuing ∧ s.badPa = none ∧ s.issue.lanes.Nodup ∧ s.relative 1022 23 = 4088 ∧ s.Free false [0] [] ∧ s.HeaderAt 4088) ∧
    (∀ l ∈ (wStack 7 0).issue.lanes, ((wStack 7 0).me.lane l).rstack.length = 7 ∧ ((wStack 7 0).me.lane l).spilled = 0) ∧
    (let s := wStack 8 255
     s.issue.lanes = [3] ∧ (s.me.lane 3).rstack.length = 8 ∧ (s.me.lane 3).spilled = 255 ∧ 3 < s.me.lanes.length) ∧
    (let s := wStack 8 0
     s.Calm ∧ s.stackArea 3 = (2, 3072) ∧ s.resolve s.actor 2 3072 4 [.write] none = .ok (ref2 3072) ∧ s.HeapRef (ref2 3072) 4 0x2C00) ∧
    264 ≤ ((wStack 8 256).me.lane 3).rstack.length + ((wStack 8 256).me.lane 3).spilled ∧
    ((wStack 1 0).me.lane 3).rstack = [4088] ∧ ((wStack 0 0).me.lane 3).rstack = [] ∧ ((wStack 0 0).me.lane 3).spilled = 0 ∧
    (let s := (wStack 0 1).poke 0x2C00 (leBytes 4088 4)
     s.Issuing ∧ s.badPa = none ∧ s.Calm ∧ (s.me.lane 3).rstack = [] ∧ (s.me.lane 3).spilled = 1 ∧
       s.resolve s.actor 2 3072 4 [.read] none = .ok (ref2 3072) ∧ s.HeapRef (ref2 3072) 4 0x2C00 ∧ leNat (Mem.bytes s.mem 0x2C00 4) = 4088 ∧
       s.HeaderAt 4088) := by
  refine ⟨?_, ?_, ?_, ⟨calm_of (by decide +kernel) (by decide +kernel), ?_, ?_, ?_⟩, ?_, ?_, ?_, ?_,
    ⟨?_, ?_, calm_of (by decide +kernel) (by decide +kernel), ?_, ?_, ?_, ?_, ?_, headerAt _ _ (header .ctl) ⟨by decide, fetches_eq ?_, by decide⟩⟩⟩
  · intro s hs
    have h : Plain s ∧ (s.badPa = none ∧ s.issue.lanes.Nodup ∧ s.relative 1022 23 = 4088) ∧ fetches s 4088 (header .ctl) = true := by
      simp only [List.mem_cons, List.not_mem_nil, or_false] at hs
      rcases hs with rfl | rfl | rfl <;> (unfold Plain State.Issuing; decide +kernel)
    exact ⟨h.1.1, h.2.1.1, h.2.1.2.1, h.2.1.2.2, free_of h.1 _ _ _ (by decide), headerAt _ _ _ ⟨by decide, fetches_eq h.2.2, by decide⟩⟩
  all_goals first | decide +kernel | (unfold State.Issuing; decide +kernel) | (constructor <;> decide +kernel)

/-- A group of which one lane does not exit; blocks counts of 1 and 8; a pending future in the highest register. -/
theorem witness_ThreadControl :
    (w.Issuing ∧ w.badPa = none ∧ w.issue.agent = .grp 0 ∧ 0 < w.me.lanes.length ∧ 0 ∉ w.issue.lanes ∧ (w.me.lane 0).vacant = false) ∧
    (ctBase.Issuing ∧ ctBase.badPa = none ∧ ctBase.issue.agent = .ct) ∧
    (let s := w.modMe fun g => { g with blocks := 1 }
     s.Issuing ∧ s.badPa = none ∧ s.me.blocks < 8 ∧ s.me.blocks ≤ 1) ∧
    8 ≤ w.me.blocks ∧ 7 < w.me.blocks ∧ w.awaited (16 * 7) = false ∧ w.awaited 0 = false ∧
    (w.modMe fun g => { g with pend := [⟨3, 127, 0⟩] }).awaited (16 * 7) = true ∧ ∀ l ∈ w.issue.lanes, (w.me.lane l).counted = false := by
  unfold State.Issuing
  decide +kernel

/-- A barrier at which all lanes but two have arrived, those two, and the same two again. -/
def wBar (ls : List Nat) : State :=
  (base .ctl [3, 31]).modTeam 0 0 fun m => { m with bars := m.bars.set 7 ⟨5, ls.map (0, ·), 0⟩ }

theorem witness_Barriers :
    (∀ x ∈ [[], (List.range 32).filter (fun l => l ≠ 3 && l ≠ 31), [3, 31]],
      (wBar x).AccessFree false [] [] ∧ (wBar x).issue.agent = .grp 0 ∧ (wBar x).barHome 0 0 = (0, 0) ∧ ((wBar x).team? 0 0).isSome = true ∧
        7 < ((wBar x).team? 0 0).elim 0 (·.bars.length)) ∧
    (let s := wBar []
     (∀ l ∈ s.issue.lanes, (0, l) ∉ (s.bar 0 0 7).arrived) ∧
       (s.bar 0 0 7).more < ((s.absentAt 0 0 7).filter fun y => !(s.issue.lanes.map (s.me.grp, ·)).contains y).length) ∧
    (let s := wBar ((List.range 32).filter (fun l => l ≠ 3 && l ≠ 31))
     (∀ l ∈ s.issue.lanes, (0, l) ∉ (s.bar 0 0 7).arrived) ∧ ((s.absentAt 0 0 7).filter fun y => !(s.issue.lanes.map (s.me.grp, ·)).contains y).length ≤ (s.bar 0 0 7).more ∧
       ∀ q ∈ s.teamGroups 0 0, q.2.2.again 7 5 = []) ∧
    (let s := wBar [3, 31]
     (∀ l ∈ s.issue.lanes, (0, l) ∈ (s.bar 0 0 7).arrived) ∧ s.missingAt 0 0 7 ≠ []) := by
  refine ⟨fun x hx => ?_, ?_, ?_, ?_⟩
  · simp only [List.mem_cons, List.not_mem_nil, or_false] at hx
    rcases hx with rfl | rfl | rfl <;> (refine ⟨accessFree_of (by unfold Plain State.Issuing; decide +kernel) _ _ _ (by decide), ?_⟩; decide +kernel)
  all_goals decide +kernel

/-- A core whose control thread runs and stands at its first header, one whose handler is busy, and one whose control thread does not run. -/
theorem witness_TrapsAndReturns :
    (let s := w.cfgPut Config.nCtRun 0 1
     s.Issuing ∧ s.issue.agent = .grp 0 ∧ s.me?.isSome = true ∧ (s.ctRuns 0 = true ∧ (s.core 0).inHandler = false ∧ (s.core 0).entries = [] ∧
       0 < (s.core 0).ct.lanes.length ∧ ((s.core 0).ct.lane 0).boundary = some (0, none)) ∧
       ((s.modCore 0 fun k => { k with inHandler := true }).core 0).inHandler = true) ∧ w.ctRuns 0 = false ∧
    (let e := { w.faultEntry 0x28 7 0 0 with gslot := 0 }
     let s := ctBase.modCore 0 fun k => { k with inHandler := true, cur := some e, groups := [(0, { group .ctl with trapped := true })] }
     ctBase.isCt = true ∧ ctBase.Issuing ∧ ctBase.badPa = none ∧ (ctBase.core 0).inHandler = false ∧ s.isCt = true ∧ s.Issuing ∧ s.badPa = none ∧
       ((s.core 0).inHandler = true ∧ (s.core 0).entries = [] ∧ (s.core 0).epcClause = none ∧ (s.core 0).cur = some e ∧ e.code ≠ 0x30 ∧ e.code ≠ 0x2A ∧
       e.late = false ∧ e.other = none ∧ s.cfgGet Config.nTrapResume 0 = 0 ∧ s.group? 0 (.grp e.gslot) = some { group .ctl with trapped := true } ∧
       (group .ctl).team = e.tslot ∧ 0 < (s.core 0).ct.lanes.length ∧ (s.retire.leave 0).badPa = none)) := by
  unfold State.Issuing
  decide +kernel

theorem witness_ConfigInstructions :
    ctBase.isCt = true ∧ ctBase.Free false [] [127] ∧ ctBase.Free false [127] [] ∧ ctBase.mayLeave 0 (min 0 255) = false ∧
    (let s := (put ctBase 0 127 0).modTeam 0 0 fun m => { m with frozen := true, imaged := true }
     s.Free false [127] [] ∧ s.isCt = true ∧ (s.me.reg 0 127).toNat = 0 ∧ s.mayLeave 0 0 = true ∧ s.ctBusy 0 = false ∧
       ({ s with ops := [{ opOf 0 .store with agent := .ct, lanes := [0] }], opSeq := 1 } : State).ctBusy 0 = true ∧
       ({ s with ops := [{ opOf 0 .store with agent := .ct, lanes := [0] }], opSeq := 1 } : State).mayLeave 0 0 = true) ∧
    ((Config.reg? Config.nErrTrap).map (·.access) = some .rc) ∧ ((Config.reg? Config.nCtTvec).map (·.access) = some .rw) ∧
    (Config.reg? 0x160).isSome = true := by
  refine ⟨by decide +kernel, free_of plain_ct _ _ _ (by decide), free_of plain_ct _ _ _ (by decide), by decide +kernel,
    ⟨free_of (by unfold Plain State.Issuing; decide +kernel) _ _ _ (by decide), ?_⟩, ?_⟩ <;> decide +kernel

/-- Team and group 0, which are there, and 255, which are not; a team whose accesses have ended, and one with a store that has not. -/
theorem witness_GroupControl :
    (∀ n ∈ [0, 255], (put ctBase 0 126 n).isCt = true ∧ (put ctBase 0 126 n).Free false [126] ((List.range 6).map (120 + ·)) ∧
      ((put ctBase 0 126 n).me.reg 0 126) = n) ∧
    ctBase.team? 0 255 = none ∧ ctBase.group? 0 (.grp 255) = none ∧ ctBase.team? 0 0 = some placedTeam ∧ ctBase.group? 0 (.grp 0) = some (group .ctl) ∧
    placedTeam.frozen = false ∧ (placedTeam.undrained || (ctBase.freeze 0 0).drainDone 0 0) = true ∧
    (let s := ({ ctBase with ops := [opOf 0 .store], opSeq := 1 } : State)
     s.team? 0 0 = some placedTeam ∧ (placedTeam.undrained || (s.freeze 0 0).drainDone 0 0) = false) ∧
    (placedTeam.frozen && ctBase.castWaits placedTeam.grid placedTeam.team) = false ∧
    (let m := { placedTeam with frozen := true }
     let s := ({ ctBase.modTeam 0 0 fun _ => m with
       ops := [opOf 0 (.copy ⟨some { job1 with away := [(0, 0, 0)] }, [], none, 1, [], 0, true, some 0, true, 0, none, none⟩)] } : State)
     s.team? 0 0 = some m ∧ (m.frozen && s.castWaits m.grid m.team) = true) := by
  refine ⟨fun n hn => ?_, ?_⟩
  · simp only [List.mem_cons, List.not_mem_nil, or_false] at hn
    rcases hn with rfl | rfl <;> refine ⟨by decide +kernel, free_of (by unfold Plain State.Issuing; decide +kernel) _ _ _ (by decide), by decide +kernel⟩
  · decide +kernel

/-- A drained team whose group has one block; buffer 1 of 64 KiB. -/
def wImage : State :=
  ((ctBase.modTeam 0 0 fun m => { m with frozen := true }).modGroup 0 (.grp 0) fun g => { g with blocks := 1 }).poke 32 (leBytes (0x20000 + 65535 * 2 ^ 64 + 2 ^ 127 + 31 * 2 ^ 128) 32)

/-- Offset 0 of that buffer. -/
def refImage : Ref := ⟨physSpace, 0x20000, 0x20000 + 65535 * 2 ^ 64 + 2 ^ 127 + 31 * 2 ^ 128, 64, 1, 0, 0x20000 + 65535 * 2 ^ 64 + 2 ^ 127 + 31 * 2 ^ 128, none⟩

theorem witness_TeamImages :
    (ctBase.isCt = true ∧ ctBase.Calm ∧ ctBase.AccessFree false [126, 127] [] ∧ ctBase.AccessFree false [127] [0] ∧ ctBase.AccessFree false [126, 127] [0] ∧
      (∀ x, ctBase.team? 0 0 = some x → ctBase.drained 0 0 = false ∧ x.frozen = false)) ∧
    (let s := wImage
     let x := { placedTeam with frozen := true }
     let g := { group .ctl with blocks := 1 }
     s.isCt = true ∧ s.Calm ∧ s.AccessFree false [126, 127] [] ∧ s.team? 0 0 = some x ∧ s.drained 0 0 = true ∧
       (imageBytes (s.teamImage 0 0 x)).length = 128 ∧ s.slotHandle 0 = 1 ∧ s.resolve s.actor 1 0 128 [.write] none = .ok refImage ∧
       s.HeapRef refImage 128 0x20000 ∧ s.group? 0 (.grp 0) = some g ∧ (∀ l < g.width, (g.lane l).spilled = 0) ∧
       s.resolve s.actor 1 0 37376 [.write] none = .ok refImage ∧ s.HeapRef refImage 37376 0x20000 ∧ groupImageBytes 32 1 = 37376 ∧
       s.resolve s.actor 1 0 128 [.read] none = .ok refImage ∧ s.resolve s.actor 1 0 4 [.read] none = .ok refImage ∧ s.HeapRef refImage 4 0x20000 ∧
       s.resolve s.actor 1 0 37376 [.read] none = .ok refImage) := by
  have h : Plain wImage := by unfold Plain State.Issuing; decide +kernel
  refine ⟨⟨by decide +kernel, calm_of (by decide +kernel) (by decide +kernel), accessFree_of plain_ct _ _ _ (by decide),
    accessFree_of plain_ct _ _ _ (by decide), accessFree_of plain_ct _ _ _ (by decide), fun x hx => ?_⟩,
    ⟨?_, calm_of (by decide +kernel) (by decide +kernel), accessFree_of h _ _ _ (by decide), ?_, ?_, ?_, ?_, ?_, ?_, ?_, ?_, ?_, ?_, ?_, ?_, ?_, ?_, ?_⟩⟩
  · have : ctBase.team? 0 0 = some placedTeam ∧ ctBase.drained 0 0 = false := by decide +kernel
    rw [this.1] at hx
    exact ⟨this.2, by rw [← Option.some.inj hx]; rfl⟩
  all_goals first | decide +kernel | (constructor <;> decide +kernel)

theorem witness_PrivilegedInstructions : w.isCt = false ∧ ∀ a : Agent, a ≠ .ct → ({ w with issue := { w.issue with agent := a } } : State).isCt = false := by
  refine ⟨by decide +kernel, fun a h => ?_⟩
  cases a <;> first | rfl | exact absurd rfl h

/-- An operation of the usual group in its last form. -/
def wOp (k : OpKind) : State := { w with ops := [opOf 0 k], opSeq := 1 }

/-- An entry that a reply may raise. -/
def entry1 : Entry := w.faultEntry 0x11 3 64 1

/-- Operations of each kind; a copy of one batch and of two. -/
theorem witness_OperationEnds :
    (∀ k ∈ [.writeback, .read, .reply, .store, .mtx (some 0), .remote ⟨1, 1, 64, .load 127 4 false, .read 4, 0, 0, none⟩, .future 7,
        .copy ⟨none, [(8, 128, 0)], none, 1, [], 0, true, some 0, true, 0, none, none⟩, .copy ⟨none, [(8, 128, 0), (1, 16, 0)], none, 1, [], 0, true, some 0, true, 0, none, none⟩],
      (wOp k).op? 0 = some (opOf 0 k) ∧ (wOp k).rowsOut 0 = false) ∧
    (let r : Remote := ⟨1, 1, 64, .load 127 4 false, .read 4, 0, 0, none⟩
     let s := { w with ops := [opOf 0 (.remote r), opOf 1 (.remote r)], opSeq := 2 }
     (wOp (.remote r)).siblings (opOf 0 (.remote r)) r = [] ∧ s.siblings (opOf 0 (.remote r)) r = [opOf 1 (.remote r)] ∧
       (opOf 1 (.remote r)).reply? = none) ∧
    (w.claimed unitLane (abSpace 0) 65504 32 = false ∧ w.boWaits = []) ∧
    (let s := { w with ops := [opOf 0 (.mma ⟨group .mtx, some 0, 0x33, 0, 0, true, ref 0⟩), opOf 1 (.mtx (some 0))], opSeq := 2 }
     s.op? 1 = some (opOf 1 (.mtx (some 0))) ∧ s.mtxStalled 0 1 = true ∧ (wOp (.mtx (some 0))).mtxStalled 0 0 = false) ∧
    (({ w with ops := [{ opOf 0 (.remote ⟨1, 1, 64, .load 127 4 false, .read 4, 0, 0, none⟩) with fault := some entry1 }] } : State).op? 0).map (·.fault) =
      some (some entry1) ∧
    (({ w with ops := [{ opOf 0 .reply with fault := some entry1 }] } : State).op? 0).map (·.fault) = some (some entry1) ∧
    (let s := (wOp (.future 7)).modMe fun g => { g with pend := [⟨3, 127, 0⟩] }
     s.op? 0 = some (opOf 0 (.future 7)) ∧ ∃ g, s.group? 0 (.grp 0) = some g ∧ g.live ≠ [] ∧ (∀ p ∈ g.pend, p.reg < 128) ∧ g.pend ≠ [] ∧
       (∀ x ∈ s.ops, x.kind = .future 7)) ∧
    (let s := w.modMe fun g => { g with lanes := g.lanes.set 3 { g.lane 3 with wait := .op 0 .bind } }
     ∃ g, s.group? 0 (.grp 0) = some g ∧ (g.lane 3).wait = .op 0 .bind ∧ 3 < g.lanes.length) ∧ ((wOp .bind).ops.map (·.id)).Nodup := by
  refine ⟨by decide +kernel, by decide +kernel, by decide +kernel, by decide +kernel, by decide +kernel, by decide +kernel,
    ⟨by decide +kernel, _, rfl, ?_⟩, ⟨_, rfl, ?_⟩, by decide +kernel⟩ <;> decide +kernel

/-- A condition on the last word of buffer 1, with a comparand that holds and one that does not. -/
def cond (v : Nat) : Cond := ⟨0x1FFC, 0, 0, 0, [(3, v)], 1, 4092⟩

theorem witness_WaitsEnd :
    (let s := wOp (.waitc 127 (cond 0) false)
     s.pairs = [] ∧ s.latentCe = [] ∧ s.latentUe = [] ∧ s.opsOf 0 (Agent.ofNum (Agent.grp 0).num) = [opOf 0 (.waitc 127 (cond 0) false)] ∧ s.condMet (cond 0) = true ∧ s.condMet (cond 1) = false ∧
       s.armedAt 0 < 512 ∧ (opOf 0 (.waitc 127 (cond 0) false)).kind = .waitc 127 (cond 0) false ∧ (s.clk + 2 ^ 64 - 0) % 4096 = 0 ∧
       s.claimed (0, .grp 0, 3) physSpace 0x1FFC 4 = false ∧ s.logged 0 physSpace 0x1FFC 4 = false ∧
       ({ s with claims := [⟨physSpace, 0x1FFF, 0x2000, .inr 7⟩] } : State).claimed (0, .grp 0, 3) physSpace 0x1FFC 4 = true) ∧
    512 ≤ ({ w with ops := List.replicate 512 (opOf 0 (.waitc 127 (cond 0) true)) } : State).armedAt 0 ∧
    (let s := w.modCore 0 fun k => { k with mboxFly := [(6, message), (7, message)] }
     (s.core 0).mboxFly.findIdx? (·.1 == 7) = some 1 ∧ (s.core 0).mboxFly[1]? = some (7, message) ∧ s.ops = [] ∧ (s.core 0).mbox = []) ∧
    (112 + 16 ≤ 128 ∧ (w.group? 0 (.grp 0)).isSome = true) ∧
    ((wOp (.racq 8)).racqServable 0 true (opOf 0 (.racq 8)) = true ∧
      (let s := (wOp (.racq 8)).modMe fun g => { g with blocks := 1 }
       s.racqServable 0 true (opOf 0 (.racq 8)) = true ∧
         (s.modCore 0 fun k => { k with groups := k.groups ++ [(1, { group .alu with blocks := 1020 })] }).racqServable 0 true (opOf 0 (.racq 8)) = false)) ∧
    (let s := wOp (.gstop 0)
     s.team? 0 0 = some placedTeam ∧ s.drainDone 0 0 = false ∧ s.stuckRemote 0 0 = false ∧
       (({ s with ops := [{ opOf 0 (.gstop 0) with agent := .ct, lanes := [0], team := none }] } : State).drainDone 0 0) = true ∧ (opOf 0 (.gstop 0)).core = 0) := by
  decide +kernel

/-- Pairs on their way, in a batch, and spilled; an entry at the head of the side log whose page is there, and one whose page is not. -/
def logged (va id : Nat) : LogEntry := ⟨0, va, 4, .store [1, 2, 3, 4], id, 0, 1, .grp 0, [3], 0, 0, 0, 0⟩

theorem ok_of {α β : Type} (f : α → Bool) (x : Except β α) (h : (match x with | .ok p => f p | _ => false) = true) : ∃ p, x = .ok p ∧ f p = true := by
  split at h
  · exact ⟨_, rfl, h⟩
  · exact absurd h (by decide)

theorem witness_BinderySteps :
    (let s := { w with pairs := [{ pairAt 0x1000 with stage := .batch }, pairAt 0x2FFC] }
     s.pairs.findIdx? (·.stage == .flight) = some 1 ∧ s.pairs[1]? = some (pairAt 0x2FFC)) ∧
    (let s := { w with pairs := [{ pairAt 0x1000 with stage := .batch }] }
     let batch := s.pairs.filter fun p => binderyOf p.pa == 0 && p.stage == .batch
     let s1 : State := { s with pairs := s.pairs.map fun p => if batch.contains p then { p with stage := .gathered } else p }
     s.ops = [] ∧ (∀ p ∈ batch, p.eager = false) ∧ 100 * (s.binUse 0 + ((elements batch).map fun p => binBytes p.opc).sum) ≤ 95 * binStore ∧
       100 * s1.binUse 0 ≤ 75 * binStore ∧ s.badPa = none) ∧
    (∀ b, 100 * b ≤ 95 * binStore → decide (95 * binStore < 100 * b) = false) ∧
    (w.ops = [] ∧ (w.core 0).evWait = [] ∧ (w.core 0).eventAreaEmpty = true ∧
      w.poolTakes 0 0 0 (w.core 0).events.length (w.poolMin Config.nEvqMin 0) (w.cfgGet Config.nEvqCap 0) = true) ∧
    (let e := logged 0x1FFC 0
     let s := w.modCore 0 fun k => { k with sideLog := [e] }
     let s1 := (s.atCore 0).prepare ⟨e.space, e.va, 0, e.vi, e.index, 0, 0, none⟩ e.size
     (s.core 0).sideLog = e :: [] ∧ s1.locate e.space e.va e.size = some [(0x1FFC, 4)] ∧ s1.channelDown e.space e.va e.size = false ∧
       s1.loggedOn (s1.dueFolios [(0x1FFC, 4)]) e.id = false ∧
       ∃ s2, s1.replayEntry 0 e [(0x1FFC, 4)] = .ok s2 ∧ decide (s2.badPa = none) = true) ∧
    (let e := logged (2 ^ 44) 0
     let s := w.modCore 0 fun k => { k with sideLog := [e] }
     let s1 := (s.atCore 0).prepare ⟨e.space, e.va, 0, e.vi, e.index, 0, 0, none⟩ e.size
     s1.locate e.space e.va e.size = none ∧ s1.badPa = none) ∧
    (let s := ({ w with clk := w.cfgGet Config.nSlogWait 0 } : State).modCore 0 fun k => { k with sideLog := [logged 0x1FFC 0], slogFull := some 0 }
     (s.core 0).slogFull = some 0 ∧ (s.core 0).slogTold = false ∧ 0 + s.cfgGet Config.nSlogWait 0 ≤ s.clk ∧ (w.core 0).slogFull = none) := by
  refine ⟨?_, ?_, fun b h => ?_, ?_, ⟨?_, ?_, ?_, ?_, ok_of _ _ ?_⟩, ?_, ?_⟩
  case refine_3 => simp; omega
  all_goals decide +kernel

/-- A watch in spawn mode with a waiting trigger at slice 0, and one that waits in the spill ring. -/
def wTrig (q : Option Nat) : State := { w with watches := [watch1], watchSeq := 1, trigs := [⟨0, 0, 0, 0, q⟩] }

/-- Launch queue 0 whose ring at 64 KiB holds one packet of `n` blocks. -/
def wQueue (n : Nat) : State := (w.modQueue 0 fun q => { q with qbase := 16, tail := 1 }).poke 0x10000 (leBytes (recordOf n) 128)

/-- A start barrier for ranks 0 and 1. -/
def bar1 (accepted : Nat) : StartBarrier := ⟨1, 3, accepted, some 1, 0, false, some 0, 0, 0, 0, 0⟩

/-- The usual state with port 0 enabled. -/
def wFab : State := w.cfgPut Config.nFabEn 0 1

theorem witness_LaunchSteps :
    (let t : Trigger := ⟨0, 0, 0, 0, none⟩
     (wTrig none).firstTriggers 0 = [t] ∧ (wTrig none).watch? t.watch = some watch1 ∧ (wTrig none).mayDispatch watch1 0 = true ∧ (wTrig none).statusReady watch1 = true ∧ watch1.ring = false ∧
       ((wTrig none).spawn watch1 t).kickAll.badPa = none) ∧
    (wTrig (some 0)).returnable 0 = some (watch1, ⟨0, 0, 0, 0, some 0⟩, 0) ∧
    (let x : Launch := ⟨recordOf 1, 0, 0, 0, 0, 0, 0⟩
     let s := w.modCore 0 fun k => { k with launchQ := [x] }
     (s.core 0).launchQ = x :: [] ∧ x.chips = 0 ∧
       (let t := w.modCore 0 fun k => { k with launchQ := [x, x, x], launchOver := [x] }
        (t.core 0).launchOver = x :: [] ∧ (t.core 0).launchQ.length < 4 ∧ t.ops = [] ∧ s.ops = [] ∧ (t.team? 0 0).map (·.ending) = some false)) ∧
    (let x := (wQueue 1).queue 0
     x.packet = none ∧ x.ahead = 1 ∧ (wQueue 1).badPa = none ∧ 2 ^ x.qlog = 16 ∧ (16 + 2 ^ 32 - x.head) % 2 ^ 32 = 16 ∧ (17 + 2 ^ 32 - x.head) % 2 ^ 32 = 17 ∧
       (wQueue 1).gpBusy = false ∧ ({ wQueue 1 with gpHeld := [.gpPlainAccess 0 4 true 1] } : State).gpBusy = true ∧
       ∀ k < 4, bit ((wQueue 1).physNat (x.qbase * 4096 + 128 * (x.head % 2 ^ x.qlog)) 128 / 2 ^ 512) (400 + k) = false) ∧
    (∀ n ∈ [1, 8], (wQueue n).physNat 0x10000 128 = recordOf n ∧ recordBad (recordOf n % 2 ^ 512) = none ∧ headerBad (recordOf n / 2 ^ 512) = none) ∧
    recordBad ((wQueue 9).physNat 0x10000 128 % 2 ^ 512) = some 226 ∧
    (let s := w.modQueue 0 fun q => { q with packet := some (recordOf 1) }
     (s.queue 0).packet ≠ none ∧ (s.queue 0).waits = [] ∧ (s.queue 0).todo = [] ∧ (s.queue 0).polls = [] ∧
       ((s.modQueue 0 fun q => { q with todo := [3] }).queue 0).todo ≠ [] ∧ (List.range 64).findSome? (fun v => (s.nextQueue v).map (v, ·)) = some (0, 0, 0) ∧
       (s.queue (16 * 0 + 0)).packet = some (recordOf 1) ∧ fld (recordOf 1) 960 64 = 0) ∧
    (w.cfgGet Config.nFabEn 0 = 0 ∧ wFab.cfgGet Config.nFabEn 0 ≠ 0 ∧ 1 ∈ ({ wFab with aborted := [1] } : State).aborted ∧ 1 ∉ wFab.aborted) ∧
    (({ w with barriers := [bar1 3] } : State).barriers.find? (·.gen == 1) = some (bar1 3) ∧ (ranksOf (bar1 3).chips).all (bit (bar1 3).accepted) = true ∧
      (ranksOf (bar1 1).chips).all (bit (bar1 1).accepted) = false ∧ (bar1 1).posted = false ∧ 1 / 2 ^ 26 = w.cfgGet Config.nFabRank 0) := by
  decide +kernel

/-- Accesses from rank 63, through window 63 and by the general-purpose cores, to the last word of buffer 1; and one sent to rank 1. -/
theorem witness_OutsideAccesses :
    (w.Calm ∧ w.kept = [] ∧ w.cfgGet Config.nFabEn 0 = 0 ∧ wFab.Calm ∧ wFab.kept = [] ∧ wFab.gpKept = [] ∧ wFab.cfgGet Config.nFabEn 0 ≠ 0 ∧
      wFab.gpHeld.any (sameRank 63) = false ∧ wFab.retryNext.any (sameRank 63) = false ∧
      (∀ k ∈ [Right.read, Right.write], (wFab.atCore 128).checkEntry 0 1 4092 4 [k] none = .ok (entry 0x1000 0) ∧
        (wFab.atCore 128).checkEntry 0 1 4093 4 [k] none = .error 4) ∧
      entWindow (entry 0x1000 0) = false ∧ (wFab.atCore 128).HeapRef (ref 4092) 4 0x1FFC) ∧
    (let s := { w with windows := [(63, ⟨true, 0, 1⟩)] }
     s.Calm ∧ s.gpKept = [] ∧ s.kept = [] ∧ s.gpHeld ++ s.retryNext = [] ∧ s.gpBusy = false ∧ NMap.find s.windows 63 = some ⟨true, 0, 1⟩ ∧
       NMap.find s.windows 0 = none ∧
       (∀ k ∈ [Right.read, Right.write], (s.atCore 128).resolve ⟨s.physCore 0 0, false, 0, 0⟩ 1 4092 4 [k] none = .ok (ref 4092)) ∧
       (s.atCore 128).HeapRef (ref 4092) 4 0x1FFC) ∧
    (isMemory (2 ^ 39 - 1) = true ∧ isMemory 0 = true ∧ isMemory (2 ^ 41 - 1) = true ∧ 2 ^ 44 + 2 ^ 43 ≤ apertureBase) ∧
    (Config.reg? Config.nErrTrap).map (·.access) = some .rc ∧
    ∀ f ∈ [ReplyForm.ack, .row 7], let o := opOf 0 (.remote ⟨1, 1, 64, f, .read 4, 0, 0, none⟩)
      let s := ({ wOp o.kind with clk := w.cfgGet Config.nRemoteTo 0 } : State)
      s.Calm ∧ s.kept = [] ∧ s.op? 0 = some o ∧ o.far.isSome = true ∧ o.timedOut = false ∧ o.clk + s.cfgGet Config.nRemoteTo 0 ≤ s.clk := by
  have bad : ∀ x : Except Nat Nat, (match x with | .error n => n == 4 | _ => false) = true → x = .error 4 := fun x h => by
    split at h
    · rw [eq_of_beq h]
    · exact absurd h (by decide)
  have good : ∀ x : Except Nat Nat, (match x with | .ok n => n == entry 0x1000 0 | _ => false) = true → x = .ok (entry 0x1000 0) := fun x h => by
    split at h
    · rw [eq_of_beq h]
    · exact absurd h (by decide)
  refine ⟨⟨calm_w, ?_, ?_, calm_of (by decide +kernel) (by decide +kernel), ?_, ?_, ?_, ?_, ?_, fun k hk => ?_, ?_, ?_⟩,
    ⟨calm_of (by decide +kernel) (by decide +kernel), ?_, ?_, ?_, ?_, ?_, ?_, fun k hk => ?_, ?_⟩, ?_, ?_, fun f hf => ?_⟩
  case refine_8 =>
    simp only [List.mem_cons, List.not_mem_nil, or_false] at hk
    rcases hk with rfl | rfl <;> exact ⟨good _ (by decide +kernel), bad _ (by decide +kernel)⟩
  case refine_17 =>
    simp only [List.mem_cons, List.not_mem_nil, or_false] at hk
    rcases hk with rfl | rfl <;> decide +kernel
  case refine_21 =>
    simp only [List.mem_cons, List.not_mem_nil, or_false] at hf
    rcases hf with rfl | rfl <;>
      exact ⟨by constructor <;> first | decide +kernel | (intro o ho; simp [wOp, opOf] at ho; subst ho; simp), by decide +kernel⟩
  all_goals first | decide +kernel | (constructor <;> decide +kernel)

theorem witness_RegisterWrites :
    (w.cfgGet Config.nCtRun 127 = 0 ∧ (w.core 127).entries = []) ∧
    (let s := w.modTeam 0 0 fun m => { m with frozen := true, imaged := true }
     w.mayLeave 0 (min (255 % 2 ^ 32) 255) = false ∧ s.mayLeave 0 0 = true ∧ s.ctBusy 0 = false ∧
       ({ s with ops := [{ opOf 0 .store with agent := .ct, lanes := [0] }] } : State).ctBusy 0 = true) ∧
    (let s := { wOp .store with viSync := [(63, 1), (0, 1)] }
     NMap.find s.viSync 0 = some 1 ∧ s.accessesLeft 0 1 = true ∧ NMap.find s.viSync 63 = some 1 ∧ s.accessesLeft 63 1 = false) ∧
    ((w.core 0).teams ≠ [] ∧ (w.core 127).teams = [] ∧ (w.core 127).cur.toList ++ (w.core 127).entries = []) ∧
    (let s := { w with ptInval := [(63, 5)] }
     s.ptInval.find? (·.1 == 63) = some (63, 5) ∧ ∃ t, s.ptInvalDone 63 5 = .ok t ∧ decide (t.badPa = none) = true) ∧ (Config.reg? Config.nTrcCtl).isSome = true ∧
    (let s := w.cfgPut Config.nDstopEn 0 1
     let r := fun n => s.cfgGet n placedTeam.vi
     s.issue.core = 0 ∧ s.issue.agent = .grp 0 ∧ s.group? 0 (.grp 0) = some (group .alu) ∧ s.team? 0 (group .alu).team = some placedTeam ∧
       (r Config.nDstopEn = 1 ∧ r Config.nDstopGrid = placedTeam.grid ∧ r Config.nDstopTeam = placedTeam.team ∧ r Config.nDstopGrp = (group .alu).grp ∧
         (group .alu).rwc = r Config.nDstopRwcl + 2 ^ 32 * r Config.nDstopRwch) ∧ w.cfgGet Config.nDstopEn 0 ≠ 1) := by
  refine ⟨?_, ?_, ?_, ?_, ⟨?_, ?_⟩, ?_, ?_⟩
  case refine_6 => exact ok_of _ _ (by decide +kernel)
  all_goals decide +kernel

/-- Page tables of four levels from 1 MiB whose last entry of the last is `e`. -/
def wPage (e : Nat) : State :=
  ((((w.cfgPut Config.nPtRoot 0 1).poke 0x100000 (leBytes 0x110001 8)).poke 0x110000 (leBytes 0x120001 8)).poke 0x120000 (leBytes 0x130001 8)).poke
    0x1300F8 (leBytes e 8)

/-- A move of one page of 1,024 lines to `dst`, at line `pos`; of kind `kind`. -/
def mig1 (dst pos kind : Nat) : Migration := ⟨0x200000, dst, 1024, pos, 0, 0x1F0000, 0, kind, false, none, none⟩

/-- A span that facet 3 leads with 75 % of 4,096 accesses, for two epochs. -/
def span1 (n : Nat) : AutoSpan := ⟨0, 1, 0, 0, none, 0, none, [(0, 1024), (3, BitVec.ofNat 32 n)], some 3, 2, 0⟩

/-- A page-in, on its way and not; moves at their first line and near their end, to T0 and to storage, clean and not; a re-home of
homes; pages used and not; spans with a leader and without one. -/
theorem witness_PageMoves :
    (let s := { wPage 0x530 with migs := [mig1 0x300000 0 2] }
     s.walk 0 0x1F0000 = .storage 0x1300F8 65536 5 ∧ s.migs.find? (fun x => x.kind == 2 && x.vi == 0 && x.va == 0x1F0000) = some (mig1 0x300000 0 2) ∧
       w.migs.find? (fun x => x.kind == 2 && x.vi == 0 && x.va == 0x1F0000) = none) ∧
    (∀ p ∈ [0, 1022, 1024], ({ wPage 0x200003 with migs := [mig1 0x300000 p 0] } : State).mig? 0x200000 = some (mig1 0x300000 p 0)) ∧
    ((mig1 0x300000 1022 0).back = false ∧ (mig1 0x300000 1022 0).pos + 1 < (mig1 0x300000 1022 0).lines ∧ (mig1 0x300000 1022 0).auto = none ∧
      Memory.wf { wPage 0x200003 with migs := [mig1 0x300000 1022 0] } = true ∧ (wPage 0).latentCe = [] ∧ (wPage 0).latentUe = [] ∧ (wPage 0).cxlLost = [] ∧ (wPage 0).hbmDown = [] ∧
      0x200000 + 64 * 1022 + 64 ≤ 0x300000 + 64 * 1022 ∧ ¬storeBase ≤ 0x300000 + 64 * 1022 ∧ (mig1 0x300000 1024 0).lines ≤ (mig1 0x300000 1024 0).pos ∧
      (mig1 0x300000 0 0).kind ≠ 2) ∧
    (let m := mig1 (storedAt 0 5) 0 0
     let s := { wPage 0x200003 with migs := [m], poison := [0x10001] }
     s.mig? 0x200000 = some m ∧ storeBase ≤ m.dst ∧ (sectors 0x200000 64).any s.poisoned = true ∧
       ({ s with poison := [] } : State).mig? 0x200000 = some m ∧ (sectors 0x200000 64).any ({ s with poison := [] } : State).poisoned = false) ∧
    (let m := { mig1 0x300000 0 0 with back := true }
     ({ w with migs := [m] } : State).mig? 0x200000 = some m ∧ m.back = true ∧ m.pos = 0) ∧
    (let m : Migration := ⟨0x1000, 0x1000, 64, 0, 0, 0x1000, 0, 3, false, none, some (0, 1, 0)⟩
     let s := { w with migs := [m], autos := [{ span1 3072 with goal := some (some 3) }] }
     s.mig? 0x1000 = some m ∧ m.auto = some (0, 1, 0) ∧ m.pos + 1 < m.lines ∧ s.autos.map (fun x => (x.vi, x.index, x.span)) = [(0, 1, 0)]) ∧
    (∀ s ∈ [wPage 0x20000B, wPage 0x200003], s.pages = [(0, 0x1F0000, 0x1300F8, 0x200000, 65536)]) ∧ tierOf 0x200000 = 0 ∧
    bit ((wPage 0x20000B).physNat 0x1300F8 8) 3 = true ∧ bit ((wPage 0x200003).physNat 0x1300F8 8) 3 = false ∧ (0, 0, 0x1F0000) ∉ (wPage 0x200003).cold ∧
    (let s := { w with autos := [span1 3072] }
     let z : AutoSpan := { span1 3072 with counts := [], goal := some (some 3), lead := some 3, since := 0, quiet := 0 }
     let s1 : State := { s with autos := [z] }
     s.autos = [span1 3072] ∧ (span1 3072).goal = none ∧ (span1 3072).leader = (3, 4096) ∧ 4096 ≤ 4096 ∧
       75 * 4096 ≤ 100 * (Mem.get (span1 3072).counts 3).toNat ∧ (span1 3072).lead = some 3 ∧ (span1 3072).home ≠ some 3 ∧ 2 ≤ (span1 3072).since ∧
       s1.spanPlace z = some 0x1000 ∧ s1.migs.all (·.auto != some (z.vi, z.index, z.span)) = true ∧ s1.canMove 0x1000 = true ∧
       (s1.basesOf z.vi (s1.spanOf z).2.1 (s1.spanOf z).2.2).any s1.moving = false) ∧
    (span1 3071).leader = (3, 4095) ∧ 4095 < 4096 ∧ (span1 3071).home = none := by
  refine ⟨?_, ?_, ?_, ?_, ?_, ?_, ?_, ?_, ?_, ?_, ?_, ?_, ?_, ?_, ?_⟩ <;> decide +kernel

/-- A grid of one team. -/
def grid1 : Grid := ⟨1, recordOf 1, 0, 0, 0, 0, none, none, 0, 0, 1, 1, 0, false, some 0, none⟩

/-- One team's grid, that fits and that does not; a slice's end with no team to place, and with one that finds a victim; an idle team; a
persistent team whose window has passed. -/
theorem witness_PlacementSteps :
    (w.grids.all (fun x => !w.gridOver x) = true ∧ ∀ k < 64, w.candidate k = none) ∧
    (let s := { w with grids := [grid1] }
     s.candidate 0 = some (.fresh grid1) ∧ (∀ k < 64, k ≠ 0 → s.candidate k = none) ∧ s.grids.all (fun x => !s.gridOver x) = true ∧
       s.candPlace 0 (.fresh grid1) = some (0, false) ∧
       ∃ n ps, (grid1.nextTeam (grid1.watch.bind s.watch?)).needs false = [n] ∧ (s.core 0).places n = some ps ∧
         lowestFree ((s.core 0).teams.map (·.1)) Config.numSlots = some 1) ∧
    (let big : Grid := { grid1 with bits := recordOf 1 + 0x7FFFF * 2 ^ 256, vi := 5 }
     let next := fun (s : State) => ((List.range 64).map fun i => ((NMap.find s.turns 1).getD 63 + 1 + i) % 64).find? fun k => match s.candidate k with
       | some x => (s.candPlace k x).isNone
       | none => false
     next w = none ∧ next { w with grids := [big] } = some 5) ∧
    (let s := w.modCore 0 fun k => { k with teams := [(0, { placedTeam with idle := 10000000 })], groups := [] }
     let t := s.modCore 0 fun k => { k with groups := [(0, { group .alu with lanes := List.replicate 32 { Lane.start 4 with wait := .op 0 (.waitc 0 0) } })] }
     t.team? 0 0 = some { placedTeam with idle := 10000000 } ∧ t.teamIdle 0 0 = true ∧ t.cfgGet Config.nSwapIdle 0 ≤ 10000000 ∧ t.stuckRemote 0 0 = false ∧
       (t.halves 0 0).all (fun h => t.queuesEmpty h.1 h.2) = true ∧ w.team? 0 0 = some placedTeam ∧ w.teamIdle 0 0 = false) ∧
    (let m := { placedTeam with persist := true, wdog := w.cfgGet Config.nWdogWin 0 }
     let s := w.modCore 0 fun k => { k with teams := [(0, m)] }
     s.barHome 0 0 = (0, 0) ∧ s.halves 0 0 = [(0, 0)] ∧ s.team? 0 0 = some m ∧ (s.core 0).stopped = false ∧
       ((s.teamGroups 0 0).find? (fun q => q.2.2.lanes.any (s.wdogLane 0 0 q))).isSome = true ∧ placedTeam.persist = false) := by
  refine ⟨by decide +kernel, ⟨by decide +kernel, by decide +kernel, by decide +kernel, by decide +kernel, ⟨1, 32, 32, 0, 0, 0⟩, (0, 0, 0, 0), by decide +kernel⟩, ?_, ?_, ?_⟩ <;> decide +kernel

theorem witness_HealthEvents :
    (({ w with clk := 5 } : State).modCore 127 fun k => { k with droopEnd := some 5 }).core 127 = { w.core 127 with droopEnd := some 5 } ∧
    (11 ∉ w.portDown ∧ 11 ∈ ({ w with portDown := [11] } : State).portDown) ∧
    (0 ∉ w.hbmDown ∧ (Mem.get w.hbmFails 0).toNat + 1 < w.cfgGet Config.nReplayLim 0 ∧
      w.cfgGet Config.nReplayLim 0 ≤ (Mem.get ({ w with hbmFails := [(0, 15)] } : State).hbmFails 0).toNat + 1 ∧ 0 ∈ ({ w with hbmDown := [0] } : State).hbmDown) ∧
    2 ^ w.cfgGet Config.nSmpLog 0 ≤ ((w.cfgPut Config.nSmpTail 0 (2 ^ w.cfgGet Config.nSmpLog 0)).cfgGet Config.nSmpTail 0 + 2 ^ 32 - w.cfgGet Config.nSmpHead 0) % 2 ^ 32 := by
  decide +kernel

theorem witness_LifeCycleEvents :
    (∃ s : State, (s.lifeCycle = .provisioned ∨ s.lifeCycle = .deployed) ∧ s.idKey = true) ∧
    ∃ s : State, ¬((s.lifeCycle = .provisioned ∨ s.lifeCycle = .deployed) ∧ s.idKey = true) :=
  ⟨⟨{ w with lifeCycle := .provisioned, idKey := true }, .inl rfl, rfl⟩, ⟨{ w with lifeCycle := .rma, idKey := true }, by simp⟩⟩

/-- IADDI at the ends of its fields, and a bit above the word. -/
theorem witness_EncodeDecode : (Instr.iaddi true 127 127 511).wellFormed = true ∧
    encode (.iaddi true 127 127 511) = some ⟨.alu, false, 0x02FFFFFF⟩ ∧ decode .alu true 0x02FFFFFF = .ok (.iaddi true 127 127 511) ∧
    (Instr.bindComplete 127 256).wellFormed = true ∧ encode (.bindComplete 127 256) = none := by
  refine ⟨by decide, by decide, rfl, by decide, by decide⟩

theorem witness_DecodeEncode : decode .alu true (2 ^ 32 + 0x02FFFFFF) = .ok (.iaddi true 127 127 511) ∧
    ∃ i, decode .alu true 0x297F7FFF = .ok i ∧ i.wellFormed = true := ⟨rfl, _, rfl, by decide⟩

/-- IADDI v127, v127, 511 placed in a group, and CFGRD in the control thread. -/
def placed (w : Nat) : State := State.reset.withFetchWord 32 w

def goes (s : State) (c : Nat) (a : Agent) (x : LaneSet) (t : State) : Bool :=
  [true, false].all fun r => match s.prep c a x 0 r with | .go u => decide (u = t) | .stop _ => false

theorem goes_eq {s : State} {c : Nat} {a : Agent} {x : LaneSet} {t : State} (h : goes s c a x t = true) (r : Bool) : s.prep c a x 0 r = .go t := by
  have h1 : (match s.prep c a x 0 r with | .go u => decide (u = t) | .stop _ => false) = true := by
    have := List.all_eq_true.mp h r (by cases r <;> decide)
    simpa using this
  split at h1
  · rename_i u hu
    rw [hu, of_decide_eq_true h1]
  · exact absurd h1 (by decide)

/-- An outside step, a placed group, and a placed control thread. -/
theorem witness_StepRunsDecoded :
    (({ placed 0 with inbox := [.tick] } : State).inbox = .tick :: [] ∧ (placed 0).bootStopped = false) ∧
    (let s := placed 0x02FFFFFF
     let x : LaneSet := ⟨0, none, List.range 32⟩
     let s0 := s.withActive 0 0
     let t := s0.withIssue 0 (.grp 0) (List.range 32) 4 ⟨0, s.physNat 64 4⟩ 0x02FFFFFF 0 0
     s.inbox = [] ∧ s.units = (5 * 0 + 0) :: [1, 2, 3, 4] ∧ (s.core 0).groups = [(0, placedGroup)] ∧ placedGroup.islot = 0 ∧ placedGroup.fresh = false ∧
       s.team? 0 placedGroup.team = some placedTeam ∧ s.active 0 0 = [0] ∧
       (Out.turnedAway 0 0 x (Out.map (fun u => { u with kept := [] }) (exec (.iaddi true 127 127 511) t.withKept))).isNone = true ∧ s0.readySets 0 (.grp 0) = (s0, [x]) ∧ (∀ r, s0.prep 0 (.grp 0) x 0 r = .go t) ∧
       exec (.dstopHit 0 0) t = .next t ∧ t.decodeIssue = .ok (.iaddi true 127 127 511) ∧ s.codeOf 0 (.grp 0) = (1, ⟨0, false, 0, 0⟩) ∧
       s.resolve ⟨0, false, 0, 0⟩ 1 4 4 [.execute] none = .ok ⟨0, 68, placedEntry, 0, 1, 4, placedEntry, none⟩ ∧
       s.HeapRef ⟨0, 68, placedEntry, 0, 1, 4, placedEntry, none⟩ 4 68 ∧ s.hbmDown = [] ∧ s.heldSet 0 0 = none ∧ t.me.code = [] ∧
       Out.faulted s0 0 (.grp 0) (Out.map (fun u => { u with kept := [] }) (exec (.iaddi true 127 127 511) t.withKept)) = false) ∧
    (let s := placed 0x18000007
     let x : LaneSet := ⟨0, none, List.range 32⟩
     let s0 := s.withActive 0 0
     let t := s0.withIssue 0 (.grp 0) (List.range 32) 4 ⟨0, s.physNat 64 4⟩ 0x18000007 0 0
     s.units = (5 * 0 + 0) :: [1, 2, 3, 4] ∧ s.heldSet 0 0 = none ∧ s0.readySets 0 (.grp 0) = (s0, [x]) ∧ (∀ r, s0.prep 0 (.grp 0) x 0 r = .go t) ∧
       exec (.dstopHit 0 0) t = .next t ∧ t.decodeIssue = .ok (.trap 7) ∧ t.me.code = [] ∧
       Out.faulted s0 0 (.grp 0) (Out.map (fun u => { u with kept := [] }) (exec (.trap 7) t.withKept)) = true) := by
  refine ⟨by decide +kernel, ⟨?_, ?_, ?_, ?_, ?_, ?_, ?_, ?_, ?_, fun r => goes_eq ?_ r, ?_, ?_, ?_, ?_, ?_, ?_, ?_, ?_, ?_⟩,
    ⟨?_, ?_, ?_, fun r => goes_eq ?_ r, ?_, ?_, ?_, ?_⟩⟩
  all_goals first | decide +kernel | rfl | (constructor <;> decide +kernel)

/-- The part after reset, whose next step has nothing but the clock to do. -/
theorem witness_MemoryCanonical : Memory.wf State.reset = true ∧ ∃ t, step State.reset = .next t := ⟨by decide +kernel, _, rfl⟩

/-! Words that the spec writes out, and what they stand for. -/

/-- The words of a clause are what `encode` gives, and decode to the instruction. -/
def word (c : Cls) (v : Nat) (i : Instr) : Bool := reads c [(v, i)] && decide (encode i = some ⟨c, takesExt c v, v⟩)

/-- Table En-16. -/
theorem test_words_loop : (word .mem 0x04080824 (.ldw false 8 4 1 4) && word .alu 0x020911FD (.iaddi false 9 8 0x1FD) &&
    word .alu 0x420A1020 (.fmul false 10 8 8 0) && word .ctl 0x001FFFFB (.br 1 true 0x7FFFB)) = true := by decide +kernel

/-- Tables En-16 and Fe-4: headers. -/
theorem test_headers : (decodeHeader 0xC7800011 = .ok ⟨false, false, none, some 0, 0, .mem, 1⟩) ∧ (decodeHeader 0xC7F80082 = .ok ⟨false, false, none, none, 1, .alu, 2⟩) ∧
    (decodeHeader 0xC7F80041 = .ok ⟨false, false, none, none, 0, .ctl, 1⟩) ∧ (decodeHeader 0xC7F80071 = .error 2) ∧ decodeHeader 0xC7F80010 = .error 3 := by
  refine ⟨rfl, rfl, rfl, rfl, rfl⟩

/-- Table Al-15. -/
theorem test_words_alu : (word .alu 0x430A1024 (.ffma false 10 8 9 0) && word .alu 0x30220A19 (.icmp false 2 2 5 6 1) &&
    word .alu 0x32380004 (.clog false 3 8 0 1) && word .alu (0x23070C00 + 0x4C08 * 2 ^ 32) (.bfe false 7 6 0 0 8 12 true) &&
    word .alu 0x2A048001 (.lix false 4 1 1 0) && word .alu (0x81140858 + 0x2A0A0 * 2 ^ 32) (.cvtq false 20 4 22 0 10 5 false 1 false false false 0) &&
    word .alu 0xA30C0C20 (.rduc 12 6 8)) = true := by decide +kernel

/-- Table Mi-12. -/
theorem test_words_mem : (word .mem 0x05041463 (.ldd false 4 10 3 3) && word .mem 0x0A070582 (.stw false 7 2 12 2) &&
    word .mem (0x20860840 + 5 * 2 ^ 32) (.aadd 6 4 2 0 5 false 0) && word .mem 0x30091020 (.upd false 9 8 1 0) &&
    word .mem (0x40030420 + 0x800 * 2 ^ 32) (.waitc false 3 2 1 0 0 0 1) && word .mem 0x41000002 (.fence false 2) &&
    word .mem (0x54000060 + 5 * 2 ^ 32) (.bind false 3 5 false) && word .mem 0x60000C03 (.hset false 6 3)) = true := by decide +kernel

/-- Table Mx-8. -/
theorem test_words_mtx : (word .mtx (0x0010300C + 0x50A41004 * 2 ^ 32) (.mma 16 24 3 0 0 true 0 4 41 40) &&
    word .mtx (0x01103814 + 0x1984 * 2 ^ 32) (.mmav 16 28 5 0 0 true 48 6 0 0) && word .mtx 0x08032800 (.orset 3 20) && word .mtx 0x09140600 (.orget 20 3) &&
    word .mtx 0x10011E04 (.accz 1 15 4) && word .mtx (0x11080000 + 0xE00004 * 2 ^ 32) (.accrd 8 4 0 0 7) && word .mtx 0x18021280 (.mthr 2 9 32 0) &&
    word .mtx 0x190C0400 (.mvst 12 2 0 0) && word .mtx 0x1A0E0014 (.mstat 14 5) && word .mtx 0x20000001 (.msync 1)) = true := by decide +kernel

/-- Table Ec-13. -/
theorem test_words_eng_ctl : (word .eng 0x02140801 (.tgath false 20 4 1) && word .eng 0x04980E00 (.tcast true 24 7 0) && word .eng 0x10002800 (.fwait false 20 0) &&
    word .eng 0x11032800 (.ftest false 3 20) && word .eng 0x18060500 (.launch false 6 2 0 true) && word .eng 0x22020001 (.zend false 2 1) &&
    word .eng 0x30100001 (.evpop false 16 true) && word .ctl 0x0027FFFD (.br 2 false 0x7FFFD) && word .ctl 0x03000028 (.call 40) && word .ctl 0x08000003 (.bar 3) &&
    word .ctl 0x10000004 (.racq 4) && word .ctl 0x20050010 (.cfgrd 5 0x10) && word .ctl 0x2400040C (.gsave 2 3 0)) = true := by decide +kernel

/-- Table Fe-4. -/
theorem test_words_refused : (decode .alu false 0xC7F80011 = .error (.illegalOpcode 0)) ∧ (decode .alu false 0x44000000 = .error (.illegalOpcode 0)) ∧
    (decode .alu false 0xA0850C18 = .error (.illegalOpcode 1)) ∧ (decode .mem false (0x20060840 + 5 * 2 ^ 32) = .error (.illegalOpcode 1)) ∧
    (decode .ctl false 0x20050010 = .error (.illegalOpcode 2)) ∧ (decode .alu false 0x000A1025 = .error (.reserved 2 0)) ∧
    (decode .mem false 0x05051463 = .error (.reserved 3 16)) ∧ decode .mem false 0x0A0705E2 = .error (.reserved 4 5) := by
  refine ⟨rfl, rfl, rfl, rfl, rfl, rfl, rfl, rfl⟩

/-! Steps of the spec's worked examples. -/

/-- What holds of the next state. -/
def after (o : Out) (p : State → Bool) : Bool := match o with | .next t => p t | _ => false

/-- The example after R381: a load whose lanes from 4 up run past a buffer of 0x1010 bytes, in group slot 5 of team slot 2 of interface 3. -/
theorem test_fault_record :
    let ls := List.range 32
    let s := ((base .mem ls).cfgPut Config.nCtRun 0 1).modCore 0 fun k =>
      { k with groups := [(5, { group .mem with team := 2, rwc := 1000, slots := [(1, 0x10005)] })], teams := [(2, { placedTeam with vi := 3, codeH := 0x10003 })] }
    let s1 := ((s.cfgPut Config.nBtSize 3 6).poke 160 (leBytes (0x1000 + 0x100F * 2 ^ 64 + 2 ^ 96 + 3 * 2 ^ 112 + 2 ^ 127 + 31 * 2 ^ 128) 32))
    let s2 : State := { s1 with issue := ⟨0, .grp 5, ls, 0x204, ⟨0x200, 0xC7800011⟩, 0x04080824, 0, 0⟩ }
    after (exec (.ldw false 8 4 1 4) (ls.foldl (fun t l => put t l 4 (BitVec.ofNat 32 (0xFF0 + 4 * l))) s2)) (fun t =>
      (List.range 16).map (fun m => t.cfgGet (Config.nTrec0 + m) 0) ==
        [0x02050311, 0x204, 0x10003, 0x3E8, 0, 0xFFFFFFFF, 0, 0, 0, 0x10005, 0x1010, 0x404, 0x04080824, 0, 0, 0]) = true := by decide +kernel

/-- The example after R195: CVTQ.v4.f32.e2m1 of sixteen values. -/
theorem test_cvtq :
    let xs := [0x3E99999A, 0xBF99999A, 0x4039999A, 0x3D4CCCCD, 0, 0xBF333333, 0x3F800000, 0x40B00000, 0xC00CCCCD, 0x3F666666, 0x3DF5C28F, 0xC0666666, 0x3FCCCCCD,
      0x3ECCCCCD, 0xBC23D70A, 0x4019999A]
    let s := (xs.zipIdx).foldl (fun t x => put t 3 (4 + x.2) (BitVec.ofNat 32 x.1)) (base .alu [3])
    after (exec (.cvtq false 20 4 22 0 10 5 false 1 false false false 0) s) (fun t =>
      t.me.reg 3 20 == 0x729005A1 && t.me.reg 3 21 == 0x4013E02C && t.me.reg 3 22 == 0x60 && t.me.fpf &&& flagNX != 0) = true := by decide +kernel

/-- The example after R206: AADD.i32.one of lanes 0, 3, 4, 9 and 17 on a word that holds 100; the old values, in lane order. -/
theorem test_aadd :
    let s := ([(0, 2), (3, 3), (4, 1), (9, 4), (17, 0)].foldl (fun t x => put t x.1 5 x.2) (base .mem [0, 3, 4, 9, 17])).poke 0x1000 (leBytes 100 4)
    after (exec (.aadd 6 4 3 0 5 false 0) s) (fun t => leNat (Mem.bytes t.mem 0x1000 4) == 110 &&
      [0, 3, 4, 9, 17].map (fun l => (t.me.reg l 6).toNat) == [100, 102, 105, 106, 110]) = true := by decide +kernel

/-- The example after R45: 10 teams over ranks 3, 7 and 12. -/
theorem test_share : [3, 7, 12].map (fun r => (State.reset.cfgPut Config.nFabRank 0 r).share 10 (2 ^ 3 + 2 ^ 7 + 2 ^ 12)) = [(0, 4), (4, 8), (8, 10)] := by
  decide +kernel

/-- The example after R325: a heap window's address and its physical one. -/
theorem test_heap : (((State.reset.cfgPut Config.nHeapBase 3 8).cfgPut Config.nHeapLimit 3 0x208).cfgPut Config.nHeapOffset 3 0x10).lookup 3 0x1001234 =
    some 0x3001234 := by decide +kernel

/-- A sum that wraps, in a lane whose source is its destination. -/
theorem test_iadd_wraps : after (exec (.iadd false 0 0 1) (put (put w 31 0 0xFFFFFFFF) 31 1 2)) (fun t => t.me.reg 31 0 == 1) = true := by decide +kernel

/-- R35, R36: a placed word runs as the first step after reset. -/
theorem test_first_step : after (step (placed 0x020005FF)) (fun t => t.me.reg 31 0 == 0xFFFFFFFF) = true := by decide +kernel

/-- R386: in the cycle of a fault of slot 1's group, slot 0's IADDI has no effect; after R388, two groups' faults are two entries. -/
theorem test_stop_cycle :
    let s := (placed 0x020005FF).poke 80 (clauseBytes .alu 0x44000000)
    let at_ := fun (slot pc : Nat) => ({ placedGroup with islot := slot, lanes := List.replicate 32 (Lane.start pc) } : Group)
    let two := fun (g h : Group) => step (s.modCore 0 fun k => { k with groups := [(0, g), (1, h)] })
    (after (two (at_ 0 0) (at_ 1 16)) (fun t => ((t.core 0).group? (.grp 0)).map (fun g => g.reg 31 0) == some 0 && (t.core 0).stopped && t.cursor == 5 &&
        (t.core 0).entries.map (fun e => (e.code, e.gslot)) == [(2, 1)]) &&
      after (two (at_ 1 16) (at_ 0 16)) (fun t => (t.core 0).entries.map (fun e => (e.code, e.gslot)) == [(2, 0), (2, 1)] &&
        t.cfgGet Config.nErrTrap 0 == 2)) = true := by decide +kernel

end Sys2Proof.Tests
end

section
/-!
SUPPORT. Issues that stop before their instruction acts: a register outside the allocation (R28), and the control thread's instructions in
another group (R49).
-/
namespace Sys2Proof.Machine

/-- The lowest register outside the allocation, by what it is. -/
theorem Group.lowestOutside_eq {g : Group} {rs : List Nat} {r : Nat} (hr : r ∈ rs) (hb : 16 * g.blocks ≤ r)
    (hmin : ∀ q ∈ rs, 16 * g.blocks ≤ q → r ≤ q) : g.lowestOutside rs = some r := by
  unfold Group.lowestOutside
  rw [List.min?_eq_some_iff]
  refine ⟨List.mem_filter.mpr ⟨hr, decide_eq_true hb⟩, fun q hq => ?_⟩
  obtain ⟨hq, hqb⟩ := List.mem_filter.mp hq
  exact hmin q hq (of_decide_eq_true hqb)

/-- An issue that names a register outside the allocation faults with the lowest one, and its body does not run (R28, R393). -/
theorem issueWith_unallocated {s : State} {u : Bool} {reads writes : List Nat} {k : State → Out} {r : Nat}
    (hs : s.Issuing) (hr : r ∈ reads ++ writes) (hb : 16 * s.me.blocks ≤ r)
    (hmin : ∀ q ∈ reads ++ writes, 16 * s.me.blocks ≤ q → r ≤ q) :
    issueWith u reads writes s k = .next (s.raise 0x05 (r + s.me.blocks * 256) 0 0) := by
  obtain ⟨g, hg⟩ := Option.isSome_iff_exists.mp hs.1
  obtain ⟨l, ls, hl⟩ := List.exists_cons_of_ne_nil hs.2
  have hme : s.me = g := by simp [State.me, hg]
  unfold issueWith
  simp only [hg, hl, ← hme, Group.lowestOutside_eq hr hb hmin]

/-- Settles O14: each of the nine shapes is one issue frame over the registers listed, and the frame looks at the allocation first. -/
theorem unallocatedRegister : Obligations.UnallocatedRegister := by
  unfold Obligations.UnallocatedRegister
  intro s u d a b m i h r hs p hp hr hb hmin
  simp only [List.mem_cons, List.not_mem_nil, or_false] at hp
  rcases hp with rfl | rfl | rfl | rfl | rfl | rfl | rfl | rfl | rfl
  · rw [exec_iadd, execIadd, alu2, laneOp]
    exact issueWith_unallocated hs hr hb hmin
  · rw [exec_imad, execImad, if_pos rfl, laneOp]
    exact issueWith_unallocated hs hr hb hmin
  · rw [exec_iadd64, execIadd64, aluPair, laneOp]
    exact issueWith_unallocated hs hr hb hmin
  · rw [exec_icmp, execIcmp, if_pos (Nat.zero_le 1), flagOp]
    exact issueWith_unallocated hs hr hb hmin
  · rw [exec_fadd, execFadd, fp2, fpOp]
    exact issueWith_unallocated hs hr hb hmin
  · rw [exec_shfl, execShfl, issueSet]
    exact issueWith_unallocated hs hr hb hmin
  · rw [exec_ldw, execLdw, loadOne, loadOp, accessWith]
    exact issueWith_unallocated hs hr hb hmin
  · rw [exec_stq, execStq, storeOp, accessWith]
    exact issueWith_unallocated hs hr hb hmin
  · rw [exec_aadd, execAadd, atomicOp, accessSet, issueSet]
    exact issueWith_unallocated hs hr hb hmin

/-- Outside the control thread a privileged instruction is refused before its operands are looked at. -/
theorem privWith_refused {s : State} (h : s.isCt = false) (k : State → Out) :
    privWith s k = .next (s.raise 0x02 2 0 0) := by
  unfold privWith
  rw [if_neg (by simp [h])]

/-- Settles O44: each of the eleven instructions has the privilege check as its first act. -/
theorem privilegedInstructions : Obligations.PrivilegedInstructions := by
  unfold Obligations.PrivilegedInstructions
  intro s u w d a b m i h p hp
  simp only [List.mem_cons, List.not_mem_nil, or_false] at hp
  rcases hp with rfl | rfl | rfl | rfl | rfl | rfl | rfl | rfl | rfl | rfl | rfl
  · rw [exec_evpop, execEvpop, privWith_refused h]
  · rw [exec_evpeek, execEvpeek, privWith_refused h]
  · rw [exec_qcfg, execQcfg, privWith_refused h]
  · rw [exec_cfgrd, execCfgrd, privWith_refused h]
  · rw [exec_cfgwr, execCfgwr, privWith_refused h]
  · rw [exec_eret, execEret, privWith_refused h]
  · rw [exec_gstat, execGstat, privWith_refused h]
  · rw [exec_gsave, execGsave, privWith_refused h]
  · rw [exec_gload, execGload, privWith_refused h]
  · rw [exec_gstop, execGstop, privWith_refused h]
  · rw [exec_gkill, execGkill, privWith_refused h]

end Sys2Proof.Machine
end

section
/-!
SUPPORT. The operations in flight: what finding, ending and waking one does to the state and its groups; and the events that end waits
(R29, R86, R106, R217, R287, R291).
-/
namespace Sys2Proof.Machine

/-! Operations and groups. -/

theorem State.op?_single {s : State} {o : Op} (h : s.ops = [o]) : s.op? o.id = some o := by
  simp [State.op?, h]

/-- The end of an operation: its group wakes, and it is gone. -/
theorem State.finishOp_eq {s : State} {id : Nat} {o : Op} (h : s.op? id = some o) :
    s.finishOp id = (s.modGroup o.core o.agent (·.wake id)).endOp id := by
  unfold State.finishOp
  simp only [h]

theorem State.ops_finishOp_single {s : State} {o : Op} (h : s.ops = [o]) : (s.finishOp o.id).ops = [] := by
  rw [State.finishOp_eq (State.op?_single h)]
  simp [State.endOp, h]

@[simp] theorem Group.wake_reg (g : Group) (id l r : Nat) : (g.wake id).reg l r = g.reg l r := rfl
@[simp] theorem Group.wake_blocks (g : Group) (id : Nat) : (g.wake id).blocks = g.blocks := rfl

@[simp] theorem State.group?_endOp (s : State) (id c : Nat) (a : Agent) : (s.endOp id).group? c a = s.group? c a := rfl

/-- The group of an operation that ends. -/
theorem State.group?_finishOp {s : State} {id : Nat} {o : Op} (h : s.op? id = some o) :
    (s.finishOp id).group? o.core o.agent = (s.group? o.core o.agent).map (·.wake id) := by
  rw [State.finishOp_eq h]
  exact State.group?_modGroup_self s _ _ _

/-! WAITC compares again. -/

/-- With no update pairs an access applies none. -/
theorem State.applyFor_of_pairs {s : State} (h : s.pairs = []) (rs : List (Nat × Nat)) : s.applyFor rs = .ok s := by
  unfold State.applyFor State.dueFolios
  rw [if_pos h]
  rfl

/-- With no update pairs none of them stands in a side log. -/
theorem State.pairsLogged_of_pairs {s : State} (h : s.pairs = []) (rs : List (Nat × Nat)) : s.pairsLogged rs = false := by
  unfold State.pairsLogged State.loggedOn State.dueFolios
  rw [if_pos h]
  rfl

/-- A WAITC whose bytes another access holds compares later. -/
theorem State.recompare_claimed {s : State} {o : Op} {d : Nat} {k : Cond} (hk : o.kind = .waitc d k false)
    (hc : s.claimed (o.core, o.agent, o.lanes.headD 0) physSpace k.pa k.bytes = true) : s.recompare o = s := by
  unfold State.recompare
  rw [hk]
  simp only [hc, Bool.true_or, if_true]

/-- A WAITC that nothing stands before compares: it completes, or arms a monitor where there is room (R85, R106). -/
theorem State.recompare_free {s : State} {o : Op} {d : Nat} {k : Cond} (hk : o.kind = .waitc d k false) (hp : s.pairs = [])
    (hce : s.latentCe = []) (hue : s.latentUe = [])
    (hc : s.claimed (o.core, o.agent, o.lanes.headD 0) physSpace k.pa k.bytes = false)
    (hl : s.logged o.core physSpace k.pa k.bytes = false) :
    s.recompare o =
      let u := s.unitGoes (.op o.id)
      if s.condMet k then u.waitcTrue o d k
      else if s.armedAt k.slice < 512 then u.modOp o.id fun p => { p with kind := .waitc d k true } else u := by
  have hd : (s.unitGoes (.op o.id)).detect k.pa k.bytes = s.unitGoes (.op o.id) := by
    unfold State.detect
    rw [if_pos ⟨hce, hue⟩]
  unfold State.recompare
  rw [hk]
  simp only [hc, hl, State.pairsLogged_of_pairs hp, State.applyFor_of_pairs hp, hd, Bool.or_false, Bool.false_eq_true, if_false]
  rfl

/-- WAITC_RECOMPARE of an agent with one operation, at a cycle of its compares. -/
theorem execWaitcRecompare_single {s : State} {c a : Nat} {o : Op} (ho : s.opsOf c (Agent.ofNum a) = [o])
    (ht : (s.clk + 2 ^ 64 - o.clk) % 4096 = 0) : exec (.waitcRecompare c a) s = .next (s.recompare o) := by
  rw [exec_waitcRecompare, execWaitcRecompare, ho, List.filter_cons_of_pos (by simpa using ht)]
  rfl

/-- WAITC_RECOMPARE of an agent whose one operation does not change the state when it compares. -/
theorem execWaitcRecompare_same {s : State} {c a : Nat} {o : Op} (ho : s.opsOf c (Agent.ofNum a) = [o]) (hr : s.recompare o = s) :
    exec (.waitcRecompare c a) s = .next s := by
  rw [exec_waitcRecompare, execWaitcRecompare, ho, List.filter_singleton]
  cases decide ((s.clk + 2 ^ 64 - o.clk) % 4096 = 0)
  · rfl
  · exact congrArg _ hr

/-! MAILBOX_DELIVERY. -/

/-- What a delivery does before a receiver is served: the message stands in its mailbox, and teams that wait there are ready. -/
def State.mboxArrived (s : State) (c m j : Nat) (msg : List Word) : State :=
  let s1 := s.modCore c fun k => { k with mboxFly := k.mboxFly.eraseIdx j, mbox := k.mbox ++ [(m, msg)] }
  { s1 with swapped := s1.swapped.map fun w => if (c, m) ∈ w.mboxes then { w with ready := true } else w }

theorem execMailboxDelivery_found {s : State} {c m j : Nat} {msg : List Word}
    (hj : (s.core c).mboxFly.findIdx? (·.1 == m) = some j) (hm : (s.core c).mboxFly[j]? = some (m, msg)) :
    exec (.mailboxDelivery c m) s = .next (((s.mboxArrived c m j msg).serveMailbox c m).due .teamPlacement) := by
  rw [exec_mailboxDelivery, execMailboxDelivery, hj]
  simp only [hm, Option.map_some, Option.getD_some]
  rfl

theorem State.core_mboxArrived (s : State) (c m j : Nat) (msg : List Word) :
    (s.mboxArrived c m j msg).core c =
      { s.core c with mboxFly := (s.core c).mboxFly.eraseIdx j, mbox := (s.core c).mbox ++ [(m, msg)] } :=
  State.core_modCore_self s c fun k => { k with mboxFly := k.mboxFly.eraseIdx j, mbox := k.mbox ++ [(m, msg)] }

theorem State.group?_mboxArrived (s : State) (c m j : Nat) (msg : List Word) (d : Nat) (a : Agent) :
    (s.mboxArrived c m j msg).group? d a = s.group? d a :=
  State.group?_modCore s c (fun k => { k with mboxFly := k.mboxFly.eraseIdx j, mbox := k.mbox ++ [(m, msg)] }) (fun _ => rfl)
    (fun _ => rfl) d a

/-- With no receiver at a mailbox, nothing is served. -/
theorem State.serveMailbox_none {s : State} {c m : Nat} (h : ∀ p ∈ s.ops, ∀ d u, p.kind ≠ .mbrecv d m u) : s.serveMailbox c m = s := by
  unfold State.serveMailbox
  split
  · rfl
  · rename_i o ho
    have hr := List.find?_some ho
    have hn := h o (List.mem_of_find?_eq_some ho)
    cases hk : o.kind <;> simp_all

/-- The message of a mailbox that holds one. -/
theorem State.takeMessage_single {s : State} {c m : Nat} {msg : List Word} (h : (s.core c).mbox = [(m, msg)]) :
    s.takeMessage c m = some (msg, s.modCore c fun k => { k with mbox := k.mbox.eraseIdx 0 }) := by
  simp [State.takeMessage, h, List.findIdx?_cons]

/-- The one receiver receives the one message. -/
theorem State.serveMailbox_single {s : State} {c m d : Nat} {u : Bool} {o : Op} {msg : List Word} (ho : s.ops = [o]) (hc : o.core = c)
    (hk : o.kind = .mbrecv d m u) (h : (s.core c).mbox = [(m, msg)]) :
    s.serveMailbox c m = (((s.modCore c fun k => { k with mbox := k.mbox.eraseIdx 0 }).modGroup c o.agent fun g =>
      (o.lanes.foldl (fun h l => h.setRegs l (blockWrites d msg)) g).wake o.id).endOp o.id) := by
  unfold State.serveMailbox
  simp [ho, hc, hk, State.takeMessage_single h]

/-- The 16 words of a block, in the registers that they are written to. -/
theorem lastWrite_blockWrites (d k : Nat) (ws : List Word) (old : Word) (hk : k < 16) :
    lastWrite (blockWrites d ws) (d + k) old = (ws[k]?).getD 0 := by
  have key : ∀ n, lastWrite ((List.range n).map fun m => (d + m, (ws[m]?).getD 0)) (d + k) old =
      if k < n then (ws[k]?).getD 0 else old := by
    intro n
    induction n with
    | zero => rfl
    | succ n ih =>
      rw [List.range_succ, List.map_append]
      unfold lastWrite at ih ⊢
      rw [List.foldl_append, ih]
      by_cases e : k = n
      · subst e
        simp
      · have : d + n ≠ d + k := by omega
        simp only [List.map_cons, List.map_nil, List.foldl_cons, List.foldl_nil, if_neg this]
        simp only [show (k < n + 1) = (k < n) by simp; omega]
  exact (key 16).trans (if_pos hk)

theorem Group.reg_giveBlock (g : Group) (ls : List Nat) (d : Nat) (ws : List Word) {l k : Nat} (hl : l ∈ ls)
    (hk : k < 16) : (ls.foldl (fun h l => h.setRegs l (blockWrites d ws)) g).reg l (d + k) = (ws[k]?).getD 0 := by
  rw [Group.reg_setLanes, if_pos hl, lastWrite_blockWrites _ _ _ _ hk]
  intro _ _ x hx
  obtain ⟨m, hm, rfl⟩ := List.mem_map.mp hx
  have := List.mem_range.mp hm
  dsimp only
  omega

/-! RACQ_GRANT. -/

/-- A request that may be served behind others may be served at the head of the queue. -/
theorem State.racqServable_first {s : State} {c : Nat} {o : Op} (h : s.racqServable c false o = true) : s.racqServable c true o = true := by
  unfold State.racqServable at h ⊢
  split at h
  · simp only [Bool.false_or, Bool.true_or, Bool.or_eq_true, Bool.and_eq_true] at h ⊢
    rcases h with h | h
    · exact .inl h
    · exact .inr ⟨trivial, h.2⟩
  · cases h

/-- The one request of a core is next if it can be served. -/
theorem State.racqNext_single {s : State} {c n : Nat} {o : Op} {g : Group} (ho : s.ops = [o]) (hc : o.core = c) (hk : o.kind = .racq n)
    (hg : s.group? c o.agent = some g) : s.racqNext c = if s.racqServable c true o then some o else none := by
  have hq : s.racqs c = [o] := by simp [State.racqs, ho, hc, hk]
  unfold State.racqNext
  simp only [hq, List.find?_cons, hg, List.find?_nil]
  cases h : (s.core c).oldest g.team && s.racqServable c false o
  · rfl
  · rw [Bool.and_eq_true] at h
    rw [if_pos (State.racqServable_first h.2)]

theorem execRacqGrant_single {s : State} {c n : Nat} {o : Op} {g : Group} (ho : s.ops = [o]) (hc : o.core = c) (hk : o.kind = .racq n)
    (hg : s.group? c o.agent = some g) : exec (.racqGrant c) s =
      .next (if s.racqServable c true o then (s.modGroup c o.agent (·.grow n)).finishOp o.id else s) := by
  rw [exec_racqGrant, execRacqGrant, ho]
  show Host.Outcome.next (s.grantRacqs c 1) = _
  unfold State.grantRacqs
  rw [State.racqNext_single ho hc hk hg]
  split
  · rename_i h
    split at h
    · cases h
    · rename_i h'
      rw [if_neg h']
  · rename_i x h
    split at h
    · rename_i h'
      cases h
      rw [hk, if_pos h']
      rfl
    · cases h

/-! SLEEP_EXPIRY. -/

/-- A lane of a group whose lanes are all changed by `f`. -/
theorem Group.lane_map (g : Group) (f : Lane → Lane) {l : Nat} (hl : l < g.lanes.length) :
    ({ g with lanes := g.lanes.map f } : Group).lane l = f (g.lane l) := by
  simp [Group.lane, hl]

/-! GSTOP_DRAIN_COMPLETE. -/

theorem execGstopDrainComplete_single {s : State} {c n : Nat} {o : Op} (ho : s.ops = [o]) (hk : o.kind = .gstop n) :
    exec (.gstopDrainComplete c) s = .next (if o.core = c then s.settleDrain o n else s) := by
  rw [exec_gstopDrainComplete, execGstopDrainComplete, ho]
  simp only [List.foldl_cons, List.foldl_nil, hk]

/-- Settles O46, clause by clause from the rule of each event: the compare of a WAITC, the delivery, the grant, the expiry, the drain. -/
theorem waitsEnd : Obligations.WaitsEnd := by
  unfold Obligations.WaitsEnd
  intro s c a o
  refine ⟨?waitc, ?held, ?mailbox, ?racq, ?sleep, ?gstop⟩
  case waitc =>
    intro d k hp hce hue ho hk ht hc hl u
    rw [execWaitcRecompare_single ho ht, State.recompare_free hk hp hce hue hc hl]
    refine ⟨fun hm => ?_, fun hm hr => ?_, fun hm hr => ?_⟩
    · simp only [hm, if_true, u]
    · simp only [hm, Bool.false_eq_true, if_false, if_pos hr, u]
    · simp only [hm, Bool.false_eq_true, if_false, if_neg (Nat.not_lt.mpr hr), u]
  case held =>
    intro d k ho hk hc
    exact execWaitcRecompare_same ho (State.recompare_claimed hk hc)
  case mailbox =>
    intro m j msg hj hm
    refine ⟨fun hno => ⟨_, execMailboxDelivery_found hj hm, ?_⟩,
      fun d u g ho hc hk _ hempty hg => ⟨_, execMailboxDelivery_found hj hm, ?_⟩⟩
    · rw [State.serveMailbox_none (s := s.mboxArrived c m j msg) hno]
      show ((s.mboxArrived c m j msg).core c).mbox = _ ∧ ((s.mboxArrived c m j msg).core c).mboxFly = _
      rw [State.core_mboxArrived]
      exact ⟨rfl, rfl⟩
    · have hbox : ((s.mboxArrived c m j msg).core c).mbox = [(m, msg)] := by
        rw [State.core_mboxArrived, hempty]
        rfl
      have hopen : (s.mboxArrived c m j msg).ops = [o] := ho
      rw [State.serveMailbox_single hopen hc hk hbox]
      refine ⟨?_, ?_, ?_⟩
      · simp [State.endOp, hopen]
      · have hrest := State.core_modGroup_rest ((s.mboxArrived c m j msg).modCore c fun k => { k with mbox := k.mbox.eraseIdx 0 }) c o.agent
          (fun g => (o.lanes.foldl (fun h l => h.setRegs l (blockWrites d msg)) g).wake o.id) c
        refine (congrArg Core.mbox hrest).trans ?_
        rw [State.core_modCore_self]
        simp [hbox]
      · have hg' : ((s.mboxArrived c m j msg).modCore c fun k => { k with mbox := k.mbox.eraseIdx 0 }).group? c o.agent = some g := by
          rw [State.group?_modCore _ c (fun k => { k with mbox := k.mbox.eraseIdx 0 }) (fun _ => rfl) (fun _ => rfl),
            State.group?_mboxArrived, hg]
        refine ⟨_, (State.group?_modGroup_self _ c o.agent _).trans (congrArg _ hg'), fun l hl k hk16 => ?_⟩
        rw [Group.wake_reg]
        exact Group.reg_giveBlock g o.lanes d msg hl hk16
  case racq =>
    intro n g ho hc hk hg
    have he := execRacqGrant_single ho hc hk hg
    refine ⟨fun hs => ?_, fun hs => ?_⟩
    · rw [if_pos hs] at he
      have ho' : (s.modGroup c o.agent (·.grow n)).ops = [o] := ho
      refine ⟨_, he, State.ops_finishOp_single ho', (g.grow n).wake o.id, ?_, rfl⟩
      subst hc
      rw [State.group?_finishOp (State.op?_single ho'), State.group?_modGroup_self, hg]
      rfl
    · rw [he, if_neg (by simp [hs])]
  case sleep =>
    intro g hg
    refine ⟨_, rfl, _, (State.group?_modGroup_self s c (Agent.ofNum a) _).trans (congrArg _ hg), by simp, fun l hl => ?_⟩
    rw [Group.lane_map _ _ hl]
    cases hw : (g.lane l).wait <;> simp only
    case sleep till =>
      split
      · rfl
      · exact hw
    all_goals exact hw
  case gstop =>
    intro n m ho hk ht
    rw [execGstopDrainComplete_single ho hk]
    refine ⟨fun hc hd => ?_, fun hc hd hs => ?_, fun hc => ?_⟩
    · subst hc
      rw [if_pos rfl, State.settleDrain]
      simp only [ht, hd, if_true]
    · subst hc
      rw [if_pos rfl, State.settleDrain]
      simp only [ht, hd, hs, Bool.false_eq_true, if_false]
    · rw [if_neg hc]

end Sys2Proof.Machine
end

section
/-!
SUPPORT. Launches on their way to grids: triggers, pending launches, launch queues and start barriers (R41 to R45, R81, R297, R298, R345,
R433, R458).
-/
namespace Sys2Proof.Machine

/-- A step that names no address outside memory goes on. -/
theorem finish_next {t : State} (h : t.badPa = none) : finish t = .next t := by
  unfold finish
  rw [h]

/-! Triggers. -/

/-- The first waiting trigger of a slice that its watch may dispatch, in spawn mode, becomes a grid. -/
theorem State.dispatchFirst_spawn {s : State} {k : Nat} {t : Trigger} {ts : List Trigger} {w : Watch} (hw : s.watch? t.watch = some w)
    (hd : s.mayDispatch w k = true) (hr : s.statusReady w = true) (hring : w.ring = false) :
    s.dispatchFirst k (t :: ts) = (s.spawn w t, .done) := by
  unfold State.dispatchFirst
  simp only [hw, hd, hr, hring, Bool.not_true, Bool.and_false, Bool.false_eq_true, if_false]

/-! Held lanes issue again. -/

theorem NMap.find_mapValues {α β : Type} (f : α → β) (m : NMap α) (k : Nat) :
    NMap.find (m.map fun x => (x.1, f x.2)) k = (NMap.find m k).map f := by
  induction m with
  | nil => rfl
  | cons x xs ih =>
    simp only [List.map_cons, NMap.find]
    split
    · rfl
    · exact ih

/-- A core after a release: nothing but lanes has changed. -/
theorem State.core_release (s : State) (p : Why → Bool) (c : Nat) : (s.release p).core c = (s.core c).release p := by
  unfold State.core State.release
  rw [NMap.find_mapValues (fun k : Core => k.release p)]
  cases NMap.find s.cores c <;> rfl

/-! Pending launches. -/

/-- A grid that the distributor takes for a launch of this chip alone (R42, R45, R458). -/
def State.launchedGrid (s : State) (b vi prio depth : Nat) (queue src : Option Nat) : Grid :=
  ⟨s.gridCnt, b, vi, prio, depth, 0, queue, none, 0, 0, recordTeams b, recordTeams b, 0, false, src, none⟩

/-- A launch of this chip alone is taken at once: its grid, with the next number, is to be placed (R42, R458). -/
theorem State.beginGrid_here (s : State) (b vi prio depth : Nat) (queue src core : Option Nat) :
    s.beginGrid b vi prio depth 0 queue src core =
      some ({ s with gridCnt := if s.gridCnt = 2 ^ 32 - 1 then 1 else s.gridCnt + 1,
                     grids := s.grids ++ [s.launchedGrid b vi prio depth queue src] } |>.due .teamPlacement) := rfl

/-- With no launch of the core waiting for room, none is placed. -/
theorem State.placeWaiting_none {s : State} {c : Nat} (h : ∀ o ∈ s.ops, o.launch? c = none) : s.placeWaiting c = s := by
  unfold State.placeWaiting
  rw [foldl_fix (b := (s, false))]
  intro o ho
  simp only [h o ho]

/-- A team's waiting queue control words change nothing of a core but its team, which ends or does not as before. -/
theorem State.settleQcws_rest (s : State) (c t : Nat) :
    ((s.settleQcws c t).core c).launchQ = (s.core c).launchQ ∧ ((s.settleQcws c t).core c).launchOver = (s.core c).launchOver ∧
      ((s.settleQcws c t).team? c t).map (·.ending) = (s.team? c t).map (·.ending) := by
  unfold State.settleQcws State.team?
  rw [State.core_modCore_self]
  cases hm : NMap.find (s.core c).teams t with
  | none => exact ⟨rfl, rfl, by rw [hm]⟩
  | some m =>
    refine ⟨rfl, rfl, ?_⟩
    dsimp only
    rw [NMap.find_put_self, Option.map_some, Option.map_some]
    repeat' split
    all_goals rfl

/-- The oldest launch of a core's overflow areas moves to its pending-launch queue. -/
def Core.launchReturned (x : Launch) (rest : List Launch) (k : Core) : Core :=
  let k1 := match NMap.find k.teams x.team with
    | some m => (k.areaTake (m.abBase + qcwBase m.qcw0) (qcwDepth m.qcw0)).2
    | none => k
  { k1 with launchOver := rest, launchQ := k1.launchQ ++ [x] }

theorem Core.launchReturned_rest (x : Launch) (rest : List Launch) (k : Core) :
    (k.launchReturned x rest).launchQ = k.launchQ ++ [x] ∧ (k.launchReturned x rest).launchOver = rest ∧
      (k.launchReturned x rest).teams = k.teams := by
  unfold Core.launchReturned
  dsimp only
  split <;> exact ⟨rfl, rfl, rfl⟩

/-- OVERFLOW_ENTRY_RETURN of launches, with room in the queue, no launch waiting for room, and a team that is not ending. -/
theorem execOverflowEntryReturn_launch {s : State} {c team : Nat} {x : Launch} {rest : List Launch}
    (hq : (s.core c).launchOver = x :: rest) (hroom : (s.core c).launchQ.length < 4)
    (hend : ∀ m, s.team? c x.team = some m → m.ending = false) (hops : ∀ o ∈ s.ops, o.launch? c = none) :
    exec (.overflowEntryReturn c team 0) s =
      .next (((s.modCore c (Core.launchReturned x rest)).settleQcws c x.team).due (.launchDispatch c)) := by
  have hteam : (s.modCore c (Core.launchReturned x rest)).team? c x.team = s.team? c x.team := by
    unfold State.team?
    rw [State.core_modCore_self, (Core.launchReturned_rest x rest _).2.2]
  have hnot : ((((s.modCore c (Core.launchReturned x rest)).settleQcws c x.team).due (.launchDispatch c)).team? c x.team).map
      (·.ending) = (s.team? c x.team).map (·.ending) := by
    rw [← hteam]
    exact (State.settleQcws_rest _ c x.team).2.2
  rw [exec_overflowEntryReturn, execOverflowEntryReturn]
  simp only [hq, if_neg (Nat.not_le.mpr hroom)]
  have hplace := State.placeWaiting_none (s := ((s.modCore c (Core.launchReturned x rest)).settleQcws c x.team).due (.launchDispatch c))
    (c := c) hops
  refine congrArg Host.Outcome.next ((if_neg ?_).trans hplace)
  show ¬(Option.map Team.ending (State.team? (State.placeWaiting
    (((s.modCore c (Core.launchReturned x rest)).settleQcws c x.team).due (.launchDispatch c)) c) c x.team)).getD false = true
  rw [hplace, hnot]
  cases hm : s.team? c x.team with
  | none => simp
  | some m => simp [hend m hm]

/-- LAUNCH_DISPATCH with no launch waiting for room: what the core, the grids and the agenda are afterwards. -/
theorem execLaunchDispatch_here {s : State} {c : Nat} {x : Launch} {rest : List Launch} (hq : (s.core c).launchQ = x :: rest)
    (hchips : x.chips = 0) (hops : ∀ o ∈ s.ops, o.launch? c = none) : Completes (.launchDispatch c) s fun t =>
      (t.core c).launchQ = rest ∧ t.gridCnt = (if s.gridCnt = 2 ^ 32 - 1 then 1 else s.gridCnt + 1) ∧ .teamPlacement ∈ t.agenda ∧
        t.grids = s.grids ++ [s.launchedGrid x.bits x.vi x.prio x.depth none (some c)] := by
  rw [Completes, exec_launchDispatch, execLaunchDispatch]
  simp only [hq, hchips, State.beginGrid_here]
  generalize hs2 : State.release _ _ = s2
  have hcore : (s2.core c).launchQ = rest := by
    rw [← hs2, State.core_release, State.core_modCore_self]
    rfl
  have hops2 : ∀ o ∈ s2.ops, o.launch? c = none := by
    rw [← hs2]
    exact hops
  have hrest : s2.gridCnt = (if s.gridCnt = 2 ^ 32 - 1 then 1 else s.gridCnt + 1) ∧
      s2.grids = s.grids ++ [s.launchedGrid x.bits x.vi x.prio x.depth none (some c)] ∧ .teamPlacement ∈ s2.agenda := by
    rw [← hs2]
    exact ⟨rfl, rfl, List.mem_append_right _ List.mem_cons_self⟩
  obtain ⟨hcnt, hgrids, hag⟩ := hrest
  have hdue : ∀ (u : State) (e : Instr), .teamPlacement ∈ u.agenda → .teamPlacement ∈ (u.due e).agenda :=
    fun u e h => List.mem_append_left _ h
  cases hover : (s2.core c).launchOver with
  | nil =>
    simp only [State.placeWaiting_none hops2]
    split
    · exact ⟨_, rfl, hcore, hcnt, hag, hgrids⟩
    · exact ⟨_, rfl, hcore, hcnt, hdue _ _ hag, hgrids⟩
  | cons y ys =>
    dsimp only
    split
    · exact ⟨_, rfl, hcore, hcnt, hdue _ _ hag, hgrids⟩
    · exact ⟨_, rfl, hcore, hcnt, hdue _ _ (hdue _ _ hag), hgrids⟩

/-! Launch queues. -/

@[simp] theorem State.queue_modQueue_self (s : State) (q : Nat) (f : LaunchQueue → LaunchQueue) : (s.modQueue q f).queue q = f (s.queue q) := by
  simp [State.queue, State.modQueue]

@[simp] theorem State.badPa_modQueue (s : State) (q : Nat) (f : LaunchQueue → LaunchQueue) : (s.modQueue q f).badPa = s.badPa := rfl

@[simp] theorem State.queue_due (s : State) (e : Instr) (q : Nat) : (s.due e).queue q = s.queue q := rfl

/-- A doorbell that moves the tail forward within the ring, and one that does not (R345, R434). -/
theorem State.tailWrite_eq (s : State) (q v : Nat) :
    let x := s.queue q
    let n := v % 2 ^ 32
    let ahead := (n + 2 ^ 32 - x.head) % 2 ^ 32
    s.tailWrite q v = if 2 ^ x.qlog < ahead ∨ ahead < x.ahead then s.launchRejected q 0xFF n
      else (s.modQueue q ({ · with tail := n })).due (.launchPacketRead q) := rfl

/-- A packet none of whose waits is left is ready. -/
theorem State.armPacket_none {s : State} {q p : Nat} (h : (s.queue q).todo = []) (hm : (s.queue q).met = true) :
    s.armPacket q p = s.due .packetDispatch := by
  unfold State.armPacket
  rw [h]
  simp only [State.armWaits, hm, if_true]

/-- The packet at a launch queue's head, as memory holds it (R297). -/
def State.headPacket (s : State) (q : Nat) : Nat :=
  s.physNat ((s.queue q).qbase * 4096 + 128 * ((s.queue q).head % 2 ^ (s.queue q).qlog)) 128

theorem State.physNat_headPacket (s : State) (q : Nat) :
    s.physNat ((s.queue q).qbase * 4096 + 128 * ((s.queue q).head % 2 ^ (s.queue q).qlog)) 128 = s.headPacket q := rfl

/-- LAUNCH_PACKET_READ of a packet whose record fails its check (R404, R434). -/
theorem execLaunchPacketRead_bad {s : State} {q b : Nat} (hp : (s.queue q).packet = none) (ha : (s.queue q).ahead ≠ 0)
    (hb : recordBad (s.headPacket q % 2 ^ 512) = some b) :
    exec (.launchPacketRead q) s = .next (((s.launchRejected q 0x03 (6 + b * 65536)).modQueue q
      fun y => { y with head := (y.head + 1) % 2 ^ 32 }).due (.launchPacketRead q)) := by
  rw [exec_launchPacketRead, execLaunchPacketRead]
  simp only [hp, if_neg ha, State.physNat_headPacket, hb]
  rfl

/-- LAUNCH_PACKET_READ of a good packet without waits: it is the head packet, and ready (R297). -/
theorem execLaunchPacketRead_ready {s : State} {q : Nat} (hp : (s.queue q).packet = none) (ha : (s.queue q).ahead ≠ 0)
    (hbad : s.badPa = none)
    (hb : recordBad (s.headPacket q % 2 ^ 512) = none)
    (hh : headerBad (s.headPacket q / 2 ^ 512) = none)
    (hw : ∀ k < 4, bit (s.headPacket q / 2 ^ 512)
      (400 + k) = false) :
    Completes (.launchPacketRead q) s fun t => .packetDispatch ∈ t.agenda ∧
      t.queue q = { s.queue q with head := ((s.queue q).head + 1) % 2 ^ 32, packet := some (s.headPacket q), waits := [], todo := [],
                                   polls := [] } := by
  revert hb hh hw
  rw [Completes, exec_launchPacketRead, execLaunchPacketRead]
  simp only [hp, if_neg ha, State.physNat_headPacket]
  generalize s.headPacket q = p
  intro hb hh hw
  have hnone : (List.range 4).filter (fun n => bit (p / 2 ^ 512) (400 + n)) = [] := by
    rw [List.filter_eq_nil_iff]
    intro k hk
    exact fun h => Bool.false_ne_true ((hw k (List.mem_range.mp hk)).symm.trans h)
  simp only [hb, hh, hnone]
  rw [State.armPacket_none (by simp) (by simp [LaunchQueue.met]), finish_next (by exact hbad)]
  refine ⟨_, rfl, List.mem_append_right _ List.mem_cons_self, ?_⟩
  rw [State.queue_due, State.queue_modQueue_self, State.queue_modQueue_self]
  rfl

/-- The launches of a passed start barrier's chip are dispatched: steps become due, and nothing else changes. -/
theorem State.dispatchAll_eq (s : State) (ks : NMap Core) :
    ∃ es, ks.foldl (fun t k => if k.2.launchQ = [] then t else t.due (.launchDispatch k.1)) s = { s with agenda := s.agenda ++ es } := by
  induction ks generalizing s with
  | nil => exact ⟨[], by simp⟩
  | cons k ks ih =>
    rw [List.foldl_cons]
    split
    · exact ih s
    · obtain ⟨es, h⟩ := ih (s.due (.launchDispatch k.1))
      exact ⟨.launchDispatch k.1 :: es, h.trans (by simp [State.due])⟩

/-- PACKET_DISPATCH of a ready packet for this chip alone (R298, R345, R458). -/
theorem execPacketDispatch_here {s : State} {vi q p b : Nat}
    (hn : (List.range 64).findSome? (fun v => (s.nextQueue v).map (v, ·)) = some (vi, q, p))
    (hb : (s.queue (16 * vi + q)).packet = some b) (hc : fld b 960 64 = 0) : Completes .packetDispatch s fun t =>
      t.queue (16 * vi + q) = { s.queue (16 * vi + q) with packet := none } ∧ .launchPacketRead (16 * vi + q) ∈ t.agenda ∧
      t.grids = s.grids ++ [s.launchedGrid (b % 2 ^ 512) vi (s.queue (16 * vi + q)).prio 0 (some q) none] := by
  rw [Completes, exec_packetDispatch, execPacketDispatch]
  simp only [hn, hb, Option.getD_some, hc, State.beginGrid_here]
  generalize hs2 : State.modQueue _ (16 * vi + q) _ = s2
  have hq : s2.queue (16 * vi + q) = { s.queue (16 * vi + q) with packet := none } := by
    rw [← hs2]
    exact State.queue_modQueue_self _ _ fun y => { y with packet := none }
  have hg : s2.grids = s.grids ++ [s.launchedGrid (b % 2 ^ 512) vi (s.queue (16 * vi + q)).prio 0 (some q) none] := by
    rw [← hs2]
    rfl
  exact ⟨_, rfl, hq, List.mem_append_right _ List.mem_cons_self, hg⟩

/-! Start barriers. -/

/-- START_BARRIER_PASS where every chip of the set has accepted (R44). -/
theorem execStartBarrierPass_all {s : State} {gen : Nat} {b : StartBarrier} (hb : s.barriers.find? (·.gen == gen) = some b)
    (ha : (ranksOf b.chips).all (bit b.accepted) = true) : Completes (.startBarrierPass gen) s fun t =>
      t.barriers = s.barriers.filter (·.gen != gen) ∧ .teamPlacement ∈ t.agenda ∧
      t.grids = s.grids.map fun g => if some g.num = b.grid then { g with held := false } else g := by
  rw [Completes, exec_startBarrierPass, execStartBarrierPass]
  simp only [hb, ha, if_true]
  cases b.grid with
  | none =>
    obtain ⟨es, he⟩ := ({ s with barriers := s.barriers.filter (·.gen != gen) } : State).dispatchAll_eq s.cores
    refine ⟨_, congrArg Host.Outcome.next (congrArg (fun t : State => (t.due .packetDispatch).due .teamPlacement) he), rfl,
      List.mem_append_right _ List.mem_cons_self, ?_⟩
    simp [State.due]
  | some n =>
    obtain ⟨es, he⟩ := (({ s with barriers := s.barriers.filter (·.gen != gen) } : State).modGrid n
      fun g => { g with held := false }).dispatchAll_eq s.cores
    refine ⟨_, congrArg Host.Outcome.next (congrArg (fun t : State => (t.due .packetDispatch).due .teamPlacement) he), rfl,
      List.mem_append_right _ List.mem_cons_self, ?_⟩
    simp [State.due, State.modGrid]

/-- REPLICATION_TIMEOUT of this chip's own launch that has not been posted, when its time has passed (R433). -/
theorem execReplicationTimeout_late {s : State} {gen : Nat} {b : StartBarrier} (hb : s.barriers.find? (·.gen == gen) = some b)
    (hp : b.posted = false) (hg : gen / 2 ^ 26 = s.cfgGet Config.nFabRank 0) (ht : b.clk + s.cfgGet Config.nRemoteTo 0 ≤ s.clk) :
    exec (.replicationTimeout gen) s = .next (({ s with barriers := s.barriers.map fun x =>
      if x.gen = gen then { x with posted := true } else x } : State).postEvent (b.core.getD (s.physCore b.vi 0)) 0x13 b.vi none
        [((ranksOf b.chips).find? fun r => !bit b.accepted r).getD 0, 2, 2, 0, gen]) := by
  rw [exec_replicationTimeout, execReplicationTimeout]
  simp only [hb]
  rw [if_neg]
  · rfl
  · rintro (h | h | h)
    · exact absurd h (by simp [hp])
    · exact h hg
    · exact absurd ht (Nat.not_le.mpr h)

/-- REPL_ABORT_WRITE of a generation whose start barrier stands (R433). -/
theorem execReplAbortWrite_found {s : State} {gen : Nat} {b : StartBarrier} (hb : s.barriers.find? (·.gen == gen) = some b) :
    Completes (.replAbortWrite gen) s fun t => t.barriers = s.barriers.filter (·.gen != gen) ∧
      t.grids = s.grids.filter fun g => some g.num != b.grid := by
  have hb' : (s.cfgPut Config.nReplAbort 0 (gen % 4294967296)).barriers.find? (·.gen == gen) = some b := hb
  rw [Completes, exec_replAbortWrite, execReplAbortWrite, State.replAbort]
  simp only [hb']
  exact ⟨_, rfl, rfl, rfl⟩

/-- Settles O48: the clauses of the first half are the steps of triggers, launches and launch queues, those of the second half the steps of
a start barrier; each is the lemma above that bears its step's name. -/
theorem launchSteps : Obligations.LaunchSteps := by
  unfold Obligations.LaunchSteps
  constructor
  · intro s c q v slice vi team
    refine ⟨?trigger, ?spill, ?dispatch, ?overflow, ?queue, ?packet⟩
    case trigger =>
      intro t ts w hf hw hd hr hring hbad
      rw [exec_triggerDispatch, execTriggerDispatch, hf, State.dispatchFirst_spawn hw hd hr hring]
      exact finish_next hbad
    case spill =>
      intro w t n hr
      rw [exec_triggerSpillReturn, execTriggerSpillReturn, hr]
    case dispatch =>
      intro x rest hq hchips hops
      exact execLaunchDispatch_here hq hchips hops
    case overflow =>
      intro x rest hq hroom hend hops
      obtain ⟨hlq, hlo, -⟩ := (s.modCore c (Core.launchReturned x rest)).settleQcws_rest c x.team
      rw [State.core_modCore_self] at hlq hlo
      obtain ⟨h1, h2, -⟩ := Core.launchReturned_rest x rest (s.core c)
      exact ⟨_, execOverflowEntryReturn_launch hq hroom hend hops, hlq.trans h1, hlo.trans h2,
        List.mem_append_right _ List.mem_cons_self⟩
    case queue =>
      intro x n ahead
      refine ⟨?_, ?_, ?_, ?_, ?_, ?_⟩
      · intro hbusy hroom hfwd
        rw [exec_launchQueueTailWrite, execLaunchQueueTailWrite, hbusy, if_neg Bool.false_ne_true, State.tailWrite_eq]
        exact congrArg _ (if_neg (not_or.mpr ⟨Nat.not_lt.mpr hroom, Nat.not_lt.mpr hfwd⟩))
      · intro hbusy hbad
        rw [exec_launchQueueTailWrite, execLaunchQueueTailWrite, hbusy, if_neg Bool.false_ne_true, State.tailWrite_eq]
        exact congrArg _ (if_pos hbad)
      · intro hbusy
        rw [exec_launchQueueTailWrite, execLaunchQueueTailWrite, if_pos hbusy]
      · intro hp ha hbad p
        exact ⟨execLaunchPacketRead_ready hp ha hbad, fun b => execLaunchPacketRead_bad hp ha⟩
      · intro hp hw ht hpo
        rw [exec_launchWaitMet, execLaunchWaitMet, if_pos]
        exact ⟨by simp [LaunchQueue.met, x, hw, ht, hpo], Option.isSome_iff_ne_none.mpr hp⟩
      · intro hw
        rw [exec_launchWaitMet, execLaunchWaitMet, if_neg]
        rintro ⟨hm, -⟩
        simp only [LaunchQueue.met, Bool.and_eq_true, beq_iff_eq] at hm
        tauto
    case packet =>
      intro p b hn hb hc
      exact execPacketDispatch_here hn hb hc
  · intro s gen rank bits vi prio depth chips b
    refine ⟨?off, ?accepted, ?aborted, ?arrives, ?barrier⟩
    case off =>
      intro h ok
      rw [exec_launchReplicaArrival, execLaunchReplicaArrival, if_pos h]
    case accepted =>
      intro h
      rw [exec_launchReplicaArrival, execLaunchReplicaArrival, if_neg h, if_pos rfl]
    case aborted =>
      intro h hm
      rw [exec_launchReplicaArrival, execLaunchReplicaArrival, if_neg h, if_neg (by decide), if_pos (by simpa using hm)]
    case arrives =>
      intro h hm
      rw [exec_launchReplicaArrival, execLaunchReplicaArrival, if_neg h, if_neg (by decide), if_neg (by simpa using hm)]
      split <;> rfl
    case barrier =>
      intro hb
      refine ⟨execStartBarrierPass_all hb, fun ha => ?_, execReplicationTimeout_late hb, execReplAbortWrite_found hb⟩
      rw [exec_startBarrierPass, execStartBarrierPass]
      simp only [hb, ha, Bool.false_eq_true, if_false]

end Sys2Proof.Machine
end

section
/-!
SUPPORT. The ends of operations (R30, R145, R251, R268, R271, R387): what the steps that end one leave of a group, and the operations that
are left.
-/
namespace Sys2Proof.Machine

/-! What a group keeps while others' operations end. -/

/-- A group that differs from `g` at most in what its lanes wait for: registers, pending futures and vacant lanes are the same. -/
structure Group.Keeps (g h : Group) : Prop where
  pend : h.pend = g.pend
  regs : h.regs = g.regs
  vacant : h.lanes.map (·.vacant) = g.lanes.map (·.vacant)

theorem Group.Keeps.refl (g : Group) : g.Keeps g := ⟨rfl, rfl, rfl⟩

theorem Group.Keeps.trans {g h k : Group} (h1 : g.Keeps h) (h2 : h.Keeps k) : g.Keeps k :=
  ⟨h2.pend.trans h1.pend, h2.regs.trans h1.regs, h2.vacant.trans h1.vacant⟩

theorem Group.Keeps.live {g h : Group} (k : g.Keeps h) : h.live = g.live := by
  have hlen : h.lanes.length = g.lanes.length := by simpa using congrArg List.length k.vacant
  unfold Group.live
  rw [hlen]
  refine List.filter_congr fun l hl => ?_
  have hl := List.mem_range.mp hl
  have := congrArg (·[l]?) k.vacant
  simp [hl, hlen] at this
  simp [Group.lane, hl, hlen, this]

theorem Group.keeps_wake (g : Group) (id : Nat) : g.Keeps (g.wake id) := by
  refine ⟨rfl, rfl, ?_⟩
  simp only [Group.wake, List.map_map]
  refine List.map_congr_left fun x _ => ?_
  simp only [Function.comp_apply]
  split
  · split <;> rfl
  · rfl

theorem Group.keeps_release (g : Group) (p : Why → Bool) : g.Keeps (g.release p) := by
  refine ⟨rfl, rfl, ?_⟩
  simp only [Group.release, List.map_map]
  refine List.map_congr_left fun x _ => ?_
  simp only [Function.comp_apply]
  split
  · split <;> rfl
  · rfl

/-- Group `a` of core `c` stands in `s` as `g`, but for what its lanes wait for. -/
def State.HasGroup (s : State) (c : Nat) (a : Agent) (g : Group) : Prop := ∃ h, s.group? c a = some h ∧ g.Keeps h

theorem State.HasGroup.modGroup {s : State} {c d : Nat} {a b : Agent} {g : Group} (h : s.HasGroup c a g) {f : Group → Group}
    (hf : ∀ x : Group, x.Keeps (f x)) : (s.modGroup d b f).HasGroup c a g := by
  obtain ⟨x, hx, hk⟩ := h
  by_cases e : (c, a) = (d, b)
  · cases e
    exact ⟨f x, by rw [State.group?_modGroup_self, hx]; rfl, hk.trans (hf x)⟩
  · exact ⟨x, by rw [State.group?_modGroup_ne s f e, hx], hk⟩

theorem State.HasGroup.finishOp {s : State} {c : Nat} {a : Agent} {g : Group} (h : s.HasGroup c a g) (id : Nat) :
    (s.finishOp id).HasGroup c a g := by
  unfold State.finishOp
  split
  · exact h
  · exact h.modGroup fun x => x.keeps_wake id

/-- A release of a core's held lanes. -/
theorem State.HasGroup.coreRelease {s : State} {c : Nat} {a : Agent} {g : Group} (h : s.HasGroup c a g) (d : Nat) (p : Why → Bool) :
    (s.modCore d fun k => k.release p).HasGroup c a g := by
  obtain ⟨x, hx, hk⟩ := h
  by_cases e : c = d
  · subst e
    refine ⟨x.release p, ?_, hk.trans (x.keeps_release p)⟩
    unfold State.group? at hx ⊢
    rw [State.core_modCore_self]
    cases a with
    | ct => exact congrArg (Option.map (Group.release · p)) hx
    | grp n => exact (NMap.find_mapValues _ _ n).trans (congrArg (Option.map (Group.release · p)) hx)
  · refine ⟨x, ?_, hk⟩
    unfold State.group? at hx ⊢
    rw [State.core_modCore_ne _ _ e, hx]

/-! Operations that are left. -/

theorem State.ops_finishOp (s : State) (id : Nat) : (s.finishOp id).ops = s.ops.filter (·.id != id) := by
  unfold State.finishOp
  split
  · rename_i h
    refine (List.filter_eq_self.mpr fun x hx => ?_).symm
    simpa using List.find?_eq_none.mp h x hx
  · rfl

/-- The ends of those operations among `xs` that `p` picks. -/
theorem State.ops_finishAll (p : Op → Prop) [DecidablePred p] (xs : List Op) (s : State) :
    (xs.foldl (fun t o => if p o then t.finishOp o.id else t) s).ops = s.ops.filter fun x => xs.all fun o => !(p o && o.id == x.id) := by
  induction xs generalizing s with
  | nil => simp
  | cons o xs ih =>
    rw [List.foldl_cons, ih]
    split
    · rename_i h
      rw [State.ops_finishOp, List.filter_filter]
      refine List.filter_congr fun x _ => ?_
      simp [h, Bool.and_comm, bne, BEq.comm (a := o.id)]
    · rename_i h
      refine List.filter_congr fun x _ => ?_
      simp [h]

/-- No operation applies update pairs when it completes. -/
def State.NoApplies (s : State) : Prop := ∀ x ∈ s.ops, x.kind ≠ .uflush ∧ ∀ fs, x.kind ≠ .uapply fs

/-- Fences that complete change only what lanes wait for. -/
theorem State.HasGroup.settleFences {s : State} {c : Nat} {a : Agent} {g : Group} (h : s.HasGroup c a g) (hn : s.NoApplies) :
    s.settleFences.HasGroup c a g := by
  unfold State.settleFences
  refine List.foldlRecOn s.ops _ (motive := fun t : State => t.HasGroup c a g) h fun t ht o ho => ?_
  obtain ⟨hu, ha⟩ := hn o ho
  unfold State.tryFence
  split
  · split
    · exact ht
    · exact (ht.finishOp o.id).modGroup fun x => x.keeps_release _
  · rename_i hk; exact absurd hk hu
  · rename_i fs hk; exact absurd hk (ha fs)
  · exact ht

/-- An entry of an overflow area touches AB alone. -/
theorem Core.areaPut_eq (k : Core) (base depth : Nat) (entry : List Byte) : ∃ m, k.areaPut base depth entry = { k with ab := m } := by
  rw [Core.areaPut]
  by_cases h : (((k.abPut (base + 64 + 64 * (k.abWord (base + 4) % depth)) entry).abPut (base + 4)
      (leBytes (k.abWord (base + 4) + 1) 4)).abWord (base + 8) <
    ((k.abPut (base + 64 + 64 * (k.abWord (base + 4) % depth)) entry).abPut (base + 4) (leBytes (k.abWord (base + 4) + 1) 4)).areaHeld base)
  · exact ⟨_, if_pos h⟩
  · exact ⟨_, if_neg h⟩

/-- The core whose team slot `n` has one request more in its AB queue. -/
def Core.requested (n blk : Nat) (k : Core) : Core :=
  match NMap.find k.teams n with
  | some m => k.areaPut (m.abBase + qcwBase m.qcw1) (qcwDepth m.qcw1) (leBytes blk 64)
  | none => k

theorem Core.requested_rest (n blk : Nat) (k : Core) : ∃ m, k.requested n blk = { k with ab := m } := by
  unfold Core.requested
  split
  · exact Core.areaPut_eq _ _ _ _
  · exact ⟨_, rfl⟩

theorem State.HasGroup.queueRequest {s : State} {c : Nat} {a : Agent} {g : Group} (h : s.HasGroup c a g) (d n blk : Nat) :
    (s.queueRequest d n blk).HasGroup c a g := by
  obtain ⟨x, hx, hk⟩ := h
  refine ⟨x, (State.group?_modCore s d (Core.requested n blk) (fun k => ?_) (fun k => ?_) c a).trans hx, hk⟩ <;>
  · obtain ⟨m, hm⟩ := k.requested_rest n blk
    rw [hm]

theorem State.NoApplies.placed {s : State} (h : s.NoApplies) (id : Nat) (b : Bool) :
    (s.modOp id fun x => match x.kind with
      | .copy y => { x with kind := .copy { y with placed := true, pooled := b } }
      | _ => x).NoApplies := by
  intro x hx
  obtain ⟨y, hy, rfl⟩ := List.mem_map.mp hx
  dsimp only
  split
  · split
    · exact ⟨nofun, fun _ => nofun⟩
    · exact h y hy
  · exact h y hy

/-- Requests that enter their queue change only what lanes wait for, and apply nothing. -/
theorem State.HasGroup.placeCopies {s : State} {c : Nat} {a : Agent} {g : Group} (h : s.HasGroup c a g) (hn : s.NoApplies) (d : Nat) :
    (s.placeCopies d).HasGroup c a g ∧ (s.placeCopies d).NoApplies := by
  unfold State.placeCopies
  refine List.foldlRecOn s.ops _ (motive := fun t : State => t.HasGroup c a g ∧ t.NoApplies) ⟨h, hn⟩ fun t ht o _ => ?_
  obtain ⟨htg, htn⟩ := ht
  split
  · exact ⟨htg, htn⟩
  · split
    · exact ⟨htg, htn⟩
    · dsimp only
      split
      · exact ⟨((htg.queueRequest d _ _)).modGroup fun x => x.keeps_wake o.id,
          State.NoApplies.placed (s := t.queueRequest d _ _) htn o.id _⟩
      · exact ⟨htg.modGroup fun x => x.keeps_wake o.id, htn.placed o.id _⟩

/-- A group with a live lane stays on its core. -/
theorem State.endGroup_live {s : State} {c n : Nat} {g : Group} (h : s.group? c (.grp n) = some g) (hl : g.live ≠ []) :
    s.endGroup c n = s := by
  unfold State.endGroup
  split
  · rfl
  · rename_i x hx
    cases h.symm.trans hx
    exact if_pos (.inl hl)

/-! Futures. -/

/-- A register to which one value is written several times, among writes of that value. -/
theorem Group.reg_setPending (v : Word) (ps : List Pending) (g : Group) {p : Pending} (hp : p ∈ ps ∨ g.reg p.lane p.reg = v) :
    (ps.foldl (fun h q => h.setReg q.lane q.reg v) g).reg p.lane p.reg = v := by
  induction ps generalizing g with
  | nil => exact hp.resolve_left List.not_mem_nil
  | cons q ps ih =>
    refine ih _ ?_
    rcases hp with hp | hp
    · rcases List.mem_cons.mp hp with rfl | hp
      · exact .inr (Group.reg_setReg_self _ _ _ _)
      · exact .inl hp
    · right
      by_cases e : 128 * p.lane + p.reg = 128 * q.lane + q.reg
      · simp [Group.reg, Group.setReg, e]
      · rw [Group.reg_setReg_ne _ _ e, hp]

/-- Writes of pending registers touch registers and poison marks alone. -/
theorem Group.setPending_eq (v : Word) (ps : List Pending) (g : Group) :
    ∃ rs po, ps.foldl (fun h q => h.setReg q.lane q.reg v) g = { g with regs := rs, poison := po } := by
  induction ps generalizing g with
  | nil => exact ⟨_, _, rfl⟩
  | cons q ps ih =>
    obtain ⟨rs, po, h⟩ := ih (g.setReg q.lane q.reg v)
    exact ⟨rs, po, by rw [List.foldl_cons, h]; rfl⟩

/-- The group whose registers receive the completion word `w` of copy `id`. -/
def Group.futureCame (g : Group) (id w : Nat) : Group :=
  let h := (g.pend.filter (·.id == id)).foldl (fun h p => h.setReg p.lane p.reg (BitVec.ofNat 32 w)) g
  { h with pend := h.pend.filter (·.id != id) }.releaseFuture

theorem Group.futureCame_pend (g : Group) (id w : Nat) : (g.futureCame id w).pend = g.pend.filter (·.id != id) := by
  obtain ⟨rs, po, h⟩ := Group.setPending_eq (BitVec.ofNat 32 w) (g.pend.filter (·.id == id)) g
  simp only [Group.futureCame, h]
  rfl

theorem Group.futureCame_live (g : Group) (id w : Nat) : (g.futureCame id w).live = g.live := by
  obtain ⟨rs, po, h⟩ := Group.setPending_eq (BitVec.ofNat 32 w) (g.pend.filter (·.id == id)) g
  simp only [Group.futureCame, h]
  exact (Group.keeps_release _ _).live

theorem Group.futureCame_reg (g : Group) (id w : Nat) {p : Pending} (hp : p ∈ g.pend) (hid : p.id = id) :
    (g.futureCame id w).reg p.lane p.reg = BitVec.ofNat 32 w :=
  Group.reg_setPending (BitVec.ofNat 32 w) (g.pend.filter (·.id == id)) g (.inl (List.mem_filter.mpr ⟨hp, by simpa using hid⟩))

/-- What FUTURE_WRITTEN leaves of the group whose copy it was. -/
theorem execFutureWritten_live {s : State} {id w : Nat} {o : Op} {g : Group} (ho : s.op? id = some o) (hk : o.kind = .future w)
    (hg : s.group? o.core o.agent = some g) (hl : g.live ≠ []) (hn : s.NoApplies) :
    Completes (.futureWritten id) s fun t => t.HasGroup o.core o.agent (g.futureCame id w) := by
  let s1 := s.modGroup o.core o.agent (·.futureCame id w)
  let s2 := ((s1.endOp id).placeCopies o.core).modCore o.core fun k => k.release fun w => w == .copyQueue || w == .line || w == .rrel
  have h1 : (s1.endOp id).HasGroup o.core o.agent (g.futureCame id w) :=
    ⟨_, (State.group?_modGroup_self s _ _ _).trans (congrArg _ hg), .refl _⟩
  have hn1 : (s1.endOp id).NoApplies := fun x hx => hn x (List.mem_filter.mp hx).1
  obtain ⟨h2, hn2⟩ := h1.placeCopies hn1 o.core
  have h3 : s2.HasGroup o.core o.agent (g.futureCame id w) := h2.coreRelease o.core _
  have hn3 : s2.NoApplies := hn2
  rw [Completes, exec_futureWritten, execFutureWritten]
  simp only [ho, hk]
  refine ⟨_, rfl, ?_⟩
  obtain ⟨x, hx, hkx⟩ := show s2.HasGroup o.core o.agent (g.futureCame id w) from h3
  split
  · rename_i n ha
    have hend : s2.endGroup o.core n = s2 := by
      refine State.endGroup_live (ha ▸ hx) ?_
      rw [hkx.live, Group.futureCame_live]
      exact hl
    show (s2.endGroup o.core n).settleFences.HasGroup _ _ _
    rw [hend]
    exact h3.settleFences hn3
  · exact h3.settleFences hn3

/-! Replies. -/

theorem State.id_of_op? {s : State} {id : Nat} {o : Op} (h : s.op? id = some o) : o.id = id := by
  simpa using List.find?_some h

/-- A lane's reply is kept while another lane of its instruction still waits for one (R387). -/
theorem State.partCame_early {s : State} {o p : Op} {r : Remote} {code data : Nat} (hp : p ∈ s.siblings o r) (hr : p.reply? = none) :
    s.partCame o r code data = s.modOp o.id fun x => { x with kind := .remote { r with got := some (code, data) } } := by
  unfold State.partCame
  exact if_pos (List.any_eq_true.mpr ⟨p, List.mem_cons_of_mem _ hp, by rw [hr]; rfl⟩)

/-- Settles O45: the ends that wake lanes are `finishOp`; a copy's batches count, its future fills the registers that are pending. -/
theorem operationEnds : Obligations.OperationEnds := by
  unfold Obligations.OperationEnds
  intro s id code data o ho
  refine ⟨?writeback, ?reply, ?remote, ?store, ?matrix, ?copy, ?future, ?lane, ?bind⟩
  case writeback =>
    rintro (hk | hk)
    · rw [exec_registerWriteback, execRegisterWriteback]
      simp only [ho, hk]
    · rw [exec_registerWriteback, execRegisterWriteback]
      simp only [ho, hk]
  case reply =>
    intro hk
    rw [exec_accessReply, execAccessReply, exec_monitorWakeup, execMonitorWakeup]
    refine ⟨fun hf => ?_, fun e hf => ?_⟩
    · simp only [ho, hk, hf, and_self]
    · simp only [ho, hk, hf, and_self]
  case remote =>
    intro r d n sx e hk hf he
    have hload : ∀ code, exec (.accessReply id code data) s =
        if s.siblings o r ≠ [] then .next (s.partCame o r code data)
        else if code = 0 then .next ((s.modGroup o.core o.agent (r.form.give data o.lanes)).finishOp id)
        else .next ((s.endOp id).lateFault o (e.refusedAs code)) := by
      intro code
      rw [exec_accessReply, execAccessReply]
      simp only [ho, hk, he, hf, ReplyForm.silent, Bool.false_eq_true, if_false]
      rfl
    refine ⟨fun hs => ⟨?_, fun h0 h6 => ?_, ?_⟩, fun ⟨p, hp, hr⟩ => ?_⟩
    · rw [hload, if_neg (not_not.mpr hs), if_pos rfl]
    · rw [hload, if_neg (not_not.mpr hs), if_neg (Nat.ne_of_gt h0), Entry.refusedAs, if_neg (Nat.ne_of_lt h6)]
    · rw [hload, if_neg (not_not.mpr hs), if_neg (by decide), Entry.refusedAs, if_pos rfl]
    · rw [hload, if_pos (List.ne_nil_of_mem hp), State.partCame_early hp hr, State.id_of_op? ho]
  case store =>
    intro hk
    rw [exec_storeAck, execStoreAck]
    simp only [ho, hk]
  case matrix =>
    intro m hk
    rw [exec_matrixOpEnd, execMatrixOpEnd]
    simp only [ho, hk]
    refine ⟨fun h => ?_, fun h => ?_⟩
    · rw [h, if_neg Bool.false_ne_true]
    · rw [h, if_pos rfl]
  case copy =>
    intro r x rest hk hj hb hout hpool s1 s2
    have he : exec (.tileCopyBatchDelivery id) s = .next (if rest = [] then s2.copyDone id { r with batches := rest }
        else s2.due (.tileCopyBatchDelivery id)) := by
      rw [exec_tileCopyBatchDelivery, execTileCopyBatchDelivery]
      simp only [ho, hk]
      split
      · rename_i j h
        cases hj.symm.trans h
      · rename_i y ys _ h
        cases hb.symm.trans h
        exact if_neg (show ¬(s.rowsOut id || !r.pooled) = true by rw [hout, hpool]; exact Bool.false_ne_true)
      · rename_i _ h
        cases hb.symm.trans h
    refine ⟨fun h => ?_, fun h => ?_, fun b n hc hw => ?_⟩
    · rw [he, if_neg h]
    · rw [he, if_pos h]
    · unfold State.boTell
      rw [if_neg]
      rw [hc, Bool.false_or, Bool.not_eq_true, List.any_eq_false]
      exact fun w hmem => by simpa using hw w hmem
  case future =>
    intro w g hk hg hl _ hn
    obtain ⟨t, ht, h, hh, hkeep⟩ := execFutureWritten_live ho hk hg hl hn
    refine ⟨t, ht, h, hh, hkeep.pend.trans (Group.futureCame_pend g id w), fun p hp hid => ?_⟩
    rw [Group.reg, hkeep.regs]
    exact Group.futureCame_reg g id w hp hid
  case lane =>
    intro g l w hg hw hl
    refine ⟨g.wake id, by rw [State.group?_finishOp ho, hg]; rfl, ?_⟩
    rw [Group.wake, Group.lane_map _ _ hl]
    simp only [hw, if_true]
  case bind =>
    intro c a hd
    refine ⟨_, by rw [exec_bindComplete, execBindComplete], (State.ops_finishAll (·.kind = .bind) _ s).trans ?_⟩
    refine List.filter_congr fun x hx => ?_
    rw [Bool.eq_iff_iff]
    simp only [State.opsOf, List.all_eq_true, List.mem_filter, Bool.not_eq_true', Bool.and_eq_false_iff, beq_eq_false_iff_ne,
      decide_eq_false_iff_not, Bool.and_eq_true, decide_eq_true_eq]
    constructor
    · intro h
      by_contra hn
      simp only [not_or, not_not] at hn
      obtain ⟨⟨hc, ha⟩, hk⟩ := hn
      exact (h x ⟨hx, hc, ha⟩).elim (· hk) (· rfl)
    · rintro h y ⟨hy, hc, ha⟩
      by_contra hn
      simp only [not_or, not_not] at hn
      obtain ⟨hk, hid⟩ := hn
      cases List.inj_on_of_nodup_map hd hy hx hid
      exact h.elim (·.elim (· hc) (· ha)) (· hk)

end Sys2Proof.Machine
end

section
/-!
SUPPORT. Configuration registers: a register's value after a write, the registers whose write does more, and the steps that follow
(R14, R15, R52, R315, R322, R327, R348, R452).
-/
namespace Sys2Proof.Machine

/-! Values. -/

@[simp] theorem State.cfgGet_cfgPut_self (s : State) (num k v : Nat) : (s.cfgPut num k v).cfgGet num k = v := by
  unfold State.cfgGet State.cfgPut
  split
  · rename_i h
    simp [h]
  · simp

theorem State.cfgGet_cfgPut_ne (s : State) {num k num' k' : Nat} (v : Nat) (h : 4096 * k' + num' ≠ 4096 * k + num) :
    (s.cfgPut num k v).cfgGet num' k' = s.cfgGet num' k' := by
  unfold State.cfgGet State.cfgPut
  dsimp only
  split
  · rw [NMap.find_drop_ne _ h]
  · rw [NMap.find_put_ne _ _ h]

/-- A register's value is in `cfg` alone. -/
theorem State.cfgGet_of_cfg {s t : State} (h : t.cfg = s.cfg) (num k : Nat) : t.cfgGet num k = s.cfgGet num k := by
  unfold State.cfgGet
  rw [h]

/-- A register of one field that holds all its values stores a value within its range. -/
theorem Reg.store_single {r : Config.Reg} {len m v : Nat} (hr : r.fields = [⟨0, len, 0, m, 0, 0⟩]) (hv : v ≤ m) : r.store v = v := by
  simp [Config.Reg.store, hr, Config.Field.store, Nat.not_lt.mpr hv]

/-! Writes. -/

/-- A write to a register of at most 32 bits takes the low 32 of its value, clamped (R289). -/
theorem State.cfgWrite_eq {s : State} {num core vi v : Nat} {r : Config.Reg} (hr : Config.reg? num = some r) (ha : r.access = .rw)
    (hw : ∀ f, r.fields = [f] → f.len ≤ 32) :
    s.cfgWrite num core vi v = s.cfgStore num core vi (scopeKey r.scope core vi) (r.store (v % 2 ^ 32)) := by
  unfold State.cfgWrite
  simp only [hr, ha, ne_eq, not_true, if_false]
  split
  · rename_i f hf
    rw [if_neg (by simpa using hw f hf)]
  · rw [if_neg Bool.false_ne_true]

/-- A write of a value in the range of a register of one field. -/
theorem State.cfgWrite_single {s : State} {num core vi v len m : Nat} {r : Config.Reg} (hr : Config.reg? num = some r)
    (ha : r.access = .rw) (hf : r.fields = [⟨0, len, 0, m, 0, 0⟩]) (hlen : len ≤ 32) (hv : v ≤ m) (hm : m < 2 ^ 32) :
    s.cfgWrite num core vi v = s.cfgStore num core vi (scopeKey r.scope core vi) v := by
  rw [State.cfgWrite_eq hr ha (fun f h => by cases hf.symm.trans h; exact hlen), Nat.mod_eq_of_lt (by omega), Reg.store_single hf hv]

theorem State.cfgWrite_ctRun (s : State) (c vi : Nat) {v : Nat} (hv : v < 2) : s.cfgWrite Config.nCtRun c vi v = s.ctRun c v :=
  State.cfgWrite_single (m := 1) rfl rfl rfl (by omega) (by omega) (by omega)

theorem State.cfgWrite_ptInval (s : State) (vi : Nat) {v : Nat} (hv : v < 2 ^ 31) :
    s.cfgWrite Config.nPtInval 0 vi v = s.ptInvalStart vi v :=
  State.cfgWrite_single (m := 2147483647) rfl rfl rfl (by omega) (by omega) (by omega)

theorem State.cfgWrite_pwrMode (s : State) {v : Nat} (hv : v < 4) : s.cfgWrite Config.nPwrMode 0 0 v = s.cfgPut Config.nPwrMode 0 v := by
  rw [State.cfgWrite_single (len := 2) (m := 3) rfl rfl rfl (by omega) (by omega) (by omega)]
  rfl

theorem State.cfgWrite_dstopEn (s : State) (vi : Nat) {v : Nat} (hv : v < 2) :
    s.cfgWrite Config.nDstopEn 0 vi v = s.cfgPut Config.nDstopEn vi v := by
  rw [State.cfgWrite_single (len := 1) (m := 1) rfl rfl rfl (by omega) (by omega) (by omega)]
  rfl

/-- FAB_ROUTE holds a port number or 15; 12 to 14 lie in its gap. -/
theorem State.cfgWrite_fabRoute (s : State) {v : Nat} (hv : v < 12 ∨ v = 15) : s.cfgWrite Config.nFabRoute 0 0 v =
    { s with fabRoute := Mem.set s.fabRoute (s.cfgGet Config.nFabRidx 0) (BitVec.ofNat 4 (v ^^^ 15)) } := by
  have hreg : Config.reg? Config.nFabRoute = some ⟨0x134, .chip, .rw, 15, [⟨0, 4, 0, 15, 12, 15⟩]⟩ := rfl
  have hstore : Config.Reg.store ⟨0x134, .chip, .rw, 15, [⟨0, 4, 0, 15, 12, 15⟩]⟩ (v % 2 ^ 32) = v := by
    rw [Nat.mod_eq_of_lt (by omega)]
    simp only [Config.Reg.store, Config.Field.store, if_true, Nat.not_lt_zero, if_false, if_neg (show ¬15 < v by omega),
      if_neg (show ¬(12 ≤ v ∧ v < 15) by omega), Nat.pow_zero, Nat.mul_one]
  rw [State.cfgWrite_eq hreg rfl (by simp), hstore]
  rfl

theorem State.cfgWrite_trcCtl (s : State) (c v : Nat) {r : Config.Reg} (hr : Config.reg? Config.nTrcCtl = some r) :
    s.cfgWrite Config.nTrcCtl c 0 v = s.traceCtl c (r.store (v % 2 ^ 32)) := by
  have hreg : r = ⟨0x1D0, .core, .rw, 0, [⟨0, 1, 0, 1, 0, 0⟩, ⟨8, 6, 0, 63, 0, 0⟩]⟩ :=
    Option.some.inj (hr.symm.trans (show Config.reg? 0x1D0 = some _ from rfl))
  rw [State.cfgWrite_eq hr (by rw [hreg]) (by rw [hreg]; exact nofun)]
  unfold State.cfgStore
  simp

/-! The control thread stops (R52). -/

/-- A core whose control thread has stopped, but for its fault stop. -/
structure Core.CtStopped (k : Core) : Prop where
  ct : k.ct = Group.ctReset
  entries : k.entries = []
  cur : k.cur = none
  inHandler : k.inHandler = false
  dead : k.dead = false

/-- The stop of an entry's other core touches stops alone. -/
theorem State.core_pairGoes (s : State) (e : Entry) (c : Nat) :
    ∃ n b, (s.pairGoes e).core c = { s.core c with pairStops := n, stopped := b } := by
  unfold State.pairGoes
  split
  · rename_i d _
    unfold State.endStop
    by_cases h : c = d
    · subst h
      rw [State.core_modCore_self, State.core_modCore_self]
      exact ⟨_, _, rfl⟩
    · rw [State.core_modCore_ne _ _ h, State.core_modCore_ne _ _ h]
      exact ⟨_, _, rfl⟩
  · exact ⟨_, _, rfl⟩

theorem State.ctStopped_pairsGo {s : State} {c : Nat} (es : List Entry) (h : (s.core c).CtStopped) :
    ((es.foldl State.pairGoes s).core c).CtStopped := by
  refine List.foldlRecOn es _ (motive := fun t : State => (t.core c).CtStopped) h fun t ht e _ => ?_
  obtain ⟨n, b, hk⟩ := t.core_pairGoes e c
  rw [hk]
  exact ⟨ht.ct, ht.entries, ht.cur, ht.inHandler, ht.dead⟩

/-- What CT_RUN 0 does before the entries it discards let other cores go on: its core's teams are gone (R52). -/
def State.ctTeamsKilled (s : State) (c : Nat) : State :=
  ((s.core c).teams.map (·.1)).foldl (fun t x => t.killTeam c x) ((s.cfgPut Config.nCtRun c 0).disownCt c)

/-- The core whose control thread stops. -/
def Core.stopCt (k : Core) : Core :=
  { k with ct := Group.ctReset, entries := [], cur := none, inHandler := false, stopped := k.pairStops != 0, dead := false, epcClause := none }

theorem State.ctRun_zero (s : State) (c : Nat) : s.ctRun c 0 =
    (((s.ctTeamsKilled c).core c).cur.toList ++ ((s.ctTeamsKilled c).core c).entries).foldl State.pairGoes
      ((s.ctTeamsKilled c).modCore c Core.stopCt) := rfl

theorem State.ctRun_zero_stopped (s : State) (c : Nat) : ((s.ctRun c 0).core c).CtStopped := by
  rw [State.ctRun_zero]
  refine State.ctStopped_pairsGo _ ?_
  rw [State.core_modCore_self]
  exact ⟨rfl, rfl, rfl, rfl, rfl⟩

/-- On a core without teams no team is killed. -/
theorem State.core_ctTeamsKilled {s : State} {c : Nat} (h : (s.core c).teams = []) :
    ∃ l w, (s.ctTeamsKilled c).core c = { s.core c with sideLog := l, slogWait := w } := by
  unfold State.ctTeamsKilled
  rw [h]
  exact ⟨_, _, State.core_modCore_self (s.cfgPut Config.nCtRun c 0) c fun k =>
    { k with sideLog := k.sideLog.map fun e => if e.agent = .ct then { e with agent := .grp (257 + s.opSeq) } else e,
             slogWait := k.slogWait.filter (·.1 != .ct) }⟩

/-- Entries that stop no other core leave the fault stop to the cluster's lower core. -/
theorem State.ctRun_zero_alone {s : State} {c : Nat} (ht : (s.core c).teams = [])
    (he : ∀ e ∈ (s.core c).cur.toList ++ (s.core c).entries, e.other = none) :
    ((s.ctRun c 0).core c).stopped = ((s.core c).pairStops != 0) := by
  obtain ⟨l, w, hk⟩ := State.core_ctTeamsKilled ht
  rw [State.ctRun_zero, hk, foldl_fix, State.core_modCore_self, hk]
  · rfl
  · intro e hmem
    unfold State.pairGoes
    rw [he e hmem]

/-! The control thread starts (R52). -/

/-- The core whose control thread starts at `pc`. -/
def Core.startCt (pc : Nat) (k : Core) : Core := { k with ct := { Group.ctReset with lanes := [Lane.ctStart pc] }, dead := false }

/-- With no entry that waits, the control thread starts and enters no handler. -/
theorem State.ctRun_one {s : State} {c : Nat} (hrun : s.cfgGet Config.nCtRun c = 0) (he : (s.core c).entries = []) :
    s.ctRun c 1 = (s.cfgPut Config.nCtRun c 1).modCore c (Core.startCt (s.cfgGet Config.nCtEpc c)) := by
  have hk : (((s.cfgPut Config.nCtRun c 1).modCore c (Core.startCt (s.cfgGet Config.nCtEpc c))).core c).entries = [] := by
    rw [State.core_modCore_self]
    exact he
  unfold State.ctRun
  rw [if_neg Nat.one_ne_zero, if_neg (by rw [hrun]; exact Nat.zero_ne_one)]
  show State.deliver ((s.cfgPut Config.nCtRun c 1).modCore c (Core.startCt (s.cfgGet Config.nCtEpc c))) c = _
  unfold State.deliver
  dsimp only
  split
  · rfl
  · rw [hk]

/-! Steps that come due change the agenda alone. -/

theorem State.replayDue_eq (s : State) : ∃ a, s.replayDue = { s with agenda := a } := by
  unfold State.replayDue
  refine List.foldlRecOn s.cores _ (motive := fun t : State => ∃ a, t = { s with agenda := a }) ⟨_, rfl⟩ fun t ht k _ => ?_
  obtain ⟨a, rfl⟩ := ht
  split
  · exact ⟨_, rfl⟩
  · exact ⟨_, rfl⟩

theorem State.stalledDue_eq (s : State) : ∃ a, s.stalledDue = { s with agenda := a } := by
  unfold State.stalledDue
  refine List.foldlRecOn s.ops _ (motive := fun t : State => ∃ a, t = { s with agenda := a }) ⟨_, rfl⟩ fun t ht o _ => ?_
  obtain ⟨a, rfl⟩ := ht
  dsimp only
  split
  · split
    · exact ⟨_, rfl⟩
    · exact ⟨_, rfl⟩
  · exact ⟨_, rfl⟩

/-- What pages that have become present leave as it was, and the accesses held for them, which go on. -/
theorem State.pagesChanged_rest (s : State) :
    s.pagesChanged.cfg = s.cfg ∧ s.pagesChanged.ptInval = s.ptInval ∧ s.pagesChanged.gpHeld = [] := by
  unfold State.pagesChanged
  obtain ⟨a, ha⟩ := State.replayDue_eq (State.release { s with
    inbox := s.gpHeld ++ s.inbox ++ s.retryNext.filter fromGp
    gpHeld := []
    retryNext := s.retryNext.filter fun e => !fromGp e } (· == .page))
  rw [ha]
  generalize hu : State.mk .. = u
  obtain ⟨b, hb⟩ := State.stalledDue_eq u
  rw [hb]
  subst hu
  exact ⟨rfl, rfl, rfl⟩

/-! Ticks. -/

/-- The state whose cores below `n` are a cycle further. -/
def State.ticked (s : State) (n : Nat) : State :=
  (List.range n).foldl (fun t c => t.modCore c fun (k : Core) => { k with tstamp := k.tstamp + 1 }) s

theorem State.ticked_succ (s : State) (n : Nat) :
    s.ticked (n + 1) = (s.ticked n).modCore n fun (k : Core) => { k with tstamp := k.tstamp + 1 } := by
  unfold State.ticked
  rw [List.range_succ, List.foldl_append, List.foldl_cons, List.foldl_nil]

theorem State.tstamp_ticked (s : State) (n k : Nat) :
    ((s.ticked n).core k).tstamp = if k < n then (s.core k).tstamp + 1 else (s.core k).tstamp := by
  induction n with
  | zero => rfl
  | succ n ih =>
    rw [State.ticked_succ]
    by_cases h : k = n
    · subst h
      rw [State.core_modCore_self _ _ fun (k : Core) => { k with tstamp := k.tstamp + 1 }, if_pos (Nat.lt_succ_self k)]
      simpa using ih
    · rw [State.core_modCore_ne _ _ h, ih]
      simp only [show (k < n + 1) = (k < n) by simp; omega]

theorem State.tstamp_tick (s : State) (n k mode : Nat) : ((State.core { s.ticked n with pwrNow := mode }) k).tstamp =
    if k < n then (s.core k).tstamp + 1 else (s.core k).tstamp :=
  s.tstamp_ticked n k

theorem execTick_eq (s : State) : exec .tick s = .next { s.ticked 128 with pwrNow := s.cfgGet Config.nPwrMode 0 } := by
  rw [exec_tick, execTick, State.ticked]

/-! Tracing. -/

/-- A write to TRC_CTL stands there, whatever series its tracing begins with. -/
theorem State.cfgGet_traceCtl (s : State) (c v : Nat) : (s.traceCtl c v).cfgGet Config.nTrcCtl c = v := by
  have hput : ∀ t : State, ∀ bs, (t.tracePut c bs).cfgGet Config.nTrcCtl c = t.cfgGet Config.nTrcCtl c := fun t bs =>
    State.cfgGet_cfgPut_ne _ _ (by simp)
  unfold State.traceCtl
  dsimp only
  split
  · exact State.cfgGet_cfgPut_self s _ _ _
  · split
    · exact State.cfgGet_cfgPut_self s _ _ _
    · rw [hput]
      exact State.cfgGet_cfgPut_self s _ _ _

/-! The steps. -/

/-- A route is stored so that 0 means 15. -/
theorem route_roundtrip {v : Nat} (hv : v < 16) : (BitVec.ofNat 4 (v ^^^ 15)).toNat ^^^ 15 = v := by
  have key : ∀ v < 16, (BitVec.ofNat 4 (v ^^^ 15)).toNat ^^^ 15 = v := by decide
  exact key v hv

theorem execPtInvalComplete_ok {s t0 : State} {vi : Nat} {x : Nat × Nat} (hx : s.ptInval.find? (·.1 == vi) = some x)
    (ht : s.ptInvalDone vi x.2 = .ok t0) :
    let left := s.ptInval.erase x
    let u : State := { t0.unitGoes (.inval vi) with ptInval := left }
    exec (.ptInvalComplete vi) s =
      .next (if left.any (·.1 == vi) then u.pagesChanged else (u.cfgPut Config.nPtInval vi 0).pagesChanged) := by
  rw [exec_ptInvalComplete, execPtInvalComplete]
  simp only [hx, ht]

/-- Settles O50: each register's write is the action it starts, and each completion the lemma of its step. -/
theorem registerWrites : Obligations.RegisterWrites := by
  unfold Obligations.RegisterWrites
  intro s c vi v n
  refine ⟨?stop, ?start, ?swapOut, ?sync, ?synced, ?inval, ?invalDone, ?power, ?tick, ?route, ?trace, ?dstop, ?hit⟩
  case stop =>
    refine ⟨_, by rw [exec_ctRunWrite, execCtRunWrite, State.cfgWrite_ctRun _ _ _ Nat.two_pos], ?_⟩
    obtain ⟨hct, hentries, hcur, hin, hdead⟩ := s.ctRun_zero_stopped c
    exact ⟨hct, hentries, hcur, hin, hdead, fun ht he => State.ctRun_zero_alone ht he⟩
  case start =>
    intro hrun he
    refine ⟨_, by rw [exec_ctRunWrite, execCtRunWrite, State.cfgWrite_ctRun _ _ _ Nat.one_lt_two, State.ctRun_one hrun he], ?_⟩
    have hget : ((s.cfgPut Config.nCtRun c 1).modCore c (Core.startCt (s.cfgGet Config.nCtEpc c))).cfgGet Config.nCtRun c = 1 :=
      (State.cfgGet_of_cfg (s := s.cfgPut Config.nCtRun c 1) rfl _ _).trans (State.cfgGet_cfgPut_self s _ _ _)
    refine ⟨hget, ?_, ?_⟩
    · rw [State.ctRuns, hget, State.core_modCore_self]
      rfl
    · rw [State.core_modCore_self]
      exact ⟨rfl, rfl⟩
  case swapOut =>
    intro slot
    rw [exec_swapOutWrite, execSwapOutWrite, State.swapOutWrite]
    refine ⟨fun h => ?_, fun h hb => ?_, fun h hb => ?_⟩
    · simp only [slot] at h
      simp only [h, Bool.not_false, if_true]
    · simp only [slot] at h
      simp only [h, hb, Bool.not_true, Bool.false_eq_true, if_false, if_true]
    · simp only [slot] at h ⊢
      simp only [h, hb, Bool.not_true, Bool.false_eq_true, if_false]
  case sync =>
    have hfind : NMap.find (s.viSyncStart vi).viSync vi = some s.opSeq := NMap.find_put_self _ _ _
    refine ⟨_, by rw [exec_viSyncWrite, execViSyncWrite], hfind, ?_, ?_⟩
    · simp [State.viSyncStart, State.due]
    · show (if (NMap.find (s.viSyncStart vi).viSync vi).isSome then 1 else 0) = 1
      rw [hfind]
      rfl
  case synced =>
    intro hn
    have he : exec (.viSyncComplete vi) s =
        .next (if s.accessesLeft vi n then s else { s with viSync := NMap.drop s.viSync vi }) := by
      rw [exec_viSyncComplete, execViSyncComplete]
      simp only [hn]
    refine ⟨fun h => by rw [he, if_pos h], fun h => ⟨_, by rw [he, if_neg (by rw [h]; exact Bool.false_ne_true)], ?_⟩⟩
    show (if (NMap.find (NMap.drop s.viSync vi) vi).isSome then 1 else 0) = 0
    rw [NMap.find_drop_self]
    rfl
  case inval =>
    intro hv
    refine ⟨_, by rw [exec_ptInvalWrite, execPtInvalWrite, State.cfgWrite_ptInval _ _ hv], ?_, ?_⟩
    · exact State.cfgGet_cfgPut_self s _ _ _
    · exact List.mem_append_right _ (List.mem_singleton_self _)
  case invalDone =>
    intro x t0 hx ht
    refine ⟨_, execPtInvalComplete_ok hx ht, ?_⟩
    by_cases h : (s.ptInval.erase x).any (·.1 == vi)
    · rw [if_pos h]
      obtain ⟨-, hptInval, hheld⟩ := State.pagesChanged_rest { t0.unitGoes (.inval vi) with ptInval := s.ptInval.erase x }
      exact ⟨hptInval, hheld, fun hno => absurd h (by rw [hno]; exact Bool.false_ne_true)⟩
    · rw [if_neg h]
      obtain ⟨hcfg, hptInval, hheld⟩ := State.pagesChanged_rest
        (State.cfgPut { t0.unitGoes (.inval vi) with ptInval := s.ptInval.erase x } Config.nPtInval vi 0)
      refine ⟨hptInval, hheld, fun _ => ?_⟩
      rw [State.cfgGet_of_cfg hcfg]
      exact State.cfgGet_cfgPut_self _ _ _ _
  case power =>
    intro hv
    have he : exec (.pwrModeWrite v) s = .next (s.cfgPut Config.nPwrMode 0 v) := by
      rw [exec_pwrModeWrite, execPwrModeWrite, State.cfgWrite_pwrMode _ hv]
    exact ⟨_, he, State.cfgGet_cfgPut_self s _ _ _, rfl⟩
  case tick =>
    refine ⟨_, execTick_eq s, rfl, fun k hk => ?_⟩
    exact (State.tstamp_tick s 128 k _).trans (if_pos hk)
  case route =>
    intro hv
    refine ⟨_, by rw [exec_fabRouteWrite, execFabRouteWrite, State.cfgWrite_fabRoute _ hv], ?_, fun r hr => ?_⟩
    · simp only [State.route, Mem.get_set_self]
      exact route_roundtrip (by omega)
    · simp only [State.route, Mem.get_set_ne _ _ hr]
  case trace =>
    intro r hr
    exact ⟨_, by rw [exec_trcCtlWrite, execTrcCtlWrite, State.cfgWrite_trcCtl _ _ _ hr], State.cfgGet_traceCtl _ _ _⟩
  case dstop =>
    intro hv
    exact ⟨_, by rw [exec_dstopEnWrite, execDstopEnWrite, State.cfgWrite_dstopEn _ _ hv], State.cfgGet_cfgPut_self s _ _ _⟩
  case hit =>
    intro k g m hc ha hg hm r here
    rw [exec_dstopHit, execDstopHit, if_neg (by simp [hc, ha])]
    simp only [hg, hm]
    exact ⟨fun h => if_pos h, fun h => if_neg h⟩

end Sys2Proof.Machine
end

section
/-!
SUPPORT. One step, from the bytes at a lane set's program counter to the outcome of its instruction (R21, R24, R143, R148): the fetch, the
preparation of an issue, and the turn of an issue slot or of a control thread with one lane set.
-/
namespace Sys2Proof.Machine

/-! Fetching. -/

/-- A code word on this chip, in memory that nothing holds. -/
theorem State.fetch_heap {s : State} {c : Nat} {a : Agent} {off h pa : Nat} {x : Actor} {r : Ref} (hcode : s.codeOf c a = (h, x))
    (hr : s.resolve x h off 4 [.execute] none = .ok r) (hp : s.HeapRef r 4 pa) (hd : s.hbmDown = []) :
    s.fetch c a off = (s, .word (leNat (Mem.bytes s.mem pa 4))) := by
  have hchan : s.channelDown r.space r.va 4 = false := by
    unfold State.channelDown
    rw [hd]
    rfl
  unfold State.fetch
  simp only [hcode, hr, hp.here, State.prepare_heap hp, State.missing_heap hp, State.locate_heap hp, hchan, Bool.false_eq_true, if_false,
    State.readRuns, List.flatMap_cons, List.flatMap_nil, List.append_nil]

/-! The preparation of an issue. -/

/-- A word without extension is ready once it is fetched. -/
theorem State.prepWord_plain {s : State} {c : Nat} {a : Agent} {ls : List Nat} {pc port w : Nat} {q : Clause} {cls : Cls} {hd : Bool}
    (hf : s.fetch c a pc = (s, .word w)) (hx : takesExt cls w = false) :
    s.prepWord c a ls pc q cls port hd = .go (s.withIssue c a ls pc q w 0 port) := by
  unfold State.prepWord
  simp only [hf, hx, Bool.false_eq_true, if_false]

/-- A word with an extension word is ready once both are fetched (R148). -/
theorem State.prepWord_ext {s : State} {c : Nat} {a : Agent} {ls : List Nat} {pc port w e : Nat} {q : Clause} {cls : Cls} {hd : Bool}
    (hf : s.fetch c a pc = (s, .word w)) (hx : takesExt cls w = true) (he : s.fetch c a (pc + 4) = (s, .word e)) :
    s.prepWord c a ls pc q cls port hd = .go (s.withIssue c a ls pc q w e port) := by
  unfold State.prepWord
  simp only [hf, hx, he, if_true]

/-- Inside a clause the set's word is prepared under the clause's header. -/
theorem State.prep_inside {s : State} {c : Nat} {a : Agent} {x : LaneSet} {port : Nat} {refill : Bool} {q : Clause} {h : Header}
    (hc : x.clause = some q) (hh : decodeHeader q.word = .ok h) :
    s.prep c a x port refill = s.prepWord c a x.lanes x.pc q h.cls port false := by
  unfold State.prep
  simp only [hc, hh]

/-- At a header that passes its checks and is no refill point, the first word of its clause is prepared (R24, R142). -/
theorem State.prep_header {s : State} {c : Nat} {a : Agent} {x : LaneSet} {port v : Nat} {refill : Bool} {h : Header} {ws : List Nat}
    (hc : x.clause = none) (hf : s.fetch c a x.pc = (s, .word v)) (hh : decodeHeader v = .ok h) (hr : h.rfl = false)
    (hw : s.clauseWords c a (x.pc + 4) h.cnt = (s, some ws)) (hlast : lastWordBad h.cls h.cnt ws = false) :
    s.prep c a x port refill = s.prepWord c a x.lanes (x.pc + 4) ⟨x.pc, v⟩ h.cls port true := by
  unfold State.prep
  simp only [hc, hf, hh, hw, hlast, hr, Bool.false_and, Bool.false_eq_true, if_false]
  cases a <;> rfl

/-! Decoding at issue. -/

/-- No check fails in two lists where none fails in either. -/
theorem lowestFailure_append {xs ys : List Check} (hx : lowestFailure xs = none) (hy : lowestFailure ys = none) :
    lowestFailure (xs ++ ys) = none := by
  induction xs with
  | nil => exact hy
  | cons x xs ih =>
    rw [List.cons_append]
    unfold lowestFailure at hx ⊢
    split at hx
    · rename_i hok
      rw [hok, ih hx]
    · cases hx
    · split at hx <;> cases hx

/-- What decodes, and passes the checks that the state at issue makes, is the instruction of the issue. -/
theorem State.decodeIssue_ok {s : State} {h : Header} {i : Instr} (hh : decodeHeader s.issue.clause.word = .ok h)
    (hd : decode h.cls s.isCt (s.issue.iword + s.issue.xword * 2 ^ 32) = .ok i) (hf : lowestFailure (s.fieldChecks i) = none) :
    s.decodeIssue = .ok i := by
  have hhead : s.issueHeader = some h := by
    unfold State.issueHeader
    rw [hh]
  rw [show (2 ^ 32 : Nat) = 4294967296 from rfl] at hd
  unfold decode at hd
  unfold State.decodeIssue
  split at hd
  · cases hd
  · rename_i r hrow
    split at hd
    · cases hd
    · rename_i huse
      split at hd
      · cases hd
      · rename_i hpriv
        split at hd
        · cases hd
        · rename_i hlow
          cases hd
          simp only [hhead, hrow, if_neg huse, if_neg hpriv, lowestFailure_append hlow hf]

/-! A group's turn. -/

/-- An agent that has just been looked at has taken no fault. -/
theorem tookFault_self (s : State) (c : Nat) (a : Agent) : tookFault s s c a = false := by
  unfold tookFault
  split
  · exact Bool.and_not_self _
  · split
    · rename_i h g hh hg
      cases hh.symm.trans hg
      exact Bool.and_not_self _
    · rfl

/-- What an issue made ready does: its instruction, with the table entries that it keeps for its time. -/
def State.performed (t : State) (i : Instr) : Out := Out.map (fun u => { u with kept := [] }) (exec i t.withKept)

theorem State.perform_ok {t : State} {i : Instr} (hd : t.decodeIssue = .ok i) (hcode : t.me.code = []) :
    t.perform exec = t.performed i := by
  have hdrop : t.dropCode = t := if_pos hcode
  unfold State.perform
  rw [hd, hdrop]
  rfl

/-- An issue of a control thread. -/
theorem State.port_ct {s t : State} {c : Nat} {x : LaneSet} {i : Instr} (hp : ∀ refill, s.prep c .ct x 0 refill = .go t)
    (hd : t.decodeIssue = .ok i) (hcode : t.me.code = []) : s.port exec c .ct x 0 true = t.performed i := by
  have honce : ∀ refill, s.portOnce exec c .ct x 0 refill true = t.performed i := fun refill => by
    unfold State.portOnce
    rw [hp]
    exact State.perform_ok hd hcode
  unfold State.port
  simp only [honce, ite_self]

/-- An issue of a group that no stop on a retired-work count names (R452). -/
theorem State.port_grp {s t : State} {c n : Nat} {x : LaneSet} {i : Instr} (hp : ∀ refill, s.prep c (.grp n) x 0 refill = .go t)
    (hstop : exec (.dstopHit c n) t = .next t) (hd : t.decodeIssue = .ok i) (hcode : t.me.code = []) :
    s.port exec c (.grp n) x 0 true = t.performed i := by
  have honce : ∀ refill, s.portOnce exec c (.grp n) x 0 refill true = t.performed i := fun refill => by
    unfold State.portOnce
    rw [hp]
    dsimp only
    rw [hstop]
    dsimp only
    rw [tookFault_self, if_neg Bool.false_ne_true, ite_self]
    exact State.perform_ok hd hcode
  unfold State.port
  simp only [honce, ite_self]

/-- With one set, both ports' issues are the primary port's. -/
theorem State.issueBoth_one (s : State) (c : Nat) (a : Agent) (x : LaneSet) :
    s.issueBoth exec c a x none = s.port exec c a x 0 true := rfl

/-- The ports of a group with one ready set. -/
theorem Group.ports_single (g : Group) (x : LaneSet) : g.ports [x] = some (x, none) := by
  unfold Group.ports
  dsimp only
  split
  · rfl
  · rw [List.foldl_nil, if_pos rfl]

/-! A slot's choice. -/

theorem Core.oldestOf_single (k : Core) (n : Nat) : k.oldestOf [n] = some n := rfl

/-- Of one eligible group an issue slot chooses it. -/
theorem Core.choose_single (k : Core) (rr : Bool) (slot : SlotState) (n : Nat) : k.choose rr slot [n] = some n := by
  unfold Core.choose
  cases rr with
  | true => cases hl : slot.last with
    | none => simp
    | some g => by_cases h : g < n <;> simp [h]
  | false =>
    by_cases hs : 256 ≤ ((NMap.find k.groups n).map (·.starved)).getD 0
    · simp [hs, Core.oldestOf_single]
    · simp only [Bool.false_eq_true, if_false, List.filter_cons, List.filter_nil, hs, decide_false]
      rw [show k.oldestOf [] = none from rfl, Core.oldestOf_single]
      cases hl : slot.last with
      | none => rfl
      | some g =>
        by_cases h : g = n
        · rw [show (some g).filter [n].contains = some n by simp [Option.filter, h]]
          cases hy : slot.yield <;> simp [Core.oldestOf]
        · rw [show (some g).filter [n].contains = none by simp [Option.filter, h]]

/-- Of no eligible group it chooses none. -/
theorem Core.choose_nil (k : Core) (rr : Bool) (slot : SlotState) : k.choose rr slot [] = none := by
  unfold Core.choose
  cases hl : slot.last with
  | none => cases rr <;> rfl
  | some g => cases rr <;> rfl

theorem State.slotChoice_nil (c slot fuel : Nat) (t : State) : State.slotChoice exec c slot (fuel + 1) t [] = .idle t := by
  unfold State.slotChoice
  simp only [List.map_nil, Core.choose_nil]

/-! The active groups of a core with one group. -/

/-- The group may stand in the active list of its issue slot (R304). -/
def Core.fits (k : Core) (slot : Nat) (g : Nat × Group) : Bool :=
  g.2.islot == slot && !g.2.halted && !g.2.trapped && !((NMap.find k.teams g.2.team).map (·.frozen)).getD true && g.2.lanes.any (·.ready)

/-- The active list that a core's groups and its slots' memory give. -/
def Core.activeList (k : Core) (slot : Nat) : List Nat :=
  let fit := k.groups.filter (k.fits slot)
  let kept := (((k.slots[slot]?).map (·.active)).getD []).filter fun n => fit.any (·.1 == n)
  kept ++ (((fit.filter fun g => !kept.contains g.1).foldr insertAge []).map (·.1)).take (16 - kept.length)

theorem State.active_eq (s : State) (c slot : Nat) : s.active c slot = (s.core c).activeList slot := rfl

/-- An issue slot whose core has no group that fits it has no active group. -/
theorem Core.activeList_nil {k : Core} {slot : Nat} (h : k.groups.filter (k.fits slot) = []) : k.activeList slot = [] := by
  unfold Core.activeList
  simp [h]

/-- The one group of a core that fits an issue slot is its active group, if the slot's memory names no other. -/
theorem Core.activeList_single {k : Core} {slot n : Nat} {g : Group} (h : k.groups.filter (k.fits slot) = [(n, g)])
    (hs : ((k.slots[slot]?).map (·.active)).getD [] = [] ∨ ((k.slots[slot]?).map (·.active)).getD [] = [n]) :
    k.activeList slot = [n] := by
  unfold Core.activeList
  rcases hs with hs | hs
  · simp [h, hs, insertAge]
  · simp [h, hs]

/-- A slot's turn brings its active list up to date and leaves the rest of its core alone. -/
theorem State.core_withActive (s : State) (c slot : Nat) : ∃ sl, (s.withActive c slot).core c = { s.core c with slots := sl } ∧
    (((sl[slot]?).map (·.active)).getD [] = [] ∨ ((sl[slot]?).map (·.active)).getD [] = s.active c slot) := by
  unfold State.withActive
  dsimp only
  split
  · rename_i h
    exact ⟨(s.core c).slots, rfl, .inr (by rw [h]; rfl)⟩
  · refine ⟨modAt (fun x => { x with active := s.active c slot }) slot (s.core c).slots, State.core_modCore_self s c fun (k : Core) =>
      { k with slots := modAt (fun x => { x with active := s.active c slot }) slot k.slots }, ?_⟩
    rw [getElem?_modAt, if_pos rfl]
    cases (s.core c).slots[slot]? with
    | none => exact .inl rfl
    | some x => exact .inr rfl

theorem State.groups_withActive (s : State) (c slot : Nat) : ((s.withActive c slot).core c).groups = (s.core c).groups := by
  obtain ⟨sl, h, -⟩ := s.core_withActive c slot
  rw [h]

theorem State.team?_withActive (s : State) (c slot t : Nat) : (s.withActive c slot).team? c t = s.team? c t := by
  obtain ⟨sl, h, -⟩ := s.core_withActive c slot
  unfold State.team?
  rw [h]

/-- A one-group active list stands after it has been brought up to date. -/
theorem State.active_withActive {s : State} {c slot n : Nat} {g : Group} (hg : (s.core c).groups = [(n, g)]) (ha : s.active c slot = [n]) :
    (s.withActive c slot).active c slot = [n] := by
  have hfit : (s.core c).groups.filter ((s.core c).fits slot) = [(n, g)] := by
    by_cases h : (s.core c).fits slot (n, g) = true
    · rw [hg, List.filter_cons_of_pos h, List.filter_nil]
    · have hnil : (s.core c).groups.filter ((s.core c).fits slot) = [] := by rw [hg, List.filter_cons_of_neg h, List.filter_nil]
      rw [State.active_eq, Core.activeList_nil hnil] at ha
      cases ha
  obtain ⟨sl, h, hsl⟩ := s.core_withActive c slot
  rw [State.active_eq, h]
  exact Core.activeList_single hfit (ha ▸ hsl)

/-- A slot to which no group of its core belongs is idle. -/
theorem State.slotTurn_other {s : State} {c slot n : Nat} {g : Group} (hg : (s.core c).groups = [(n, g)]) (hne : g.islot ≠ slot) :
    s.slotTurn exec c slot = .idle (s.withActive c slot) := by
  have hheld : s.heldSet c slot = none := by
    unfold State.heldSet
    rw [hg, List.findSome?_cons, if_pos hne, List.findSome?_nil]
  have hactive : (s.withActive c slot).active c slot = [] := by
    refine Core.activeList_nil ?_
    rw [State.groups_withActive, hg, List.filter_cons_of_neg (by simp [Core.fits, hne]), List.filter_nil]
  unfold State.slotTurn
  rw [hheld]
  dsimp only
  rw [hactive]
  exact State.slotChoice_nil c slot 0 _

/-- What the turn of a slot does whose one group `n` has issued set `x` with outcome `o`: a fault leaves no marks. -/
def State.soleTurn (s0 : State) (c slot n : Nat) (g : Group) (x : LaneSet) (o : Out) : Turn :=
  if Out.faulted s0 c (.grp n) o then .did o false (some n)
  else .did (Out.map (fun u => u.slotIssued c slot n (s0.endsYield c (.grp n) x) []) (s0.marked c (.grp n) g x none o)) false none

/-- The turn of a slot with one eligible group, one set of which is ready and is not turned away (R306, R307). -/
theorem State.slotTurn_sole {s : State} {c slot n : Nat} {g : Group} {m : Team} {x : LaneSet} (hg : (s.core c).groups = [(n, g)])
    (hheld : s.heldSet c slot = none) (hfresh : g.fresh = false) (hm : s.team? c g.team = some m) (ha : s.active c slot = [n])
    (hready : (s.withActive c slot).readySets c (.grp n) = (s.withActive c slot, [x]))
    (haway : Out.turnedAway c n x ((s.withActive c slot).port exec c (.grp n) x 0 true) = none) :
    s.slotTurn exec c slot =
      (s.withActive c slot).soleTurn c slot n g x ((s.withActive c slot).port exec c (.grp n) x 0 true) := by
  have hel : (s.withActive c slot).eligible c [n] = (s.withActive c slot, [(n, [x])]) := by
    unfold State.eligible
    rw [hready]
    rfl
  have hfind : NMap.find ((s.withActive c slot).core c).groups n = some g := by
    rw [State.groups_withActive, hg]
    exact if_pos rfl
  unfold State.slotTurn
  rw [hheld]
  dsimp only
  rw [State.active_withActive hg ha, hel]
  dsimp only
  rw [show [(n, [x])].length + 1 = 2 from rfl]
  unfold State.slotChoice
  simp only [List.map_cons, List.map_nil, Core.choose_single, List.find?_cons, beq_self_eq_true, hfind, State.team?_withActive, hm, hfresh,
    Group.ports_single, haway, State.issueBoth_one, Bool.or_false, ne_eq, not_true_eq_false, decide_false, List.filter_cons,
    List.filter_nil, Bool.false_eq_true, if_false]
  rfl

/-! A unit's turn. -/

/-- An issue slot's unit comes before those of its core's later slots. -/
theorem slotsFrom_slot {c slot : Nat} (h : slot < 4) :
    ∃ vs, slotsFrom (5 * c + slot) = (5 * c + slot) :: vs ∧ ∀ v ∈ vs, v / 5 = c ∧ v % 5 ≠ slot ∧ v % 5 ≠ 4 := by
  have hlen : 4 - (5 * c + slot) % 5 = (3 - slot) + 1 := by omega
  unfold slotsFrom
  rw [hlen, List.range_succ_eq_map, List.map_cons, Nat.add_zero]
  refine ⟨_, rfl, fun v hv => ?_⟩
  simp only [List.mem_map, List.mem_range] at hv
  obtain ⟨_, ⟨i, hi, rfl⟩, rfl⟩ := hv
  omega

/-- Idle turns hold no fault. -/
theorem faulting_cons_idle {y : Nat × Turn} {xs : List (Nat × Turn)} (h : ∀ x ∈ xs, ∃ t, x.2 = .idle t) :
    faulting (y :: xs) = faulting [y] := by
  unfold faulting
  rw [List.foldl_cons]
  refine foldl_fix fun x hx => ?_
  obtain ⟨t, ht⟩ := h x hx
  rw [ht]

/-- The turn of a slot of core `c` that holds the core's one group: the other slots are idle, so the unit does what the slot does. -/
theorem State.unitTurn_slot {s : State} {c slot n : Nat} {g : Group} {o : Out} {f : Option Nat} (hslot : slot < 4)
    (hg : (s.core c).groups = [(n, g)]) (hi : g.islot = slot) (ht : s.slotTurn exec c slot = .did o false f)
    (hf : f = none ∨ slot = 0) :
    s.unitTurn exec (5 * c + slot) =
      .inr (Out.map (fun u => { u with cursor := if f = none then 5 * c + slot + 1 else 5 * c + 5 }) o) := by
  obtain ⟨vs, hvs, hother⟩ := slotsFrom_slot (c := c) hslot
  have hdiv : (5 * c + slot) / 5 = c := by omega
  have hmod : (5 * c + slot) % 5 = slot := by omega
  have hturn : s.turn exec (5 * c + slot) = .did o false f := by
    unfold State.turn
    rw [hdiv, hmod, if_neg (by omega), ht]
  have hidle : ∀ x ∈ vs.map fun v => (v, s.turn exec v), ∃ t, x.2 = .idle t := by
    intro x hx
    obtain ⟨v, hv, rfl⟩ := List.mem_map.mp hx
    obtain ⟨hc, hne, h4⟩ := hother v hv
    refine ⟨s.withActive c (v % 5), ?_⟩
    show s.turn exec v = _
    unfold State.turn
    rw [if_neg h4, hc]
    exact State.slotTurn_other hg (by rw [hi]; exact Ne.symm hne)
  have hts : (slotsFrom (5 * c + slot)).map (fun v => (v, s.turn exec v)) =
      (5 * c + slot, .did o false f) :: vs.map fun v => (v, s.turn exec v) := by
    rw [hvs, List.map_cons, hturn]
  have hfind : ((5 * c + slot, Turn.did o false f) :: vs.map fun v => (v, s.turn exec v)).find? (·.2.starts) = none := by
    rw [List.find?_eq_none]
    intro x hx
    rcases List.mem_cons.mp hx with rfl | hx
    · exact Bool.false_ne_true
    · obtain ⟨t, htx⟩ := hidle x hx
      rw [htx]
      exact Bool.false_ne_true
  unfold State.unitTurn
  dsimp only
  rw [hts, hfind]
  dsimp only
  rw [faulting_cons_idle hidle, hdiv, hmod]
  cases f with
  | none =>
    rw [show faulting [(5 * c + slot, Turn.did o false none)] = [] from rfl, ite_self]
    rfl
  | some k =>
    obtain rfl : slot = 0 := hf.resolve_left (Option.some_ne_none k)
    rw [if_pos rfl]
    rfl

/-- A unit at the front of those whose turn it is, and that does something, does the step (R18). -/
theorem step_unit {s : State} {u : Nat} {us : List Nat} {o : Out} (hin : s.inbox = []) (hu : s.units = u :: us)
    (ho : s.unitTurn exec u = .inr o) : step s = Out.map State.settleEntries o := by
  have hfirst : s.firstTurn exec s.units = (s, some o) := by
    rw [hu]
    unfold State.firstTurn
    rw [ho]
  unfold step State.stepWith State.stepOnce
  rw [hin]
  dsimp only
  rw [hfirst]

/-- A step in which the outside asks for something (R12). -/
theorem step_inbox {s : State} {e : Instr} {rest : List Instr} (hin : s.inbox = e :: rest)
    (hs : s.bootStopped = false ∨ heardStopped e = true) :
    step s = Out.map State.settleEntries (exec e { s with inbox := rest }) := by
  unfold step State.stepWith State.stepOnce
  rw [hin]
  dsimp only
  rw [if_neg]
  rcases hs with h | h <;> simp [h]

/-! A control thread's turn. -/

/-- With no entry that waits, none is delivered. -/
theorem State.deliver_none {s : State} {c : Nat} (he : (s.core c).entries = []) : s.deliver c = s := by
  unfold State.deliver
  dsimp only
  split
  · rfl
  · rw [he]

theorem State.unitTurn_ct {s : State} {c : Nat} {x : LaneSet} (he : (s.core c).entries = []) (hr : s.readySets c .ct = (s, [x])) :
    s.unitTurn exec (5 * c + 4) = .inr (Out.map (fun u => { u with cursor := 5 * c + 4 + 1 })
      (s.marked c .ct (s.core c).ct x none (s.port exec c .ct x 0 true))) := by
  have hmod : (5 * c + 4) % 5 = 4 := by omega
  have hdiv : (5 * c + 4) / 5 = c := by omega
  have hturn : s.turn exec (5 * c + 4) = .did (s.marked c .ct (s.core c).ct x none (s.port exec c .ct x 0 true)) false none := by
    unfold State.turn
    rw [hmod, hdiv, if_pos rfl]
    unfold State.ctTurn
    rw [State.deliver_none he]
    dsimp only
    rw [if_neg (Nat.lt_irrefl _), hr]
    rfl
  have hslots : slotsFrom (5 * c + 4) = [] := by
    unfold slotsFrom
    rw [hmod]
    rfl
  unfold State.unitTurn
  dsimp only
  rw [hslots, hmod, hturn]
  rfl

/-- Settles O58: the fetch, the two places a lane set can stand at, decoding, and the turns of a slot and of a control thread. -/
theorem stepRunsDecoded : Obligations.StepRunsDecoded := by
  unfold Obligations.StepRunsDecoded
  intro s
  refine ⟨fun e rest hin hs => step_inbox hin hs, fun c a off h x r pa hc hr hp hd => State.fetch_heap hc hr hp hd, ?prep,
    fun h i hh hd hf => State.decodeIssue_ok hh hd hf, ?group, ?control⟩
  case prep =>
    intro c a x port refill h w
    refine ⟨fun q hc hh hf => ?_, fun v ws hc hv hh hr hw hl hf => ?_⟩
    · rw [State.prep_inside hc hh]
      exact ⟨fun hx => State.prepWord_plain hf hx, fun e hx he => State.prepWord_ext hf hx he⟩
    · rw [State.prep_header hc hv hh hr hw hl]
      exact ⟨fun hx => State.prepWord_plain hf hx, fun e hx he => State.prepWord_ext hf hx he⟩
  case group =>
    intro c slot n us g m x t i hin hslot hu hg hi hheld s0 hfresh hm ha hr hp hstop hd hcode o haway
    have hport : s0.port exec c (.grp n) x 0 true = o := State.port_grp hp hstop hd hcode
    have hturn : s.slotTurn exec c slot = s0.soleTurn c slot n g x o :=
      hport ▸ State.slotTurn_sole hg hheld hfresh hm ha hr (hport ▸ haway)
    unfold State.soleTurn at hturn
    refine ⟨fun hf => ?_, fun hf h0 => ?_⟩
    · rw [if_neg (by rw [hf]; exact Bool.false_ne_true)] at hturn
      exact step_unit hin hu (State.unitTurn_slot hslot hg hi hturn (.inl rfl))
    · rw [if_pos hf] at hturn
      exact step_unit hin hu (State.unitTurn_slot hslot hg hi hturn (.inr h0))
  case control =>
    intro c us x t i hin hu he hr hp hd hcode o
    have hport : s.port exec c .ct x 0 true = o := State.port_ct hp hd hcode
    exact step_unit hin hu (hport ▸ State.unitTurn_ct he hr)

end Sys2Proof.Machine
end

section
/-!
SUPPORT. The memory spaces: what a lane reads from AB, WB and the heap (R61, R63, R325); the bindery's batches (R71 to R74, R429), event
records (R281, R382) and the side log (R330, R418).
-/
namespace Sys2Proof.Machine

/-! A lane's reads. -/

theorem State.readLane_ab {s : State} {n c p : Nat} {o : Nat × Nat} (ha : s.myAb o.2 n = some (c, p))
    (hc : s.claimed (s.meLane o.1) (abSpace c) p n = false) :
    s.readLane 12 n o = (s, .value (leNat (Mem.bytes (s.core c).ab p n))) := by
  unfold State.readLane
  rw [if_pos rfl, ha]
  dsimp only
  rw [hc, if_neg Bool.false_ne_true, State.abNat]

theorem State.readLane_wb {s : State} {n p : Nat} {o : Nat × Nat} (hw : s.myWb o.2 n = some p)
    (hc : s.claimed (s.meLane o.1) (wbSpace s.issue.core) p n = false) :
    s.readLane 13 n o = (s, .value (leNat (Mem.bytes (s.core s.issue.core).wb p n))) := by
  unfold State.readLane
  rw [if_neg (by decide), if_pos rfl, hw]
  dsimp only
  rw [hc, if_neg Bool.false_ne_true]

theorem State.Calm.readLane_heap {s : State} {h n pa : Nat} {o : Nat × Nat} (hs : s.Calm) (hh : s.HeapAt h o.2 n pa) :
    s.readLane h n o = (s, .value (leNat (Mem.bytes s.mem pa n))) := by
  obtain ⟨hslot, r, hr, href⟩ := hh
  unfold State.readLane
  rw [if_neg (by omega), if_neg (by omega), hr]
  exact hs.readAt s.actor (s.meLane o.1) 0 href

/-- Settles O15: AB and WB answer at their local address, and the heap window as `State.Calm.readAt` says of memory that nothing stands
before. -/
theorem laneReads : Obligations.LaneReads := by
  unfold Obligations.LaneReads
  intro s n o
  exact ⟨fun _ _ ha hc => State.readLane_ab ha hc, fun _ hw hc => State.readLane_wb hw hc,
    fun _ _ hs hh => hs.readLane_heap hh⟩

/-! A batch of the bindery. -/

/-- No WAITC has an armed monitor. -/
def State.NoArmed (s : State) : Prop := ∀ o ∈ s.ops, ∀ d w, o.kind ≠ .waitc d w true

/-- With no armed monitor, the waits on a folio's elements apply none of its pairs. -/
theorem State.NoArmed.waitsOn {s : State} (h : s.NoArmed) (f fuel : Nat) : ∃ r, s.waitsOn f fuel = { s with rung := r } := by
  cases fuel with
  | zero => exact ⟨s.rung, rfl⟩
  | succ fuel =>
    unfold State.waitsOn
    dsimp only
    split
    · exact ⟨_, rfl⟩
    · rename_i n hn
      obtain ⟨o, ho, hk⟩ := List.mem_filterMap.mp (List.min?_mem hn)
      split at hk
      · rename_i d c hkind
        exact absurd hkind (h o ho d c)
      · cases hk

/-- With no armed monitor, the waits on a batch's elements apply no pairs. -/
theorem State.NoArmed.batchWaits {s : State} (h : s.NoArmed) (k : Nat) : ∃ r, s.batchWaits k = { s with rung := r } := by
  unfold State.batchWaits
  refine List.foldlRecOn _ _ (motive := fun t : State => ∃ r, t = { s with rung := r }) ⟨s.rung, rfl⟩ fun t ht f _ => ?_
  obtain ⟨r, rfl⟩ := ht
  obtain ⟨r', h'⟩ := State.NoArmed.waitsOn (s := { s with rung := r }) h f s.pairs.length
  exact ⟨r', h'⟩

/-- The pairs of bindery `k`'s batch. -/
def State.batch (s : State) (k : Nat) : List Pair := s.pairs.filter fun p => binderyOf p.pa == k && p.stage == .batch

/-- The state whose batch of bindery `k` has joined its gatherings (R72). -/
def State.batchJoined (s : State) (k : Nat) : State :=
  { s with pairs := s.pairs.map fun p => if (s.batch k).contains p then { p with stage := .gathered } else p }

/-- A batch for which the bin store has room joins its gatherings. -/
theorem State.gather_joined {s : State} {k : Nat} (h : 100 * (s.batchJoined k).binUse k ≤ 95 * binStore) : s.gather k = s.batchJoined k :=
  if_pos h

/-- A bindery whose spill area is not full applies nothing to free it. -/
theorem State.freeArea_roomy {s : State} {k v : Nat} (h : s.spillFull k v = false) (fuel : Nat) : s.freeArea k v fuel = s := by
  cases fuel with
  | zero => rfl
  | succ fuel =>
    unfold State.freeArea
    rw [h, Bool.not_false, if_pos rfl]

/-- A batch without EAGER pairs closes into a bin store at most 75 % full, with no spill area full: its pairs join their gatherings, what
waited for the spill area is tried again, and so are the fences (R72, R73). -/
theorem State.closeBatch_roomy {s : State} {k : Nat} (hw : s.NoArmed) (he : ∀ p ∈ s.batch k, p.eager = false)
    (hb : 100 * (s.batchJoined k).binUse k ≤ 75 * binStore) (hf : ∀ v, (s.batchJoined k).spillFull k v = false) :
    ∃ r, s.closeBatch k = (State.release { s.batchJoined k with rung := r } (· == .spillArea)).settleFences := by
  obtain ⟨r, hr⟩ := hw.batchWaits k
  refine ⟨r, ?_⟩
  have hgather : (s.batchWaits k).gather k = { s.batchJoined k with rung := r } := by
    rw [hr]
    exact State.gather_joined (s := { s with rung := r }) (Nat.le_trans hb (by decide))
  have hb' : 100 * (State.binUse { s.batchJoined k with rung := r } k) ≤ 75 * binStore := hb
  have hf' : ∀ v, State.spillFull { s.batchJoined k with rung := r } k v = false := hf
  generalize ({ s.batchJoined k with rung := r } : State) = u at hgather hb' hf' ⊢
  have heager : (s.batch k).filter (fun p => p.eager && p.opc != 3) = [] := by
    rw [List.filter_eq_nil_iff]
    intro p hp
    rw [he p hp]
    exact Bool.false_ne_true
  have harea : ∀ vs : List Nat, vs.foldl (fun t v => t.freeArea k v t.pairs.length) u = u :=
    fun vs => foldl_fix fun v _ => State.freeArea_roomy (hf' v) _
  unfold State.batch at heager
  unfold State.closeBatch
  simp only [hgather, heager, List.map_nil, List.foldr_nil, State.eagerApply, List.foldl_nil]
  rw [if_neg (Nat.not_lt.mpr hb'), harea]

theorem State.finishOp_rest (s : State) (id : Nat) :
    (s.finishOp id).pairs = s.pairs ∧ (s.finishOp id).mem = s.mem ∧ (s.finishOp id).badPa = s.badPa := by
  unfold State.finishOp
  split <;> exact ⟨rfl, rfl, rfl⟩

/-- Fences that complete leave pairs and memory as they were, where none of them applies pairs. -/
theorem State.settleFences_rest {s : State} (hn : s.NoApplies) :
    s.settleFences.pairs = s.pairs ∧ s.settleFences.mem = s.mem ∧ s.settleFences.badPa = s.badPa := by
  unfold State.settleFences
  refine List.foldlRecOn s.ops _ (motive := fun t : State => t.pairs = s.pairs ∧ t.mem = s.mem ∧ t.badPa = s.badPa) ⟨rfl, rfl, rfl⟩
    fun t ht o ho => ?_
  obtain ⟨hu, ha⟩ := hn o ho
  unfold State.tryFence
  split
  · obtain ⟨hp, hm, hb⟩ := t.finishOp_rest o.id
    split
    · exact ht
    · exact ⟨hp.trans ht.1, hm.trans ht.2.1, hb.trans ht.2.2⟩
  · rename_i hk
    exact absurd hk hu
  · rename_i fs hk
    exact absurd hk (ha fs)
  · exact ht

theorem execBatchClose_roomy {s : State} {k : Nat} (hw : s.NoArmed) (hn : s.NoApplies) (he : ∀ p ∈ s.batch k, p.eager = false)
    (hb : 100 * (s.batchJoined k).binUse k ≤ 75 * binStore) (hf : ∀ v, (s.batchJoined k).spillFull k v = false)
    (hbad : s.badPa = none) : Completes (.batchClose k) s fun t => t.pairs = (s.batchJoined k).pairs ∧ t.mem = s.mem := by
  obtain ⟨r, hr⟩ := State.closeBatch_roomy hw he hb hf
  obtain ⟨hpairs, hmem, hbad'⟩ := State.settleFences_rest (s := State.release { s.batchJoined k with rung := r } (· == .spillArea)) hn
  refine ⟨_, ?_, hpairs, hmem⟩
  rw [exec_batchClose, execBatchClose, hr]
  exact finish_next (hbad'.trans hbad)

/-- UPDATE_PAIR_ARRIVAL of the oldest pair on its way: it joins its batch, which closes when it holds 1,024 (R71, R72). -/
theorem execUpdatePairArrival_first {s : State} {j : Nat} {p : Pair} (hj : s.pairs.findIdx? (·.stage == .flight) = some j)
    (hp : s.pairs[j]? = some p) :
    let t : State := { s with pairs := modAt (fun q => { q with stage := .batch, clk := s.clk }) j s.pairs }
    exec .updatePairArrival s =
      if (t.batch (binderyOf p.pa)).length < 1024 then .next t else exec (.batchClose (binderyOf p.pa)) t := by
  have hpa : (((modAt (fun q : Pair => { q with stage := .batch, clk := s.clk }) j s.pairs)[j]?).map (·.pa)).getD 0 = p.pa := by
    rw [getElem?_modAt, if_pos rfl, hp]
    rfl
  rw [exec_updatePairArrival, execUpdatePairArrival, hj]
  dsimp only
  rw [hpa]
  rfl

/-! Event records. -/

/-- With no EVPOP waiting, no record is given. -/
theorem State.serveEvpop_none {s : State} {c : Nat} (h : ∀ o ∈ s.ops, ∀ d, o.kind ≠ .evpop d) : s.serveEvpop c = s := by
  unfold State.serveEvpop
  split
  · rfl
  · rename_i o ho
    have hmem := List.mem_of_find?_eq_some ho
    split
    · rename_i d _ _ hk _
      exact absurd hk (h o hmem d)
    · rfl

/-- A record for which the pool has room, with no older one outside the pool, joins the event queue (R281, R303). -/
theorem State.placeEvent_pool {s : State} {c : Nat} {r : List Word} (hw : (s.core c).evWait = [])
    (ha : (s.core c).eventAreaEmpty = true)
    (hp : s.poolTakes c 0 0 (s.core c).events.length (s.poolMin Config.nEvqMin c) (s.cfgGet Config.nEvqCap c) = true) :
    s.placeEvent c r = s.modCore c fun k => { k with events := k.events ++ [r] } :=
  if_pos ⟨hw, ha, hp⟩

/-! The side log. -/

/-- Replays come due among cores `ks`: those whose logs hold entries, and nothing but the agenda changes. -/
theorem State.replayDueOver_agenda (ks : NMap Core) (s : State) :
    ∃ es, ks.foldl (fun t k => if k.2.sideLog = [] ∨ t.agenda.contains (.sideLogReplay k.1) then t else t.due (.sideLogReplay k.1)) s =
        { s with agenda := s.agenda ++ es } ∧ ∀ k ∈ ks, k.2.sideLog ≠ [] → .sideLogReplay k.1 ∈ s.agenda ++ es := by
  induction ks generalizing s with
  | nil => exact ⟨[], by simp, fun _ h => absurd h List.not_mem_nil⟩
  | cons k ks ih =>
    rw [List.foldl_cons]
    split
    · rename_i h
      obtain ⟨es, he, hall⟩ := ih s
      refine ⟨es, he, fun x hx hne => ?_⟩
      rcases List.mem_cons.mp hx with rfl | hx
      · exact List.mem_append_left _ (List.contains_iff_mem.mp (h.resolve_left hne))
      · exact hall x hx hne
    · obtain ⟨es, he, hall⟩ := ih (s.due (.sideLogReplay k.1))
      have happ : (s.due (.sideLogReplay k.1)).agenda ++ es = s.agenda ++ (.sideLogReplay k.1 :: es) :=
        List.append_assoc _ [_] _
      refine ⟨.sideLogReplay k.1 :: es, ?_, fun x hx hne => ?_⟩
      · rw [he, happ]
        rfl
      · rcases List.mem_cons.mp hx with rfl | hx
        · exact List.mem_append_right _ List.mem_cons_self
        · exact happ ▸ hall x hx hne

/-- Every core whose log holds entries replays; what was due stays due. -/
theorem State.replayDue_agenda (s : State) :
    ∃ es, s.replayDue = { s with agenda := s.agenda ++ es } ∧
      ∀ c, (s.core c).sideLog ≠ [] → .sideLogReplay c ∈ s.agenda ++ es := by
  obtain ⟨es, he, hall⟩ := State.replayDueOver_agenda s.cores s
  refine ⟨es, he, fun c hne => ?_⟩
  unfold State.core at hne
  cases hf : NMap.find s.cores c with
  | none =>
    rw [hf] at hne
    exact absurd rfl hne
  | some k =>
    rw [hf] at hne
    exact hall (c, k) (NMap.find_mem hf) hne

/-- The state in which core `c` looks at the head entry `e` of its log: its pages are filled. -/
def State.logHead (s : State) (c : Nat) (e : LogEntry) : State :=
  (s.atCore c).prepare ⟨e.space, e.va, 0, e.vi, e.index, 0, 0, none⟩ e.size

/-- The apply that entry `e` makes on runs `rs` must take pairs that stand in a log before it; a pair makes none (R102). -/
def State.entryBehind (s : State) (e : LogEntry) (rs : List (Nat × Nat)) : Prop :=
  (∀ v p g, e.kind ≠ .pair v p g) ∧ s.loggedOn (s.dueFolios rs) e.id = true

/-- The entry is an update pair. -/
def LogKind.isPair : LogKind → Bool
  | .pair _ _ _ => true
  | _ => false

theorem State.entryBehind_iff (s : State) (e : LogEntry) (rs : List (Nat × Nat)) :
    (!e.kind.isPair && s.loggedOn (s.dueFolios rs) e.id) = true ↔ s.entryBehind e rs := by
  unfold State.entryBehind
  cases e.kind <;> simp [LogKind.isPair]

/-- The state after the head entry of core `c`'s log has been performed, which led to `s`. -/
def State.entryDone (s : State) (c : Nat) (e : LogEntry) (rest : List LogEntry) : State :=
  let s3 := (s.modCore c fun k => { k with sideLog := rest, slogFull := none, slogTold := false }).unitGoes (.log c)
  let s4 := if rest.any (·.id == e.id) then s3 else s3.due (.storeAck e.id 0)
  (s4.release fun w => w == .sideLog || w == .line).replayDue

theorem State.entryDone_rest (s : State) (c : Nat) (e : LogEntry) (rest : List LogEntry) :
    ((s.entryDone c e rest).core c).sideLog = rest ∧ (s.entryDone c e rest).mem = s.mem ∧ (s.entryDone c e rest).badPa = s.badPa ∧
      (rest.any (·.id == e.id) = false → .storeAck e.id 0 ∈ (s.entryDone c e rest).agenda) ∧
      (rest ≠ [] → .sideLogReplay c ∈ (s.entryDone c e rest).agenda) := by
  unfold State.entryDone
  dsimp only
  generalize hs3 : State.unitGoes _ _ = s3
  have h3 : (s3.core c).sideLog = rest ∧ s3.mem = s.mem ∧ s3.badPa = s.badPa := by
    rw [← hs3]
    exact ⟨congrArg Core.sideLog (State.core_modCore_self s c fun k => { k with sideLog := rest, slogFull := none, slogTold := false }),
      rfl, rfl⟩
  generalize hs4 : (if rest.any (·.id == e.id) then s3 else s3.due (.storeAck e.id 0)) = s4
  have h4 : (s4.core c).sideLog = rest ∧ s4.mem = s.mem ∧ s4.badPa = s.badPa ∧
      (rest.any (·.id == e.id) = false → .storeAck e.id 0 ∈ s4.agenda) := by
    obtain ⟨hlog, hmem, hbad⟩ := h3
    rw [← hs4]
    split
    · rename_i hany
      exact ⟨hlog, hmem, hbad, fun h => absurd (hany.symm.trans h) (by decide)⟩
    · exact ⟨hlog, hmem, hbad, fun _ => List.mem_append_right _ List.mem_cons_self⟩
  obtain ⟨hlog, hmem, hbad, hack⟩ := h4
  have hrel : ((s4.release fun w => w == .sideLog || w == .line).core c).sideLog = rest := by
    rw [State.core_release]
    exact hlog
  obtain ⟨es, he, hall⟩ := (s4.release fun w => w == .sideLog || w == .line).replayDue_agenda
  rw [he]
  exact ⟨hrel, hmem, hbad, fun h => List.mem_append_left _ (hack h), fun hne => hall c (hrel.symm ▸ hne)⟩

/-- SIDE_LOG_REPLAY whose head entry is performed (R330). -/
theorem execSideLogReplay_performed {s s2 : State} {c : Nat} {e : LogEntry} {rest : List LogEntry} {rs : List (Nat × Nat)}
    (hlog : (s.core c).sideLog = e :: rest) (hl : (s.logHead c e).locate e.space e.va e.size = some rs)
    (hd : (s.logHead c e).channelDown e.space e.va e.size = false) (hb : ¬(s.logHead c e).entryBehind e rs)
    (hr : (s.logHead c e).replayEntry c e rs = .ok s2) (hbad : s2.badPa = none) :
    exec (.sideLogReplay c) s = .next (s2.entryDone c e rest) := by
  obtain ⟨-, -, hbad', -⟩ := s2.entryDone_rest c e rest
  rw [← State.entryBehind_iff] at hb
  unfold State.logHead at hl hd hb hr
  rw [exec_sideLogReplay, execSideLogReplay, hlog]
  dsimp only
  rw [hl]
  dsimp only
  rw [hd, Bool.false_or]
  refine (if_neg hb).trans ?_
  rw [hr]
  exact finish_next (hbad'.trans hbad)

/-- SIDE_LOG_REPLAY whose head entry waits for a page, a channel or an earlier entry (R102, R328, R424). -/
theorem execSideLogReplay_waits {s : State} {c : Nat} {e : LogEntry} {rest : List LogEntry} (hlog : (s.core c).sideLog = e :: rest)
    (hw : (s.logHead c e).locate e.space e.va e.size = none ∨ ∃ rs, (s.logHead c e).locate e.space e.va e.size = some rs ∧
      ((s.logHead c e).channelDown e.space e.va e.size = true ∨ (s.logHead c e).entryBehind e rs))
    (hbad : (s.logHead c e).badPa = none) : exec (.sideLogReplay c) s = .next (s.logHead c e) := by
  refine Eq.trans ?_ (finish_next hbad)
  simp only [← State.entryBehind_iff] at hw
  unfold State.logHead at hw
  rw [exec_sideLogReplay, execSideLogReplay, hlog]
  dsimp only
  rcases hw with hl | ⟨rs, hl, hd⟩
  · rw [hl]
    rfl
  · rw [hl]
    exact if_pos (Bool.or_eq_true_iff.mpr hd)

/-- SIDE_LOG_FULL of a log that holds entries and has been full since cycle `f` (R418, R435). -/
theorem execSideLogFull_since {s : State} {c f : Nat} {e : LogEntry} {rest : List LogEntry} (hlog : (s.core c).sideLog = e :: rest)
    (hf : (s.core c).slogFull = some f) :
    exec (.sideLogFull c) s =
      if (s.core c).slogTold = true ∨ s.clk < f + s.cfgGet Config.nSlogWait 0 then .next s
      else .next ((s.postEvent c 0x12 e.vi none [256, e.va % 2 ^ 32, e.va / 2 ^ 32, s.clk - f]).modCore c ({ · with slogTold := true })) := by
  rw [exec_sideLogFull, execSideLogFull, hlog, hf]

theorem execSideLogFull_room {s : State} {c : Nat} (hf : (s.core c).slogFull = none) : exec (.sideLogFull c) s = .next s := by
  rw [exec_sideLogFull, execSideLogFull, hf]
  cases (s.core c).sideLog <;> rfl

/-- Settles O47: each clause is the lemma above that bears its step's name; a record that joins its queue is given to no EVPOP. -/
theorem binderySteps : Obligations.BinderySteps := by
  unfold Obligations.BinderySteps
  intro s k vi c team
  refine ⟨?arrival, ?close, ?quota, ?event, ?log⟩
  case arrival =>
    intro j p hj hp t batch
    have he := execUpdatePairArrival_first hj hp
    exact ⟨fun h => he.trans (if_pos h), fun h => he.trans (if_neg (Nat.not_lt.mpr h))⟩
  case close =>
    intro batch s1 hops heager hbin hspill hbad
    exact execBatchClose_roomy (fun o ho => (hops o ho).1) (fun o ho => (hops o ho).2) heager hbin hspill hbad
  case quota =>
    rw [exec_binderyQuota, execBinderyQuota]
    cases s.mostRuns vi fun p => s.spillFull (binderyOf p.pa) vi with
    | none => rfl
    | some f => rfl
  case event =>
    intro kind ws hops hw ha hp
    rw [State.postEvent, State.placeEvent_pool hw ha hp, State.serveEvpop_none (by exact hops), State.core_modCore_self]
  case log =>
    intro e rest hlog
    refine ⟨⟨fun rs s2 hl hd hb hr hbad => ?_, execSideLogReplay_waits hlog⟩, fun f hf => ?_, execSideLogFull_room⟩
    · obtain ⟨hrest, hmem, -, hack, hagain⟩ := s2.entryDone_rest c e rest
      exact ⟨_, execSideLogReplay_performed hlog hl hd hb hr hbad, hrest, hmem, hack, hagain⟩
    · have he := execSideLogFull_since hlog hf
      refine ⟨fun htold hlate => he.trans (if_neg ?_), fun h => he.trans (if_pos h)⟩
      rw [htold]
      exact not_or.mpr ⟨Bool.false_ne_true, Nat.not_lt.mpr hlate⟩

end Sys2Proof.Machine
end

section
/-!
SUPPORT. The two traps of the frame of the floating-point instructions: a verdict operand under VTRAP and an enabled exception, each of
the lowest lane that has one (R127, R137, R400).
-/
namespace Sys2Proof.Machine

/-! The lowest lane of an ascending set. -/

/-- In an ascending list the elements before a member are below it. -/
theorem exists_append_of_pairwise {ls : List Nat} {l : Nat} (hs : ls.Pairwise (· < ·)) (hl : l ∈ ls) :
    ∃ xs ys, ls = xs ++ l :: ys ∧ ∀ x ∈ xs, x < l := by
  obtain ⟨xs, ys, rfl⟩ := List.append_of_mem hl
  exact ⟨xs, ys, rfl, fun x hx => (List.pairwise_append.mp hs).2.2 x hx l List.mem_cons_self⟩

/-- In an ascending list the lowest element with a value is found first. -/
theorem findSome?_lowest {α : Type} {ls : List Nat} {l : Nat} {f : Nat → Option α} {x : α} (hs : ls.Pairwise (· < ·)) (hl : l ∈ ls)
    (hx : f l = some x) (hmin : ∀ k ∈ ls, (f k).isSome = true → l ≤ k) : ls.findSome? f = some x := by
  obtain ⟨xs, ys, rfl, hlt⟩ := exists_append_of_pairwise hs hl
  refine List.findSome?_eq_some_iff.mpr ⟨xs, l, ys, rfl, hx, fun k hk => Option.not_isSome_iff_eq_none.mp fun hsome => ?_⟩
  exact Nat.not_le.mpr (hlt k hk) (hmin k (List.mem_append_left _ hk) hsome)

/-- The pair of the lowest lane whose second part has `p` is found first among the pairs of an ascending list. -/
theorem find?_map_lowest {α : Type} {ls : List Nat} {l : Nat} {f : Nat → α} {p : α → Bool} (hs : ls.Pairwise (· < ·)) (hl : l ∈ ls)
    (hp : p (f l) = true) (hmin : ∀ k ∈ ls, p (f k) = true → l ≤ k) :
    (ls.map fun k => (k, f k)).find? (fun o => p o.2) = some (l, f l) := by
  obtain ⟨xs, ys, rfl, hlt⟩ := exists_append_of_pairwise hs hl
  rw [List.find?_map, Option.map_eq_some_iff]
  refine ⟨l, List.find?_eq_some_iff_append.mpr ⟨hp, xs, ys, rfl, fun k hk => ?_⟩, rfl⟩
  have hno : ¬p (f k) = true := fun h => Nat.not_le.mpr (hlt k hk) (hmin k (List.mem_append_left _ hk) h)
  simpa using hno

/-- The lanes that an issue reads ascend where its active lanes do. -/
theorem State.sources_pairwise {s : State} (u : Bool) (hs : s.issue.lanes.Pairwise (· < ·)) : (s.sources u).Pairwise (· < ·) := by
  cases u
  · exact hs
  · exact hs.sublist (List.take_sublist 1 _)

/-! Verdict operands. -/

/-- The first verdict among the FP32 operands of lane `l`: the lane, the operand's code and the verdict. -/
def State.laneVerdict (s : State) (operands : List (Nat × Nat)) (l : Nat) : Option (Nat × Nat × Word) :=
  operands.findSome? fun o => if isVerdict (s.me.reg l o.2) then some (l, o.1, s.me.reg l o.2) else none

theorem State.verdictOperand_eq (s : State) (u : Bool) (operands : List (Nat × Nat)) :
    s.verdictOperand u operands = (s.sources u).findSome? (s.laneVerdict operands) := rfl

theorem State.laneVerdict_pair (s : State) (a b l : Nat) :
    s.laneVerdict [(0, a), (1, b)] l =
      if isVerdict (s.me.reg l a) then some (l, 0, s.me.reg l a)
      else if isVerdict (s.me.reg l b) then some (l, 1, s.me.reg l b) else none := by
  unfold State.laneVerdict
  cases ha : isVerdict (s.me.reg l a) <;> cases hb : isVerdict (s.me.reg l b) <;> simp [ha, hb]

theorem State.laneVerdict_pair_isSome (s : State) (a b l : Nat) :
    (s.laneVerdict [(0, a), (1, b)] l).isSome = (isVerdict (s.me.reg l a) || isVerdict (s.me.reg l b)) := by
  rw [State.laneVerdict_pair]
  cases isVerdict (s.me.reg l a) <;> cases isVerdict (s.me.reg l b) <;> rfl

/-! The frame. -/

/-- A verdict operand under VTRAP stops the instruction before it computes (R137). -/
theorem fpStep_verdict {t : State} {u : Bool} {operands : List (Nat × Nat)} {l o : Nat} {v : Word} (ht : t.vtrap = true)
    (hv : t.verdictOperand u operands = some (l, o, v)) (a : Nat) (flag : State → Option Nat) (f : State → Nat → FpOut) :
    fpStep u operands a flag f t = .next (t.raise 0x19 (l + o * 256) v.toNat 0) := by
  unfold fpStep
  rw [if_pos ht, hv]

/-- Where no verdict traps, an enabled exception leaves the flags of every lane set and names the lowest lane that raises one (R127). -/
theorem fpStep_exception {t : State} {u : Bool} {operands : List (Nat × Nat)} {f : State → Nat → FpOut} {l : Nat}
    (hs : t.issue.lanes.Pairwise (· < ·)) (hv : t.vtrap = true → t.verdictOperand u operands = none) (hl : l ∈ t.sources u)
    (he : (f t l).flags &&& t.fpEnables ≠ 0) (hmin : ∀ k ∈ t.sources u, (f t k).flags &&& t.fpEnables ≠ 0 → l ≤ k)
    (a : Nat) (flag : State → Option Nat) :
    let raised := (t.sources u).foldl (fun x k => x ||| (f t k).flags) 0
    fpStep u operands a flag f t = .next ((t.modMe fun g => { g with fpf := g.fpf ||| raised }).raise 0x1A
      ((raised &&& t.fpEnables).toNat + l * 256) (t.me.reg l a).toNat 0) := by
  have hnone : (if t.vtrap then t.verdictOperand u operands else none) = none := ite_eq_right_iff.mpr hv
  have hfind : ((t.sources u).map fun k => (k, f t k)).find? (fun o => decide (o.2.flags &&& t.fpEnables ≠ 0)) = some (l, f t l) :=
    find?_map_lowest (p := fun o : FpOut => decide (o.flags &&& t.fpEnables ≠ 0)) (t.sources_pairwise u hs) hl (decide_eq_true he)
      fun k hk h => hmin k hk (of_decide_eq_true h)
  unfold fpStep
  unfold State.sources at hfind ⊢
  simp only [hnone, hfind, List.foldl_map]

/-! The instructions of two FP32 operands. -/

section
variable {s : State} {u : Bool} {d a b l : Nat} (hf : s.Free u [a, b] [d]) (hs : s.issue.lanes.Pairwise (· < ·)) (hl : l ∈ s.sources u)
include hf hs hl

theorem fp2_verdict (f : State → Nat → Nat → FRes) (ht : s.vtrap = true)
    (hv : (isVerdict (s.me.reg l a) || isVerdict (s.me.reg l b)) = true)
    (hmin : ∀ k ∈ s.sources u, (isVerdict (s.me.reg k a) || isVerdict (s.me.reg k b)) = true → l ≤ k) :
    fp2 u d a b s f = .next (if isVerdict (s.me.reg l a) then s.raise 0x19 l (s.me.reg l a).toNat 0
      else s.raise 0x19 (l + 256) (s.me.reg l b).toNat 0) := by
  have hlow : ∀ x, s.laneVerdict [(0, a), (1, b)] l = some x → s.verdictOperand u [(0, a), (1, b)] = some x := fun x hx => by
    rw [State.verdictOperand_eq]
    refine findSome?_lowest (s.sources_pairwise u hs) hl hx fun k hk hsome => hmin k hk ?_
    rwa [← State.laneVerdict_pair_isSome]
  rw [State.laneVerdict_pair] at hlow
  unfold fp2 fpOp
  rw [issueWith_free hf]
  by_cases ha : isVerdict (s.me.reg l a) = true
  · rw [if_pos ha, fpStep_verdict ht (hlow _ (if_pos ha)), Nat.zero_mul, Nat.add_zero]
  · have hb : isVerdict (s.me.reg l b) = true := (Bool.or_eq_true_iff.mp hv).resolve_left ha
    rw [if_neg ha, fpStep_verdict ht (hlow _ ((if_neg ha).trans (if_pos hb))), Nat.one_mul]

theorem fp2_exception (f : State → Nat → Nat → FRes)
    (hv : s.vtrap = true → ∀ k ∈ s.sources u, (isVerdict (s.me.reg k a) || isVerdict (s.me.reg k b)) = false)
    (he : (f s (s.me.reg l a).toNat (s.me.reg l b).toNat).flags &&& s.fpEnables ≠ 0)
    (hmin : ∀ k ∈ s.sources u, (f s (s.me.reg k a).toNat (s.me.reg k b).toNat).flags &&& s.fpEnables ≠ 0 → l ≤ k) :
    let raised := (s.sources u).foldl (fun x k => x ||| (f s (s.me.reg k a).toNat (s.me.reg k b).toNat).flags) 0
    fp2 u d a b s f = .next ((s.modMe fun g => { g with fpf := g.fpf ||| raised }).raise 0x1A
      ((raised &&& s.fpEnables).toNat + l * 256) (s.me.reg l a).toNat 0) := by
  have hnone : s.vtrap = true → s.verdictOperand u [(0, a), (1, b)] = none := fun ht => by
    rw [State.verdictOperand_eq, List.findSome?_eq_none_iff]
    intro k hk
    rw [← Option.not_isSome_iff_eq_none, State.laneVerdict_pair_isSome, hv ht k hk]
    exact Bool.false_ne_true
  unfold fp2 fpOp
  rw [issueWith_free hf]
  exact fpStep_exception hs hnone hl he hmin a noFlag

end

/-- Settles O11: the three instructions are one frame over two FP32 operands, which looks for a verdict in the lowest lane first, then
for an enabled exception, and writes results after both. -/
theorem floatingTraps : Obligations.FloatingTraps := by
  unfold Obligations.FloatingTraps
  intro s u d a b m hf hs v verdict p hp flags l hl
  simp only [List.mem_cons, List.not_mem_nil, or_false] at hp
  rcases hp with rfl | rfl | rfl
  · rw [exec_fadd, execFadd]
    exact ⟨fp2_verdict hf hs hl _, fun hv he hmin => fp2_exception hf hs hl _ hv he hmin⟩
  · rw [exec_fsub, execFsub]
    exact ⟨fp2_verdict hf hs hl _, fun hv he hmin => fp2_exception hf hs hl _ hv he hmin⟩
  · rw [exec_fmul, execFmul]
    exact ⟨fp2_verdict hf hs hl _, fun hv he hmin => fp2_exception hf hs hl _ hv he hmin⟩

end Sys2Proof.Machine
end

section
/-!
SUPPORT. The words of an instruction as fields (R148, R150 to R152): a number against the widths and values of its fields, the fields
that the formats give each instruction, and the two ways between them: `encode` packs the fields, and a row of the opcode maps is read
where they stand. The encodings follow from the two.
-/
namespace Sys2Proof

/-! Numbers and fields. A list of fields gives the width and the value of each, from the lowest up. -/

theorem fld_lt (v lo n : Nat) : fld v lo n < 2 ^ n := Nat.mod_lt _ (Nat.two_pow_pos n)

theorem fld_add (v lo m n : Nat) : fld v lo (m + n) = fld v lo m + 2 ^ m * fld v (lo + m) n := by
  unfold fld
  rw [Nat.pow_add 2 m, Nat.mod_mul, Nat.pow_add 2 lo, Nat.div_div_eq_div_mul]

theorem bit_eq_decide_fld (v lo : Nat) : bit v lo = decide (fld v lo 1 = 1) := rfl

theorem bit_eq_iff (v lo : Nat) (b : Bool) : bit v lo = b ↔ fld v lo 1 = b.toNat := by
  have h : fld v lo 1 < 2 := fld_lt v lo 1
  rw [bit_eq_decide_fld]
  cases b
  · exact decide_eq_false_iff_not.trans (by simp only [Bool.toNat_false]; omega)
  · exact decide_eq_true_iff

theorem bit_toNat (v lo : Nat) : (bit v lo).toNat = fld v lo 1 := ((bit_eq_iff v lo _).mp rfl).symm

/-- The number that fields make from bit 0 up. -/
def packFields : List (Nat × Nat) → Nat
  | [] => 0
  | (n, x) :: fs => x + 2 ^ n * packFields fs

/-- The bits that fields take. -/
def fieldsWidth : List (Nat × Nat) → Nat
  | [] => 0
  | (n, _) :: fs => n + fieldsWidth fs

/-- `v` holds the fields from bit `lo` up. -/
def HasFields (v lo : Nat) : List (Nat × Nat) → Prop
  | [] => True
  | (n, x) :: fs => fld v lo n = x ∧ HasFields v (lo + n) fs

theorem HasFields.pack_eq {v lo : Nat} {fs : List (Nat × Nat)} (h : HasFields v lo fs) : packFields fs = fld v lo (fieldsWidth fs) := by
  induction fs generalizing lo with
  | nil => exact (Nat.mod_one _).symm
  | cons f fs ih =>
    obtain ⟨hx, hfs⟩ := h
    rw [packFields, fieldsWidth, fld_add, ih hfs, hx]

theorem HasFields.lt {v lo : Nat} {fs : List (Nat × Nat)} (h : HasFields v lo fs) : ∀ f ∈ fs, f.2 < 2 ^ f.1 := by
  induction fs generalizing lo with
  | nil => exact fun _ hf => nomatch hf
  | cons f fs ih =>
    obtain ⟨hx, hfs⟩ := h
    exact List.forall_mem_cons.mpr ⟨hx ▸ fld_lt v lo f.1, ih hfs⟩

theorem hasFields_of_div_eq {v lo : Nat} {fs : List (Nat × Nat)} (h : v / 2 ^ lo = packFields fs) (hlt : ∀ f ∈ fs, f.2 < 2 ^ f.1) :
    HasFields v lo fs := by
  induction fs generalizing lo with
  | nil => trivial
  | cons f fs ih =>
    obtain ⟨hx, hfs⟩ := List.forall_mem_cons.mp hlt
    rw [packFields] at h
    refine ⟨?_, ih ?_ hfs⟩
    · rw [fld, h, Nat.add_mul_mod_self_left, Nat.mod_eq_of_lt hx]
    · rw [Nat.pow_add, ← Nat.div_div_eq_div_mul, h, Nat.add_mul_div_left _ _ (Nat.two_pow_pos _), Nat.div_eq_of_lt hx, Nat.zero_add]

/-- Fields that fit their widths stand in the number that they make. -/
theorem hasFields_packFields {fs : List (Nat × Nat)} (hlt : ∀ f ∈ fs, f.2 < 2 ^ f.1) : HasFields (packFields fs) 0 fs :=
  hasFields_of_div_eq (Nat.div_one _) hlt

theorem packFields_lt {fs : List (Nat × Nat)} (hlt : ∀ f ∈ fs, f.2 < 2 ^ f.1) : packFields fs < 2 ^ fieldsWidth fs := by
  rw [(hasFields_packFields hlt).pack_eq]
  exact fld_lt _ _ _

/-! The fields of an instruction's words. -/

/-- An instruction word with registers in D and A, and `low` below bit 9 (R147, R149). -/
def wordFields (op u d a : Nat) (low : List (Nat × Nat)) : List (Nat × Nat) := low ++ [(7, a), (7, d), (1, u), (8, op)]

/-- Format RRR: three registers and a variant (Table En-4). -/
def rrrFields (op u d a b m : Nat) : List (Nat × Nat) := wordFields op u d a [(2, m), (7, b)]

/-- Formats RI and E: two registers and a 9-bit immediate (Table En-4). -/
def riFields (op u d a i : Nat) : List (Nat × Nat) := wordFields op u d a [(9, i)]

/-- Format M: two registers, a handle slot or space, and a 5-bit offset (Table En-4). -/
def memFields (op u d a h i : Nat) : List (Nat × Nat) := wordFields op u d a [(5, i), (4, h)]

/-- The fields of an instruction's words from bit 0 up, U, the opcode and the unused fields among them, so that no bit is left out; none
for an event. `encode_bits` ties it to the encoder, `opRow_of_fields` and `fields_of_opRow` to the decoder. -/
def Instr.fields : Instr → List (Nat × Nat)
  | .iadd u d a b => rrrFields 0x00 u.toNat d a b 0
  | .isub u d a b => rrrFields 0x01 u.toNat d a b 0
  | .iaddi u d a i => riFields 0x02 u.toNat d a i
  | .imul u d a b => rrrFields 0x03 u.toNat d a b 0
  | .imulh u d a b m => rrrFields 0x04 u.toNat d a b m
  | .imad u d a b m => rrrFields 0x05 u.toNat d a b m
  | .imin u d a b m => rrrFields 0x06 u.toNat d a b m
  | .imax u d a b m => rrrFields 0x07 u.toNat d a b m
  | .iabs u d a m => rrrFields 0x08 u.toNat d a 0 m
  | .iadds u d a b m => rrrFields 0x09 u.toNat d a b m
  | .iadd64 u d a b => rrrFields 0x0A u.toNat d a b 0
  | .isub64 u d a b => rrrFields 0x0B u.toNat d a b 0
  | .ixadd u d a b m => rrrFields 0x0C u.toNat d a b m
  | .and u d a b => rrrFields 0x10 u.toNat d a b 0
  | .or u d a b => rrrFields 0x11 u.toNat d a b 0
  | .xor u d a b => rrrFields 0x12 u.toNat d a b 0
  | .andn u d a b => rrrFields 0x13 u.toNat d a b 0
  | .andi u d a i => riFields 0x14 u.toNat d a i
  | .ori u d a i => riFields 0x15 u.toNat d a i
  | .xori u d a i => riFields 0x16 u.toNat d a i
  | .shl u d a b => rrrFields 0x18 u.toNat d a b 0
  | .shr u d a b => rrrFields 0x19 u.toNat d a b 0
  | .sar u d a b => rrrFields 0x1A u.toNat d a b 0
  | .shli u d a i => riFields 0x1B u.toNat d a i
  | .shri u d a i => riFields 0x1C u.toNat d a i
  | .sari u d a i => riFields 0x1D u.toNat d a i
  | .popc u d a => rrrFields 0x20 u.toNat d a 0 0
  | .clz u d a => rrrFields 0x21 u.toNat d a 0 0
  | .brev u d a => rrrFields 0x22 u.toNat d a 0 0
  | .bfe u d a b m pos len sgn => rrrFields 0x23 u.toNat d a b m ++ [(6, pos), (2, 0), (6, len), (1, sgn.toNat), (17, 0)]
  | .bfi u d a b m pos len => rrrFields 0x24 u.toNat d a b m ++ [(6, pos), (2, 0), (6, len), (1, 0), (17, 0)]
  | .mov u d a m => rrrFields 0x28 u.toNat d a 0 m
  | .li u d m i => [(15, i), (1, m), (7, d), (1, u.toNat), (8, 0x29)]
  | .lix u d m i x => [(15, i), (1, m), (7, d), (1, u.toNat), (8, 0x2A)] ++ [(32, x)]
  | .sel u d a b m cf inv => rrrFields 0x2B u.toNat d a b m ++ [(3, cf), (1, inv.toNat), (28, 0)]
  | .movs u d n => wordFields 0x2C u.toNat d 0 [(7, n), (2, 0)]
  | .movsw u d n => wordFields 0x2D u.toNat d 0 [(7, n), (2, 0)]
  | .icmp u c k a b m => [(2, m), (7, b), (7, a), (4, k), (3, c), (1, u.toNat), (8, 0x30)]
  | .clog u c k p q => [(2, 0), (3, q), (4, 0), (3, p), (4, 0), (4, k), (3, c), (1, u.toNat), (8, 0x32)]
  | .fadd u d a b m => rrrFields 0x40 u.toNat d a b m
  | .fsub u d a b m => rrrFields 0x41 u.toNat d a b m
  | .fmul u d a b m => rrrFields 0x42 u.toNat d a b m
  | .ffma u d a b m => rrrFields 0x43 u.toNat d a b m
  | .fmin u d a b m => rrrFields 0x45 u.toNat d a b m
  | .fmax u d a b m => rrrFields 0x46 u.toNat d a b m
  | .fcmp u c k a b m => [(2, m), (7, b), (7, a), (4, k), (3, c), (1, u.toNat), (8, 0x47)]
  | .frcp u d a m => rrrFields 0x48 u.toNat d a 0 m
  | .frsq u d a => rrrFields 0x49 u.toNat d a 0 0
  | .fsqrt u d a m => rrrFields 0x4A u.toNat d a 0 m
  | .fexp2 u d a => rrrFields 0x4B u.toNat d a 0 0
  | .flog2 u d a => rrrFields 0x4C u.toNat d a 0 0
  | .fsin u d a => rrrFields 0x4D u.toNat d a 0 0
  | .fcos u d a => rrrFields 0x4E u.toNat d a 0 0
  | .ftanh u d a => rrrFields 0x4F u.toNat d a 0 0
  | .frnd u d a m => rrrFields 0x50 u.toNat d a 0 m
  | .fcps u d a b m => rrrFields 0x51 u.toNat d a b m
  | .hadd2 u d a b bf => wordFields 0x58 u.toNat d a [(1, bf.toNat), (1, 0), (7, b)]
  | .hmul2 u d a b bf => wordFields 0x59 u.toNat d a [(1, bf.toNat), (1, 0), (7, b)]
  | .hfma2 u d a b bf => wordFields 0x5A u.toNat d a [(1, bf.toNat), (1, 0), (7, b)]
  | .hmin2 u d a b bf => wordFields 0x5B u.toNat d a [(1, bf.toNat), (1, 0), (7, b)]
  | .hmax2 u d a b bf => wordFields 0x5C u.toNat d a [(1, bf.toNat), (1, 0), (7, b)]
  | .hdot2 u d a b bf => wordFields 0x5D u.toNat d a [(1, bf.toNat), (1, 0), (7, b)]
  | .cvt u d a src dst rm satx ncnt => rrrFields 0x80 u.toNat d a 0 0
      ++ [(4, src), (4, dst), (5, 0), (3, rm), (1, satx.toNat), (2, ncnt), (13, 0)]
  | .cvtq u d a b src dst rm satx vtype blk had smode sbyte => rrrFields 0x81 u.toNat d a b 0
      ++ [(4, src), (4, dst), (5, 0), (3, rm), (1, satx.toNat), (2, vtype), (1, blk.toNat), (1, had.toNat), (1, smode.toNat), (2, sbyte), (8, 0)]
  | .cvtd u d a b src dst rm blk had scl sbyte => rrrFields 0x82 u.toNat d a b 0
      ++ [(4, src), (4, dst), (5, 0), (3, rm), (3, 0), (1, blk.toNat), (1, had.toNat), (1, scl.toNat), (2, sbyte), (8, 0)]
  | .bscl u d a b rm styp inv sbyte => rrrFields 0x83 u.toNat d a b 0
      ++ [(13, 0), (3, rm), (4, 0), (1, styp.toNat), (1, inv.toNat), (2, sbyte), (8, 0)]
  | .hadm u d a typ rm nrm blk => rrrFields 0x84 u.toNat d a 0 0
      ++ [(4, typ), (9, 0), (3, rm), (2, 0), (1, nrm.toNat), (1, blk.toNat), (12, 0)]
  | .vclass u d a => rrrFields 0x88 u.toNat d a 0 0
  | .vzero u d a m => rrrFields 0x89 u.toNat d a 0 m
  | .vfill u d a b => rrrFields 0x8A u.toNat d a b 0
  | .shfl d a b m => rrrFields 0xA0 0 d a b m
  | .vote d p m => [(2, m), (7, 0), (3, p), (4, 0), (7, d), (1, 0), (8, 0xA1)]
  | .prfx d a m => rrrFields 0xA2 0 d a 0 m
  | .rduc d a k => rrrFields 0xA3 0 d a k 0
  | .ldb u d a h i => memFields 0x00 u.toNat d a h i
  | .ldbs u d a h i => memFields 0x01 u.toNat d a h i
  | .ldh u d a h i => memFields 0x02 u.toNat d a h i
  | .ldhs u d a h i => memFields 0x03 u.toNat d a h i
  | .ldw u d a h i => memFields 0x04 u.toNat d a h i
  | .ldd u d a h i => memFields 0x05 u.toNat d a h i
  | .ldq u d a h i => memFields 0x06 u.toNat d a h i
  | .stb u d a h i => memFields 0x08 u.toNat d a h i
  | .sth u d a h i => memFields 0x09 u.toNat d a h i
  | .stw u d a h i => memFields 0x0A u.toNat d a h i
  | .std u d a h i => memFields 0x0B u.toNat d a h i
  | .stq u d a h i => memFields 0x0C u.toNat d a h i
  | .pfch u a h i => memFields 0x0E u.toNat 0 a h i
  | .aadd d a h i src nr ty => memFields 0x20 1 d a h i ++ [(7, src), (7, 0), (1, nr.toNat), (3, ty), (14, 0)]
  | .ainc d a h i src nr ty => memFields 0x21 1 d a h i ++ [(7, src), (7, 0), (1, nr.toNat), (3, ty), (14, 0)]
  | .adec d a h i nr ty => memFields 0x22 1 d a h i ++ [(7, 0), (7, 0), (1, nr.toNat), (3, ty), (14, 0)]
  | .amin d a h i src nr ty => memFields 0x23 1 d a h i ++ [(7, src), (7, 0), (1, nr.toNat), (3, ty), (14, 0)]
  | .amax d a h i src nr ty => memFields 0x24 1 d a h i ++ [(7, src), (7, 0), (1, nr.toNat), (3, ty), (14, 0)]
  | .aand d a h i src nr ty => memFields 0x25 1 d a h i ++ [(7, src), (7, 0), (1, nr.toNat), (3, ty), (14, 0)]
  | .aor d a h i src nr ty => memFields 0x26 1 d a h i ++ [(7, src), (7, 0), (1, nr.toNat), (3, ty), (14, 0)]
  | .axor d a h i src nr ty => memFields 0x27 1 d a h i ++ [(7, src), (7, 0), (1, nr.toNat), (3, ty), (14, 0)]
  | .aswp d a h i src nr ty => memFields 0x28 1 d a h i ++ [(7, src), (7, 0), (1, nr.toNat), (3, ty), (14, 0)]
  | .acas d a h i src cmp nr ty => memFields 0x29 1 d a h i ++ [(7, src), (7, cmp), (1, nr.toNat), (3, ty), (14, 0)]
  | .upd u d a h i => memFields 0x30 u.toNat d a h i
  | .updd u d a h i => memFields 0x31 u.toNat d a h i
  | .uflush u => rrrFields 0x32 u.toNat 0 0 0 0
  | .uapply u a h i => memFields 0x33 u.toNat 0 a h i
  | .waitc u d a h i cmp k ty => memFields 0x40 u.toNat d a h i ++ [(7, cmp), (4, k), (2, ty), (19, 0)]
  | .fence u m => rrrFields 0x41 u.toNat 0 0 0 m
  | .mbsend u d a b mbox => rrrFields 0x42 u.toNat d a b 0 ++ [(3, mbox), (29, 0)]
  | .mbrecv u d mbox => wordFields 0x43 u.toNat d 0 [(2, 0), (3, mbox), (4, 0)]
  | .mbpoll u d a mbox => wordFields 0x44 u.toNat d a [(2, 0), (3, mbox), (4, 0)]
  | .boinit u d a h i => memFields 0x48 u.toNat d a h i
  | .boarr u d a h i => memFields 0x49 u.toNat d a h i
  | .bowait u d a h i => memFields 0x4A u.toNat d a h i
  | .botst u d a h i => memFields 0x4B u.toNat d a h i
  | .watch u d a h i susp => memFields 0x50 u.toNat d a h i ++ [(1, susp.toNat), (31, 0)]
  | .wdrop u d a h i => memFields 0x51 u.toNat d a h i
  | .wresume u d a h i => memFields 0x52 u.toNat d a h i
  | .wstat u d a h i => memFields 0x53 u.toNat d a h i
  | .bind u h opc eager => memFields 0x54 u.toNat 0 0 h 0 ++ [(6, opc), (2, 0), (1, eager.toNat), (23, 0)]
  | .unbind u h => memFields 0x55 u.toNat 0 0 h 0
  | .hset u a s => wordFields 0x60 u.toNat 0 a [(4, s), (5, 0)]
  | .hget u d s => wordFields 0x61 u.toNat d 0 [(4, s), (5, 0)]
  | .hlen u d s => wordFields 0x62 u.toNat d 0 [(4, s), (5, 0)]
  | .mma a b o ssel xz acc v t sb sa => rrrFields 0x00 0 a b o ssel ++ [(2, xz), (1, acc.toNat), (7, v), (8, t), (7, sb), (7, sa)]
  | .mmav a b o ssel xz acc v t sb sa => rrrFields 0x01 0 a b o ssel ++ [(2, xz), (1, acc.toNat), (7, v), (8, t), (7, sb), (7, sa)]
  | .orset d a => rrrFields 0x08 0 d a 0 0
  | .orget d a => rrrFields 0x09 0 d a 0 0
  | .accz d q t => [(8, t), (1, 0), (4, q), (3, 0), (7, d), (1, 0), (8, 0x10)]
  | .accrd d t row0 col0 nreg => rrrFields 0x11 0 d 0 0 0 ++ [(8, t), (7, row0), (6, col0), (4, nreg), (7, 0)]
  | .accwr d t row0 col0 nreg => rrrFields 0x12 0 d 0 0 0 ++ [(8, t), (7, row0), (6, col0), (4, nreg), (7, 0)]
  | .mthr d a b m => rrrFields 0x18 0 d a b m
  | .mvst d a b m => rrrFields 0x19 0 d a b m
  | .mstat d k => rrrFields 0x1A 0 d 0 k 0
  | .msync m => rrrFields 0x20 0 0 0 0 m
  | .tload u d a n => wordFields 0x00 u.toNat d a [(6, n), (3, 0)]
  | .tstore u d a n => wordFields 0x01 u.toNat d a [(6, n), (3, 0)]
  | .tgath u d a n => wordFields 0x02 u.toNat d a [(6, n), (3, 0)]
  | .tscat u d a n => wordFields 0x03 u.toNat d a [(6, n), (3, 0)]
  | .tcast u d a n => wordFields 0x04 u.toNat d a [(6, n), (3, 0)]
  | .tfill u d a n => wordFields 0x05 u.toNat d a [(6, n), (3, 0)]
  | .fwait u a m => rrrFields 0x10 u.toNat 0 a 0 m
  | .ftest u d a => rrrFields 0x11 u.toNat d a 0 0
  | .fcancel u a => rrrFields 0x12 u.toNat 0 a 0 0
  | .launch u d a n repl => wordFields 0x18 u.toNat d a [(6, n), (2, 0), (1, repl.toNat)]
  | .zopen u z a => [(9, 0), (7, a), (3, z), (4, 0), (1, u.toNat), (8, 0x20)]
  | .zadv u z i => [(9, i), (7, 0), (3, z), (4, 0), (1, u.toNat), (8, 0x21)]
  | .zend u c z => [(3, z), (6, 0), (7, 0), (3, c), (4, 0), (1, u.toNat), (8, 0x22)]
  | .zclose u z => [(9, 0), (7, 0), (3, z), (4, 0), (1, u.toNat), (8, 0x23)]
  | .zld u d z => wordFields 0x24 u.toNat d 0 [(3, z), (6, 0)]
  | .zcrd u d z => wordFields 0x25 u.toNat d 0 [(3, z), (6, 0)]
  | .evpop u d w => wordFields 0x30 u.toNat d 0 [(1, w.toNat), (8, 0)]
  | .evpeek u d => wordFields 0x31 u.toNat d 0 [(1, 0), (8, 0)]
  | .qcfg u d a => riFields 0x38 u.toNat d a 0
  | .br c s o => [(19, o), (1, s.toNat), (3, c), (1, 0), (8, 0x00)]
  | .jmp o => [(23, o), (1, 0), (8, 0x01)]
  | .jmpi a => rrrFields 0x02 0 0 a 0 0
  | .call o => [(23, o), (1, 0), (8, 0x03)]
  | .calli a => rrrFields 0x04 0 0 a 0 0
  | .ret => rrrFields 0x05 0 0 0 0 0
  | .exit => rrrFields 0x06 0 0 0 0 0
  | .bar b => wordFields 0x08 0 0 0 [(3, b), (6, 0)]
  | .bara b => wordFields 0x09 0 0 0 [(3, b), (6, 0)]
  | .barw b => wordFields 0x0A 0 0 0 [(3, b), (6, 0)]
  | .racq k => riFields 0x10 0 0 0 k
  | .rrel k => riFields 0x11 0 0 0 k
  | .pmark => rrrFields 0x12 0 0 0 0 0
  | .sleep i => riFields 0x13 0 0 0 i
  | .trap i => riFields 0x18 0 0 0 i
  | .bkpt i => riFields 0x19 0 0 0 i
  | .nop => rrrFields 0x1A 0 0 0 0 0
  | .cfgrd d i => [(15, i), (1, 0), (7, d), (1, 0), (8, 0x20)]
  | .cfgwr d i => [(15, i), (1, 0), (7, d), (1, 0), (8, 0x21)]
  | .eret => rrrFields 0x22 0 0 0 0 0
  | .gstat d a m => rrrFields 0x23 0 d a 0 m
  | .gsave a b m => rrrFields 0x24 0 0 a b m
  | .gload d a b m => rrrFields 0x25 0 d a b m
  | .gstop a m => rrrFields 0x26 0 0 a 0 m
  | .gkill a m => rrrFields 0x27 0 0 a 0 m
  | _ => []

/-- `encode` packs the fields: it sums the same terms from the opcode down. -/
theorem encode_bits {i : Instr} {w : Words} (h : encode i = some w) : w.bits = packFields i.fields := by
  cases i <;> cases h
  all_goals
    unfold Instr.fields
    simp only [rrrFields, riFields, memFields, wordFields, List.cons_append, List.nil_append, packFields]
    ring

/-- The fields take one word, or two with an extension word (R148). -/
theorem encode_fieldsWidth {i : Instr} {w : Words} (h : encode i = some w) : fieldsWidth i.fields = cond w.ext 64 32 := by
  cases i <;> cases h <;> rfl

theorem two_pow_fieldsWidth {i : Instr} {w : Words} (h : encode i = some w) :
    2 ^ fieldsWidth i.fields = if w.ext then 2 ^ 64 else 2 ^ 32 := by
  rw [encode_fieldsWidth h]
  cases w.ext <;> rfl

/-- The fields of an instruction that has words are in range when each fits its width. -/
theorem inRange_iff_fields {i : Instr} {w : Words} (h : encode i = some w) : i.inRange = true ↔ ∀ f ∈ i.fields, f.2 < 2 ^ f.1 := by
  cases i <;> cases h
  all_goals
    unfold Instr.fields Instr.inRange
    simp only [rrrFields, riFields, memFields, wordFields, List.cons_append, List.nil_append, List.forall_mem_cons, List.not_mem_nil,
      false_imp_iff, implies_true, decide_eq_true_eq, Nat.reducePow, Nat.reduceLT, Bool.toNat_lt, and_true, true_and, and_comm,
      and_left_comm, and_assoc]

/-! The rows of the opcode maps. -/

/-- The words `v` keep to the row: its U column allows their U, and its unused fields are 0. -/
def Row.Fits (r : Row) (v : Nat) : Prop := r.use.allows (bit v 23) = true ∧ ∀ z ∈ r.unused, fld v z.lo z.len = 0

/-- Words that hold the fields of an instruction are given that instruction by the maps: the opcode picks the row, and the row reads each
field where it stands. -/
theorem opRow_of_fields {i : Instr} {w : Words} {v : Nat} (h : encode i = some w) (hv : HasFields v 0 i.fields) :
    ∃ r, opRow w.cls v = some r ∧ r.ext = w.ext ∧ r.Fits v ∧ r.instr = i := by
  cases i <;> cases h
  all_goals
    unfold Instr.fields at hv
    simp only [rrrFields, riFields, memFields, wordFields, List.cons_append, List.nil_append, HasFields, Nat.reduceAdd] at hv
    simp only [opRow, hv]
    refine ⟨_, rfl, rfl, ?_, ?_⟩
    · simp only [Row.Fits, UUse.allows, List.forall_mem_cons, List.not_mem_nil, false_imp_iff, implies_true, and_self, hv,
        Bool.not_eq_true', bit_eq_iff, Bool.toNat_true, Bool.toNat_false]
    · simp only [hv, bit_eq_decide_fld, Bool.toNat_eq_one, Bool.decide_eq_true]

/-- Words that keep to their row hold the fields of its instruction: what the row does not read, its unused fields, its U column and its
opcode fix. -/
theorem fields_of_opRow {c : Cls} {v : Nat} {r : Row} (h : opRow c v = some r) (hf : r.Fits v) :
    HasFields v 0 r.instr.fields ∧ ∃ n, encode r.instr = some ⟨c, r.ext, n⟩ := by
  obtain ⟨hu, hz⟩ := hf
  unfold opRow mapAlu mapMem mapMtx mapEng mapCtl at h
  split at h <;> split at h <;> cases h <;> refine ⟨?_, _, rfl⟩
  all_goals
    rename_i hop
    simp only [UUse.allows, List.forall_mem_cons, Bool.not_eq_true', bit_eq_iff, Bool.toNat_true, Bool.toNat_false] at hu hz
    unfold Instr.fields
    simp only [rrrFields, riFields, memFields, wordFields, List.cons_append, List.nil_append, HasFields, bit_toNat, Nat.reduceAdd, hop,
      hu, hz, and_self]

theorem takesExt_of_opRow {c : Cls} {v : Nat} {r : Row} (h : opRow c v = some r) : takesExt c v = r.ext := by
  rw [takesExt, h]

/-! Decoding. -/

/-- No check is reported where none fails (R394). -/
theorem lowestFailure_eq_none_iff {cs : List Check} : lowestFailure cs = none ↔ ∀ k ∈ cs, k.ok = true := by
  induction cs with
  | nil => exact iff_of_true rfl fun _ hk => nomatch hk
  | cons k ks ih =>
    rw [List.forall_mem_cons, ← ih, lowestFailure]
    split
    · rename_i hok
      exact (and_iff_right hok).symm
    · rename_i hok _
      simp [hok]
    · rename_i hok _
      simp only [hok, Bool.false_eq_true, false_and, iff_false]
      split <;> exact Option.some_ne_none _

theorem unusedChecks_ok_iff {v : Nat} {zs : List Unused} :
    (∀ k ∈ unusedChecks v zs, k.ok = true) ↔ ∀ z ∈ zs, fld v z.lo z.len = 0 := by
  simp only [unusedChecks, List.forall_mem_map, beq_iff_eq]

/-- What decoding for the control thread answers, which no privileged opcode stops (R49, R393, R394). -/
theorem decode_eq_ok_iff {c : Cls} {v : Nat} {i : Instr} :
    decode c true v = .ok i ↔ ∃ r, opRow c v = some r ∧ r.Fits v ∧ (∀ k ∈ i.checks, k.ok = true) ∧ r.instr = i := by
  unfold decode
  cases hrow : opRow c v with
  | none => exact iff_of_false nofun fun ⟨_, hr, _⟩ => nomatch hr
  | some r =>
    have hnone : lowestFailure (unusedChecks v r.unused ++ r.instr.checks) = none ↔
        (∀ z ∈ r.unused, fld v z.lo z.len = 0) ∧ ∀ k ∈ r.instr.checks, k.ok = true := by
      rw [lowestFailure_eq_none_iff, List.forall_mem_append, unusedChecks_ok_iff]
    dsimp only
    rw [Bool.not_true, Bool.and_false, if_neg Bool.false_ne_true]
    constructor
    · intro h
      split at h
      · cases h
      · rename_i hu
        split at h
        · cases h
        · rename_i hl
          cases h
          obtain ⟨hz, hk⟩ := hnone.mp hl
          exact ⟨r, rfl, ⟨Bool.eq_true_of_not_eq_false hu, hz⟩, hk, rfl⟩
    · rintro ⟨r', hr, ⟨hu, hz⟩, hk, rfl⟩
      cases hr
      rw [if_neg (Bool.not_eq_false _ ▸ hu), hnone.mpr ⟨hz, hk⟩]

theorem Instr.wellFormed_iff {i : Instr} : i.wellFormed = true ↔ i.inRange = true ∧ ∀ k ∈ i.checks, k.ok = true := by
  rw [Instr.wellFormed, Bool.and_eq_true, List.all_eq_true]

end Sys2Proof

namespace Sys2Proof.Machine

/-- Settles O55: the fields fit, so they stand in the number that `encode` packs of them, and the maps read the instruction there. -/
theorem encodeDecode : Obligations.EncodeDecode := by
  unfold Obligations.EncodeDecode
  intro i w hwf he
  obtain ⟨hrange, hchecks⟩ := Instr.wellFormed_iff.mp hwf
  have hlt := (inRange_iff_fields he).mp hrange
  have hv : HasFields w.bits 0 i.fields := encode_bits he ▸ hasFields_packFields hlt
  obtain ⟨r, hrow, hext, hfits, hi⟩ := opRow_of_fields he hv
  refine ⟨?bound, (takesExt_of_opRow hrow).trans hext, decode_eq_ok_iff.mpr ⟨r, hrow, hfits, hchecks, hi⟩⟩
  case bound =>
    rw [← two_pow_fieldsWidth he, encode_bits he]
    exact packFields_lt hlt

/-- Settles O56: the words hold the fields of the instruction that they decode to, so each field is in range and the fields, which
leave no bit out, make the words again. -/
theorem decodeEncode : Obligations.DecodeEncode := by
  unfold Obligations.DecodeEncode
  intro c v i h
  obtain ⟨r, hrow, hfits, hchecks, rfl⟩ := decode_eq_ok_iff.mp h
  obtain ⟨hv, n, he⟩ := fields_of_opRow hrow hfits
  have hn : n = v % 2 ^ fieldsWidth r.instr.fields := by
    rw [show n = packFields r.instr.fields from encode_bits he, hv.pack_eq, fld, pow_zero, Nat.div_one]
  refine ⟨Instr.wellFormed_iff.mpr ⟨(inRange_iff_fields he).mpr hv.lt, hchecks⟩, ?_⟩
  rw [he, takesExt_of_opRow hrow, hn, two_pow_fieldsWidth he]

/-- Settles O57: the seven words are the encodings of well-formed instructions. -/
theorem decodeWords : Obligations.DecodeWords := by
  unfold Obligations.DecodeWords
  have h : ∀ {c : Cls} {n : Nat} {i : Instr} (e : Bool), i.wellFormed = true → encode i = some ⟨c, e, n⟩ →
      decode c true n = .ok i := fun _ hwf he => (encodeDecode _ _ hwf he).2.2
  simp only [List.forall_mem_cons]
  exact ⟨h false rfl rfl, h false rfl rfl, h false rfl rfl, h false rfl rfl, h false rfl rfl, h false rfl rfl, h false rfl rfl,
    fun _ hp => nomatch hp⟩

end Sys2Proof.Machine
end

section
/-!
SUPPORT. The integer arithmetic of the ALU class (R167): the model computes with integers, the statements with words; the lemmas here say
for each operation of Table Al-2 that the two agree.
-/
namespace Sys2Proof.Machine

/-! Words and the integers they stand for. -/

theorem signed_eq_toInt (v n : Nat) : signed v n = (BitVec.ofNat n v).toInt := by
  unfold signed
  rw [BitVec.toInt_eq_toNat_cond, BitVec.toNat_ofNat]
  cases n with
  | zero => simp [Nat.mod_one]
  | succ n =>
    rw [Nat.add_sub_cancel, Nat.pow_succ]
    exact if_congr (by omega) rfl rfl

theorem narrow_signed (v n : Nat) : narrow (signed v n) = (BitVec.ofNat n v).signExtend 32 := by
  rw [narrow, signed_eq_toInt, BitVec.signExtend]

theorem asInt_le_signed (x y : Word) : asInt true x ≤ asInt true y ↔ x.sle y = true := decide_eq_true_iff.symm

theorem asInt_le_unsigned (x y : Word) : asInt false x ≤ asInt false y ↔ x.ule y = true :=
  Int.ofNat_le.trans decide_eq_true_iff.symm

/-- Bits 63 to 32 of a number are those of its 64-bit word. -/
theorem narrow_high (z : Int) : narrow (z / 4294967296) = (BitVec.ofInt 64 z).extractLsb' 32 32 := by
  apply BitVec.eq_of_toNat_eq
  rw [narrow, BitVec.toNat_ofInt, BitVec.extractLsb'_toNat, BitVec.toNat_ofInt, Nat.shiftRight_eq_div_pow]
  omega

theorem ofInt_mul_signed (x y : Word) : BitVec.ofInt 64 (asInt true x * asInt true y) = x.signExtend 64 * y.signExtend 64 :=
  BitVec.ofInt_mul _ _

theorem ofInt_mul_unsigned (x y : Word) : BitVec.ofInt 64 (asInt false x * asInt false y) = x.setWidth 64 * y.setWidth 64 := by
  rw [BitVec.ofInt_mul, asInt, asInt, if_neg Bool.false_ne_true, if_neg Bool.false_ne_true, BitVec.ofInt_natCast, BitVec.ofInt_natCast,
    BitVec.ofNat_toNat, BitVec.ofNat_toNat]

theorem narrow_natAbs (x : Word) : narrow x.toInt.natAbs = if x.msb then -x else x := by
  have hx := BitVec.toInt_eq_msb_cond x
  have hn := x.isLt
  apply BitVec.eq_of_toNat_eq
  rw [narrow, BitVec.ofInt_natCast, BitVec.toNat_ofNat]
  cases hm : x.msb
  · rw [hm] at hx
    simp only [Bool.false_eq_true, if_false] at hx ⊢
    omega
  · have hp := BitVec.msb_eq_decide x
    rw [hm] at hx hp
    simp only [if_true, BitVec.toNat_neg] at hx ⊢
    omega

/-! Saturation. -/

theorem saturate32_unsigned (z : Int) : saturate32 false z = BitVec.ofNat 32 (min 4294967295 z.toNat) := by
  rw [saturate32, if_neg Bool.false_ne_true, narrow, ← BitVec.ofInt_natCast]
  congr 1
  omega

theorem saturate32_natAbs (x : Word) :
    saturate32 true x.toInt.natAbs = if x = 0x80000000 then 0x7FFFFFFF else if x.msb then -x else x := by
  split
  case isTrue h =>
    subst h
    decide
  case isFalse h =>
    have hmin : x.toInt ≠ -2147483648 := fun e => h (BitVec.eq_of_toInt_eq e)
    have hlo := BitVec.le_toInt x
    have hhi := BitVec.toInt_lt (x := x)
    rw [← narrow_natAbs, saturate32, if_pos rfl]
    congr 1
    norm_num at hlo hhi
    omega

/-! The instructions as functions of words. -/

section
variable (u : Bool) (d a b : Nat) (s : State)

theorem exec_iaddi_word (i : Nat) : exec (.iaddi u d a i) s = alu1 u d a s fun x => x + (BitVec.ofNat 9 i).signExtend 32 := by
  rw [exec_iaddi, execIaddi, narrow_signed]

theorem exec_imulh_signed :
    exec (.imulh u d a b 0) s = alu2 u d a b s fun x y => (x.signExtend 64 * y.signExtend 64).extractLsb' 32 32 := by
  simp only [exec_imulh, execImulh, narrow_high, ← ofInt_mul_signed]
  rfl

theorem exec_imulh_unsigned :
    exec (.imulh u d a b 1) s = alu2 u d a b s fun x y => (x.setWidth 64 * y.setWidth 64).extractLsb' 32 32 := by
  simp only [exec_imulh, execImulh, narrow_high, ← ofInt_mul_unsigned]
  rfl

theorem exec_imin_signed : exec (.imin u d a b 0) s = alu2 u d a b s fun x y => if x.sle y then x else y := by
  simp only [exec_imin, execImin, ← asInt_le_signed]
  rfl

theorem exec_imin_unsigned : exec (.imin u d a b 1) s = alu2 u d a b s fun x y => if x.ule y then x else y := by
  simp only [exec_imin, execImin, ← asInt_le_unsigned]
  rfl

theorem exec_imax_signed : exec (.imax u d a b 0) s = alu2 u d a b s fun x y => if x.sle y then y else x := by
  simp only [exec_imax, execImax, ← asInt_le_signed]
  rfl

theorem exec_imax_unsigned : exec (.imax u d a b 1) s = alu2 u d a b s fun x y => if x.ule y then y else x := by
  simp only [exec_imax, execImax, ← asInt_le_unsigned]
  rfl

theorem exec_iadds_unsigned :
    exec (.iadds u d a b 1) s = alu2 u d a b s fun x y => BitVec.ofNat 32 (min 4294967295 (x.toNat + y.toNat)) := by
  rw [exec_iadds, execIadds]
  congr 1
  funext x y
  exact saturate32_unsigned _

theorem exec_iadds_unsigned_sub :
    exec (.iadds u d a b 3) s = alu2 u d a b s fun x y => BitVec.ofNat 32 (x.toNat - y.toNat) := by
  rw [exec_iadds, execIadds]
  congr 1
  funext x y
  have hx : x.toNat - y.toNat ≤ 4294967295 := by have := x.isLt; omega
  have hz : (asInt false x - asInt false y).toNat = x.toNat - y.toNat := Int.toNat_sub _ _
  exact (saturate32_unsigned _).trans (congrArg (BitVec.ofNat 32) ((congrArg (min _) hz).trans (min_eq_right hx)))

theorem exec_ixadd_one : exec (.ixadd u d a b 0) s = alu2 u d a b s fun x y => x + y := by
  have h : execIxadd u d a b 0 s = alu2 u d a b s fun x y => x + y * 1#32 := rfl
  simp only [exec_ixadd, h, BitVec.mul_one]

theorem exec_ixadd_shift {m k : Nat} (h : execIxadd u d a b m s = alu2 u d a b s fun x y => x + y * BitVec.twoPow 32 k) :
    exec (.ixadd u d a b m) s = alu2 u d a b s fun x y => x + y <<< k := by
  simp only [exec_ixadd, h, BitVec.mul_twoPow_eq_shiftLeft]

theorem exec_iabs_wrap : exec (.iabs u d a 0) s = alu1 u d a s fun x => if x.msb then -x else x := by
  simp only [exec_iabs, execIabs, ← narrow_natAbs]
  rfl

theorem exec_iabs_sat :
    exec (.iabs u d a 1) s = alu1 u d a s fun x => if x = 0x80000000 then 0x7FFFFFFF else if x.msb then -x else x := by
  simp only [exec_iabs, execIabs, ← saturate32_natAbs]
  rfl

theorem exec_imad_signed : exec (.imad u d a b 1) s = laneOp u [a, b, d, d + 1] [d, d + 1] s fun g l =>
    pairWrites d ((g.reg l a).signExtend 64 * (g.reg l b).signExtend 64 + g.pair l d) := by
  simp only [exec_imad, execImad, ← ofInt_mul_signed]
  rfl

theorem exec_imad_unsigned : exec (.imad u d a b 2) s = laneOp u [a, b, d, d + 1] [d, d + 1] s fun g l =>
    pairWrites d ((g.reg l a).setWidth 64 * (g.reg l b).setWidth 64 + g.pair l d) := by
  simp only [exec_imad, execImad, ← ofInt_mul_unsigned]
  rfl

end

/-! What an instruction of each form completes with. -/

section
variable {s : State} {u : Bool} {d a b : Nat} {i : Instr}

theorem completes_alu2 (h : s.Free u [a, b] [d]) {f : Word → Word → Word} (he : exec i s = alu2 u d a b s f) :
    Completes i s fun t => s.AllPassed t ∧ s.Result t u d fun k => f (s.me.reg k a) (s.me.reg k b) :=
  by rw [Completes, he]; exact alu2_result h f

theorem completes_alu1 (h : s.Free u [a] [d]) {f : Word → Word} (he : exec i s = alu1 u d a s f) :
    Completes i s fun t => s.AllPassed t ∧ s.Result t u d fun k => f (s.me.reg k a) :=
  by rw [Completes, he]; exact alu1_result h f

end

/-- Settles O1: each row of Table Al-2 is one of the shared forms with the statement's function, by the lemma above that bears its
name. -/
theorem integerArithmetic : Obligations.IntegerArithmetic := by
  unfold Obligations.IntegerArithmetic
  refine ⟨fun s u d a b i => ⟨fun h p hp => ?two, fun h p hp => ?one⟩,
    fun s u d a b => ⟨fun h p hp => ?pair, fun h => ?imad, fun h => ⟨?imad1, ?imad2⟩⟩⟩
  case two =>
    refine completes_alu2 h ?_
    revert p
    simp only [List.forall_mem_cons]
    exact ⟨exec_iadd .., exec_isub .., exec_imul .., exec_imulh_signed .., exec_imulh_unsigned .., exec_imin_signed ..,
      exec_imin_unsigned .., exec_imax_signed .., exec_imax_unsigned .., exec_iadds .., exec_iadds_unsigned .., exec_iadds ..,
      exec_iadds_unsigned_sub .., exec_ixadd_one .., exec_ixadd_shift _ _ _ _ _ rfl, exec_ixadd_shift _ _ _ _ _ rfl,
      exec_ixadd_shift _ _ _ _ _ rfl, fun _ hp => nomatch hp⟩
  case one =>
    refine completes_alu1 h ?_
    revert p
    simp only [List.forall_mem_cons]
    exact ⟨exec_iaddi_word .., exec_iabs_wrap .., exec_iabs_sat .., fun _ hp => nomatch hp⟩
  case pair =>
    have he : exec p.1 s = aluPair u d a b s p.2 := by
      revert p
      simp only [List.forall_mem_cons]
      exact ⟨exec_iadd64 .., exec_isub64 .., fun _ hp => nomatch hp⟩
    rw [Completes, he]
    exact aluPair_result h p.2
  case imad =>
    exact laneOp_one h _
  case imad1 =>
    rw [Completes, exec_imad_signed]
    exact laneOp_pair h _
  case imad2 =>
    rw [Completes, exec_imad_unsigned]
    exact laneOp_pair h _

/-! Logic and shifts (R168, R169). -/

theorem shiftLeft_eq (x : Word) (n : Nat) : shiftLeft x n = x <<< n :=
  ite_eq_right_iff.mpr fun h => (BitVec.shiftLeft_eq_zero h).symm

theorem shiftRight_eq (x : Word) (n : Nat) : shiftRight x n = x >>> n :=
  ite_eq_right_iff.mpr fun h => (BitVec.ushiftRight_eq_zero h).symm

theorem shiftRightSigned_eq (x : Word) (n : Nat) : shiftRightSigned x n = x.sshiftRight n := by
  unfold shiftRightSigned
  split
  case isFalse => rfl
  case isTrue h =>
    apply BitVec.eq_of_getLsbD_eq
    intro i hi
    have hni : ¬n + i < 32 := by omega
    rw [BitVec.getLsbD_sshiftRight, if_neg hni]
    have hlow : ¬32 ≤ i := by omega
    cases x.msb
    · simp
    · rw [if_pos rfl, show (0xFFFFFFFF : Word) = BitVec.allOnes 32 from rfl, BitVec.getLsbD_allOnes]
      simp [hi, hlow]

section
variable (u : Bool) (d a b i : Nat) (s : State)

theorem exec_shl_word : exec (.shl u d a b) s = alu2 u d a b s fun x y => x <<< y.toNat := by
  simp only [exec_shl, execShl, shiftLeft_eq]

theorem exec_shr_word : exec (.shr u d a b) s = alu2 u d a b s fun x y => x >>> y.toNat := by
  simp only [exec_shr, execShr, shiftRight_eq]

theorem exec_sar_word : exec (.sar u d a b) s = alu2 u d a b s fun x y => x.sshiftRight y.toNat := by
  simp only [exec_sar, execSar, shiftRightSigned_eq]

theorem exec_shli_word : exec (.shli u d a i) s = alu1 u d a s fun x => x <<< i := by
  simp only [exec_shli, execShli, shiftLeft_eq]

theorem exec_shri_word : exec (.shri u d a i) s = alu1 u d a s fun x => x >>> i := by
  simp only [exec_shri, execShri, shiftRight_eq]

theorem exec_sari_word : exec (.sari u d a i) s = alu1 u d a s fun x => x.sshiftRight i := by
  simp only [exec_sari, execSari, shiftRightSigned_eq]

end

/-- Settles O2: a shift by 32 or more gives what a word's own shift gives; the words are those of formats RRR and RI. -/
theorem logicAndShifts : Obligations.LogicAndShifts := by
  unfold Obligations.LogicAndShifts
  refine fun s u d a b i => ⟨fun h p hp => ?two, fun h p hp => ?one, ?words, ?immediates⟩
  case two =>
    refine completes_alu2 h ?_
    revert p
    simp only [List.forall_mem_cons]
    exact ⟨exec_and .., exec_or .., exec_xor .., exec_andn .., exec_shl_word .., exec_shr_word .., exec_sar_word ..,
      fun _ hp => nomatch hp⟩
  case one =>
    refine completes_alu1 h ?_
    revert p
    simp only [List.forall_mem_cons]
    exact ⟨exec_andi .., exec_ori .., exec_xori .., exec_shli_word .., exec_shri_word .., exec_sari_word .., fun _ hp => nomatch hp⟩
  case words =>
    simp only [List.forall_mem_cons]
    exact ⟨rfl, rfl, rfl, rfl, rfl, rfl, rfl, fun _ hp => nomatch hp⟩
  case immediates =>
    have hi : ∀ {j : Instr}, j.inRange = decide (d < 128 ∧ a < 128 ∧ i < 512) → j.wellFormed = true → i < 512 := fun hr hw =>
      (of_decide_eq_true (hr ▸ (Instr.wellFormed_iff.mp hw).1)).2.2
    simp only [List.forall_mem_cons]
    exact ⟨⟨rfl, hi rfl⟩, ⟨rfl, hi rfl⟩, ⟨rfl, hi rfl⟩, ⟨rfl, hi rfl⟩, ⟨rfl, hi rfl⟩, ⟨rfl, hi rfl⟩, fun _ hp => nomatch hp⟩

end Sys2Proof.Machine
end

section
/-!
SUPPORT. The bit counts and bit fields of the ALU class (R170, R171), bit by bit.
-/
namespace Sys2Proof.Machine

/-! Counts and reversal. -/

theorem popCount_eq_countP (x n : Nat) : popCount x n = (List.range n).countP x.testBit := by
  induction n generalizing x with
  | zero => rfl
  | succ n ih =>
    have hshift : x.testBit ∘ Nat.succ = (x / 2).testBit := funext fun j => Nat.testBit_succ ..
    rw [popCount, ih, List.range_succ_eq_map, List.countP_cons, List.countP_map, hshift, Nat.add_comm, Nat.testBit_zero]
    congr 1
    by_cases h : x % 2 = 1
    · simp [h]
    · simp [h]
      omega

theorem leadingZeros_spec {x n : Nat} (hx : x < 2 ^ n) :
    leadingZeros x n ≤ n ∧ x < 2 ^ (n - leadingZeros x n) ∧ (leadingZeros x n < n → x.testBit (n - 1 - leadingZeros x n) = true) := by
  induction n with
  | zero => exact ⟨le_rfl, hx, fun h => absurd h (lt_irrefl _)⟩
  | succ n ih =>
    rw [leadingZeros]
    split
    case isTrue h => exact ⟨Nat.zero_le _, hx, fun _ => Nat.testBit_of_two_pow_le_and_two_pow_add_one_gt h hx⟩
    case isFalse h =>
      obtain ⟨hle, hlt, hbit⟩ := ih (Nat.not_le.mp h)
      refine ⟨Nat.succ_le_succ hle, ?_, fun hn => ?_⟩
      · rwa [Nat.add_sub_add_right]
      · rw [show n + 1 - 1 - (leadingZeros x n + 1) = n - 1 - leadingZeros x n by omega]
        exact hbit (Nat.lt_of_succ_lt_succ hn)

theorem reverseBits_lt (x n : Nat) : reverseBits x n < 2 ^ n := by
  induction n generalizing x with
  | zero => exact Nat.one_pos
  | succ n ih =>
    have := ih (x / 2)
    rcases Nat.mod_two_eq_zero_or_one x with h | h <;> rw [reverseBits, h, Nat.pow_succ] <;> omega

theorem testBit_reverseBits {x n j : Nat} (hj : j < n) : (reverseBits x n).testBit j = x.testBit (n - 1 - j) := by
  induction n generalizing x with
  | zero => exact absurd hj (Nat.not_lt_zero _)
  | succ n ih =>
    rw [reverseBits, Nat.mul_comm, Nat.testBit_two_pow_mul_add _ (reverseBits_lt _ _)]
    split
    case isTrue h => rw [ih h, show n + 1 - 1 - j = (n - 1 - j) + 1 by omega, Nat.testBit_succ]
    case isFalse h =>
      obtain rfl : j = n := by omega
      simp [Nat.testBit_zero]

/-! Bit fields. -/

/-- The two fields of v[b], in the words of the statement (R171). -/
theorem fieldOf_one (pos len : Nat) (v : Word) :
    fieldOf 1 pos len v = ((v.extractLsb' 0 8).toNat, min (v.extractLsb' 8 8).toNat 32) := by
  rw [fieldOf, if_pos rfl, BitVec.extractLsb'_toNat, BitVec.extractLsb'_toNat, Nat.shiftRight_eq_div_pow, Nat.shiftRight_eq_div_pow,
    Nat.pow_zero, Nat.div_one]

theorem testBit_field (x p n j : Nat) : (x / 2 ^ p % 2 ^ n).testBit j = (decide (j < n) && x.testBit (p + j)) := by
  rw [Nat.testBit_mod_two_pow, Nat.testBit_div_two_pow, Nat.add_comm]

theorem getLsbD_extractField (sgn : Bool) (x : Word) {p n j : Nat} (hj : j < 32) :
    (extractField sgn x p n).getLsbD j =
      if j < n then x.getLsbD (p + j) else sgn && decide (0 < n) && x.getLsbD (p + n - 1) := by
  unfold extractField
  dsimp only
  by_cases hs : (sgn && n != 0) = true
  · obtain ⟨rfl, hn⟩ := Bool.and_eq_true_iff.mp hs
    have hpos : 0 < n := Nat.pos_of_ne_zero (bne_iff_ne.mp hn)
    rw [if_pos hs, narrow_signed, BitVec.getLsbD_signExtend, BitVec.msb_eq_getLsbD_last, BitVec.getLsbD_ofNat, BitVec.getLsbD_ofNat,
      testBit_field, testBit_field, show p + (n - 1) = p + n - 1 by omega]
    by_cases hjn : j < n <;> simp [hj, hjn, hpos, BitVec.getLsbD]
  · rw [if_neg hs, BitVec.getLsbD_ofNat, testBit_field]
    have hf : (sgn && decide (0 < n)) = false := by
      rw [← Bool.not_eq_true]
      simpa [Nat.pos_iff_ne_zero] using hs
    by_cases hjn : j < n <;> simp [hj, hjn, hf, BitVec.getLsbD]

theorem getLsbD_insertField (x y : Word) {p n j : Nat} (hj : j < 32) :
    (insertField x y p n).getLsbD j = if p ≤ j ∧ j < p + n then y.getLsbD (j - p) else x.getLsbD j := by
  have hm : ((2 ^ n - 1) * 2 ^ p).testBit j = decide (p ≤ j ∧ j < p + n) := by
    rw [Nat.testBit_mul_two_pow, Nat.testBit_two_pow_sub_one]
    by_cases h : p ≤ j <;> simp [h]
    omega
  simp only [insertField, BitVec.getLsbD_or, BitVec.getLsbD_and, BitVec.getLsbD_not, BitVec.getLsbD_ofNat, hm, Nat.testBit_mul_two_pow]
  by_cases h : p ≤ j ∧ j < p + n
  · simp [h, hj, BitVec.getLsbD]
  · simp [h, hj]

/-! The instructions. -/

theorem State.Result.bits {s t : State} {u : Bool} {d : Nat} {f : Nat → Word} {g : Nat → Nat → Bool} (h : s.Result t u d f)
    (hfg : ∀ l, ∀ j < 32, (f l).getLsbD j = g l j) : s.BitsResult t u d g := fun l hl j hj => by
  rw [h l hl, hfg _ j hj]

/-- An instruction with one result register, said bit by bit. -/
theorem completes_bits {s : State} {u : Bool} {reads : List Nat} {d : Nat} {i : Instr} (h : s.Free u reads [d]) {f : Group → Nat → Word}
    (he : exec i s = laneOp u reads [d] s fun g l => [(d, f g l)]) {g : Nat → Nat → Bool}
    (hfg : ∀ l, ∀ j < 32, (f s.me l).getLsbD j = g l j) : Completes i s fun t => s.AllPassed t ∧ s.BitsResult t u d g := by
  obtain ⟨t, ht, hp, hr⟩ := laneOp_one h f
  exact ⟨t, he.trans ht, hp, hr.bits hfg⟩

theorem exec_bfe_reg (u : Bool) (d a b pos len : Nat) (sgn : Bool) (s : State) :
    exec (.bfe u d a b 1 pos len sgn) s = laneOp u [a, b] [d] s fun g l => [(d, extractField sgn (g.reg l a)
      ((g.reg l b).extractLsb' 0 8).toNat (min ((g.reg l b).extractLsb' 8 8).toNat 32))] := by
  simp only [exec_bfe, execBfe, fieldOf_one]
  rfl

theorem exec_bfi_reg (u : Bool) (d a b pos len : Nat) (s : State) :
    exec (.bfi u d a b 1 pos len) s = laneOp u [a, b, d] [d] s fun g l => [(d, insertField (g.reg l d) (g.reg l a)
      ((g.reg l b).extractLsb' 0 8).toNat (min ((g.reg l b).extractLsb' 8 8).toNat 32))] := by
  simp only [exec_bfi, execBfi, fieldOf_one]
  rfl

theorem getLsbD_reversed (x : Word) {j : Nat} (hj : j < 32) :
    (BitVec.ofNat 32 (reverseBits x.toNat 32)).getLsbD j = x.getLsbD (31 - j) := by
  rw [BitVec.getLsbD_ofNat, testBit_reverseBits hj, decide_eq_true hj, Bool.true_and, BitVec.getLsbD]

/-- Settles O3: counts by the recursions of the model over the bits of v[a], fields by the bits of the extracted and inserted field. -/
theorem bitCountsAndFields : Obligations.BitCountsAndFields := by
  unfold Obligations.BitCountsAndFields
  refine fun s u d a b pos len sgn =>
    ⟨fun h => ⟨?popc, ?clz, ?brev, fun _ => ?bfe⟩, fun h => ?bfeReg, fun h => ?bfi, fun h => ?bfiReg⟩
  case popc =>
    refine completes_alu1 (f := fun x => BitVec.ofNat 32 ((List.range 32).countP fun j => x.getLsbD j)) h ?_
    simp only [exec_popc, execPopc, popCount_eq_countP]
    rfl
  case clz =>
    obtain ⟨t, ht, hp, hr⟩ := alu1_result h fun x => BitVec.ofNat 32 (leadingZeros x.toNat 32)
    refine ⟨t, ht, hp, fun l hl => ?_⟩
    obtain ⟨hle, hlt, hbit⟩ := leadingZeros_spec (s.me.reg (srcLane u s.issue.lanes l) a).isLt
    dsimp only
    rw [hr l hl, BitVec.toNat_ofNat, Nat.mod_eq_of_lt (by omega)]
    exact ⟨hle, hlt, hbit⟩
  case brev => exact completes_bits h (exec_brev ..) fun l j hj => getLsbD_reversed _ hj
  case bfe => exact completes_bits h (exec_bfe ..) fun l j hj => getLsbD_extractField sgn _ hj
  case bfeReg => exact completes_bits h (exec_bfe_reg ..) fun l j hj => getLsbD_extractField sgn _ hj
  case bfi => exact completes_bits h (exec_bfi ..) fun l j hj => getLsbD_insertField _ _ hj
  case bfiReg => exact completes_bits h (exec_bfi_reg ..) fun l j hj => getLsbD_insertField _ _ hj

end Sys2Proof.Machine
end

section
/-!
SUPPORT. Moves, immediates, special registers, selects and the verdict instructions (R172 to R175, R191).
-/
namespace Sys2Proof.Machine

/-! Values. -/

/-- A pair of an upper and a lower word as a number. -/
theorem ofInt_append (y : Int) {x : Nat} (hx : x < 2 ^ 32) :
    BitVec.ofInt 64 (x + y * 4294967296) = narrow y ++ BitVec.ofNat 32 x := by
  apply BitVec.eq_of_toNat_eq
  rw [BitVec.toNat_append, ← Nat.shiftLeft_add_eq_or_of_lt (BitVec.isLt _), BitVec.toNat_ofNat, narrow, BitVec.toNat_ofInt,
    BitVec.toNat_ofInt, Nat.shiftLeft_eq]
  omega

theorem ite_xor {α : Type} (x y : Bool) (p q : α) : (if (x ^^ y) then p else q) = if x ≠ y then p else q :=
  if_congr bne_iff_ne rfl rfl

/-- The bits of an FP32 encoding below its sign tell a NaN (Table Nf-1). -/
theorem isNan_decode_f32 (v : Nat) : (Fmt.f32.decode false v).isNan = decide (0x7F800000 < v % 2 ^ 31) := by
  have hfld : fld v 23 8 = v / 8388608 % 256 := rfl
  have hlow : fld v 0 23 = v % 8388608 := by simp [fld]
  unfold Fmt.decode
  simp only [Fmt.f32, hfld, hlow, Bool.false_eq_true, if_false]
  split_ifs <;> simp [FVal.isNan] <;> omega

theorem toNat_and_magnitude (x : Word) : (x &&& 0x7FFFFFFF).toNat = x.toNat % 2 ^ 31 := by
  rw [BitVec.toNat_and]
  exact Nat.and_two_pow_sub_one_eq_mod _ 31

/-! Special registers. -/

/-- Where no future is pending a special register is read at once. -/
theorem State.keepSpecial_free {s : State} {u : Bool} {writes : List Nat} (h : s.Free u [] writes) (n : Nat) :
    s.keepSpecial u writes n = s := by
  obtain ⟨-, -, hf, -⟩ := h
  exact if_pos (.inl hf)

theorem exec_movs_free {s : State} {u : Bool} {d : Nat} (h : s.Free u [] [d]) (n : Nat) :
    exec (.movs u d n) s = laneOp u [] [d] s fun _ l => [(d, BitVec.ofNat 32 (s.specialAt l n))] := by
  rw [exec_movs, execMovs, State.keepSpecial_free h, issueWith_free h, laneOp_free h]

theorem exec_movsw_free {s : State} {u : Bool} {d : Nat} (h : s.Free u [] [d, d + 1]) (n : Nat) :
    exec (.movsw u d n) s = laneOp u [] [d, d + 1] s fun _ l => pairWrites d (BitVec.ofNat 64 (s.specialAt l n)) := by
  rw [exec_movsw, execMovsw, State.keepSpecial_free h, issueWith_free h, laneOp_free h]

/-! The instructions as functions of words. -/

section
variable (u inv : Bool) (d a b i x cf : Nat) (s : State)

theorem exec_li_signed : exec (.li u d 0 i) s = laneOp u [] [d] s fun _ _ => [(d, (BitVec.ofNat 15 i).signExtend 32)] := by
  rw [← narrow_signed]
  rfl

theorem exec_lix_pair (hx : x < 2 ^ 32) : exec (.lix u d 1 i x) s = laneOp u [] [d, d + 1] s fun _ _ =>
    pairWrites d ((BitVec.ofNat 15 i).signExtend 32 ++ BitVec.ofNat 32 x) := by
  rw [← narrow_signed, ← ofInt_append _ hx]
  rfl

theorem exec_sel_word : exec (.sel u d a b 0 cf inv) s = laneOp u [a, b] [d] s fun g l =>
    [(d, if g.flag l cf ≠ inv then g.reg l a else g.reg l b)] := by
  simp only [← ite_xor]
  rfl

theorem exec_sel_pair : exec (.sel u d a b 1 cf inv) s = laneOp u [a, a + 1, b, b + 1] [d, d + 1] s fun g l =>
    pairWrites d (if g.flag l cf ≠ inv then g.pair l a else g.pair l b) := by
  simp only [← ite_xor]
  rfl

theorem exec_vzero_verdict : exec (.vzero u d a 0) s = alu1 u d a s fun x => if isVerdict x then 0 else x := by
  rw [exec_vzero, execVzero]
  congr 1
  funext x
  exact if_congr (by simp) rfl rfl

theorem exec_vzero_relu : exec (.vzero u d a 1) s = alu1 u d a s fun x =>
    if isVerdict x ∨ (x.msb = true ∧ (x &&& 0x7FFFFFFF).toNat ≤ 0x7F800000) then 0 else x := by
  rw [exec_vzero, execVzero]
  congr 1
  funext x
  refine if_congr ?_ rfl rfl
  rw [isNan_decode_f32, toNat_and_magnitude]
  simp

end

theorem Instr.mov_even {u : Bool} {d a m : Nat} (h : (Instr.mov u d a m).wellFormed = true) : m = 0 ∨ (m = 1 ∧ d % 2 = 0 ∧ a % 2 = 0) := by
  have hc := (Instr.wellFormed_iff.mp h).2
  simp only [Instr.checks, List.forall_mem_cons, isEven] at hc
  obtain ⟨hm, hd, ha, -⟩ := hc
  simp at hm hd ha
  omega

/-- Settles O4: each instruction writes one register or one pair with the statement's value; MOVS and MOVSW read their special register at
the issue, as nothing holds it. -/
theorem movesAndVerdicts : Obligations.MovesAndVerdicts := by
  unfold Obligations.MovesAndVerdicts
  refine ⟨fun s u inv d a b i x cf => ⟨fun h => ?mov, fun h => ?movPair, fun h => ⟨?li, ?lin, ?lix, ?movs⟩,
    fun h => ⟨fun hx => ?lixPair, ?movsw⟩, fun h => ?sel, fun h => ?selPair, fun m => ⟨rfl, Instr.mov_even⟩⟩,
    fun s u d a b => ⟨fun h => ⟨?vclass, ?vzero, ?relu⟩, fun h => ?vfill⟩⟩
  case mov => exact laneOp_one h _
  case movPair => exact laneOp_pair h _
  case li =>
    rw [Completes, exec_li_signed]
    exact laneOp_one h _
  case lin => exact laneOp_one h _
  case lix => exact laneOp_one h _
  case movs =>
    rw [Completes, exec_movs_free h]
    exact laneOp_one h _
  case lixPair =>
    rw [Completes, exec_lix_pair _ _ _ _ _ hx]
    exact laneOp_pair h _
  case movsw =>
    rw [Completes, exec_movsw_free h]
    exact laneOp_pair h _
  case sel =>
    rw [Completes, exec_sel_word]
    exact laneOp_one h _
  case selPair =>
    rw [Completes, exec_sel_pair]
    exact laneOp_pair h _
  case vclass => exact completes_alu1 h (exec_vclass ..)
  case vzero => exact completes_alu1 h (exec_vzero_verdict ..)
  case relu => exact completes_alu1 h (exec_vzero_relu ..)
  case vfill => exact completes_alu2 h (exec_vfill ..)

end Sys2Proof.Machine
end

section
/-!
SUPPORT. What an issue of the ALU class leaves alone, where it is not traced: everything but its group (R163), and of its group what its
results do not name (R8, R19). `laneOp_frame` says it of the register instructions; here are the flag and floating-point ones.
-/
namespace Sys2Proof.Machine

/-! The rest of the part. -/

/-- A change of the issuing group that keeps its team leaves it untraced. -/
theorem State.Untraced.modMe {s : State} (h : s.Untraced) (hm : s.me?.isSome = true) {f : Group → Group}
    (hf : (f s.me).team = s.me.team) : (s.modMe f).Untraced := by
  unfold State.Untraced State.isCt State.myVi State.myTeam? at h ⊢
  rw [State.me_modMe _ _ hm, hf]
  simp only [State.team?_modMe]
  exact h

theorem State.Untraced.track {s : State} (h : s.Untraced) (n : Option Nat) : (s.track n).Untraced := by
  cases n <;> exact h

/-- An issue that changes its group and ends changes nothing else. -/
theorem State.modMe_retire_onlyGroup {s : State} (hm : s.me?.isSome = true) (hu : s.Untraced) {f : Group → Group}
    (hf : (f s.me).team = s.me.team) : s.OnlyGroup (s.modMe f).retire := by
  rw [State.retire_untraced (hu.modMe hm hf)]
  exact (State.modMe_onlyGroup s _).trans (State.modMe_onlyGroup _ _)

/-- The same of an issue that starts an operation, which tracks it. -/
theorem State.modMe_track_retire_onlyIssue {s : State} (hm : s.me?.isSome = true) (hu : s.Untraced) {f : Group → Group}
    (hf : (f s.me).team = s.me.team) (n : Option Nat) : s.OnlyIssue ((s.modMe f).track n).retire := by
  rw [State.retire_untraced ((hu.modMe hm hf).track n)]
  have h : ∀ k : Group → Group, s.OnlyGroup ((s.modMe f).modMe k) := fun k =>
    (State.modMe_onlyGroup s _).trans (State.modMe_onlyGroup _ _)
  cases n <;> exact h _

/-! Lanes. -/

theorem Group.lane_modLane (g : Group) (l k : Nat) (f : Lane → Lane) :
    (g.modLane l f).lane k = if k = l ∧ k < g.lanes.length then f (g.lane k) else g.lane k := by
  by_cases hk : k = l
  · subst hk
    by_cases hn : k < g.lanes.length
    · rw [if_pos ⟨rfl, hn⟩, Group.lane_modLane_self _ _ _ hn]
    · rw [if_neg fun h => hn h.2]
      simp [Group.lane, Group.modLane, getElem?_modAt, List.getElem?_eq_none (Nat.le_of_not_lt hn)]
  · rw [if_neg fun h => hk h.1, Group.lane_modLane_ne _ _ hk]

theorem Lane.standAs_self (x : Lane) : x.standAs x = x := rfl

/-- Where two lanes differ in their place alone, a third place hides the difference. -/
theorem Lane.standAs_trans {x y : Lane} (h : x.standAs y = y) (z : Lane) : x.standAs z = y.standAs z := by
  rw [← h]
  rfl

/-! Flags. -/

/-- A write of flag `c` leaves all of a lane but its flags. -/
theorem Group.lane_setFlag_rest (g : Group) (l c : Nat) (b : Bool) (k : Nat) :
    { (g.setFlag l c b).lane k with cflags := (g.lane k).cflags } = g.lane k := by
  rw [Group.setFlag, Group.lane_modLane]
  split <;> rfl

theorem Group.flag_setFlag_ne (g : Group) (l c : Nat) (b : Bool) (k : Nat) {q : Nat} (hq : q ≠ c) (hq8 : q < 8) :
    (g.setFlag l c b).flag k q = g.flag k q := by
  rw [Group.flag, Group.setFlag, Group.lane_modLane, Group.flag]
  split
  case isFalse => rfl
  case isTrue =>
    have hbit : (BitVec.ofNat 8 (2 ^ c)).getLsbD q = false := by
      rw [BitVec.getLsbD_ofNat, Nat.testBit_two_pow, decide_eq_false (Ne.symm hq), Bool.and_false]
    rw [BitVec.getLsbD_eq_getElem hq8] at hbit
    generalize BitVec.ofNat 8 (2 ^ c) = w at hbit ⊢
    cases b <;> simp [hbit, hq8]

section
variable (g : Group) (ls : List Nat) (c : Nat) (b : Nat → Bool)

theorem Group.lane_setFlags_ne {k : Nat} (hk : k ∉ ls) : (ls.foldl (fun h l => h.setFlag l c (b l)) g).lane k = g.lane k := by
  induction ls generalizing g with
  | nil => rfl
  | cons x ls ih =>
    obtain ⟨hx, hls⟩ := not_or.mp (List.mem_cons.not.mp hk)
    rw [List.foldl_cons, ih _ hls]
    exact Group.lane_modLane_ne _ _ hx

theorem Group.lane_setFlags_rest (k : Nat) :
    { (ls.foldl (fun h l => h.setFlag l c (b l)) g).lane k with cflags := (g.lane k).cflags } = g.lane k := by
  induction ls generalizing g with
  | nil => rfl
  | cons x ls ih =>
    have hrest := ih (g.setFlag x c (b x))
    have hstep := g.lane_setFlag_rest x c (b x) k
    rw [← hrest] at hstep
    exact hstep

theorem Group.flag_setFlags_ne (k : Nat) {q : Nat} (hq : q ≠ c) (hq8 : q < 8) :
    (ls.foldl (fun h l => h.setFlag l c (b l)) g).flag k q = g.flag k q := by
  induction ls generalizing g with
  | nil => rfl
  | cons x ls ih => rw [List.foldl_cons, ih, Group.flag_setFlag_ne _ _ _ _ _ hq hq8]

end

/-- An issue that writes flag `c` of its lanes and ends leaves the rest of its group. -/
theorem State.retireGroup_onlyFlag (t : State) (g : Group) (c : Nat) (b : Nat → Bool) :
    g.OnlyFlag (t.retireGroup (t.issue.lanes.foldl (fun h l => h.setFlag l c (b l)) g)) t.issue.lanes c := by
  obtain ⟨ys, hflags, -⟩ := Group.setFlags_eq g t.issue.lanes c b
  have hlane := fun l => t.retireGroup_lanes (t.issue.lanes.foldl (fun h l => h.setFlag l c (b l)) g) l
  refine ⟨?rest, ?rwc, fun l hl => ?other, fun l k hk hk8 => ?flag, fun l => ?lane⟩
  case rest =>
    obtain ⟨n, xs, hr, -⟩ := t.retireGroup_eq (t.issue.lanes.foldl (fun h l => h.setFlag l c (b l)) g)
    rw [hr, hflags]
  case rwc =>
    have hr := t.retireGroup_rwc (t.issue.lanes.foldl (fun h l => h.setFlag l c (b l)) g)
    rw [hflags] at hr ⊢
    exact hr
  case other => rw [(hlane l).1 hl, Group.lane_setFlags_ne _ _ _ _ hl]
  case flag => rw [State.retireGroup_flag, Group.flag_setFlags_ne _ _ _ _ _ hk hk8]
  case lane =>
    rw [Lane.standAs_trans (hlane l).2]
    exact congrArg (Lane.standAs · (g.lane l)) (Group.lane_setFlags_rest g t.issue.lanes c b l)

/-- A flag instruction that nothing holds or stops, with its frame. -/
theorem flagOp_only {s : State} {u : Bool} {reads : List Nat} {c : Nat} (h : s.Free u reads []) (hc : c < 8) (f : Group → Nat → Bool) :
    ∃ t, flagOp u reads c s f = .next t ∧ s.AllPassed t ∧ s.FlagResult t u c (f s.me) ∧
      (s.Untraced → s.OnlyGroup t ∧ s.me.OnlyFlag t.me s.issue.lanes c) := by
  obtain ⟨t, ht, hp, hr⟩ := flagOp_result h hc f
  refine ⟨t, ht, hp, hr, fun hu => ?_⟩
  rw [flagOp_free h] at ht
  obtain rfl := Host.Outcome.next.inj ht
  have hm := h.1.1
  obtain ⟨xs, hflags, -⟩ := Group.setFlags_eq s.me s.issue.lanes c fun l => f s.me (srcLane u s.issue.lanes l)
  refine ⟨State.modMe_retire_onlyGroup hm hu (by rw [hflags]), ?_⟩
  rw [State.retire_me (by rw [State.me?_modMe, Option.isSome_map]; exact hm), State.me_modMe _ _ hm]
  exact State.retireGroup_onlyFlag (s.modMe _) s.me c _

/-! Relations (R176, Table En-5). -/

theorem typedInt_i32 (x : Word) : typedInt 0 x.toNat = x.toInt := by
  rw [typedInt, BitVec.ofNat_toNat, BitVec.setWidth_eq]

theorem typedInt_n32 (x : Word) : typedInt 1 x.toNat = x.toNat :=
  congrArg Nat.cast (Nat.mod_eq_of_lt x.isLt)

theorem typedInt_i64 (x : Double) : typedInt 2 x.toNat = x.toInt := by
  rw [typedInt, BitVec.ofNat_toNat, BitVec.setWidth_eq]

theorem typedInt_n64 (x : Double) : typedInt 3 x.toNat = x.toNat :=
  congrArg Nat.cast (Nat.mod_eq_of_lt x.isLt)

section
variable {n : Nat} (x y : BitVec n)

theorem intRel_eq_signed : intRel 0 x.toInt y.toInt = decide (x = y) := decide_eq_decide.mpr BitVec.toInt_inj

theorem intRel_ne_signed : intRel 1 x.toInt y.toInt = decide (x ≠ y) := by
  rw [decide_not, ← intRel_eq_signed]
  rfl

theorem intRel_eq_unsigned : intRel 0 x.toNat y.toNat = decide (x = y) :=
  decide_eq_decide.mpr (Nat.cast_inj.trans BitVec.toNat_inj)

theorem intRel_ne_unsigned : intRel 1 x.toNat y.toNat = decide (x ≠ y) := by
  rw [decide_not, ← intRel_eq_unsigned]
  rfl

theorem intRel_lt_unsigned : intRel 2 x.toNat y.toNat = x.ult y := decide_eq_decide.mpr Int.ofNat_lt

theorem intRel_le_unsigned : intRel 3 x.toNat y.toNat = x.ule y := decide_eq_decide.mpr Int.ofNat_le

theorem intRel_gt_unsigned : intRel 4 x.toNat y.toNat = y.ult x := decide_eq_decide.mpr Int.ofNat_lt

theorem intRel_ge_unsigned : intRel 5 x.toNat y.toNat = y.ule x := decide_eq_decide.mpr Int.ofNat_le

end

section
variable {s : State} {u : Bool} {c a b k m : Nat} (hc : c < 8)
include hc

theorem completes_icmp (h : s.Free u [a, b] []) {r : Word → Word → Bool}
    (hr : m ≤ 1 ∧ ∀ x y : Word, intRel k (typedInt m x.toNat) (typedInt m y.toNat) = r x y) :
    Completes (.icmp u c k a b m) s fun t => s.AllPassed t ∧ s.FlagResult t u c (fun l => r (s.me.reg l a) (s.me.reg l b)) ∧
      (s.Untraced → s.OnlyGroup t ∧ s.me.OnlyFlag t.me s.issue.lanes c) := by
  simp only [Completes, exec_icmp, execIcmp, if_pos hr.1, hr.2]
  exact flagOp_only h hc _

theorem completes_icmp_pair (h : s.Free u [a, a + 1, b, b + 1] []) {r : Double → Double → Bool}
    (hr : 1 < m ∧ ∀ x y : Double, intRel k (typedInt m x.toNat) (typedInt m y.toNat) = r x y) :
    Completes (.icmp u c k a b m) s fun t => s.AllPassed t ∧ s.FlagResult t u c (fun l => r (s.me.pair l a) (s.me.pair l b)) ∧
      (s.Untraced → s.OnlyGroup t ∧ s.me.OnlyFlag t.me s.issue.lanes c) := by
  simp only [Completes, exec_icmp, execIcmp, if_neg (Nat.not_le.mpr hr.1), hr.2]
  exact flagOp_only h hc _

end

theorem truthTable_eq_testBit (k : Nat) (x y : Bool) : truthTable k x y = k.testBit (2 * x.toNat + y.toNat) := by
  rw [truthTable, bit_eq_decide_fld, Nat.testBit_eq_decide_div_mod_eq, fld, Nat.pow_one]

theorem Instr.icmp_fields {u : Bool} {c r a b m : Nat} (h : (Instr.icmp u c r a b m).wellFormed = true) :
    r < 6 ∧ m < 4 ∧ (2 ≤ m → a % 2 = 0 ∧ b % 2 = 0) := by
  obtain ⟨hrange, hchecks⟩ := Instr.wellFormed_iff.mp h
  obtain ⟨-, -, -, -, hm⟩ := of_decide_eq_true hrange
  simp only [Instr.checks, List.forall_mem_cons, isEven] at hchecks
  obtain ⟨hr, ha, hb, -⟩ := hchecks
  simp at hr ha hb
  omega

/-- Settles O5: a relation of integers is the words' own relation under each type; both instructions are one frame of a flag. -/
theorem flagInstructions : Obligations.FlagInstructions := by
  unfold Obligations.FlagInstructions
  refine fun s u c a b p q k hc => ⟨fun h r hr => ?word, fun h r hr => ?pair, fun h => ?clog,
    fun r m => ⟨rfl, Instr.icmp_fields⟩⟩
  case word =>
    refine completes_icmp hc h ?_
    revert r
    simp only [List.forall_mem_cons, typedInt_i32, typedInt_n32]
    exact ⟨⟨zero_le_one, intRel_eq_signed⟩, ⟨zero_le_one, intRel_ne_signed⟩, ⟨zero_le_one, fun _ _ => rfl⟩,
      ⟨zero_le_one, fun _ _ => rfl⟩, ⟨zero_le_one, fun _ _ => rfl⟩, ⟨zero_le_one, fun _ _ => rfl⟩,
      ⟨le_rfl, intRel_eq_unsigned⟩, ⟨le_rfl, intRel_ne_unsigned⟩, ⟨le_rfl, intRel_lt_unsigned⟩,
      ⟨le_rfl, intRel_le_unsigned⟩, ⟨le_rfl, intRel_gt_unsigned⟩, ⟨le_rfl, intRel_ge_unsigned⟩, fun _ hr => nomatch hr⟩
  case clog =>
    simp only [← truthTable_eq_testBit]
    exact flagOp_only h hc fun g l => truthTable k (g.flag l p) (g.flag l q)
  case pair =>
    refine completes_icmp_pair hc h ?_
    revert r
    simp only [List.forall_mem_cons, typedInt_i64, typedInt_n64]
    exact ⟨⟨Nat.one_lt_two, intRel_eq_signed⟩, ⟨Nat.one_lt_two, intRel_ne_signed⟩, ⟨Nat.one_lt_two, fun _ _ => rfl⟩,
      ⟨Nat.one_lt_two, fun _ _ => rfl⟩, ⟨Nat.one_lt_two, fun _ _ => rfl⟩, ⟨Nat.one_lt_two, fun _ _ => rfl⟩,
      ⟨by decide, intRel_eq_unsigned⟩, ⟨by decide, intRel_ne_unsigned⟩, ⟨by decide, intRel_lt_unsigned⟩,
      ⟨by decide, intRel_le_unsigned⟩, ⟨by decide, intRel_gt_unsigned⟩, ⟨by decide, intRel_ge_unsigned⟩, fun _ hr => nomatch hr⟩

end Sys2Proof.Machine
end

section
/-!
SUPPORT. The frame of the floating-point instructions (R163, R166): what one that nothing traps leaves alone, and the
stochastic-rounding states that it advances (R130).
-/
namespace Sys2Proof.Machine

/-! Stochastic-rounding states. -/

/-- Lane `l` takes the next state `o` where it drew. -/
def Group.takeSr (g : Group) (l : Nat) (o : Option Word) : Group := (o.map fun x => g.modLane l ({ · with sr := x })).getD g

@[simp] theorem Group.length_takeSr (g : Group) (l : Nat) (o : Option Word) : (g.takeSr l o).lanes.length = g.lanes.length := by
  cases o with
  | none => rfl
  | some x => exact Group.length_modLane _ _ _

theorem Group.lane_takeSr (g : Group) (l : Nat) (o : Option Word) (k : Nat) : (g.takeSr l o).lane k =
    if k = l ∧ k < g.lanes.length then { g.lane k with sr := o.getD (g.lane k).sr } else g.lane k := by
  cases o with
  | none => exact (ite_self _).symm
  | some x => exact Group.lane_modLane _ _ _ _

/-- A lane after the lanes that drew have taken their next states. -/
theorem Group.lane_takeSrs (g : Group) (ls : List Nat) (o : Nat → Option Word) (k : Nat) :
    (ls.foldl (fun h l => h.takeSr l (o l)) g).lane k =
      if k ∈ ls ∧ k < g.lanes.length then { g.lane k with sr := (o k).getD (g.lane k).sr } else g.lane k := by
  induction ls generalizing g with
  | nil => exact (if_neg fun h => List.not_mem_nil h.1).symm
  | cons x ls ih =>
    rw [List.foldl_cons, ih, Group.length_takeSr, Group.lane_takeSr]
    by_cases hn : k < g.lanes.length
    · by_cases hx : k = x
      · subst hx
        cases o k <;> simp [hn]
      · simp [hx]
    · simp [hn]

/-- Register writes to several lanes leave every lane's place and states. -/
theorem Group.lane_setLanes (g : Group) (ls : List Nat) (w : Nat → List (Nat × Word)) (k : Nat) :
    (ls.foldl (fun h l => h.setRegs l (w l)) g).lane k = g.lane k := by
  obtain ⟨rs, ps, h⟩ := Group.setLanes_eq g ls w
  rw [h]
  rfl

section
variable (s : State) (u : Bool) {f : Nat → FpOut} (hc : ∀ l, (f l).cflag = none) (g : Group)
include hc

/-- The group in three parts: the flags, the results and the draws. -/
theorem State.fpGroup_parts : s.fpGroup u f g = (s.sources u).foldl (fun h l => h.takeSr l (f l).sr)
    (s.issue.lanes.foldl (fun h l => h.setRegs l ((f (srcLane u s.issue.lanes l)).regs (s.me.reg l)))
      { g with fpf := g.fpf ||| (s.sources u).foldl (fun x l => x ||| (f l).flags) 0 }) := by
  unfold State.fpGroup
  simp only [hc]
  refine foldl_congr_mem _ _ _ _ fun h l _ => ?_
  cases (f l).sr <;> rfl

/-- A lane after a floating-point instruction whose results are registers. -/
theorem State.fpGroup_lane (k : Nat) : (s.fpGroup u f g).lane k =
    if k ∈ s.sources u ∧ k < g.lanes.length then { g.lane k with sr := (f k).sr.getD (g.lane k).sr } else g.lane k := by
  rw [s.fpGroup_parts u hc, Group.lane_takeSrs, Group.lane_setLanes]
  obtain ⟨rs, ps, h⟩ := Group.setLanes_eq { g with fpf := g.fpf ||| (s.sources u).foldl (fun x l => x ||| (f l).flags) 0 }
    s.issue.lanes fun l => (f (srcLane u s.issue.lanes l)).regs (s.me.reg l)
  rw [h]
  rfl

theorem State.fpGroup_eq : ∃ rs ps p xs, s.fpGroup u f g = { g with regs := rs, poison := ps, fpf := p, lanes := xs } ∧
    xs.length = g.lanes.length := by
  obtain ⟨xs, h, hn⟩ := s.fpGroup_regs u f hc g
  obtain ⟨rs, ps, h'⟩ := Group.setLanes_eq { g with fpf := g.fpf ||| (s.sources u).foldl (fun x l => x ||| (f l).flags) 0 }
    s.issue.lanes fun l => (f (srcLane u s.issue.lanes l)).regs (s.me.reg l)
  exact ⟨rs, ps, _, xs, by rw [h, h'], hn⟩

end

/-! Lanes with the states that they had. -/

theorem Lane.getElem?_withSrOf {ys xs : List Lane} (h : ys.length = xs.length) (l : Nat) :
    (Lane.withSrOf ys xs)[l]? = ys[l]?.map fun y => { y with sr := (xs[l]?.getD (Lane.start 0)).sr } := by
  rw [Lane.withSrOf, List.getElem?_map]
  by_cases hl : l < xs.length
  · simp [hl, h]
  · simp [h, Nat.le_of_not_lt hl]

theorem Group.lane_withSrOf {g h k : Group} (hn : h.lanes.length = g.lanes.length) (hk : k.lanes = Lane.withSrOf h.lanes g.lanes) (l : Nat) :
    k.lane l = { h.lane l with sr := (g.lane l).sr } := by
  unfold Group.lane
  rw [hk, Lane.getElem?_withSrOf hn]
  by_cases hl : l < g.lanes.length
  · simp [hl, hn]
  · simp [hn, Nat.le_of_not_lt hl]

/-- Lanes whose states are those of `g` already. -/
theorem Lane.withSrOf_eq {g h : Group} (hn : h.lanes.length = g.lanes.length) (hs : ∀ l < g.lanes.length, (h.lane l).sr = (g.lane l).sr) :
    Lane.withSrOf h.lanes g.lanes = h.lanes := by
  apply List.ext_getElem?
  intro l
  rw [Lane.getElem?_withSrOf hn]
  by_cases hl : l < g.lanes.length
  · have := hs l hl
    simp only [Group.lane] at this
    rw [← this]
    simp [hl, hn]
  · simp [hn, Nat.le_of_not_lt hl]

/-! What the end of an issue leaves of a lane. -/

theorem State.retireGroup_sr (t : State) (g : Group) (l : Nat) : ((t.retireGroup g).lane l).sr = (g.lane l).sr := by
  have h := congrArg Lane.sr (t.retireGroup_lanes g l).2
  exact h

theorem lastWrite_of_not_mem {ws : List (Nat × Word)} {q : Nat} (h : ∀ w ∈ ws, w.1 ≠ q) (old : Word) : lastWrite ws q old = old := by
  unfold lastWrite
  induction ws with
  | nil => rfl
  | cons w ws ih =>
    rw [List.foldl_cons, if_neg (h w List.mem_cons_self)]
    exact ih fun x hx => h x (List.mem_cons_of_mem _ hx)

/-! Registers. -/

/-- Writes of registers `ds` to some lanes change these registers and their poison marks alone. -/
theorem Group.setLanes_onlyRegs (g : Group) (ls : List Nat) {w : Nat → List (Nat × Word)} {ds : List Nat} (hw : ∀ l, ∀ x ∈ w l, x.1 ∈ ds)
    (hds : ∀ r ∈ ds, r < 128) : g.OnlyRegs (ls.foldl (fun h l => h.setRegs l (w l)) g) ls ds := by
  obtain ⟨rs, ps, hset⟩ := Group.setLanes_eq g ls w
  obtain ⟨hlost, hkept⟩ := Group.setLanes_poison g ls w ds hw
  refine ⟨by rw [hset], fun l r hr hn => ?reg, hlost, hkept, .inl (by rw [hset]), fun l _ => g.lane_setLanes ls w l, fun l => ?lane⟩
  case reg =>
    rw [Group.reg_setLanes g ls w l r fun k _ x hx => by have := hds x.1 (hw k x hx); omega]
    split
    case isTrue hl =>
      refine lastWrite_of_not_mem (fun x hx e => hn ⟨hl, ?_⟩) _
      rw [← e]
      exact hw l x hx
    case isFalse => rfl
  case lane => rw [g.lane_setLanes ls w l, Lane.standAs_self]

/-- `$fpf` aside. -/
theorem Group.OnlyRegs.withFpf {g k : Group} {p : FpFlags} {ls ds : List Nat} (h : ({ g with fpf := p } : Group).OnlyRegs k ls ds) :
    g.OnlyRegs { k with fpf := g.fpf } ls ds := by
  obtain ⟨hrest, hreg, hlost, hkept, hrwc, hother, hlane⟩ := h
  exact ⟨congrArg (fun x : Group => { x with fpf := g.fpf }) hrest, hreg, hlost, hkept, hrwc, hother, hlane⟩

/-- The same after the issue's end, where the group has set flags and drawn too. -/
theorem Group.OnlyRegs.retire {g k : Group} {t : State} {ds : List Nat}
    (h : g.OnlyRegs { k with fpf := g.fpf, lanes := g.lanes } t.issue.lanes ds) (hrwc : k.rwc = g.rwc)
    (hn : k.lanes.length = g.lanes.length) (hlane : ∀ l, { k.lane l with sr := (g.lane l).sr } = g.lane l) :
    g.OnlyRegs { t.retireGroup k with fpf := g.fpf, lanes := Lane.withSrOf (t.retireGroup k).lanes g.lanes } t.issue.lanes ds := by
  obtain ⟨hrest, hreg, hlost, hkept, -⟩ := h
  obtain ⟨n, ys, hret, hys⟩ := t.retireGroup_eq k
  have hlen : (t.retireGroup k).lanes.length = g.lanes.length := by rw [hret, ← hn]; exact hys
  have hend := fun l => Group.lane_withSrOf (g := g)
    (k := { t.retireGroup k with fpf := g.fpf, lanes := Lane.withSrOf (t.retireGroup k).lanes g.lanes }) hlen rfl l
  refine ⟨?rest, fun l r hr hn => ?reg, ?lost, ?kept, ?rwc, fun l hl => ?other, fun l => ?lane⟩
  case rest =>
    rw [hret]
    exact hrest
  case reg => exact (t.retireGroup_reg k l r).trans (hreg l r hr hn)
  case lost =>
    rw [hret]
    exact hlost
  case kept =>
    rw [hret]
    exact hkept
  case rwc =>
    have := t.retireGroup_rwc k
    rwa [hrwc] at this
  case other => rw [hend, (t.retireGroup_lanes k l).1 hl, hlane]
  case lane =>
    rw [hend]
    have hplace := Lane.standAs_trans (t.retireGroup_lanes k l).2 (g.lane l)
    calc Lane.standAs { (t.retireGroup k).lane l with sr := (g.lane l).sr } (g.lane l)
      _ = { ((t.retireGroup k).lane l).standAs (g.lane l) with sr := (g.lane l).sr } := rfl
      _ = Lane.standAs { k.lane l with sr := (g.lane l).sr } (g.lane l) := by rw [hplace]; rfl
      _ = g.lane l := by rw [hlane, Lane.standAs_self]

/-! The frame. -/

section
variable {s t : State} {u : Bool} {reads writes : List Nat} {operands : List (Nat × Nat)} {a : Nat} {flag : State → Option Nat}
  {f : State → Nat → FpOut} (h : s.FpFree u reads writes (operands.map (·.2)) (fun l => (f s l).flags))
  (hc : ∀ l, (f s l).cflag = none) (ht : fpOp u reads writes operands a flag s f = .next t)
include h ht

/-- The next state of a floating-point instruction that nothing traps. -/
theorem fpOp_next : t = ((s.modMe (s.fpGroup u (f s))).track (flag s)).retire :=
  (Host.Outcome.next.inj ((fpOp_free h).symm.trans ht)).symm

/-- Its group. -/
theorem fpOp_me : t.me = ((s.modMe (s.fpGroup u (f s))).track (flag s)).retireGroup (s.fpGroup u (f s) s.me) := by
  have hm := h.1.1.1
  rw [fpOp_next h ht, State.retire_me, State.me_track, State.me_modMe _ _ hm]
  rw [State.me?_track, State.me?_modMe, Option.isSome_map]
  exact hm

/-- SETA's flag is set where it tracks the instruction (R145). -/
theorem fpOp_flagSet {n : Nat} (hn : flag s = some n) : t.flagSet s.issue.core s.issue.agent n = true := by
  rw [fpOp_next h ht, hn, State.flagSet, State.opsOf, State.ops_retire]
  simp [State.track, State.addOpDue, State.addOp, State.due]

include hc

theorem fpOp_sr {l : Nat} (hl : l < s.me.lanes.length) :
    (t.me.lane l).sr = if l ∈ s.sources u then (f s l).sr.getD (s.me.lane l).sr else (s.me.lane l).sr := by
  rw [fpOp_me h ht, State.retireGroup_sr, s.fpGroup_lane u hc]
  by_cases hs : l ∈ s.sources u <;> simp [hs, hl]

theorem fpOp_onlyIssue (hu : s.Untraced) : s.OnlyIssue t := by
  obtain ⟨rs, ps, p, xs, hg, -⟩ := s.fpGroup_eq u hc s.me
  rw [fpOp_next h ht]
  exact State.modMe_track_retire_onlyIssue h.1.1.1 hu (by rw [hg]) _

/-- Its group but for `$fpf` and the lanes' stochastic-rounding states. -/
theorem fpOp_onlyRegs (hw : ∀ l old, ∀ x ∈ (f s l).regs old, x.1 ∈ writes) :
    s.me.OnlyRegs { t.me with fpf := s.me.fpf, lanes := Lane.withSrOf t.me.lanes s.me.lanes } s.issue.lanes writes := by
  obtain ⟨xs, hfp, hxs⟩ := s.fpGroup_regs u (f s) hc s.me
  have hregs := Group.setLanes_onlyRegs { s.me with fpf := s.me.fpf ||| (s.sources u).foldl (fun x l => x ||| (f s l).flags) 0 }
    s.issue.lanes (fun l => hw (srcLane u s.issue.lanes l) (s.me.reg l)) fun r hr => (h.1.2.1 r (List.mem_append_right _ hr)).2
  obtain ⟨rs, ps, hset⟩ := Group.setLanes_eq
    { s.me with fpf := s.me.fpf ||| (s.sources u).foldl (fun x l => x ||| (f s l).flags) 0 } s.issue.lanes
    fun l => (f s (srcLane u s.issue.lanes l)).regs (s.me.reg l)
  have hlane := s.fpGroup_lane u hc s.me
  rw [hset] at hregs hfp
  rw [fpOp_me h ht, hfp]
  have hissue : ((s.modMe (s.fpGroup u (f s))).track (flag s)).issue = s.issue := State.issue_track _ _
  rw [← hissue]
  refine Group.OnlyRegs.retire ?_ rfl hxs fun l => ?_
  · rw [hissue]
    exact hregs.withFpf
  · rw [← hfp, hlane]
    split <;> rfl

/-- Its frame. -/
theorem fpOp_srFrame (hw : ∀ l old, ∀ x ∈ (f s l).regs old, x.1 ∈ writes) : s.SrFrame t writes := fun hu =>
  ⟨fpOp_onlyIssue h hc ht hu, fpOp_onlyRegs h hc ht hw⟩

theorem fpOp_length_lanes : t.me.lanes.length = s.me.lanes.length := by
  obtain ⟨xs, hfp, hxs⟩ := s.fpGroup_regs u (f s) hc s.me
  obtain ⟨n, ys, hret, hys⟩ :=
    ((s.modMe (s.fpGroup u (f s))).track (flag s)).retireGroup_eq (s.fpGroup u (f s) s.me)
  rw [fpOp_me h ht, hret]
  rw [hfp] at hys
  exact hys.trans hxs

/-- Its frame where no lane draws. -/
theorem fpOp_fpFrame (hsr : ∀ l, (f s l).sr = none) (hw : ∀ l old, ∀ x ∈ (f s l).regs old, x.1 ∈ writes) : s.FpFrame t writes := by
  intro hu
  obtain ⟨hissue, hregs⟩ := fpOp_srFrame h hc ht hw hu
  refine ⟨hissue, ?_⟩
  rwa [Lane.withSrOf_eq (fpOp_length_lanes h hc ht)] at hregs
  intro l hl
  rw [fpOp_sr h hc ht hl, hsr]
  exact ite_self _

/-- The states of the lanes that drew `n` times each (R130). -/
theorem fpOp_srAfter {n : Nat} (hsr : ∀ l, (f s l).sr.getD (s.me.lane l).sr = srAfter (s.me.lane l).sr n) : s.SrAfter t u n :=
  fun l hl => by rw [fpOp_sr h hc ht hl, hsr]

end

/-! One result register. -/

/-- A floating-point instruction with one FP32 or packed result for each lane. -/
theorem fpOp_done {s : State} {u : Bool} {reads : List Nat} {d : Nat} {operands : List (Nat × Nat)} {a : Nat}
    {flag : State → Option Nat} {f : State → Nat → FpOut} {r : Nat → FRes} (hf : ∀ l, f s l = (r l).out d)
    (h : s.FpFree u reads [d] (operands.map (·.2)) (fun l => (r l).flags)) :
    ∃ t, fpOp u reads [d] operands a flag s f = .next t ∧ s.FpDone t u d r ∧
      ∀ n, flag s = some n → t.flagSet s.issue.core s.issue.agent n = true := by
  have h' : s.FpFree u reads [d] (operands.map (·.2)) (fun l => (f s l).flags) := by
    simp only [hf]
    exact h
  have hregs : ∀ l old, (f s l).regs old = [(d, BitVec.ofNat 32 (r l).bits)] := fun l old => by rw [hf]; rfl
  obtain ⟨t, ht, hp, hfpf, hreg⟩ := fpOp_regs (a := a) (flag := flag) h' fun l => by rw [hf]; rfl
  refine ⟨t, ht, ⟨hp, ?flags, fun l hl => ?result, ?frame⟩, fun n hn => fpOp_flagSet h' ht hn⟩
  case flags =>
    simp only [hf] at hfpf
    exact hfpf
  case result =>
    rw [hreg l d fun k _ x hx => ?near, if_pos hl, hregs]
    · exact if_pos rfl
    · rw [hregs, List.mem_singleton] at hx
      subst hx
      dsimp only
      omega
  case frame =>
    refine fpOp_fpFrame h' (fun l => by rw [hf]; rfl) ht (fun l => by rw [hf]; rfl) fun l old x hx => ?_
    rw [hregs, List.mem_singleton] at hx
    subst hx
    exact List.mem_singleton_self d

end Sys2Proof.Machine
end

section
/-!
SUPPORT. The floating-point instructions with one result: FP32 arithmetic and compares (R177, R179 to R182), the special functions
(R183) and the packed instructions (R184).
-/
namespace Sys2Proof.Machine

/-! Compares. -/

section
variable {s : State} {u : Bool} {c : Nat} {f : Nat → FpOut} {b : Nat → Bool} {fl : Nat → FpFlags}
  (hf : ∀ l, f l = ⟨[], some (c, b l), fl l, none, none⟩)
include hf

/-- The group of a floating-point instruction whose results are flags. -/
theorem State.fpGroup_flags (g : Group) : s.fpGroup u f g =
    s.issue.lanes.foldl (fun h l => h.setFlag l c (b (srcLane u s.issue.lanes l)))
      { g with fpf := g.fpf ||| (s.sources u).foldl (fun x l => x ||| fl l) 0 } := by
  unfold State.fpGroup
  simp only [hf]
  exact List.foldl_fixed _

end

theorem Group.OnlyFlag.withFpf {g k : Group} {p : FpFlags} {ls : List Nat} {c : Nat} (h : ({ g with fpf := p } : Group).OnlyFlag k ls c) :
    g.OnlyFlag { k with fpf := g.fpf } ls c := by
  obtain ⟨hrest, hrwc, hother, hflag, hlane⟩ := h
  exact ⟨congrArg (fun x : Group => { x with fpf := g.fpf }) hrest, hrwc, hother, hflag, hlane⟩

/-- A floating-point instruction whose results are flags, which nothing traps. -/
theorem fpOp_flags {s : State} {u : Bool} {reads : List Nat} {operands : List (Nat × Nat)} {a c : Nat} (hc : c < 8)
    {f : State → Nat → FpOut} {r : Nat → Bool × FpFlags} (hf : ∀ l, f s l = ⟨[], some (c, (r l).1), (r l).2, none, none⟩)
    (h : s.FpFree u reads [] (operands.map (·.2)) (fun l => (r l).2)) :
    ∃ t, fpOp u reads [] operands a noFlag s f = .next t ∧ s.AllPassed t ∧ s.FpfAfter t u (fun l => (r l).2) ∧
      s.FlagResult t u c (fun l => (r l).1) ∧
      (s.Untraced → s.OnlyGroup t ∧ s.me.OnlyFlag { t.me with fpf := s.me.fpf } s.issue.lanes c) := by
  have hm := h.1.1.1
  have hfree : s.FpFree u reads [] (operands.map (·.2)) (fun l => (f s l).flags) := by
    simp only [hf]
    exact h
  have hg := State.fpGroup_flags (s := s) (u := u) hf s.me
  have ht := fpOp_free (a := a) (flag := noFlag) hfree
  have hme := fpOp_me hfree ht
  have hissue : ((s.modMe (s.fpGroup u (f s))).track (noFlag s)).issue = s.issue := rfl
  obtain ⟨xs, hflags, hxs⟩ := Group.setFlags_eq { s.me with fpf := s.me.fpf ||| (s.sources u).foldl (fun x l => x ||| (r l).2) 0 }
    s.issue.lanes c fun l => (r (srcLane u s.issue.lanes l)).1
  refine ⟨_, ht, ?passed, ?fpf, fun l hl hn => ?flag, fun hu => ⟨?group, ?only⟩⟩
  case passed => exact State.modMe_retire_passed hm _ (by rw [hg, hflags]; exact hxs)
  case fpf =>
    obtain ⟨n, ys, hret, -⟩ := ((s.modMe (s.fpGroup u (f s))).track (noFlag s)).retireGroup_eq (s.fpGroup u (f s) s.me)
    rw [State.FpfAfter, hme, hret, hg, hflags]
  case flag =>
    rw [hme, State.retireGroup_flag, hg]
    exact Group.flag_setFlags _ _ c (fun l => (r (srcLane u s.issue.lanes l)).1) hl hn hc
  case group => exact State.modMe_retire_onlyGroup hm hu (by rw [hg, hflags])
  case only =>
    have honly := ((s.modMe (s.fpGroup u (f s))).track (noFlag s)).retireGroup_onlyFlag
      { s.me with fpf := s.me.fpf ||| (s.sources u).foldl (fun x l => x ||| (r l).2) 0 } c fun l => (r (srcLane u s.issue.lanes l)).1
    rw [hissue, ← hg, ← hme] at honly
    exact honly.withFpf

/-! One result register. -/

section
variable {s : State} {u : Bool} {reads : List Nat} {d a : Nat} {operands : List (Nat × Nat)} {flag : State → Option Nat}
  {f : State → Nat → FpOut} {i : Instr} {r : Nat → FRes} (he : exec i s = fpOp u reads [d] operands a flag s f)
  (hf : ∀ l, f s l = (r l).out d) (h : s.FpFree u reads [d] (operands.map (·.2)) (fun l => (r l).flags))
include he hf h

/-- An instruction that one operation of the floating-point frame performs, with one result for each lane. -/
theorem completes_fpOp_tracked : Completes i s fun t => s.FpDone t u d r ∧
    ∀ n, flag s = some n → t.flagSet s.issue.core s.issue.agent n = true := by
  rw [Completes, he]
  exact fpOp_done hf h

theorem completes_fpOp : Completes i s fun t => s.FpDone t u d r := by
  obtain ⟨t, ht, hd, -⟩ := completes_fpOp_tracked he hf h
  exact ⟨t, ht, hd⟩

end

/-- A word with its sign bit replaced. -/
theorem getLsbD_withSign (x : Word) (b : Bool) {j : Nat} (hj : j < 32) :
    ((x &&& 0x7FFFFFFF) ||| (if b then 0x80000000 else 0)).getLsbD j = if j = 31 then b else x.getLsbD j := by
  have hrest : ∀ j < 32, (0x7FFFFFFF : Word).getLsbD j = decide (j ≠ 31) := by decide
  have hsign : ∀ j < 32, (0x80000000 : Word).getLsbD j = decide (j = 31) := by decide
  rw [BitVec.getLsbD_or, BitVec.getLsbD_and, hrest j hj, apply_ite (BitVec.getLsbD · j), hsign j hj]
  by_cases h : j = 31 <;> cases b <;> simp [h]

/-- Settles O6: all but FCPS, which moves bits, are one frame, with a register or a flag as the result. -/
theorem floatingArithmetic : Obligations.FloatingArithmetic := by
  unfold Obligations.FloatingArithmetic
  intro s u d a b c m k v
  refine ⟨fun p hp h => ?two, fun q hq h => ?ffma, fun h => ?frnd, fun hc h => ?fcmp, fun h q hq => ?fcps⟩
  case two =>
    simp only [List.mem_cons, List.not_mem_nil, or_false] at hp
    rcases hp with rfl | rfl | rfl | rfl | rfl
    · exact completes_fpOp (exec_fadd ..) (fun _ => rfl) h
    · exact completes_fpOp (exec_fsub ..) (fun _ => rfl) h
    · exact completes_fpOp (exec_fmul ..) (fun _ => rfl) h
    · exact completes_fpOp (exec_fmin ..) (fun _ => rfl) h
    · exact completes_fpOp (exec_fmax ..) (fun _ => rfl) h
  case ffma =>
    simp only [List.mem_cons, List.not_mem_nil, or_false] at hq
    rcases hq with rfl | rfl | rfl | rfl <;> exact completes_fpOp (exec_ffma ..) (fun _ => rfl) h
  case frnd => exact completes_fpOp (exec_frnd ..) (fun _ => rfl) h
  case fcmp => exact fpOp_flags hc (fun _ => rfl) h
  case fcps =>
    simp only [List.mem_cons, List.not_mem_nil, or_false] at hq
    rcases hq with rfl | rfl | rfl <;> exact completes_bits h (exec_fcps ..) fun l j hj => getLsbD_withSign _ _ hj

/-- Settles O7: each is the frame with the model's function of v[a], and SETA tracks it. -/
theorem specialFunctions : Obligations.SpecialFunctions := by
  unfold Obligations.SpecialFunctions
  intro s u d a m p hp r h
  simp only [List.mem_cons, List.not_mem_nil, or_false] at hp
  rcases hp with rfl | rfl | rfl | rfl | rfl | rfl | rfl | rfl
  · exact completes_fpOp_tracked (exec_frcp ..) (fun _ => rfl) h
  · exact completes_fpOp_tracked (exec_fsqrt ..) (fun _ => rfl) h
  · exact completes_fpOp_tracked (exec_frsq ..) (fun _ => rfl) h
  · exact completes_fpOp_tracked (exec_fexp2 ..) (fun _ => rfl) h
  · exact completes_fpOp_tracked (exec_flog2 ..) (fun _ => rfl) h
  · exact completes_fpOp_tracked (exec_fsin ..) (fun _ => rfl) h
  · exact completes_fpOp_tracked (exec_fcos ..) (fun _ => rfl) h
  · exact completes_fpOp_tracked (exec_ftanh ..) (fun _ => rfl) h

/-- Settles O8: each is the frame, with the two elements of a lane as one result. -/
theorem packedArithmetic : Obligations.PackedArithmetic := by
  unfold Obligations.PackedArithmetic
  intro s u bf d a b f v
  refine ⟨fun p hp h => ?two, fun h => ?hfma2, fun h => ?hdot2⟩
  case two =>
    simp only [List.mem_cons, List.not_mem_nil, or_false] at hp
    rcases hp with rfl | rfl | rfl | rfl
    · exact completes_fpOp (exec_hadd2 ..) (fun _ => rfl) h
    · exact completes_fpOp (exec_hmul2 ..) (fun _ => rfl) h
    · exact completes_fpOp (exec_hmin2 ..) (fun _ => rfl) h
    · exact completes_fpOp (exec_hmax2 ..) (fun _ => rfl) h
  case hfma2 => exact completes_fpOp (exec_hfma2 ..) (fun _ => rfl) h
  case hdot2 => exact completes_fpOp (exec_hdot2 ..) (fun _ => rfl) h

end Sys2Proof.Machine
end

section
/-!
SUPPORT. Conversions of blocks of elements (R185 to R190): results of several registers, the draws of stochastic rounding, and CVTQ's
scale byte.
-/
namespace Sys2Proof.Machine

/-! Registers of a block. -/

theorem mem_regRange {r d n : Nat} : r ∈ regRange d n ↔ d ≤ r ∧ r < d + n := by
  unfold regRange
  rw [List.mem_map]
  constructor
  · rintro ⟨k, hk, rfl⟩
    have := List.mem_range.mp hk
    omega
  · rintro ⟨h1, h2⟩
    exact ⟨r - d, List.mem_range.mpr (by omega), by omega⟩

/-- A block whose registers are allocated has 128 registers at most. -/
theorem State.Free.length_le {s : State} {u : Bool} {reads writes : List Nat} {d n : Nat} (h : s.Free u reads writes)
    (hw : ∀ r ∈ regRange d n, r ∈ writes) : n ≤ 128 := by
  cases n with
  | zero => exact Nat.zero_le _
  | succ n =>
    have := (h.2.1 (d + n) (List.mem_append_right _ (hw _ (mem_regRange.mpr ⟨by omega, by omega⟩)))).2
    omega

theorem f32Operands_regs (src a n : Nat) : (f32Operands src a n).map (·.2) = if src = 0 then regRange a n else [] := by
  unfold f32Operands regRange
  split
  · rw [List.map_map]
    rfl
  · rfl

/-! Results of several registers. -/

section
variable {s : State} {u : Bool} {reads : List Nat} {d n : Nat} {operands : List (Nat × Nat)} {a : Nat} {flag : State → Option Nat}
  {f : State → Nat → FpOut} {v : Nat → Nat} {fl : Nat → FpFlags} {o : Nat → Option Word}
  (hf : ∀ l, f s l = ⟨wordWrites d (v l) n, none, fl l, o l, none⟩)
  (h : s.FpFree u reads (regRange d n) (operands.map (·.2)) fl)
include hf h

theorem fpOp_block : ∃ t, fpOp u reads (regRange d n) operands a flag s f = .next t ∧ s.AllPassed t ∧ s.FpfAfter t u fl ∧
    s.WordsResult t u d n v ∧ s.SrFrame t (regRange d n) ∧
    (∀ k, (∀ l, (o l).getD (s.me.lane l).sr = srAfter (s.me.lane l).sr k) → s.SrAfter t u k) ∧
    ((∀ l, o l = none) → s.FpFrame t (regRange d n)) := by
  have hc : ∀ l, (f s l).cflag = none := fun l => by rw [hf]
  have hw : ∀ l old, ∀ x ∈ (f s l).regs old, x.1 ∈ regRange d n := fun l old x hx => by
    rw [hf] at hx
    exact mem_regRange.mpr (wordWrites_mem hx)
  have h' : s.FpFree u reads (regRange d n) (operands.map (·.2)) (fun l => (f s l).flags) := by
    simp only [hf]
    exact h
  obtain ⟨t, ht, hp, hfpf, hr⟩ := fpOp_words (a := a) (flag := flag) (h.1.length_le fun _ hr => hr) (fun _ => v) h' hc (fun l => by rw [hf])
    fun l => by rw [hf]
  refine ⟨t, ht, hp, ?_, hr, fpOp_srFrame h' hc ht hw,
    fun k hk => fpOp_srAfter h' hc ht fun l => ?_, fun ho => fpOp_fpFrame h' hc ht (fun l => ?_) hw⟩
  · simp only [hf] at hfpf
    exact hfpf
  · rw [hf]
    exact hk l
  · rw [hf]
    exact ho l

/-- A conversion that draws once for each of `k` elements under stochastic rounding (R130). -/
theorem fpOp_block_draws {rm k : Nat} (ho : ∀ l, o l = if rm = 4 then some (srAfter (s.me.lane l).sr k) else none) :
    ∃ t, fpOp u reads (regRange d n) operands a flag s f = .next t ∧ s.AllPassed t ∧ s.FpfAfter t u fl ∧ s.WordsResult t u d n v ∧
      s.SrAfter t u (if rm = 4 then k else 0) ∧ s.SrFrame t (regRange d n) := by
  obtain ⟨t, ht, hp, hfpf, hr, hframe, hsr, -⟩ := fpOp_block (a := a) (flag := flag) hf h
  refine ⟨t, ht, hp, hfpf, hr, hsr _ fun l => ?_, hframe⟩
  rw [ho]
  split <;> rfl

/-- A conversion that draws nothing. -/
theorem fpOp_block_exact (ho : ∀ l, o l = none) : ∃ t, fpOp u reads (regRange d n) operands a flag s f = .next t ∧ s.AllPassed t ∧
    s.FpfAfter t u fl ∧ s.WordsResult t u d n v ∧ s.FpFrame t (regRange d n) := by
  obtain ⟨t, ht, hp, hfpf, hr, -, -, hframe⟩ := fpOp_block (a := a) (flag := flag) hf h
  exact ⟨t, ht, hp, hfpf, hr, hframe ho⟩

end

/-- Settles O9: CVT, CVTD and HADM write a block of registers, the first two with a draw an element under stochastic rounding; BSCL writes
one. -/
theorem conversions : Obligations.Conversions := by
  unfold Obligations.Conversions
  intro s u satx blk had scl nrm styp inv d a b src dst typ rm ncnt sbyte
  refine ⟨fun h => ?cvt, fun h => ?cvtd, fun h => ?hadm, fun h => ?bscl⟩
  case cvt =>
    rw [← f32Operands_regs] at h
    exact fpOp_block_draws (fun _ => rfl) h fun _ => rfl
  case cvtd => exact fpOp_block_draws (operands := []) (fun _ => rfl) h fun _ => rfl
  case hadm =>
    rw [← f32Operands_regs] at h
    exact fpOp_block_exact (fun _ => rfl) h fun _ => rfl
  case bscl =>
    refine completes_fpOp (exec_bscl ..) (fun l => ?_) h
    rw [apply_ite (FRes.out · d)]
    exact if_congr (Bool.and_eq_true_iff.trans (and_congr_right' beq_iff_eq)) rfl rfl

/-! CVTQ. -/

/-- The last of some writes stands. -/
theorem lastWrite_concat (ws : List (Nat × Word)) (w : Nat × Word) (q : Nat) (old : Word) :
    lastWrite (ws ++ [w]) q old = if w.1 = q then w.2 else lastWrite ws q old := by
  rw [lastWrite, List.foldl_append]
  rfl

/-- A floating-point instruction whose results are registers from `d` up and byte `k` of register `b`, which is written last. -/
theorem fpOp_block_byte {s : State} {i : Instr} {u : Bool} {reads : List Nat} {d n b k : Nat} {operands : List (Nat × Nat)} {a : Nat}
    {flag : State → Option Nat} {f : State → Nat → FpOut} {v y : Nat → Nat} {z : Nat → Bool} {fl : Nat → FpFlags} {rm c : Nat}
    (he : exec i s = fpOp u reads (regRange d n ++ [b]) operands a flag s f)
    (hf : ∀ l, f s l = ⟨wordWrites d (if z l then 0 else v l) n, none, fl l,
      if rm = 4 then some (srAfter (s.me.lane l).sr c) else none, some (b, k, y l)⟩)
    (h : s.FpFree u reads (regRange d n ++ [b]) (operands.map (·.2)) fl) :
    ∃ t, exec i s = .next t ∧ s.AllPassed t ∧ s.FpfAfter t u fl ∧
      s.SrAfter t u (if rm = 4 then c else 0) ∧ s.SrFrame t (regRange d n ++ [b]) ∧
      ∀ l ∈ s.issue.lanes, t.me.reg l b = setByte (s.me.reg l b) k (y (srcLane u s.issue.lanes l)) ∧
        ∀ m < n, d + m ≠ b → t.me.reg l (d + m) =
          if z (srcLane u s.issue.lanes l) then 0 else BitVec.ofNat 32 (v (srcLane u s.issue.lanes l) / 2 ^ (32 * m)) := by
  have hc : ∀ l, (f s l).cflag = none := fun l => by rw [hf]
  have hregs : ∀ l old, (f s l).regs old = wordWrites d (if z l then 0 else v l) n ++ [(b, setByte (old b) k (y l))] := fun l old => by
    rw [hf]
    rfl
  have hw : ∀ l old, ∀ x ∈ (f s l).regs old, x.1 ∈ regRange d n ++ [b] := fun l old x hx => by
    rw [hregs] at hx
    rcases List.mem_append.mp hx with hx | hx
    · exact List.mem_append_left _ (mem_regRange.mpr (wordWrites_mem hx))
    · rw [List.mem_singleton.mp hx]
      exact List.mem_append_right _ (List.mem_singleton_self b)
  have h' : s.FpFree u reads (regRange d n ++ [b]) (operands.map (·.2)) (fun l => (f s l).flags) := by
    simp only [hf]
    exact h
  have hlt : ∀ r ∈ regRange d n ++ [b], r < 128 := fun r hr => (h.1.2.1 r (List.mem_append_right _ hr)).2
  obtain ⟨t, ht, hp, hfpf, hr⟩ := fpOp_regs (a := a) (flag := flag) h' hc
  have hreg : ∀ l ∈ s.issue.lanes, ∀ q ∈ regRange d n ++ [b], t.me.reg l q = if b = q then
      setByte (s.me.reg l b) k (y (srcLane u s.issue.lanes l))
      else lastWrite (wordWrites d (if z (srcLane u s.issue.lanes l) then 0 else v (srcLane u s.issue.lanes l)) n) q (s.me.reg l q) := fun l hl q hq => by
    rw [hr l q fun j _ x hx => by have := hlt _ (hw _ _ x hx); have := hlt q hq; omega, if_pos hl, hregs, lastWrite_concat]
  refine ⟨t, he.trans ht, hp, ?fpf, fpOp_srAfter h' hc ht fun l => ?sr, fpOp_srFrame h' hc ht hw, fun l hl => ⟨?byte, fun m hm hne => ?code⟩⟩
  case fpf =>
    simp only [hf] at hfpf
    exact hfpf
  case sr =>
    rw [hf]
    dsimp only
    split <;> rfl
  case byte => rw [hreg l hl b (List.mem_append_right _ (List.mem_singleton_self b)), if_pos rfl]
  case code =>
    rw [hreg l hl (d + m) (List.mem_append_left _ (mem_regRange.mpr (by omega))), if_neg (Ne.symm hne), lastWrite_wordWrites _ _ _ _ _ hm]
    split
    case isTrue => exact congrArg (BitVec.ofNat 32) (Nat.zero_div _)
    case isFalse => rfl

/-- Settles O10: the lanes with a NaN in their block and the others give their codes and scale byte in one form; the scale byte is written
after the codes. -/
theorem blockQuantise : Obligations.BlockQuantise := by
  unfold Obligations.BlockQuantise
  intro s u satx blk had smode d a b src dst rm vtype sbyte n x0 xs nan byte rs flags h
  rw [← f32Operands_regs] at h
  refine fpOp_block_byte (exec_cvtq ..) (z := nan) (y := byte) (v := fun l => packElems (typeWidth dst) ((rs l).map (·.bits)))
    (fun l => ?_) h
  by_cases hn : nan l = true
  · have hbyte : byte l = if dst = 10 then vtype * 64 else 255 := if_pos hn
    have hflags : flags l = flagIV := if_pos hn
    rw [if_pos hn, if_pos hn, hbyte, hflags]
  · have hbyte : byte l = if smode then byteOf (s.me.reg l b) sbyte else chooseScale dst vtype (xs l) := if_neg hn
    have hflags : flags l = allFlags (rs l) := if_neg hn
    have hcodes : rs l = quantise s dst rm satx (if smode then byteOf (s.me.reg l b) sbyte else chooseScale dst vtype (xs l)) (xs l)
        (s.me.lane l).sr := hbyte ▸ rfl
    rw [if_neg hn, if_neg hn, hflags, hcodes, hbyte]

end Sys2Proof.Machine
end

section
/-!
SUPPORT. The lane operations (R192 to R195): a set issues whole where nothing holds it, and each lane's result over the active lanes.
-/
namespace Sys2Proof.Machine

/-! Issues of a whole set. -/

theorem issueSet_free {s : State} {reads writes : List Nat} (h : s.Free false reads writes) (k : State → Out) :
    issueSet reads writes s k = k s := by
  rw [issueSet, issueWith_free h, if_pos rfl]

/-- Where nothing holds it, a lane operation on registers is a register instruction. -/
theorem issueSet_writeLanes {s : State} {reads writes : List Nat} (h : s.Free false reads writes)
    (f : State → Group → Nat → List (Nat × Word)) :
    issueSet reads writes s (fun t => .next (t.writeLanes false (f t)).retire) = laneOp false reads writes s (f s) := by
  rw [issueSet_free h, laneOp_free h]

/-- Where nothing holds it, a lane operation on FP32 values is a floating-point instruction. -/
theorem fpSet_eq_fpOp {s : State} {reads writes : List Nat} (h : s.Free false reads writes) (operands : List (Nat × Nat)) (a : Nat)
    (flag : State → Option Nat) (f : State → Nat → FpOut) :
    fpSet reads writes operands a flag s f = fpOp false reads writes operands a flag s f := by
  rw [fpSet, fpOp, issueSet_free h, issueWith_free h]

/-! SHFL. -/

/-- The lane that SHFL reads for lane `l`: `src`, or `l` where `src` is outside the group or not active (R192). -/
def shflLane (g : Group) (lanes : List Nat) (l : Nat) (src : Int) : Nat :=
  if decide (0 ≤ src) && decide (src < g.width) && lanes.contains src.toNat then src.toNat else l

/-- The number of the lane that SHFL names, from lane `l` and `v` of v[b] (R192). -/
def shflSource (m l v : Nat) : Int :=
  match m with
  | 0 => v
  | 1 => (l ^^^ v : Nat)
  | 2 => l - v
  | _ => l + v

theorem shflLane_active {g : Group} {lanes : List Nat} {k : Nat} {src : Int} (hk : k ∈ lanes) (hs : (k : Int) = src) (hw : k < g.width)
    (l : Nat) : shflLane g lanes l src = k := by
  subst hs
  simp [shflLane, hk, hw]

theorem shflLane_outside {g : Group} {lanes : List Nat} {src : Int} (h : ∀ k ∈ lanes, (k : Int) = src → g.width ≤ k) (l : Nat) :
    shflLane g lanes l src = l := by
  refine if_neg fun hok => ?_
  simp only [Bool.and_eq_true, decide_eq_true_eq, List.contains_iff_mem] at hok
  obtain ⟨⟨hpos, hlt⟩, hmem⟩ := hok
  have := h _ hmem (Int.toNat_of_nonneg hpos)
  omega

/-! VOTE. -/

/-- What VOTE asks of the flags of the active lanes, where it does not ask for the ballot (R193). -/
def voteHolds (m : Nat) (xs : List Bool) : Bool :=
  match m with
  | 0 => xs.any id
  | 1 => xs.all id
  | _ => xs.all id || xs.all (!·)

theorem voteHolds_equal {xs : List Bool} : voteHolds 3 xs = true ↔ ∀ x ∈ xs, ∀ y ∈ xs, x = y := by
  simp only [voteHolds, Bool.or_eq_true, List.all_eq_true, id, Bool.not_eq_true']
  constructor
  · rintro (h | h) x hx y hy <;> rw [h x hx, h y hy]
  · intro h
    by_cases ht : true ∈ xs
    · exact .inl fun x hx => h x hx true ht
    · exact .inr fun x hx => by simpa using ne_of_mem_of_not_mem hx ht

/-- The ballot's bits are the flags of the active lanes (R193). -/
theorem testBit_ballot (g : Group) {lanes : List Nat} (hn : lanes.Nodup) (p i : Nat) :
    (ballot g lanes p).testBit i = (decide (i ∈ lanes) && g.flag i p) := by
  have hsum : ballot g lanes p = ∑ l ∈ lanes.toFinset with g.flag l p = true, 2 ^ l := by
    rw [Finset.sum_filter, List.sum_toFinset _ hn, ballot]
  rw [hsum, Bool.eq_iff_iff, ← Nat.mem_bitIndices, ← List.mem_toFinset, Finset.toFinset_bitIndices_sum_two_pow]
  simp

/-! The instructions as register instructions. -/

section
variable {s : State} {d a b p m : Nat}

theorem exec_shfl_free (h : s.Free false [a, b] [d]) :
    exec (.shfl d a b m) s = laneOp false [a, b] [d] s fun g l =>
      [(d, g.reg (shflLane g s.issue.lanes l (shflSource m l (g.reg l b).toNat)) a)] := by
  rw [exec_shfl, execShfl, issueSet_free h, laneOp_free h]
  rfl

/-- VOTE with one result register. -/
theorem exec_vote_word (hm : m ≠ 2) (h : s.Free false [] [d]) : exec (.vote d p m) s = laneOp false [] [d] s fun g _ =>
    [(d, if voteHolds m (s.issue.lanes.map (g.flag · p)) then 1 else 0)] := by
  have hd := (h.2.1 d (by simp)).2
  rw [exec_vote, execVote, if_neg hm, if_neg (by omega), show regRange d 1 = [d] from rfl, issueSet_free h, laneOp_free h]
  obtain _ | _ | _ | m := m
  · rfl
  · rfl
  · exact absurd rfl hm
  · rfl

theorem exec_vote_ballot {n : Nat} (hn : s.me.width / 32 = n) (hd : d + n ≤ 128) (h : s.Free false [] (regRange d n)) :
    exec (.vote d p 2) s = laneOp false [] (regRange d n) s fun g _ => wordWrites d (ballot g s.issue.lanes p) n := by
  subst hn
  rw [exec_vote, execVote, if_pos rfl, if_neg (Nat.not_lt.mpr hd), issueSet_free h, laneOp_free h]
  rfl

theorem exec_prfx_word (hm : m ≤ 1) (h : s.Free false [a] [d]) : exec (.prfx d a m) s = laneOp false [a] [d] s fun g l =>
    [(d, (s.issue.lanes.filter fun k => decide (k < l) || (m % 2 == 0 && k == l)).foldl (fun x k => x + g.reg k a) 0)] :=
  (if_pos hm).trans (issueSet_writeLanes h _)

theorem exec_prfx_f32 (hm : ¬m ≤ 1) (h : s.Free false [a] [d]) :
    exec (.prfx d a m) s = fpOp false [a] [d] [(0, a)] a noFlag s fun t l =>
      (laneSum t a (t.issue.lanes.filter fun k => decide (k < l) || (m % 2 == 0 && k == l))).out d :=
  (if_neg hm).trans (fpSet_eq_fpOp h ..)

/-- The reduction by an integer operator, over a list of lanes that is not empty. -/
theorem exec_rduc_word (hm : m ≤ 7) (h : s.Free false [a] [d]) : exec (.rduc d a m) s = laneOp false [a] [d] s fun g _ =>
    [(d, (s.issue.lanes.drop 1).foldl (fun x k => rducInt m x (g.reg k a)) (g.reg (s.issue.lanes.headD 0) a))] := by
  obtain ⟨l, ls, hl⟩ := List.exists_cons_of_ne_nil h.1.2
  refine ((if_pos hm).trans (issueSet_writeLanes h _)).trans ?_
  simp only [hl]
  rfl

theorem exec_rduc_f32 (hm : ¬m ≤ 7) (h : s.Free false [a] [d]) :
    exec (.rduc d a m) s = fpOp false [a] [d] [(0, a)] a noFlag s fun t _ =>
      (if m = 8 then laneSum t a t.issue.lanes else laneMinMax t (m == 10) a t.issue.lanes).out d :=
  (if_neg hm).trans (fpSet_eq_fpOp h ..)

end

/-! Values over the active lanes. -/

theorem foldl_add_eq_sum (ls : List Nat) (f : Nat → Word) : ls.foldl (fun x k => x + f k) 0 = (ls.map f).sum := by
  rw [List.sum_eq_foldl, List.foldl_map]

/-- PRFX with M even takes the lanes up to the lane itself (R194). -/
theorem filter_upTo {m : Nat} (hm : m % 2 = 0) (ls : List Nat) (l : Nat) :
    (ls.filter fun k => decide (k < l) || (m % 2 == 0 && k == l)) = ls.filter (· ≤ l) := by
  refine List.filter_congr fun k _ => ?_
  rw [Bool.eq_iff_iff]
  simp [hm, Nat.le_iff_lt_or_eq]

/-- PRFX with M odd takes the lanes below the lane (R194). -/
theorem filter_below {m : Nat} (hm : m % 2 = 1) (ls : List Nat) (l : Nat) :
    (ls.filter fun k => decide (k < l) || (m % 2 == 0 && k == l)) = ls.filter (· < l) := by
  refine List.filter_congr fun k _ => ?_
  simp [hm]

/-! Results. -/

section
variable {s : State} {u : Bool} {reads : List Nat} {d : Nat} {i : Instr}

/-- An instruction with one result register, of which only the values count. -/
theorem completes_laneOp {f : Group → Nat → Word} {v : Nat → Word} (h : s.Free u reads [d])
    (he : exec i s = laneOp u reads [d] s fun g l => [(d, f g l)]) (hv : ∀ l, f s.me l = v l) :
    Completes i s fun t => s.AllPassed t ∧ s.Result t u d v := by
  obtain ⟨t, ht, hp, hr⟩ := laneOp_one h f
  exact ⟨t, he.trans ht, hp, fun l hl => (hr l hl).trans (hv _)⟩

/-- An instruction whose result is `n` registers. -/
theorem completes_laneOp_words {n : Nat} {v : Group → Nat → Nat} (h : s.Free u reads (regRange d n))
    (he : exec i s = laneOp u reads (regRange d n) s fun g l => wordWrites d (v g l) n) :
    Completes i s fun t => s.AllPassed t ∧ s.WordsResult t u d n (v s.me) := by
  have hn : n ≤ 128 := h.length_le fun _ hr => hr
  refine ⟨_, he.trans (laneOp_free h _), State.writeLanes_passed h.1.1 _ _, fun l hl k hk => ?_⟩
  rw [State.writeLanes_reg h.1.1 u _ l (d + k) (fun j _ x hx => ?_), if_pos hl]
  · exact lastWrite_wordWrites _ _ _ _ _ hk
  · have := wordWrites_mem hx
    omega

end

/-- SHFL's result: the register of the source lane where that lane is active and inside the group, else the lane's own (R192). -/
theorem completes_shfl {s : State} {d a b m : Nat} (h : s.Free false [a, b] [d]) :
    Completes (.shfl d a b m) s fun t => s.AllPassed t ∧ ∀ l ∈ s.issue.lanes,
      (∀ k ∈ s.issue.lanes, (k : Int) = shflSource m l (s.me.reg l b).toNat → k < s.me.width → t.me.reg l d = s.me.reg k a) ∧
      ((∀ k ∈ s.issue.lanes, (k : Int) = shflSource m l (s.me.reg l b).toNat → s.me.width ≤ k) → t.me.reg l d = s.me.reg l a) := by
  obtain ⟨t, ht, hp, hr⟩ := completes_laneOp h (exec_shfl_free h) fun _ => rfl
  refine ⟨t, ht, hp, fun l hl => ⟨fun k hk hs hw => (hr l hl).trans ?_, fun hout => (hr l hl).trans ?_⟩⟩
  · exact congrArg (s.me.reg · a) (shflLane_active hk hs hw l)
  · exact congrArg (s.me.reg · a) (shflLane_outside hout l)

/-- Settles O12: each lane operation is a register instruction of a whole set, or one floating-point issue of it, with a value over the active
lanes. -/
theorem laneOperations : Obligations.LaneOperations := by
  unfold Obligations.LaneOperations
  refine fun s d a b p => ⟨fun h q hq => ?shfl, fun h => ⟨?any, ?all, ?equal⟩, fun hn hd h => ?ballot, fun hd => ?outside,
    fun h => ⟨?upTo, ?below, fun q hq => ?reduce⟩, fun q hq h => ?f32⟩
  case shfl =>
    simp only [List.mem_cons, List.not_mem_nil, or_false] at hq
    rcases hq with rfl | rfl | rfl | rfl <;> exact completes_shfl h
  case any => exact completes_laneOp h (exec_vote_word (by decide) h) fun _ => if_congr (by simp [voteHolds]) rfl rfl
  case all => exact completes_laneOp h (exec_vote_word (by decide) h) fun _ => if_congr (by simp [voteHolds]) rfl rfl
  case equal =>
    exact completes_laneOp h (exec_vote_word (by decide) h) fun _ => if_congr (by rw [voteHolds_equal]; simp only [List.forall_mem_map]) rfl rfl
  case ballot =>
    obtain ⟨t, ht, hp, hr⟩ := completes_laneOp_words h (exec_vote_ballot rfl hd h)
    refine ⟨t, ht, hp, fun k hk l hl j hj => ?_⟩
    rw [hr l hl k hk, BitVec.getLsbD_ofNat, decide_eq_true hj, Bool.true_and, Nat.testBit_div_two_pow, Nat.add_comm j, testBit_ballot _ hn]
  case outside => exact if_pos hd
  case upTo =>
    refine completes_laneOp h (exec_prfx_word (by decide) h) fun l => ?_
    rw [filter_upTo rfl, foldl_add_eq_sum]
  case below =>
    refine completes_laneOp h (exec_prfx_word (by decide) h) fun l => ?_
    rw [filter_below rfl, foldl_add_eq_sum]
  case reduce =>
    have hint : ∀ (k : Nat) (op : Word → Word → Word), k ≤ 7 → (∀ x y, rducInt k x y = op x y) →
        Completes (.rduc d a k) s fun t => s.AllPassed t ∧ s.Result t false d fun _ =>
          (s.issue.lanes.drop 1).foldl (fun x k => op x (s.me.reg k a)) (s.me.reg (s.issue.lanes.headD 0) a) := by
      intro k op hk hop
      refine completes_laneOp h (exec_rduc_word hk h) fun _ => ?_
      simp only [hop]
    simp only [List.mem_cons, List.not_mem_nil, or_false] at hq
    rcases hq with rfl | rfl | rfl | rfl | rfl | rfl | rfl | rfl
    · exact hint 0 _ (by decide) fun _ _ => rfl
    · exact hint 1 _ (by decide) fun x y => if_congr BitVec.sle_iff_toInt_le.symm rfl rfl
    · exact hint 2 _ (by decide) fun x y => if_congr BitVec.sle_iff_toInt_le.symm rfl rfl
    · exact hint 3 _ (by decide) fun x y => if_congr BitVec.ule_iff_toNat_le.symm rfl rfl
    · exact hint 4 _ (by decide) fun x y => if_congr BitVec.ule_iff_toNat_le.symm rfl rfl
    · exact hint 5 _ (by decide) fun _ _ => rfl
    · exact hint 6 _ (by decide) fun _ _ => rfl
    · exact hint 7 _ (by decide) fun _ _ => rfl
  case f32 =>
    have hfree := h.1
    simp only [List.mem_cons, List.not_mem_nil, or_false] at hq
    rcases hq with rfl | rfl | rfl | rfl | rfl
    · exact completes_fpOp (exec_prfx_f32 (by decide) hfree) (fun l => by rw [filter_upTo rfl]) h
    · exact completes_fpOp (exec_prfx_f32 (by decide) hfree) (fun l => by rw [filter_below rfl]) h
    · exact completes_fpOp (exec_rduc_f32 (by decide) hfree) (fun _ => rfl) h
    · exact completes_fpOp (exec_rduc_f32 (by decide) hfree) (fun _ => rfl) h
    · exact completes_fpOp (exec_rduc_f32 (by decide) hfree) (fun _ => rfl) h

end Sys2Proof.Machine
end

section
/-!
SUPPORT. What the register instructions leave unchanged (R19, R163): each is one issue that writes its results to the active lanes.
-/
namespace Sys2Proof.Machine

section
variable {s : State} {u : Bool} {reads writes : List Nat} {d : Nat} {i : Instr} (ht : s.Untraced)
include ht

theorem completes_onlyRegs {f : Group → Nat → List (Nat × Word)} (he : exec i s = laneOp u reads writes s f)
    (hw : ∀ l, ∀ x ∈ f s.me l, x.1 ∈ writes) (h : s.Free u reads writes) :
    Completes i s fun t => s.OnlyGroup t ∧ s.me.OnlyRegs t.me s.issue.lanes writes := by
  rw [Completes, he]
  exact laneOp_frame h ht f hw

/-- The frame of an instruction with one result register. -/
theorem completes_onlyRegs_word {f : Group → Nat → Word} (he : exec i s = laneOp u reads [d] s fun g l => [(d, f g l)])
    (h : s.Free u reads [d]) : Completes i s fun t => s.OnlyGroup t ∧ s.me.OnlyRegs t.me s.issue.lanes [d] :=
  completes_onlyRegs ht he (by simp) h

/-- The frame of an instruction with a pair as its result. -/
theorem completes_onlyRegs_pair {f : Group → Nat → Double}
    (he : exec i s = laneOp u reads [d, d + 1] s fun g l => pairWrites d (f g l)) (h : s.Free u reads [d, d + 1]) :
    Completes i s fun t => s.OnlyGroup t ∧ s.me.OnlyRegs t.me s.issue.lanes [d, d + 1] :=
  completes_onlyRegs ht he (by simp [pairWrites]) h

end

/-- A value for every lane of the set, as a register instruction writes it. -/
theorem State.giveAll_eq_writeLanes (s : State) (u : Bool) (ws : List (Nat × Word)) : s.giveAll ws = s.writeLanes u fun _ _ => ws := rfl

/-- HLEN writes one pair to every lane of the set. -/
theorem exec_hlen_free {s : State} {u : Bool} {d k : Nat} (h : s.Free u [] [d, d + 1]) :
    ∃ n, exec (.hlen u d k) s = laneOp u [] [d, d + 1] s fun _ _ => wordWrites d n 2 := by
  simp only [exec_hlen, execHlen, issueWith_free h, State.giveAll_eq_writeLanes _ u, laneOp_free h]
  exact ⟨_, rfl⟩

theorem completes_hlen_onlyRegs {s : State} {u : Bool} {d k : Nat} (ht : s.Untraced) (h : s.Free u [] [d, d + 1]) :
    Completes (.hlen u d k) s fun t => s.OnlyGroup t ∧ s.me.OnlyRegs t.me s.issue.lanes [d, d + 1] := by
  obtain ⟨n, he⟩ := exec_hlen_free (k := k) h
  exact completes_onlyRegs ht he (by simp [wordWrites]) h

/-- Settles O13: each row is one issue that writes one word or
one pair to each active lane, and `laneOp_frame` frames every such issue. -/
theorem registerFrame : Obligations.RegisterFrame := by
  unfold Obligations.RegisterFrame
  intro s u d a b m i x pos len cf sgn inv ht
  have word {i : Instr} {u : Bool} {reads : List Nat} {f : Group → Nat → Word} :=
    completes_onlyRegs_word ht (i := i) (u := u) (reads := reads) (d := d) (f := f)
  have pair {i : Instr} {reads : List Nat} {f : Group → Nat → Double} :=
    completes_onlyRegs_pair ht (i := i) (u := u) (reads := reads) (d := d) (f := f)
  have vote {m : Nat} (hm : m ≠ 2) (h : s.Free false [] [d]) := word (exec_vote_word (p := i) hm h) h
  have prfx {m : Nat} (hm : m ≤ 1) (h : s.Free false [a] [d]) := word (exec_prfx_word hm h) h
  have rduc {m : Nat} (hm : m ≤ 7) (h : s.Free false [a] [d]) := word (exec_rduc_word hm h) h
  refine ⟨fun p hp => ?sets, fun p hp => ?rows⟩
  case sets =>
    revert p
    simp only [List.forall_mem_cons]
    exact ⟨fun h => word (exec_shfl_free h) h, vote (by decide), vote (by decide), vote (by decide), prfx (by decide), prfx (by decide),
      rduc (by decide), rduc (by decide), rduc (by decide), rduc (by decide), rduc (by decide), rduc (by decide), rduc (by decide),
      rduc (by decide), fun _ hp => nomatch hp⟩
  case rows =>
    revert p
    simp only [List.forall_mem_cons]
    exact ⟨word rfl, word rfl, word rfl, word rfl, word rfl, word rfl, pair rfl, pair rfl, word rfl, word rfl,
      word rfl, word rfl, pair rfl, pair rfl, word rfl, word rfl, word rfl, word rfl, word rfl, word rfl,
      word rfl, word rfl, word rfl, word rfl, word rfl, word rfl, word rfl, word rfl, word rfl, word rfl,
      word rfl, word rfl, word (exec_bfe_reg ..), word rfl, word (exec_bfi_reg ..), word rfl, pair rfl, word rfl, word rfl,
      pair rfl, word rfl, pair rfl, fun h => word (exec_movs_free h i) h, fun h => pair (exec_movsw_free h i) h,
      word rfl, word rfl, word rfl, word rfl, word rfl, completes_hlen_onlyRegs ht, fun _ hp => nomatch hp⟩

end Sys2Proof.Machine
end

section
/-!
SUPPORT. Sparse stores after a filter and after a run of writes, a fold that changes each place once, and the cores of a part through the
end of an issue, which writes groups and trace counters alone.
-/

namespace Sys2Proof.Machine

/-! Sparse stores. -/

/-- A cell after a filter that looks at numbers alone: it stands, or reads 0. -/
theorem Mem.get_filter {w : Nat} (m : Mem w) (p : Nat → Bool) (x : Nat) :
    Mem.get (m.filter fun c => p c.1) x = if p x = true then Mem.get m x else 0 := by
  unfold Mem.get
  induction m with
  | nil => split <;> rfl
  | cons c m ih =>
    obtain ⟨j, v⟩ := c
    by_cases hp : p j = true
    · rw [List.filter_cons_of_pos (by exact hp)]
      by_cases hj : j = x
      · simp [NMap.find, ← hj, hp]
      · simpa [NMap.find, hj] using ih
    · rw [List.filter_cons_of_neg (by exact hp)]
      by_cases hj : j = x
      · rw [← hj, if_neg hp] at ih ⊢
        exact ih
      · simpa [NMap.find, hj] using ih

/-- Neighbouring cells written in rising order. -/
theorem Mem.get_setRange {w : Nat} (m : Mem w) (base : Nat) (v : Nat → BitVec w) (n x : Nat) :
    Mem.get ((List.range n).foldl (fun m i => Mem.set m (base + i) (v i)) m) x =
      if base ≤ x ∧ x < base + n then v (x - base) else Mem.get m x := by
  induction n with
  | zero => simp
  | succ n ih =>
    rw [List.range_succ, List.foldl_append, List.foldl_cons, List.foldl_nil, Mem.get_set]
    split_ifs with hx hin hin
    · rw [hx, Nat.add_sub_cancel_left]
    · omega
    · rw [ih, if_pos (by omega)]
    · rw [ih, if_neg (by omega)]

section
variable {α : Type} {w : Nat} (e : α → Nat) (v : α → BitVec w) (xs : List α) (m : Mem w)

/-- A cell that no write of a list names. -/
theorem Mem.get_setAll_ne {j : Nat} (h : ∀ x ∈ xs, j ≠ e x) :
    Mem.get (xs.foldl (fun m x => Mem.set m (e x) (v x)) m) j = Mem.get m j := by
  induction xs generalizing m with
  | nil => rfl
  | cons x xs ih =>
    rw [List.foldl_cons, ih _ fun y hy => h y (List.mem_cons_of_mem _ hy), Mem.get_set_ne _ _ (h x List.mem_cons_self)]

/-- A cell that a list of writes names, all of which agree on it. -/
theorem Mem.get_setAll_mem {x : α} (hx : x ∈ xs) (h : ∀ y ∈ xs, e y = e x → v y = v x) :
    Mem.get (xs.foldl (fun m x => Mem.set m (e x) (v x)) m) (e x) = v x := by
  induction xs using List.reverseRecOn with
  | nil => cases hx
  | append_singleton xs y ih =>
    rw [List.foldl_append, List.foldl_cons, List.foldl_nil]
    by_cases hy : e y = e x
    · rw [hy, Mem.get_set_self, h y (by simp) hy]
    · rw [Mem.get_set_ne _ _ (Ne.symm hy)]
      refine ih ?_ fun z hz => h z (by simp [hz])
      rcases List.mem_append.mp hx with hx | hx
      · exact hx
      · exact absurd (congrArg e (List.mem_singleton.mp hx)).symm hy

end

/-! Folds over places. -/

section
variable {σ α β : Type} {f : σ → α → σ} {read : σ → α → β}

/-- A place that a fold does not come to keeps its value. -/
theorem read_foldl_of_not_mem (hne : ∀ s a b, b ≠ a → read (f s a) b = read s b) {ls : List α} {a : α} (ha : a ∉ ls) (s : σ) :
    read (ls.foldl f s) a = read s a := by
  induction ls generalizing s with
  | nil => rfl
  | cons b ls ih =>
    rw [List.mem_cons, not_or] at ha
    rw [List.foldl_cons, ih ha.2, hne _ _ _ ha.1]

/-- A place that a fold comes to once is changed as its own step changes it. -/
theorem read_foldl_of_mem {g : α → β → β} (hself : ∀ s a, read (f s a) a = g a (read s a))
    (hne : ∀ s a b, b ≠ a → read (f s a) b = read s b) {ls : List α} (hn : ls.Nodup) {a : α} (ha : a ∈ ls) (s : σ) :
    read (ls.foldl f s) a = g a (read s a) := by
  induction ls generalizing s with
  | nil => cases ha
  | cons b ls ih =>
    obtain ⟨hb, hn⟩ := List.nodup_cons.mp hn
    rw [List.foldl_cons]
    rcases List.mem_cons.mp ha with rfl | ha
    · rw [read_foldl_of_not_mem hne hb, hself]
    · rw [ih hn ha, hne _ _ _ (ne_of_mem_of_not_mem ha hb)]

end

/-! Cores through the end of an issue. -/

/-- Each core of `t` is as in `s` but for its groups and the counts of its instruction trace. -/
def State.SameCores (s t : State) : Prop :=
  ∀ c, { t.core c with ct := (s.core c).ct, groups := (s.core c).groups, traceLost := (s.core c).traceLost,
                       traceSync := (s.core c).traceSync } = s.core c

theorem State.SameCores.trans {s t u : State} (h1 : s.SameCores t) (h2 : t.SameCores u) : s.SameCores u := by
  intro c
  rw [← h1 c, ← h2 c]

theorem State.sameCores_of_eq {s t : State} (h : t.cores = s.cores) : s.SameCores t := by
  intro c
  unfold State.core
  rw [h]

theorem State.SameCores.modCore {s t : State} (h : s.SameCores t) (d : Nat) {f : Core → Core}
    (hf : ∀ k, { f k with ct := k.ct, groups := k.groups, traceLost := k.traceLost, traceSync := k.traceSync } = k) :
    s.SameCores (t.modCore d f) := by
  refine h.trans fun c => ?_
  by_cases e : c = d
  · subst e
    rw [State.core_modCore_self]
    exact hf _
  · rw [State.core_modCore_ne _ _ e]

theorem State.SameCores.ite {s t u : State} {p : Prop} [Decidable p] (ht : s.SameCores t) (hu : s.SameCores u) :
    s.SameCores (if p then t else u) := by
  split
  · exact ht
  · exact hu

theorem State.sameCores_modGroup (s : State) (c : Nat) (a : Agent) (f : Group → Group) : s.SameCores (s.modGroup c a f) :=
  fun d => congrArg (fun k : Core => { k with traceLost := (s.core d).traceLost, traceSync := (s.core d).traceSync })
    (State.core_modGroup_rest s c a f d)

theorem State.SameCores.trace {s t : State} (h : s.SameCores t) (c v : Nat) (p : List Nat) : s.SameCores (t.trace c v p) := by
  have put {u : State} (hu : s.SameCores u) (bs : List Nat) : s.SameCores (u.tracePut c bs) := hu
  have lost {u : State} (hu : s.SameCores u) (n : Nat) : s.SameCores (u.modCore c ({ · with traceLost := n })) :=
    hu.modCore c fun _ => rfl
  have counts {u : State} (hu : s.SameCores u) (n m : Nat) :
      s.SameCores (u.modCore c ({ · with traceLost := n, traceSync := m })) := hu.modCore c fun _ => rfl
  refine .ite h (.ite (lost h _) (.ite (counts (put h _) _ _) (.ite (lost (counts (put h _) _ _) _) ?_)))
  exact put (counts (put h _) _ _) _

theorem State.sameCores_countIssue (s : State) : s.SameCores s.countIssue := by
  unfold State.countIssue State.traceIssue
  split
  · refine State.SameCores.trans ?_ (State.sameCores_modGroup _ _ _ _)
    split
    · exact (State.sameCores_of_eq rfl).trace _ _ _
    · exact State.sameCores_of_eq rfl
  · exact State.sameCores_of_eq rfl

theorem State.sameCores_retire (s : State) : s.SameCores s.retire :=
  s.sameCores_countIssue.trans (State.sameCores_modGroup _ _ _ _)

theorem State.sameCores_hold (s : State) (ls : List Nat) (why : Why) : s.SameCores (s.hold ls why) :=
  s.sameCores_countIssue.trans (State.sameCores_modGroup _ _ _ _)

end Sys2Proof.Machine
end

section
/-!
SUPPORT. Operand records, accumulator moves, thresholds and counters (R242, R245, R251 to R258): the frame of an engine operation, what one
leaves of cores and registers, and the instructions.
-/

namespace Sys2Proof.Machine

/-! The frame of an engine operation. -/

theorem fieldWith_pass {i : Instr} {s : State} (h : lowestFailure (s.fieldChecks i) = none) (k : State → Out) : fieldWith i s k = k s := by
  rw [fieldWith, h]

/-- An access of a whole set that nothing holds or stops runs its body. -/
theorem accessSet_free {s : State} {reads writes : List Nat} (h : s.AccessFree false reads writes) (k : State → Out) :
    accessSet reads writes s k = k s := by
  obtain ⟨hfree, hflush⟩ := h
  have hwhole : s.flushLanes true = [] := by
    simp only [State.flushLanes, Bool.false_and, Bool.false_eq_true, if_false] at hflush
    simp [State.flushLanes, hflush]
  rw [accessSet, issueSet_free hfree, if_pos hwhole]

theorem engineWith_free {s : State} {t n : Nat} (h : s.EngineFree t n) (k : State → Out) : engineWith t n s k = k s := by
  obtain ⟨hroom, hclaim⟩ := h
  rw [engineWith, if_neg (Nat.not_le.mpr hroom), if_neg (by simp [hclaim])]

/-! What an engine operation leaves. -/

theorem State.sameCores_engineOp (s : State) (flag : Option Nat) : s.SameCores (s.engineOp flag) :=
  State.SameCores.trans (t := s.addOpDue s.issue.lanes (.mtx s.mySlot?) flag none .matrixOpEnd) (State.sameCores_of_eq rfl)
    (State.sameCores_retire _)

theorem State.engineOp_passed {s t : State} (hi : t.issue = s.issue) (hl : t.me.lanes.length = s.me.lanes.length)
    (ht : t.me?.isSome = true) (flag : Option Nat) : s.AllPassed (t.engineOp flag) :=
  State.retire_passed (t := t.addOpDue t.issue.lanes (.mtx t.mySlot?) flag none .matrixOpEnd) hi hl ht

theorem State.engineOp_reg {s : State} (h : s.me?.isSome = true) (flag : Option Nat) (l r : Nat) :
    (s.engineOp flag).me.reg l r = s.me.reg l r :=
  State.retire_reg (s := s.addOpDue s.issue.lanes (.mtx s.mySlot?) flag none .matrixOpEnd) h l r

/-- A reading of a core that looks at neither its groups nor its trace counts. -/
def Core.Local {α : Type} (p : Core → α) : Prop :=
  ∀ (k : Core) (ct : Group) (gs : NMap Group) (m n : Nat), p { k with ct := ct, groups := gs, traceLost := m, traceSync := n } = p k

theorem State.SameCores.read {s t : State} (h : s.SameCores t) {α : Type} {p : Core → α} (hp : Core.Local p) (c : Nat) :
    p (t.core c) = p (s.core c) :=
  (hp _ _ _ _ _).symm.trans (congrArg p (h c))

/-- A change of a core that leaves its groups alone. -/
def Core.KeepsGroups (f : Core → Core) : Prop := ∀ k, (f k).ct = k.ct ∧ (f k).groups = k.groups

theorem Core.KeepsGroups.foldl {α : Type} {f : Core → α → Core} (h : ∀ a, Core.KeepsGroups (f · a)) (ls : List α) :
    Core.KeepsGroups fun k => ls.foldl f k := by
  induction ls with
  | nil => exact fun _ => ⟨rfl, rfl⟩
  | cons a ls ih => exact fun k => ⟨(ih _).1.trans (h a k).1, (ih _).2.trans (h a k).2⟩

theorem State.me?_modCore {s : State} {f : Core → Core} (hf : Core.KeepsGroups f) (c : Nat) : (s.modCore c f).me? = s.me? :=
  State.group?_modCore s c f (fun k => (hf k).1) (fun k => (hf k).2) _ _

theorem State.me_modCore {s : State} {f : Core → Core} (hf : Core.KeepsGroups f) (c : Nat) : (s.modCore c f).me = s.me := by
  rw [State.me, State.me?_modCore hf, State.me]

section
variable {s : State} {i : Instr} {flag : Option Nat}

/-- An engine operation that changes its core alone: its lanes stand at the next word, and every store of the core reads as changed. -/
theorem completes_engine_core {f : Core → Core} (he : exec i s = .next ((s.modCore s.issue.core f).engineOp flag))
    (hm : s.me?.isSome = true) (hf : Core.KeepsGroups f) : Completes i s fun u => s.AllPassed u ∧
      ∀ {α : Type} {p : Core → α}, Core.Local p → p (u.core s.issue.core) = p (f (s.core s.issue.core)) := by
  refine ⟨_, he, State.engineOp_passed (s := s) (t := s.modCore s.issue.core f) rfl ?_ ?_ _, fun hp => ?_⟩
  · rw [State.me_modCore hf]
  · rwa [State.me?_modCore hf]
  · rw [(State.sameCores_engineOp _ _).read hp, State.core_modCore_self]

/-- Each active lane writes registers of its own. -/
def State.giveEach (s : State) (w : Nat → List (Nat × Word)) : State :=
  s.modMe fun g => s.issue.lanes.foldl (fun h l => h.setRegs l (w l)) g

/-- An engine operation that writes registers alone. -/
theorem completes_engine_regs {w : Nat → List (Nat × Word)} (he : exec i s = .next ((s.giveEach w).engineOp flag))
    (hm : s.me?.isSome = true) (hw : ∀ l ∈ s.issue.lanes, ∀ x ∈ w l, x.1 < 128) : Completes i s fun u => s.AllPassed u ∧
      ∀ l ∈ s.issue.lanes, ∀ q < 128, u.me.reg l q = lastWrite (w l) q (s.me.reg l q) := by
  have hm' : (s.giveEach w).me?.isSome = true := by
    rw [State.giveEach, State.me?_modMe]
    simpa using hm
  have hme : (s.giveEach w).me = s.issue.lanes.foldl (fun h l => h.setRegs l (w l)) s.me := State.me_modMe _ _ hm
  refine ⟨_, he, State.engineOp_passed (s := s) (t := s.giveEach w) rfl ?_ hm' _, fun l hl q hq => ?_⟩
  · obtain ⟨rs, ps, h⟩ := Group.setLanes_eq s.me s.issue.lanes w
    rw [hme, h]
  · rw [State.engineOp_reg hm', hme, Group.reg_setLanes, if_pos hl]
    intro k hk x hx
    have := hw k hk x hx
    omega

end

/-- Neighbouring registers written in rising order. -/
theorem lastWrite_range (d : Nat) (f : Nat → Word) {n k : Nat} (hk : k < n) (old : Word) :
    lastWrite ((List.range n).map fun j => (d + j, f j)) (d + k) old = f k := by
  induction n with
  | zero => cases hk
  | succ n ih =>
    rw [List.range_succ, List.map_append, List.map_singleton, lastWrite_concat]
    split_ifs with h
    · rw [Nat.add_left_cancel h]
    · exact ih (by omega)

theorem regRange_writes {d n : Nat} {f : Nat → Word} {x : Nat × Word} (h : x ∈ (List.range n).map fun j => (d + j, f j)) :
    x.1 ∈ regRange d n := by
  obtain ⟨j, hj, rfl⟩ := List.mem_map.mp h
  exact List.mem_map.mpr ⟨j, hj, rfl⟩

/-! Records (R245). -/

section
variable {s : State} {d a : Nat}

/-- The core with operand record `o` written. -/
def Core.setRecord (k : Core) (o : Nat) (v : Nat → Word) : Core :=
  { k with recs := (List.range 16).foldl (fun m i => Mem.set m (16 * o + i) (v i)) k.recs }

theorem completes_orset (h : s.AccessFree true (regRange a 16) []) (hd : d < s.records.2) :
    Completes (.orset d a) s fun t => s.AllPassed t ∧ (∀ l r, t.me.reg l r = s.me.reg l r) ∧
      ∀ x, Mem.get (t.core s.issue.core).recs x = if 16 * (s.records.1 + d) ≤ x ∧ x < 16 * (s.records.1 + d) + 16
        then s.me.reg (s.issue.lanes.headD 0) (a + (x - 16 * (s.records.1 + d))) else Mem.get (s.core s.issue.core).recs x := by
  have hm := h.1.1.1
  let f : Core → Core := (·.setRecord (s.records.1 + d) fun i => s.me.reg (s.issue.lanes.headD 0) (a + i))
  have hf : Core.KeepsGroups f := fun _ => ⟨rfl, rfl⟩
  have hm' : (s.modCore s.issue.core f).me?.isSome = true := by rwa [State.me?_modCore hf]
  have he : exec (.orset d a) s = .next (s.modCore s.issue.core f).retire := by
    rw [exec_orset, execOrset, accessWith_free h, State.recordFault, if_pos hd]
    rfl
  refine ⟨_, he, State.retire_passed rfl (by rw [State.me_modCore hf]) hm', fun l r => ?_, fun x => ?_⟩
  · rw [State.retire_reg hm', State.me_modCore hf]
  · rw [(State.sameCores_retire _).read (p := fun k => Mem.get k.recs x) (fun _ _ _ _ _ => rfl), State.core_modCore_self]
    exact Mem.get_setRange _ _ _ _ _

theorem exec_orset_outside (h : s.AccessFree true (regRange a 16) []) (hd : s.records.2 ≤ d) :
    exec (.orset d a) s = .next (s.raise 0x14 (3 + 0x1FF * 65536) d 0) := by
  rw [exec_orset, execOrset, accessWith_free h, State.recordFault, if_neg (Nat.not_lt.mpr hd)]

theorem completes_orget (h : s.AccessFree false [] (regRange d 16)) (ha : a < s.records.2) :
    Completes (.orget d a) s fun t => s.AllPassed t ∧ ∀ l ∈ s.issue.lanes, ∀ j < 16,
      t.me.reg l (d + j) = Mem.get (s.core s.issue.core).recs (16 * (s.records.1 + a) + j) := by
  have hm := h.1.1.1
  refine ⟨(s.writeLanes false fun _ _ => (List.range 16).map fun i =>
    (d + i, Mem.get (s.core s.issue.core).recs (16 * (s.records.1 + a) + i))).retire, ?_, State.writeLanes_passed hm _ _, fun l hl j hj => ?_⟩
  · rw [exec_orget, execOrget, accessSet_free h, State.recordFault, if_pos ha]
    rfl
  · rw [State.writeLanes_reg hm, if_pos hl, lastWrite_range _ _ hj]
    intro _ _ x hx
    have := mem_regRange.mp (regRange_writes hx)
    omega

theorem exec_orget_outside (h : s.AccessFree false [] (regRange d 16)) (ha : s.records.2 ≤ a) :
    exec (.orget d a) s = .next (s.raise 0x14 (3 + 0x1FF * 65536) a 0) := by
  rw [exec_orget, execOrget, accessSet_free h, State.recordFault, if_neg (Nat.not_lt.mpr ha)]

end

/-! Accumulator moves (R254, R255). -/

section
variable {s : State} {d q t row0 col0 nreg : Nat}

theorem completes_accz (hc : lowestFailure (s.fieldChecks (.accz d q t)) = none) (h : s.AccessFree false [] [])
    (he : s.EngineFree (s.acsTiles.1 + t) (d + 1)) : Completes (.accz d q t) s fun u => s.AllPassed u ∧
      ∀ x, Mem.get (u.core s.issue.core).acs x =
        if 8192 * (s.acsTiles.1 + t) ≤ x ∧ x < 8192 * (s.acsTiles.1 + t + d + 1) ∧ bit q (x / 64 % 128 / 32) = true
        then 0 else Mem.get (s.core s.issue.core).acs x := by
  have hexec := exec_accz d q t s
  rw [execAccz, fieldWith_pass hc, accessSet_free h, engineWith_free he] at hexec
  obtain ⟨u, hu, hp, hcore⟩ := completes_engine_core hexec h.1.1.1 fun _ => ⟨rfl, rfl⟩
  refine ⟨u, hu, hp, fun x => (hcore (p := fun k => Mem.get k.acs x) fun _ _ _ _ _ => rfl).trans ?_⟩
  refine (Mem.get_filter _ (fun n => !(decide (8192 * (s.acsTiles.1 + t) ≤ n) && decide (n < 8192 * (s.acsTiles.1 + t + d + 1)) &&
    bit q (n / 64 % 128 / 32))) x).trans ?_
  simp only [Bool.not_eq_true', ← Bool.not_eq_true, Bool.and_eq_true, decide_eq_true_eq, and_assoc, ite_not]

/-- Elements of one tile and a row of 64 columns have numbers of their own. -/
theorem acsElem_inj {tile r r' j j' : Nat} (hj : j < 64) (hj' : j' < 64) (h : acsElem tile r j = acsElem tile r' j') : r = r' ∧ j = j' := by
  unfold acsElem at h
  omega

theorem completes_accrd (hc : lowestFailure (s.fieldChecks (.accrd d t row0 col0 nreg)) = none)
    (h : s.AccessFree false [] (regRange d (nreg + 1))) (he : s.EngineFree (s.acsTiles.1 + t) 1)
    (hpoison : (s.core s.issue.core).poisonAcs = []) : Completes (.accrd d t row0 col0 nreg) s fun u => s.AllPassed u ∧
      ∀ l ∈ s.issue.lanes, ∀ j ≤ nreg,
        u.me.reg l (d + j) = Mem.get (s.core s.issue.core).acs (acsElem (s.acsTiles.1 + t) (row0 + l) (col0 + j)) := by
  have hexec := exec_accrd d t row0 col0 nreg s
  rw [execAccrd, fieldWith_pass hc, accessSet_free h, engineWith_free he] at hexec
  simp only [hpoison, if_true, List.contains_nil, Bool.false_eq_true, if_false] at hexec
  have hlt {r : Nat} (hr : r ∈ regRange d (nreg + 1)) : r < 128 := (h.1.2.1 r hr).2
  obtain ⟨u, hu, hp, hreg⟩ := completes_engine_regs hexec h.1.1.1 fun _ _ x hx => hlt (regRange_writes hx)
  refine ⟨u, hu, hp, fun l hl j hj => ?_⟩
  rw [hreg l hl _ (hlt (mem_regRange.mpr ⟨by omega, by omega⟩)), lastWrite_range _ _ (by omega)]

/-- Element writes write the accumulator store. -/
theorem Core.acs_setAll {α : Type} (e : α → Nat) (v : α → Word) (xs : List α) (k : Core) :
    (xs.foldl (fun q x => q.setAcs (e x) (v x)) k).acs = xs.foldl (fun m x => Mem.set m (e x) (v x)) k.acs := by
  induction xs generalizing k with
  | nil => rfl
  | cons x xs ih => exact ih _

theorem completes_accwr (hc : lowestFailure (s.fieldChecks (.accwr d t row0 col0 nreg)) = none)
    (h : s.AccessFree false (regRange d (nreg + 1)) []) (he : s.EngineFree (s.acsTiles.1 + t) 1) (hcol : col0 + nreg < 64) :
    Completes (.accwr d t row0 col0 nreg) s fun u => s.AllPassed u ∧
      (∀ l ∈ s.issue.lanes, ∀ j ≤ nreg,
        Mem.get (u.core s.issue.core).acs (acsElem (s.acsTiles.1 + t) (row0 + l) (col0 + j)) = s.me.reg l (d + j)) ∧
      ∀ x, (∀ l ∈ s.issue.lanes, ∀ j ≤ nreg, x ≠ acsElem (s.acsTiles.1 + t) (row0 + l) (col0 + j)) →
        Mem.get (u.core s.issue.core).acs x = Mem.get (s.core s.issue.core).acs x := by
  have hexec := exec_accwr d t row0 col0 nreg s
  rw [execAccwr, fieldWith_pass hc, accessSet_free h, engineWith_free he] at hexec
  obtain ⟨u, hu, hp, hcore⟩ := completes_engine_core hexec h.1.1.1 <| by
    refine .foldl (fun l => .foldl (fun j => ?_) _) _
    exact fun _ => ⟨rfl, rfl⟩
  let e : Nat × Nat → Nat := fun p => acsElem (s.acsTiles.1 + t) (row0 + p.1) (col0 + p.2)
  let v : Nat × Nat → Word := fun p => s.me.reg p.1 (d + p.2)
  have hacs : (u.core s.issue.core).acs =
      (s.issue.lanes.product (List.range (nreg + 1))).foldl (fun m x => Mem.set m (e x) (v x)) (s.core s.issue.core).acs := by
    rw [hcore (p := Core.acs) fun _ _ _ _ _ => rfl, ← Core.acs_setAll]
    simp only [List.product, List.foldl_flatMap, List.foldl_map, e, v]
  refine ⟨u, hu, hp, fun l hl j hj => ?_, fun x hx => ?_⟩
  · rw [hacs]
    refine Mem.get_setAll_mem e v _ _ (x := (l, j)) (List.pair_mem_product.mpr ⟨hl, List.mem_range.mpr (by omega)⟩) fun y hy hxy => ?_
    obtain ⟨-, hy⟩ := List.mem_product.mp hy
    have := List.mem_range.mp hy
    obtain ⟨h1, h2⟩ := acsElem_inj (by omega) (by omega) hxy
    simp only [v, Nat.add_left_cancel h1, Nat.add_left_cancel h2]
  · rw [hacs]
    refine Mem.get_setAll_ne e v _ _ fun y hy => ?_
    obtain ⟨h1, h2⟩ := List.mem_product.mp hy
    exact hx y.1 h1 y.2 (by have := List.mem_range.mp h2; omega)

end

/-! Thresholds and abandoned elements (R252, R256). -/

theorem Core.threshold_setThreshold (k : Core) (p r r' : Nat) (v : Word) :
    (k.setThreshold p r v).threshold p r' = if r' = r then v else k.threshold p r' := by
  unfold Core.threshold Core.setThreshold
  dsimp only
  rw [Mem.get_set]
  split_ifs with h1 h2 h2
  · rw [BitVec.xor_assoc, BitVec.xor_self, BitVec.xor_zero]
  · omega
  · omega
  · rfl

theorem Core.steps_setSteps (k : Core) (p r r' n : Nat) :
    (k.setSteps p r n).steps p r' = if r' = r then n % 65536 else k.steps p r' := by
  unfold Core.steps Core.setSteps
  dsimp only
  rw [Mem.get_set]
  split_ifs with h1 h2 h2
  · rfl
  · omega
  · omega
  · rfl

/-- A threshold after an offer: the greater of two numbers; NaN offers nothing and gives way to nothing. -/
def offered (v old : Word) : Word :=
  let x := Fmt.f32.decode false v.toNat
  let t := Fmt.f32.decode false old.toNat
  if x.isNan = false ∧ t.isNan = false ∧ t.lt x = true then v else old

theorem Core.threshold_offer (k : Core) (p r r' : Nat) (v : Word) :
    (k.offer p r v).threshold p r' = if r' = r then offered v (k.threshold p r) else k.threshold p r' := by
  unfold Core.offer offered
  dsimp only
  simp only [Bool.and_eq_true, Bool.not_eq_true', and_assoc]
  split_ifs with h1 h2 h2
  · rw [Core.threshold_setThreshold, if_pos h2]
  · rw [Core.threshold_setThreshold, if_neg h2]
  · rw [h2]
  · rfl

/-- Bit `j` of the mask is the mark of element `j`. -/
theorem Core.testBit_abandoned (k : Core) (tile r : Nat) {j : Nat} (hj : j < 64) :
    (k.abandoned tile r).testBit j = (Mem.get k.acs (acsElem tile r j)).msb := by
  have hsum : k.abandoned tile r = ∑ j ∈ Finset.range 64 with (Mem.get k.acs (acsElem tile r j)).msb = true, 2 ^ j := by
    rw [Finset.sum_filter, ← List.toFinset_range, List.sum_toFinset _ List.nodup_range, Core.abandoned]
  rw [hsum, Bool.eq_iff_iff, ← Nat.mem_bitIndices, ← List.mem_toFinset, Finset.toFinset_bitIndices_sum_two_pow]
  simp [hj]

section
variable {s : State} {d a b m : Nat}

theorem completes_mthr_set (hc : lowestFailure (s.fieldChecks (.mthr d a b 1)) = none) (h : s.AccessFree false [a, a + 1] [])
    (he : s.EngineFree (s.acsTiles.1 + 2 * d) 2) (hn : s.issue.lanes.Nodup) :
    Completes (.mthr d a b 1) s fun u => s.AllPassed u ∧ ∀ l ∈ s.issue.lanes,
      (u.core s.issue.core).threshold ((s.acsTiles.1 + 2 * d) / 2) (b + l) = s.me.reg l a ∧
      (u.core s.issue.core).steps ((s.acsTiles.1 + 2 * d) / 2) (b + l) = (s.me.reg l (a + 1)).toNat % 65536 := by
  have hexec := exec_mthr d a b 1 s
  rw [execMthr, fieldWith_pass hc, if_pos rfl, accessSet_free h, engineWith_free he] at hexec
  simp only [if_true] at hexec
  obtain ⟨u, hu, hp, hcore⟩ := completes_engine_core hexec h.1.1.1 <| by
    refine .foldl (fun l => ?_) _
    exact fun _ => ⟨rfl, rfl⟩
  refine ⟨u, hu, hp, fun l hl => ⟨?_, ?_⟩⟩
  · rw [hcore (p := fun k => k.threshold _ (b + l)) fun _ _ _ _ _ => rfl]
    refine read_foldl_of_mem (read := fun (k : Core) l => k.threshold _ (b + l)) (g := fun l _ => s.me.reg l a) (fun k l => ?_) (fun k l r hr => ?_)
      hn hl _
    · exact (Core.threshold_setThreshold ..).trans (if_pos rfl)
    · exact (Core.threshold_setThreshold ..).trans (if_neg (by omega))
  · rw [hcore (p := fun k => k.steps _ (b + l)) fun _ _ _ _ _ => rfl]
    refine read_foldl_of_mem (read := fun (k : Core) l => k.steps _ (b + l)) (g := fun l _ => (s.me.reg l (a + 1)).toNat % 65536) (fun k l => ?_)
      (fun k l r hr => ?_) hn hl _
    · exact (Core.steps_setSteps ..).trans (if_pos rfl)
    · exact (Core.steps_setSteps ..).trans (if_neg (by omega))

theorem completes_mthr_offer (hm : m ≠ 1) (hc : lowestFailure (s.fieldChecks (.mthr d a b m)) = none) (h : s.AccessFree false [a] [])
    (he : s.EngineFree (s.acsTiles.1 + 2 * d) 2) (hn : s.issue.lanes.Nodup) :
    Completes (.mthr d a b m) s fun u => s.AllPassed u ∧ ∀ l ∈ s.issue.lanes,
      (u.core s.issue.core).threshold ((s.acsTiles.1 + 2 * d) / 2) (b + l) =
        offered (s.me.reg l a) ((s.core s.issue.core).threshold ((s.acsTiles.1 + 2 * d) / 2) (b + l)) := by
  have hexec := exec_mthr d a b m s
  rw [execMthr, fieldWith_pass hc, if_neg hm, accessSet_free h, engineWith_free he] at hexec
  simp only [if_neg hm] at hexec
  have keeps (l : Nat) : Core.KeepsGroups fun q => q.offer ((s.acsTiles.1 + 2 * d) / 2) (b + l) (s.me.reg l a) := fun k => by
    unfold Core.offer
    dsimp only
    split <;> exact ⟨rfl, rfl⟩
  obtain ⟨u, hu, hp, hcore⟩ := completes_engine_core hexec h.1.1.1 (.foldl keeps s.issue.lanes)
  refine ⟨u, hu, hp, fun l hl => ?_⟩
  rw [hcore (p := fun k => k.threshold _ (b + l)) fun _ _ _ _ _ => rfl]
  refine read_foldl_of_mem (read := fun (k : Core) l => k.threshold _ (b + l)) (g := fun l => offered (s.me.reg l a)) (fun k l => ?_)
    (fun k l r hr => ?_) hn hl _
  · exact (Core.threshold_offer ..).trans (if_pos rfl)
  · exact (Core.threshold_offer ..).trans (if_neg (by omega))

theorem completes_mvst_threshold (hc : lowestFailure (s.fieldChecks (.mvst d a b 1)) = none) (h : s.AccessFree false [] [d, d + 1])
    (he : s.EngineFree (s.acsTiles.1 + 2 * a) 2) : Completes (.mvst d a b 1) s fun u => s.AllPassed u ∧
      (s.Result u false d fun l => (s.core s.issue.core).threshold ((s.acsTiles.1 + 2 * a) / 2) (b + l)) ∧
      s.Result u false (d + 1) fun l => BitVec.ofNat 32 ((s.core s.issue.core).steps ((s.acsTiles.1 + 2 * a) / 2) (b + l)) := by
  have hexec := exec_mvst d a b 1 s
  rw [execMvst, fieldWith_pass hc, accessSet_free h, engineWith_free he] at hexec
  simp only [if_true] at hexec
  have hlt {r : Nat} (hr : r ∈ [d, d + 1]) : r < 128 := (h.1.2.1 r hr).2
  obtain ⟨u, hu, hp, hreg⟩ := completes_engine_regs hexec h.1.1.1 fun _ _ x hx => hlt (List.mem_map_of_mem (f := Prod.fst) hx)
  refine ⟨u, hu, hp, fun l hl => ?_, fun l hl => ?_⟩
  · rw [hreg l hl d (hlt (by simp))]
    simp [lastWrite, srcLane]
  · rw [hreg l hl (d + 1) (hlt (by simp))]
    simp [lastWrite, srcLane]

theorem completes_mvst_abandoned (hm : m ≠ 1) (hc : lowestFailure (s.fieldChecks (.mvst d a b m)) = none)
    (h : s.AccessFree false [] [d, d + 1]) (he : s.EngineFree (s.acsTiles.1 + 2 * a) 2) :
    Completes (.mvst d a b m) s fun u => s.AllPassed u ∧ ∀ k < 2, s.BitsResult u false (d + k) fun l j =>
      (Mem.get (s.core s.issue.core).acs (acsElem (s.acsTiles.1 + 2 * a + 1) (b + l) (32 * k + j))).msb := by
  have hexec := exec_mvst d a b m s
  rw [execMvst, fieldWith_pass hc, accessSet_free h, engineWith_free he] at hexec
  simp only [if_neg hm] at hexec
  have hd : d + 1 < 128 := (h.1.2.1 (d + 1) (by simp)).2
  obtain ⟨u, hu, hp, hreg⟩ := completes_engine_regs hexec h.1.1.1 fun _ _ x hx => by have := wordWrites_mem hx; omega
  refine ⟨u, hu, hp, fun k hk l hl j hj => ?_⟩
  rw [hreg l hl (d + k) (by omega), lastWrite_wordWrites _ _ _ _ _ hk, BitVec.getLsbD_ofNat, Nat.testBit_div_two_pow,
    Nat.add_comm j, Core.testBit_abandoned _ _ _ (by omega)]
  simp [hj, srcLane]

end

/-! Counters and MSYNC (R257, R258). -/

theorem State.retireWait_eq_settle (s : State) (w : Wait) : s.retireWait w = s.settle (s.issue.lanes.map (·, .wait w)) :=
  (State.settle_const s s.issue.lanes (.wait w)).symm

section
variable {s : State} {d m : Nat}

theorem completes_mstat_team {x : Team} (hx : s.myTeam? = some x) (h : s.Free false [] [d, d + 1]) :
    Completes (.mstat d m) s fun u => s.AllPassed u ∧ s.PairResult u false d fun _ => Mem.get x.stats m := by
  obtain ⟨u, hu, hp, hr⟩ := laneOp_pair h fun _ _ => Mem.get x.stats m
  refine ⟨u, ?_, hp, hr⟩
  rw [exec_mstat, execMstat, issueWith_free h, hx, ← hu, laneOp_free h]
  rfl

theorem completes_mstat_free (hx : s.myTeam? = none) (h : s.Free false [] [d, d + 1]) :
    Completes (.mstat d m) s fun u => s.AllPassed u ∧ (s.Result u false d fun _ => Config.freeWord s.freeCtr) ∧
      s.Result u false (d + 1) fun _ => Config.freeWord (s.freeCtr + 1) := by
  let t : State := { s with freeCtr := s.freeCtr + 1 + 1 }
  let ws : List (Nat × Word) := [(d, Config.freeWord s.freeCtr), (d + 1, Config.freeWord (s.freeCtr + 1))]
  have hm : t.me?.isSome = true := h.1.1
  have hreg (l q : Nat) (hl : l ∈ s.issue.lanes) (hq : d ≤ q ∧ q ≤ d + 1) :
      (t.writeLanes false fun _ _ => ws).retire.me.reg l q = lastWrite ws q (s.me.reg l q) := by
    refine (State.writeLanes_reg hm false (fun _ _ => ws) l q ?_).trans (if_pos hl)
    simp only [ws, List.mem_cons, List.not_mem_nil, or_false, forall_eq_or_imp, forall_eq]
    omega
  refine ⟨(t.writeLanes false fun _ _ => ws).retire, ?_, State.writeLanes_passed hm false fun _ _ => ws, fun l hl => ?_, fun l hl => ?_⟩
  · rw [exec_mstat, execMstat, issueWith_free h, hx]
    rfl
  · simp [hreg l d hl (by omega), lastWrite, ws]
  · simp [hreg l (d + 1) hl (by omega), lastWrite, ws]

theorem exec_msync_idle (h : s.Free false [] []) (hi : s.msyncIds (m == 1) = []) : exec (.msync m) s = .next s.retire := by
  rw [exec_msync, execMsync, issueWith_free h, hi]

theorem completes_msync_waits (h : s.Free false [] []) (hi : s.msyncIds (m == 1) ≠ []) :
    Completes (.msync m) s fun u => s.AllPassed u ∧
      ∀ l ∈ s.issue.lanes, l < s.me.lanes.length → (u.me.lane l).wait = .op s.opSeq .msync := by
  let t := s.addOp s.issue.lanes (.msync (s.msyncIds (m == 1))) none none
  have hm : t.me?.isSome = true := h.1.1
  refine ⟨t.settle (s.issue.lanes.map (·, .wait (.op s.opSeq .msync))), ?_, ?_, fun l hl hn => ?_⟩
  · rw [exec_msync, execMsync, issueWith_free h]
    split
    · contradiction
    · exact congrArg _ (State.retireWait_eq_settle t _)
  · exact State.settle_passed (t := t) rfl rfl hm _ fun _ hw => nomatch hw
  · exact State.settle_wait hm s.issue.lanes _ hl hn

end

/-- Settles O27: ORSET and ORGET write and read one record or are refused, the accumulator moves and thresholds are engine operations on
one core or on registers, and MSTAT and MSYNC are register and waiting issues. -/
theorem recordsAndAccumulators : Obligations.RecordsAndAccumulators := by
  unfold Obligations.RecordsAndAccumulators
  refine ⟨fun s d a => ⟨fun h => ⟨completes_orset h, exec_orset_outside h⟩, fun h => ⟨completes_orget h, exec_orget_outside h⟩⟩,
    fun s d a b q t row0 col0 nreg m => ⟨completes_accz, completes_accrd, fun hc h he _ => completes_accwr hc h he, ?mthr, ?mvst,
      fun h => ⟨fun _ hx => completes_mstat_team hx h, fun hx => completes_mstat_free hx h⟩,
      fun h => ⟨exec_msync_idle h, completes_msync_waits h⟩⟩⟩
  case mthr =>
    intro hc h he hn _
    by_cases hm : m = 1
    · subst hm
      obtain ⟨u, hu, hp, hr⟩ := completes_mthr_set hc h he hn
      exact ⟨u, hu, hp, fun l hl => ⟨fun _ => hr l hl, fun h => absurd rfl h⟩⟩
    · rw [if_neg hm] at h
      obtain ⟨u, hu, hp, hr⟩ := completes_mthr_offer hm hc h he hn
      exact ⟨u, hu, hp, fun l hl => ⟨fun h => absurd h hm, fun _ => hr l hl⟩⟩
  case mvst =>
    intro hc h he
    by_cases hm : m = 1
    · subst hm
      obtain ⟨u, hu, hp, hr⟩ := completes_mvst_threshold hc h he
      exact ⟨u, hu, hp, fun _ => hr, fun h => absurd rfl h⟩
    · obtain ⟨u, hu, hp, hr⟩ := completes_mvst_abandoned hm hc h he
      exact ⟨u, hu, hp, fun h => absurd h hm, fun _ => hr⟩

end Sys2Proof.Machine
end

section
/-!
SUPPORT. What a matrix step without a verdict monitor leaves in the accumulator store (R133, R247).
-/

namespace Sys2Proof.Machine

/-- A team's update leaves the parts of every core outside teams as they were. -/
theorem State.read_modTeam (s : State) (c t : Nat) (f : Team → Team) {α : Type} {p : Core → α}
    (hp : ∀ (k : Core) ts, p { k with teams := ts } = p k) (d : Nat) : p ((s.modTeam c t f).core d) = p (s.core d) := by
  unfold State.modTeam
  split
  · by_cases h : d = c
    · subst h
      rw [State.core_modCore_self, hp]
    · rw [State.core_modCore_ne _ _ h]
  · rfl

section
variable {m : MxStep} {k : Core} {x y : List FVal} {i j n : Nat} {thr : Word}

/-- An element of a step without a monitor, with no poison before it: no poison reaches it. -/
theorem MxStep.element_clean (hv : m.isV = false) (hk : k.poisonAcs = []) :
    (m.element k false x y i j thr n).2.2.2 = false := by
  unfold MxStep.element
  simp only [hv, hk, List.contains_nil, Bool.and_false, Bool.false_and, Bool.or_self, Bool.false_eq_true, if_false, Bool.not_false,
    if_true]
  split_ifs <;> rfl

/-- The value of an element of a floating-point step: P or 0 with the scaled dot product added once (R133, R247). -/
theorem MxStep.element_value (hv : m.isV = false) (hk : k.poisonAcs = []) (hint : bit m.rcd 18 = false) :
    (m.element k false x y i j thr n).1 =
      (mxAdd (if m.acc then Mem.get k.acs (acsElem m.tile (recRow m.rcd + i) j) else 0)
        ((sumVal (List.zipWith mxTerm x y)).scale (-(fld m.rcd 24 4 : Int)))).1 := by
  unfold MxStep.element
  simp only [hv, hk, hint, List.contains_nil, Bool.and_false, Bool.false_and, Bool.or_self, Bool.false_or, Bool.false_eq_true, if_false,
    Bool.not_false, if_true]

end

/-- The step counts of a step's rows after it (R234). -/
def MxStep.counts (m : MxStep) (k : Core) : List Nat :=
  (List.range m.g.width).map fun i => min (k.steps (m.tile / 2) (recRow m.rcd + i) + 1) 65535

/-- The elements of a step whose B, in packed words, holds no poison: row, column, and what `MxStep.element` gives. -/
def MxStep.elements (m : MxStep) (k : Core) (words : List Nat) : List (Nat × Nat × Word × Word × Bool × Bool) :=
  (List.range m.g.width).flatMap fun i => (List.range (recN m.rcd)).map fun j =>
    (i, j, m.element k false (m.row i) (m.column words j) i j (k.threshold (m.tile / 2) (recRow m.rcd + i)) (((m.counts k)[i]?).getD 0))

theorem MxStep.mem_elements {m : MxStep} {k : Core} {words : List Nat} {r : Nat × Nat × Word × Word × Bool × Bool} :
    r ∈ m.elements k words ↔ ∃ i < m.g.width, ∃ j < recN m.rcd,
      (i, j, m.element k false (m.row i) (m.column words j) i j (k.threshold (m.tile / 2) (recRow m.rcd + i))
        (((m.counts k)[i]?).getD 0)) = r := by
  simp only [MxStep.elements, List.mem_flatMap, List.mem_map, List.mem_range]

theorem zipIdx_map_range {α : Type} (f : Nat → α) (n : Nat) :
    ((List.range n).map f).zipIdx = (List.range n).map fun j => (f j, j) := by
  apply List.ext_getElem
  · simp
  · intro i h1 h2
    simp

/-- The list that a step goes through, with its columns and their poison paired and numbered. -/
theorem MxStep.elements_eq (m : MxStep) (k : Core) {b : List Nat × List Nat} (hclean : b.2 = []) :
    ((List.range m.g.width).flatMap fun i =>
      ((List.range (recN m.rcd)).map fun j => (m.column b.1 j, (List.range 8).any fun i => b.2.contains (8 * j + i))).zipIdx.map fun c =>
        (i, c.2, m.element k c.1.2 (m.row i) c.1.1 i c.2 (k.threshold (m.tile / 2) (recRow m.rcd + i))
          ((((List.range m.g.width).map fun i => min (k.steps (m.tile / 2) (recRow m.rcd + i) + 1) 65535)[i]?).getD 0))) =
      m.elements k b.1 := by
  have hany : ((List.range 8).any fun _ => false) = false := rfl
  simp only [zipIdx_map_range, List.map_map, hclean, List.contains_nil, hany]
  rfl

/-- A step without a monitor writes its elements, each from the state before the step, and nothing else of the store. -/
theorem State.acs_mxPerform {s : State} {m : MxStep} {b : List Nat × List Nat} (team : Option Nat) (a : Actor) (hv : m.isV = false)
    (hb : m.bs = [b]) (hclean : b.2 = []) (hk : (s.core m.core).poisonAcs = []) :
    ((s.mxPerform m team a).core m.core).acs = (m.elements (s.core m.core) b.1).foldl
      (fun q r => Mem.set q (acsElem m.tile (recRow m.rcd + r.1) r.2.1) r.2.2.1) (s.core m.core).acs := by
  have hnone : (m.elements (s.core m.core) b.1).filter (fun r => r.2.2.2.2.2) = [] := by
    rw [List.filter_eq_nil_iff]
    intro r hr
    obtain ⟨i, -, j, -, rfl⟩ := MxStep.mem_elements.mp hr
    simp [MxStep.element_clean hv hk]
  unfold State.mxPerform
  simp only [hb, List.map_cons, List.map_nil, List.length_singleton, le_refl, if_true, List.getElem?_cons_zero, Option.getD_some,
    MxStep.elements_eq m _ hclean, hnone, hv, Bool.false_and, Bool.false_eq_true, if_false]
  cases team with
  | none =>
    rw [State.core_modCore_self]
    exact Core.acs_setAll _ _ _ _
  | some t =>
    rw [State.read_modTeam _ _ _ _ (p := Core.acs) fun _ _ => rfl, State.core_modCore_self]
    exact Core.acs_setAll _ _ _ _

/-- Settles O29: the elements are written one after another, each place by its own element alone, with the value of `MxStep.element`. -/
theorem matrixElements : Obligations.MatrixElements := by
  unfold Obligations.MatrixElements
  intro s m team a b hv hb hn hrow hk hclean
  dsimp only
  rw [State.acs_mxPerform team a hv hb hclean hk]
  let e : Nat × Nat × Word × Word × Bool × Bool → Nat := fun r => acsElem m.tile (recRow m.rcd + r.1) r.2.1
  have hcol : recN m.rcd ≤ 64 := by
    have : 2 ^ fld m.rcd 8 2 ≤ 2 ^ 2 := Nat.pow_le_pow_right (by omega) hn
    unfold recN
    omega
  refine ⟨fun i hi j hj hint => ?_, fun x hx => ?_⟩
  · have hmem := MxStep.mem_elements (k := s.core m.core) (words := b.1).mpr ⟨i, hi, j, hj, rfl⟩
    refine (Mem.get_setAll_mem e (fun r => r.2.2.1) _ _ hmem fun y hy hxy => ?_).trans (MxStep.element_value hv hk hint)
    obtain ⟨i', -, j', hj', rfl⟩ := MxStep.mem_elements.mp hy
    obtain ⟨hr, rfl⟩ := acsElem_inj (Nat.lt_of_lt_of_le hj' hcol) (Nat.lt_of_lt_of_le hj hcol) hxy
    obtain rfl := Nat.add_left_cancel hr
    rfl
  · refine Mem.get_setAll_ne e (fun r => r.2.2.1) _ _ fun y hy => ?_
    obtain ⟨i, hi, j, hj, rfl⟩ := MxStep.mem_elements.mp hy
    exact hx i hi j hj

end Sys2Proof.Machine
end

section
/-!
SUPPORT. A matrix step whose WB tiles an earlier copy has still to write is held before its checks (R96, R97, R244): the statement that a
failing check raises its fault leaves that hold out.
-/

namespace Sys2Proof.Machine

/-- MMA looks at the copies still to write its WB tiles before it looks at anything else: its lanes are held. -/
theorem exec_mma_tilesClaimed {s : State} {a b o ssel xz v t sb sa : Nat} {acc : Bool} (hm : s.me?.isSome = true)
    (h : s.tilesClaimed s.me o = true) : exec (.mma a b o ssel xz acc v t sb sa) s = .next (s.hold s.issue.lanes .line) := by
  obtain ⟨g, hg⟩ := Option.isSome_iff_exists.mp hm
  have hme : s.me = g := by simp [State.me, hg]
  rw [hme] at h
  rw [exec_mma, execMma, mmaOp, hg]
  simp only [h, if_true]

/-- A fault of a control thread stops its core (R413). -/
theorem State.stopped_raise_ct {s : State} (h : s.issue.agent = .ct) (code info foff fh : Nat) :
    ((s.raise code info foff fh).core s.issue.core).stopped = true := by
  simp only [State.raise, h, State.ctFault, State.core_modCore_self]

/-- A hold stops no core. -/
theorem State.stopped_hold (s : State) (ls : List Nat) (why : Why) (c : Nat) :
    ((s.hold ls why).core c).stopped = (s.core c).stopped :=
  (s.sameCores_hold ls why).read (p := Core.stopped) (fun _ _ _ _ _ => rfl) c

/-- A control thread at an MMA of record 0, E4M3 by E4M3 with B in WB tile 0, whose tag is no grant of the record. A copy that was ordered
before has still to write the tile and its tag. -/
def heldStep : State :=
  { (State.reset.modCore 0 fun k => { k with recs := [(0, 0x2033)], wbTag := [(0, 1)] }) with
    issue := ⟨0, .ct, [0], 4, ⟨0, headerWord .mtx 4⟩, 0, 0, 0⟩, claims := [⟨wbSpace 0, 0, 4096, .inr 7⟩] }

/-- Refutes O28, in its first clause: at `heldStep` the tag check fails, but the lanes are held for the copy and the core is not stopped,
where the fault would have stopped it. -/
theorem not_matrixSteps : ¬ Obligations.MatrixSteps := by
  unfold Obligations.MatrixSteps
  intro h
  have hissuing : heldStep.Issuing := ⟨rfl, by decide⟩
  have hclaimed : heldStep.tilesClaimed heldStep.me 0 = true := by decide +kernel
  have hcheck : heldStep.mxCheck 0 0 0 0 0 true 0 0 0 0 false = .error (0x15, 0, 0, 0) := by decide +kernel
  obtain ⟨hfault, -⟩ := h heldStep 0 0 0 0 0 0 0 0 0 true false
  have heq : heldStep.hold heldStep.issue.lanes .line = heldStep.raiseAcc (0x15, 0, 0, 0) :=
    Host.Outcome.next.inj ((exec_mma_tilesClaimed hissuing.1 hclaimed).symm.trans (hfault _ hissuing hcheck))
  have hrun : ((heldStep.hold heldStep.issue.lanes .line).core 0).stopped = false := State.stopped_hold _ _ _ _
  have hstop : ((heldStep.raiseAcc (0x15, 0, 0, 0)).core 0).stopped = true := State.stopped_raise_ct rfl _ _ _ _
  rw [heq, hstop] at hrun
  cases hrun

end Sys2Proof.Machine
end

section
/-!
SUPPORT. The end of an issue for the ENG and CTL classes: what tracing and counting may touch of the part, an issue that names no register,
and lanes that each end in their own way.
-/
namespace Sys2Proof.Machine

/-! The rest of the part. -/

/-- `t` differs from `s` in memory, configuration registers, cores and operations at most. -/
def State.SameUnits (s t : State) : Prop :=
  ∃ m f ks os, t = { s with mem := m, cfg := f, cores := ks, ops := os }

theorem State.SameUnits.refl (s : State) : s.SameUnits s := ⟨_, _, _, _, rfl⟩

theorem State.SameUnits.trans {s t u : State} (h1 : s.SameUnits t) (h2 : t.SameUnits u) : s.SameUnits u := by
  obtain ⟨m1, f1, k1, o1, rfl⟩ := h1
  obtain ⟨m2, f2, k2, o2, rfl⟩ := h2
  exact ⟨m2, f2, k2, o2, rfl⟩

theorem State.SameUnits.ite {s t u : State} {p : Prop} [Decidable p] (ht : s.SameUnits t) (hu : s.SameUnits u) :
    s.SameUnits (if p then t else u) := by
  split
  · exact ht
  · exact hu

section
variable {s t : State} (h : s.SameUnits t)
include h

theorem State.SameUnits.issue : t.issue = s.issue := by obtain ⟨_, _, _, _, rfl⟩ := h; rfl
theorem State.SameUnits.badPa : t.badPa = s.badPa := by obtain ⟨_, _, _, _, rfl⟩ := h; rfl
theorem State.SameUnits.agenda : t.agenda = s.agenda := by obtain ⟨_, _, _, _, rfl⟩ := h; rfl
theorem State.SameUnits.opSeq : t.opSeq = s.opSeq := by obtain ⟨_, _, _, _, rfl⟩ := h; rfl

end

theorem State.sameUnits_modCore (s : State) (c : Nat) (f : Core → Core) : s.SameUnits (s.modCore c f) := ⟨_, _, _, _, rfl⟩

theorem State.sameUnits_modGroup (s : State) (c : Nat) (a : Agent) (f : Group → Group) : s.SameUnits (s.modGroup c a f) :=
  s.sameUnits_modCore c _

theorem State.sameUnits_modMe (s : State) (f : Group → Group) : s.SameUnits (s.modMe f) := s.sameUnits_modGroup _ _ f

theorem State.sameUnits_modTeam (s : State) (c t : Nat) (f : Team → Team) : s.SameUnits (s.modTeam c t f) := by
  unfold State.modTeam
  split
  · exact s.sameUnits_modCore c _
  · exact .refl s

theorem State.sameUnits_cfgPut (s : State) (n k v : Nat) : s.SameUnits (s.cfgPut n k v) := ⟨_, _, _, _, rfl⟩

theorem State.sameUnits_trace (s : State) (c v : Nat) (p : List Nat) : s.SameUnits (s.trace c v p) := by
  have put (u : State) (bs : List Nat) : u.SameUnits (u.tracePut c bs) := ⟨_, _, _, _, rfl⟩
  have written {u : State} (bs : List Nat) (f : Core → Core) : u.SameUnits ((u.tracePut c bs).modCore c f) :=
    (put u bs).trans (State.sameUnits_modCore _ c f)
  refine .ite (.refl s) (.ite (s.sameUnits_modCore c _) (.ite (written _ _) (.ite ?_ ?_)))
  · exact (written _ _).trans (State.sameUnits_modCore _ c _)
  · exact (written _ _).trans (put _ _)

theorem State.sameUnits_countIssue (s : State) : s.SameUnits s.countIssue := by
  unfold State.countIssue State.traceIssue
  split
  · refine State.SameUnits.trans ?_ (State.sameUnits_modMe _ _)
    split
    · exact s.sameUnits_trace _ _ _
    · exact .refl s
  · exact .refl s

theorem State.sameUnits_retire (s : State) : s.SameUnits s.retire := s.sameUnits_countIssue.trans (State.sameUnits_modMe _ _)

theorem State.sameUnits_settle (s : State) (ends : List (Nat × LaneEnd)) : s.SameUnits (s.settle ends) :=
  s.sameUnits_countIssue.trans (State.sameUnits_modMe _ _)

theorem State.sameUnits_hold (s : State) (ls : List Nat) (why : Why) : s.SameUnits (s.hold ls why) :=
  s.sameUnits_countIssue.trans (State.sameUnits_modMe _ _)

/-- No packet is written for an interface that the core does not trace (R453). -/
theorem State.trace_off {s : State} {c v : Nat} (h : s.cfgGet Config.nTrcCtl c ≠ 256 * v + 1) (p : List Nat) : s.trace c v p = s :=
  if_pos h

theorem State.Untraced.cfg_ne {s : State} (h : s.Untraced) {n : Nat} (ha : s.issue.agent = .grp n) :
    s.cfgGet Config.nTrcCtl s.issue.core ≠ 256 * s.myVi + 1 := by
  rcases h with h | h
  · simp [State.isCt, ha] at h
  · exact h

/-! Faults. -/

theorem State.sameUnits_machineCheck (s : State) (cls utype unit : Nat) (vi : Option Nat) (pa detail : Nat) :
    s.SameUnits (s.machineCheck cls utype unit vi pa detail) :=
  .ite (s.sameUnits_cfgPut _ _ _) ⟨_, _, _, _, rfl⟩

theorem State.sameUnits_putRecord (s : State) (c : Nat) (e : Entry) : s.SameUnits (s.putRecord c e) := by
  have fold : ∀ (ms : List Nat) (u : State), s.SameUnits u → s.SameUnits
      (ms.foldl (fun t m => t.cfgPut (Config.nTrec0 + m) c (e.record / 2 ^ (32 * m) % 2 ^ 32)) u) := by
    intro ms
    induction ms with
    | nil => intro u hu; exact hu
    | cons m ms ih => intro u hu; exact ih _ (hu.trans (u.sameUnits_cfgPut _ _ _))
  exact fold _ s (.refl s)

theorem State.sameUnits_enter (s : State) (c : Nat) (e : Entry) (p : Nat × Option Clause) : s.SameUnits (s.enter c e p) := by
  unfold State.enter
  refine State.SameUnits.trans ?_ (State.sameUnits_modCore _ c _)
  have written := ((s.sameUnits_cfgPut Config.nCtEpc c (p.1 % 4294967296)).trans (State.sameUnits_putRecord _ c e)).trans
    (State.sameUnits_cfgPut _ Config.nTrapResume c e.defaultAct)
  split
  · exact written.trans ⟨_, _, _, _, rfl⟩
  · exact written

theorem State.sameUnits_deliver (s : State) (c : Nat) : s.SameUnits (s.deliver c) := by
  unfold State.deliver
  refine .ite (.refl s) ?_
  split
  · exact (s.sameUnits_modCore c _).trans (State.sameUnits_enter _ c _ _)
  · exact .refl s

theorem State.sameUnits_takeFault (s : State) (c : Nat) (e : Entry) : s.SameUnits (s.takeFault c e) :=
  ((((s.sameUnits_cfgPut _ _ _).trans (State.sameUnits_modCore _ c _)).trans (State.sameUnits_trace _ c _ _)).trans
    (State.sameUnits_modCore _ c _)).trans (State.sameUnits_deliver _ c)

theorem State.sameUnits_raise (s : State) (code info foff fh : Nat) : s.SameUnits (s.raise code info foff fh) := by
  unfold State.raise
  split
  · unfold State.ctFault
    exact (s.sameUnits_machineCheck _ _ _ _ _ _).trans (State.sameUnits_modCore _ _ _)
  · exact (s.sameUnits_modMe _).trans (State.sameUnits_takeFault _ _ _)

/-- A fault of an issue that has named no place without memory ends the step. -/
theorem State.finish_raise {s : State} (h : s.badPa = none) (code info foff fh : Nat) :
    finish (s.raise code info foff fh) = .next (s.raise code info foff fh) :=
  finish_next ((s.sameUnits_raise code info foff fh).badPa.trans h)

/-! Issues that name no register. -/

/-- Nothing of its registers holds or stops an issue that names none. -/
theorem State.Issuing.free {s : State} (h : s.Issuing) (u : Bool) : s.Free u [] [] := by
  refine ⟨h, by simp, ?_, ?_⟩
  · simp [State.futureLanes]
  · simp [State.poisonRead]

theorem issueWith_issuing {s : State} (h : s.Issuing) (u : Bool) (k : State → Out) : issueWith u [] [] s k = k s :=
  issueWith_free (h.free u) k

/-! Lanes that each end in their own way. -/

/-- A lane after a list of changes: those that name it, in order. -/
theorem Group.lane_foldEnds {α : Type} (F : α → Lane → Lane) (fs : List (Nat × α)) (g : Group) {l : Nat} (hl : l < g.lanes.length) :
    (fs.foldl (fun h e => h.modLane e.1 (F e.2)) g).lane l = (fs.filter (·.1 == l)).foldl (fun x e => F e.2 x) (g.lane l) := by
  induction fs generalizing g with
  | nil => rfl
  | cons e fs ih =>
    rw [List.foldl_cons, ih _ (by rw [Group.length_modLane]; exact hl), Group.lane_modLane, List.filter_cons]
    by_cases h : l = e.1
    · simp [h, h ▸ hl]
    · simp [h, Ne.symm h]

/-- Changes of lanes touch the lanes alone. -/
theorem Group.foldEnds_eq {α : Type} (F : α → Lane → Lane) (fs : List (Nat × α)) (g : Group) :
    ∃ xs, fs.foldl (fun h e => h.modLane e.1 (F e.2)) g = { g with lanes := xs } ∧ xs.length = g.lanes.length := by
  induction fs generalizing g with
  | nil => exact ⟨_, rfl, rfl⟩
  | cons e fs ih =>
    obtain ⟨xs, h, hn⟩ := ih (g.modLane e.1 (F e.2))
    exact ⟨xs, by rw [List.foldl_cons, h]; rfl, hn.trans (Group.length_modLane _ _ _)⟩

/-- A lane that is changed in one way only, by a change that repeats without effect. -/
theorem Group.lane_foldEnds_idem {α : Type} {F : α → Lane → Lane} {fs : List (Nat × α)} {g : Group} {l : Nat} {w : α}
    (hl : l < g.lanes.length) (hmem : (l, w) ∈ fs) (hw : ∀ e ∈ fs, e.1 = l → e.2 = w) (hF : ∀ x, F w (F w x) = F w x) :
    (fs.foldl (fun h e => h.modLane e.1 (F e.2)) g).lane l = F w (g.lane l) := by
  rw [Group.lane_foldEnds F fs g hl]
  have fix : ∀ (es : List (Nat × α)) (x : Lane), (∀ e ∈ es, e.2 = w) → F w x = x → es.foldl (fun x e => F e.2 x) x = x := by
    intro es x hes hx
    exact foldl_fix fun e he => by rw [hes e he, hx]
  have hall : ∀ e ∈ fs.filter (·.1 == l), e.2 = w := by
    intro e he
    obtain ⟨he, hel⟩ := List.mem_filter.mp he
    exact hw e he (eq_of_beq hel)
  have hin : (l, w) ∈ fs.filter (·.1 == l) := List.mem_filter.mpr ⟨hmem, beq_self_eq_true l⟩
  cases hes : fs.filter (·.1 == l) with
  | nil => rw [hes] at hin; cases hin
  | cons e es =>
    rw [hes] at hall
    rw [List.foldl_cons, hall e List.mem_cons_self]
    exact fix es _ (fun x hx => hall x (List.mem_cons_of_mem _ hx)) (hF _)

/-- A lane that is changed once. -/
theorem Group.lane_foldEnds_once {α : Type} {F : α → Lane → Lane} {fs : List (Nat × α)} {g : Group} {l : Nat} {w : α}
    (hl : l < g.lanes.length) (hmem : (l, w) ∈ fs) (hn : (fs.map (·.1)).Nodup) :
    (fs.foldl (fun h e => h.modLane e.1 (F e.2)) g).lane l = F w (g.lane l) := by
  rw [Group.lane_foldEnds F fs g hl]
  have hone : fs.filter (·.1 == l) = [(l, w)] := by
    induction fs with
    | nil => cases hmem
    | cons e fs ih =>
      obtain ⟨hnot, hrest⟩ := List.nodup_cons.mp hn
      rcases List.mem_cons.mp hmem with rfl | hmem
      · rw [List.filter_cons_of_pos (by simp), List.filter_eq_nil_iff.mpr]
        intro x hx hxl
        exact hnot (List.mem_map.mpr ⟨x, hx, eq_of_beq hxl⟩)
      · have hne : e.1 ≠ l := fun h => hnot (List.mem_map.mpr ⟨(l, w), hmem, h.symm⟩)
        rw [List.filter_cons_of_neg (by simpa using hne)]
        exact ih hmem hrest
  rw [hone]
  rfl

end Sys2Proof.Machine
end

section
/-!
SUPPORT. Teams and the ends of issues: what a team's update and the settling of barriers leave of groups (R31, R285), how an issue's lanes end
each in its own way, and the frame of an issue that only ends (R19).
-/
namespace Sys2Proof.Machine

/-! Teams. -/

@[simp] theorem State.group?_modTeam (s : State) (c t : Nat) (f : Team → Team) (d : Nat) (a : Agent) :
    (s.modTeam c t f).group? d a = s.group? d a :=
  State.read_modTeam s c t f (p := fun k => k.group? a) (fun k ts => by cases a <;> rfl) d

theorem State.team?_modTeam_self (s : State) (c t : Nat) (f : Team → Team) : (s.modTeam c t f).team? c t = (s.team? c t).map f := by
  unfold State.modTeam
  cases h : s.team? c t with
  | none => exact h
  | some m =>
    unfold State.team?
    rw [State.core_modCore_self]
    exact NMap.find_put_self _ _ _

theorem State.team?_modTeam_ne (s : State) {c t d e : Nat} (f : Team → Team) (h : (d, e) ≠ (c, t)) :
    (s.modTeam c t f).team? d e = s.team? d e := by
  unfold State.modTeam
  split
  · unfold State.team?
    by_cases hd : d = c
    · subst hd
      rw [State.core_modCore_self]
      exact NMap.find_put_ne _ _ fun he => h (he ▸ rfl)
    · rw [State.core_modCore_ne _ _ hd]
  · rfl

/-! Barriers and vacant lanes. -/

theorem State.HasGroup.of_group? {s t : State} {c : Nat} {a : Agent} {g : Group} (h : s.HasGroup c a g)
    (ht : t.group? c a = s.group? c a) : t.HasGroup c a g := by
  obtain ⟨x, hx, hk⟩ := h
  exact ⟨x, ht.trans hx, hk⟩

theorem Group.keeps_passBar (g : Group) (b p : Nat) : g.Keeps (g.passBar b p) := by
  refine ⟨rfl, rfl, ?_⟩
  simp only [Group.passBar, List.map_map]
  refine List.map_congr_left fun x _ => ?_
  simp only [Function.comp_apply]
  split
  · split
    · split <;> rfl
    · rfl
  · rfl

theorem State.HasGroup.settleBar {s : State} {c : Nat} {a : Agent} {g : Group} (h : s.HasGroup c a g) (d t b fuel : Nat) :
    (s.settleBar d t b fuel).HasGroup c a g := by
  induction fuel generalizing s with
  | zero => exact h
  | succ fuel ih =>
    have passed (gs : List (Nat × Nat × Group)) (p : Nat) : ∀ u : State, u.HasGroup c a g →
        (gs.foldl (fun u g => u.modGroup g.1 (.grp g.2.1) (·.passBar b p)) u).HasGroup c a g := by
      induction gs with
      | nil => exact fun u hu => hu
      | cons x xs ihx => exact fun u hu => ihx _ (hu.modGroup fun y => y.keeps_passBar b p)
    unfold State.settleBar
    dsimp only
    split
    · exact h
    · exact ih (passed _ _ _ (h.of_group? (State.group?_modTeam _ _ _ _ _ _)))

theorem State.HasGroup.settleBars {s : State} {c : Nat} {a : Agent} {g : Group} (h : s.HasGroup c a g) (d t : Nat) :
    (s.settleBars d t).HasGroup c a g := by
  unfold State.settleBars
  induction List.range 8 generalizing s with
  | nil => exact h
  | cons b bs ih => exact ih (h.settleBar d t b 2)

theorem State.sameUnits_settleBar (s : State) (d t b fuel : Nat) : s.SameUnits (s.settleBar d t b fuel) := by
  induction fuel generalizing s with
  | zero => exact .refl s
  | succ fuel ih =>
    have passed (gs : List (Nat × Nat × Group)) (p : Nat) : ∀ u : State, s.SameUnits u →
        s.SameUnits (gs.foldl (fun u g => u.modGroup g.1 (.grp g.2.1) (·.passBar b p)) u) := by
      induction gs with
      | nil => exact fun u hu => hu
      | cons x xs ihx => exact fun u hu => ihx _ (hu.trans (u.sameUnits_modGroup _ _ _))
    exact .ite (.refl s) ((passed _ _ _ (s.sameUnits_modTeam _ _ _)).trans (ih _))

theorem State.sameUnits_settleBars (s : State) (d t : Nat) : s.SameUnits (s.settleBars d t) := by
  unfold State.settleBars
  induction List.range 8 generalizing s with
  | nil => exact .refl s
  | cons b bs ih => exact (s.sameUnits_settleBar d t b 2).trans (ih _)

theorem Group.Keeps.vacant_lane {g h : Group} (k : g.Keeps h) (l : Nat) : (h.lane l).vacant = (g.lane l).vacant := by
  have := congrArg (·[l]?) k.vacant
  simp only [List.getElem?_map] at this
  unfold Group.lane
  cases hg : g.lanes[l]? <;> cases hh : h.lanes[l]? <;> simp_all

/-! The ends of an issue's lanes. -/

/-- The lanes of an issue each end in their own way. -/
theorem State.settle_eq (s : State) (ends : List (Nat × LaneEnd)) :
    s.settle ends = s.countIssue.modMe fun g => ends.foldl (fun h e => h.modLane e.1 (s.endLane e.2)) g := by
  unfold State.settle
  congr 1

theorem State.settle_me? (s : State) (ends : List (Nat × LaneEnd)) : (s.settle ends).me? =
    s.me?.map fun g => ends.foldl (fun h e => h.modLane e.1 (s.endLane e.2)) (s.countGroup g) := by
  rw [State.settle_eq, State.me?_modMe, State.countIssue_me?, Option.map_map]
  rfl

theorem State.settle_ends_me {s : State} (hm : s.me?.isSome = true) (ends : List (Nat × LaneEnd)) :
    (s.settle ends).me = ends.foldl (fun h e => h.modLane e.1 (s.endLane e.2)) (s.countGroup s.me) := by
  obtain ⟨g, hg⟩ := Option.isSome_iff_exists.mp hm
  simp [State.me, State.settle_me?, hg]

/-- The ends of its lanes leave a group as it was, but for `$rwc` and its lanes. -/
theorem State.settle_me_eq {s : State} (hm : s.me?.isSome = true) (ends : List (Nat × LaneEnd)) :
    ∃ n xs, (s.settle ends).me = { s.me with rwc := n, lanes := xs } ∧ xs.length = s.me.lanes.length := by
  obtain ⟨n, ys, hc, hy⟩ := s.countGroup_eq s.me
  obtain ⟨xs, hx, hn⟩ := Group.foldEnds_eq s.endLane ends (s.countGroup s.me)
  refine ⟨n, xs, ?_, ?_⟩
  · rw [State.settle_ends_me hm, hx, hc]
  · rw [hn, hc, hy]

theorem State.isSome_settle {s : State} (hm : s.me?.isSome = true) (ends : List (Nat × LaneEnd)) : (s.settle ends).me?.isSome = true := by
  rw [State.settle_me?, Option.isSome_map]
  exact hm

@[simp] theorem State.ops_settle (s : State) (ends : List (Nat × LaneEnd)) : (s.settle ends).ops = s.ops := by
  unfold State.settle
  simp

theorem State.settle_onlyGroup {s : State} (h : s.Untraced) (ls : List Nat) (e : LaneEnd) : s.OnlyGroup (s.settle (ls.map (·, e))) := by
  rw [State.settle_untraced h]
  exact s.modMe_onlyGroup _

/-- Held lanes, as an end of their share. -/
theorem State.hold_eq_settle (s : State) (ls : List Nat) (why : Why) : s.hold ls why = s.settle (ls.map (·, .hold why)) :=
  (State.settle_const s ls (.hold why)).symm

/-- A lane that is held stands at the issue's word. -/
theorem State.hold_lane {s : State} (hm : s.me?.isSome = true) {l : Nat} {ls : List Nat} (why : Why) (hl : l ∈ ls)
    (hn : l < s.me.lanes.length) : ((s.hold ls why).me.lane l).wait = .retry why ∧ ((s.hold ls why).me.lane l).pc = s.issue.pc := by
  rw [State.hold_eq_settle, State.settle_me hm]
  obtain ⟨k, ys, h, hy⟩ := s.countGroup_eq s.me
  rw [Group.lane_modLanes_mem _ _ _ hl (by rw [h]; exact hy ▸ hn) (s.endLane_idem _)]
  exact ⟨rfl, rfl⟩

theorem State.hold_me_eq {s : State} (hm : s.me?.isSome = true) (ls : List Nat) (why : Why) :
    ∃ n xs, (s.hold ls why).me = { s.me with rwc := n, lanes := xs } ∧ xs.length = s.me.lanes.length := by
  rw [State.hold_eq_settle]
  exact State.settle_me_eq hm _

/-- What an issue that only ends leaves of its group. -/
theorem State.retireGroup_onlyRegs (s : State) (g : Group) : g.OnlyRegs (s.retireGroup g) s.issue.lanes [] := by
  obtain ⟨n, xs, h, -⟩ := s.retireGroup_eq g
  refine ⟨by rw [h], fun l r _ _ => s.retireGroup_reg g l r, ?_, ?_, s.retireGroup_rwc g, fun l => (s.retireGroup_lanes g l).1,
    fun l => (s.retireGroup_lanes g l).2⟩
  · rw [h]
    exact fun x hx => hx
  · rw [h]
    exact fun x hx _ => hx

/-- An issue that nothing has counted yet is counted (R19). -/
theorem State.retireGroup_rwc_counted {s : State} (hl : s.issue.lanes ≠ []) (hc : ∀ l ∈ s.issue.lanes, (s.me.lane l).counted = false)
    (g : Group) : (s.retireGroup g).rwc = (g.rwc + 1) % 2 ^ 48 := by
  obtain ⟨l, ls, h⟩ := List.exists_cons_of_ne_nil hl
  have hany : (s.issue.lanes.any fun l => !(s.me.lane l).counted) = true :=
    List.any_eq_true.mpr ⟨l, by rw [h]; exact List.mem_cons_self, by rw [hc l (by rw [h]; exact List.mem_cons_self)]; rfl⟩
  obtain ⟨xs, hx, -⟩ := Group.modLanes_eq (s.countGroup g) s.issue.lanes s.passLane
  obtain ⟨ys, hy, -⟩ := Group.modLanes_eq { g with rwc := (g.rwc + 1) % 2 ^ 48 } s.issue.lanes (·.count g.rwc)
  unfold State.retireGroup
  rw [hx]
  unfold State.countGroup
  rw [if_pos hany, hy]

/-- A reading of lanes that a change keeps. -/
theorem Group.lane_modLanes_read {α : Type} {p : Lane → α} {f : Lane → Lane} (hf : ∀ x, p (f x) = p x) (g : Group) (ls : List Nat)
    (l : Nat) : p ((g.modLanes ls f).lane l) = p (g.lane l) := by
  induction ls generalizing g with
  | nil => rfl
  | cons k ks ih =>
    refine (ih (g.modLane k f)).trans ?_
    rw [Group.lane_modLane]
    split
    · exact hf _
    · rfl

/-- Counting touches nothing of a lane but the marks of its count. -/
theorem State.lane_countGroup {α : Type} {p : Lane → α} (hp : ∀ x n, p (Lane.count x n) = p x) (s : State) (g : Group) (l : Nat) :
    p ((s.countGroup g).lane l) = p (g.lane l) := by
  unfold State.countGroup
  split
  · exact Group.lane_modLanes_read (fun x => hp x g.rwc) _ _ l
  · rfl

/-- Freed resources make steps due, and no more. -/
theorem State.freed_eq (s : State) (c : Nat) : ∃ a, s.freed c = { s with agenda := a } := by
  unfold State.freed
  dsimp only
  split_ifs <;> exact ⟨_, rfl⟩

end Sys2Proof.Machine
end

section
/-!
SUPPORT. EXIT, register blocks, the progress counter, SLEEP and NOP (R29, R284, R286, R287).
-/
namespace Sys2Proof.Machine

/-- What becomes of a lane whose thread leaves it (R35). -/
def Lane.vacated (x : Lane) : Lane :=
  { x with vacant := true, wait := .none, back := none, clause := none, rstack := [], spilled := 0, flushing := [], counted := false }

/-- A group with a live lane left outlasts the vacation of others. -/
theorem State.vacate_live {s : State} {c n : Nat} {g : Group} (hg : s.group? c (.grp n) = some g) {ls : List Nat}
    (hl : (g.modLanes ls Lane.vacated).live ≠ []) :
    (s.vacate c n ls).HasGroup c (.grp n) (g.modLanes ls Lane.vacated) ∧ s.SameUnits (s.vacate c n ls) := by
  let s1 := s.modGroup c (.grp n) (·.modLanes ls Lane.vacated)
  let s2 := (s1.unarrive c g.team g.grp ls).settleBars c g.team
  have h1 : s1.HasGroup c (.grp n) (g.modLanes ls Lane.vacated) :=
    ⟨_, by rw [State.group?_modGroup_self, hg]; rfl, .refl _⟩
  have h2 : s2.HasGroup c (.grp n) (g.modLanes ls Lane.vacated) :=
    (h1.of_group? (State.group?_modTeam _ _ _ _ _ _)).settleBars c g.team
  have hend : s.vacate c n ls = s2 := by
    obtain ⟨x, hx, hk⟩ := h2
    rw [← State.endGroup_live hx (by rw [hk.live]; exact hl)]
    unfold State.vacate
    rw [show NMap.find (s.core c).groups n = some g from hg]
    rfl
  rw [hend]
  exact ⟨h2, ((s.sameUnits_modGroup _ _ _).trans (State.sameUnits_modTeam _ _ _ _)).trans (State.sameUnits_settleBars _ _ _)⟩

section
variable {s : State} (h : s.Issuing)
include h

/-- EXIT vacates the lanes of the issue, where another lane of the group goes on (R284). -/
theorem completes_exit (hb : s.badPa = none) {n : Nat} (ha : s.issue.agent = .grp n)
    (hrest : ∃ l, l < s.me.lanes.length ∧ l ∉ s.issue.lanes ∧ (s.me.lane l).vacant = false) :
    Completes .exit s fun t => (∀ l ∈ s.issue.lanes, l < s.me.lanes.length → (t.me.lane l).vacant = true) ∧
      ∀ l ∉ s.issue.lanes, (t.me.lane l).vacant = (s.me.lane l).vacant := by
  obtain ⟨g, hg⟩ := Option.isSome_iff_exists.mp h.1
  have hme : s.me = g := by simp [State.me, hg]
  rw [hme] at hrest ⊢
  obtain ⟨k, ys, hcount, hys⟩ := s.countGroup_eq g
  have hlen : (s.countGroup g).lanes.length = g.lanes.length := by rw [hcount]; exact hys
  have hin : ∀ l ∈ s.issue.lanes, l < g.lanes.length → (((s.countGroup g).modLanes s.issue.lanes Lane.vacated).lane l).vacant = true :=
    fun l hl hn => by rw [Group.lane_modLanes_mem _ _ Lane.vacated hl (hlen ▸ hn) fun _ => rfl]; rfl
  have hout : ∀ l ∉ s.issue.lanes, (((s.countGroup g).modLanes s.issue.lanes Lane.vacated).lane l).vacant = (g.lane l).vacant :=
    fun l hl => by rw [Group.lane_modLanes_ne _ _ _ hl]; exact State.lane_countGroup (fun _ _ => rfl) s g l
  have hlive : ((s.countGroup g).modLanes s.issue.lanes Lane.vacated).live ≠ [] := by
    obtain ⟨l, hn, hl, hv⟩ := hrest
    refine List.ne_nil_of_mem (a := l) (List.mem_filter.mpr ⟨List.mem_range.mpr ?_, ?_⟩)
    · rw [Group.length_modLanes, hlen]
      exact hn
    · rw [hout l hl, hv]
      rfl
  have hcnt : s.countIssue.group? s.issue.core (.grp n) = some (s.countGroup g) := by
    have := s.countIssue_me?
    rw [hg, State.me?, State.issue_countIssue, ha] at this
    exact this
  obtain ⟨⟨x, hx, hk⟩, hu⟩ := State.vacate_live hcnt hlive
  have hme' : (s.countIssue.vacate s.issue.core n s.issue.lanes).me = x := by
    unfold State.me State.me?
    rw [hu.issue, State.issue_countIssue, ha, hx]
    rfl
  refine ⟨s.countIssue.vacate s.issue.core n s.issue.lanes, ?_, fun l hl hn => ?_, fun l hl => ?_⟩
  · rw [exec_exit, execExit, issueWith_issuing h, ha]
    exact finish_next (hu.badPa.trans (by rw [State.badPa_countIssue, hb]))
  · rw [hme', hk.vacant_lane, hin l hl hn]
  · rw [hme', hk.vacant_lane, hout l hl]

/-- A control thread may not exit (R284). -/
theorem exec_exit_ct (ha : s.issue.agent = .ct) : exec .exit s = .next (s.reserved 7 0 0) := by
  rw [exec_exit, execExit, issueWith_issuing h, ha]

theorem exec_racq_held {k : Nat} (hk : k ≤ s.me.blocks) : exec (.racq k) s = .next s.retire := by
  rw [exec_racq, execRacq, issueWith_issuing h, if_pos hk]

/-- RACQ for more blocks than the group holds starts an operation, and its lanes wait for it (R29, R286). -/
theorem completes_racq {k : Nat} (hk : s.me.blocks < k) : Completes (.racq k) s fun t => s.AllPassed t ∧
    .racqGrant s.issue.core ∈ t.agenda ∧ t.me.blocks = s.me.blocks ∧ (∃ p ∈ t.ops, p.id = s.opSeq ∧ p.kind = .racq k) ∧
    ∀ l ∈ s.issue.lanes, l < s.me.lanes.length → (t.me.lane l).wait = .op s.opSeq .racq := by
  let u := (s.addOp s.issue.lanes (.racq k) s.setA none).due (.racqGrant s.issue.core)
  have hm : u.me?.isSome = true := h.1
  refine ⟨u.settle (s.issue.lanes.map (·, .wait (.op s.opSeq .racq))), ?_, State.settle_passed (t := u) rfl rfl hm _ (fun _ hw => nomatch hw),
    ?_, ?_, ?_, fun l hl hn => State.settle_wait hm s.issue.lanes _ hl hn⟩
  · rw [exec_racq, execRacq, issueWith_issuing h, if_neg (Nat.not_le.mpr hk)]
    exact congrArg _ (State.retireWait_eq_settle u _)
  · rw [(u.sameUnits_settle _).agenda]
    exact List.mem_append_right _ List.mem_cons_self
  · obtain ⟨n, xs, hme, -⟩ := State.settle_me_eq hm (s.issue.lanes.map (·, .wait (.op s.opSeq .racq)))
    rw [hme]
    rfl
  · rw [State.ops_settle]
    exact ⟨_, List.mem_append_right _ List.mem_cons_self, rfl, rfl⟩

theorem exec_rrel_small {k : Nat} (hk : s.me.blocks ≤ k) : exec (.rrel k) s = .next s.retire := by
  rw [exec_rrel, execRrel, issueWith_issuing h, if_pos hk]

/-- RREL is held while a register it frees is awaited (R286). -/
theorem completes_rrel_held {k : Nat} (hk : k < s.me.blocks) (hw : s.awaited (16 * k) = true) : Completes (.rrel k) s fun t =>
    t.me.blocks = s.me.blocks ∧
      ∀ l ∈ s.issue.lanes, l < s.me.lanes.length → (t.me.lane l).wait = .retry .rrel ∧ (t.me.lane l).pc = s.issue.pc := by
  refine ⟨s.hold s.issue.lanes .rrel, ?_, ?_, fun l hl hn => State.hold_lane h.1 .rrel hl hn⟩
  · rw [exec_rrel, execRrel, issueWith_issuing h, if_neg (Nat.not_le.mpr hk), if_pos hw]
  · obtain ⟨n, xs, hme, -⟩ := State.hold_me_eq h.1 s.issue.lanes .rrel
    rw [hme]

/-- RREL gives blocks up, whose registers read zero from then on (R286). -/
theorem completes_rrel {k : Nat} (hk : k < s.me.blocks) (hw : s.awaited (16 * k) = false) : Completes (.rrel k) s fun t =>
    s.AllPassed t ∧ t.me.blocks = k ∧ ∀ l r, r < 128 → t.me.reg l r = if r < 16 * k then s.me.reg l r else 0 := by
  let f : Group → Group := fun g =>
    { g with blocks := k, regs := g.regs.filter fun x => decide (x.1 % 128 < 16 * k), poison := g.poison.filter fun p => decide (p.2 < 16 * k) }
  have hm : (s.modMe f).me?.isSome = true := by
    rw [State.me?_modMe, Option.isSome_map]
    exact h.1
  have hme : (s.modMe f).retire.me = (s.modMe f).retireGroup (f s.me) := by rw [State.retire_me hm, State.me_modMe _ _ h.1]
  obtain ⟨a, ha⟩ := (s.modMe f).retire.freed_eq s.issue.core
  refine ⟨(s.modMe f).retire.freed s.issue.core, ?_, ?_⟩
  · rw [exec_rrel, execRrel, issueWith_issuing h, if_neg (Nat.not_le.mpr hk), if_neg (by simp [hw])]
  · rw [ha]
    refine ⟨State.modMe_retire_passed h.1 f rfl, ?_, fun l r hr => ?_⟩
    · obtain ⟨n, xs, he, -⟩ := (s.modMe f).retireGroup_eq (f s.me)
      show (s.modMe f).retire.me.blocks = k
      rw [hme, he]
    · show (s.modMe f).retire.me.reg l r = _
      rw [hme, State.retireGroup_reg]
      refine (Mem.get_filter s.me.regs (fun x => decide (x % 128 < 16 * k)) (128 * l + r)).trans ?_
      rw [show (128 * l + r) % 128 = r by omega]
      simp only [decide_eq_true_eq]
      rfl

end

/-- The watchdog windows of some teams, one of them slot `t` of core `c`, opened anew (R410). -/
theorem State.wdog_opened {c t : Nat} (hs : List (Nat × Nat)) {u : State}
    (hu : (c, t) ∈ hs ∨ ∀ m, u.team? c t = some m → m.wdog = 0) {m : Team}
    (hm : (hs.foldl (fun (u : State) h => u.modTeam h.1 h.2 ({ · with wdog := 0 })) u).team? c t = some m) : m.wdog = 0 := by
  induction hs generalizing u with
  | nil => exact hu.resolve_left List.not_mem_nil m hm
  | cons x xs ih =>
    refine ih ?_ hm
    by_cases hx : (c, t) = x
    · refine .inr fun y hy => ?_
      rw [← hx, State.team?_modTeam_self] at hy
      obtain ⟨z, -, rfl⟩ := Option.map_eq_some_iff.mp hy
      rfl
    · refine hu.imp (fun hin => (List.mem_cons.mp hin).resolve_left hx) fun hz y hy => ?_
      rw [State.team?_modTeam_ne _ _ hx] at hy
      exact hz y hy

theorem State.wdogs_rest (hs : List (Nat × Nat)) (u : State) :
    let v := hs.foldl (fun (u : State) h => u.modTeam h.1 h.2 ({ · with wdog := 0 })) u
    u.SameUnits v ∧ ∀ d a, v.group? d a = u.group? d a := by
  induction hs generalizing u with
  | nil => exact ⟨.refl u, fun _ _ => rfl⟩
  | cons x xs ih =>
    obtain ⟨hu, hg⟩ := ih (u.modTeam x.1 x.2 ({ · with wdog := 0 }))
    exact ⟨(u.sameUnits_modTeam _ _ _).trans hu, fun d a => (hg d a).trans (State.group?_modTeam _ _ _ _ _ _)⟩

theorem State.team?_retire (s : State) (c t : Nat) : s.retire.team? c t = s.team? c t :=
  s.sameCores_retire.read (p := fun k => NMap.find k.teams t) (fun _ _ _ _ _ => rfl) c

section
variable {s : State} (h : s.Issuing)
include h

/-- PMARK counts progress and opens its team's watchdog window (R287, R410). -/
theorem completes_pmark : Completes .pmark s fun t => s.AllPassed t ∧ t.me.prog = s.me.prog + 1 ∧
    (∀ l r, t.me.reg l r = s.me.reg l r) ∧
    ∀ m, s.issue.agent ≠ .ct → t.team? s.issue.core s.me.team = some m → m.wdog = 0 := by
  let f : Group → Group := fun g => { g with prog := g.prog + 1 }
  let hs := match s.issue.agent with
    | .ct => []
    | .grp _ => (s.modMe f).halves s.issue.core s.me.team
  let u := hs.foldl (fun (u : State) h => u.modTeam h.1 h.2 ({ · with wdog := 0 })) (s.modMe f)
  obtain ⟨hrest, hgroup⟩ := (s.modMe f).wdogs_rest hs
  have hi : u.issue = s.issue := hrest.issue
  have hmf : (s.modMe f).me?.isSome = true := by
    rw [State.me?_modMe, Option.isSome_map]
    exact h.1
  have hme? : u.me? = (s.modMe f).me? := by
    unfold State.me?
    rw [hi]
    exact hgroup _ _
  have hm : u.me?.isSome = true := by rw [hme?, hmf]
  have hme : u.me = f s.me := by rw [State.me, hme?, ← State.me_modMe s f h.1]; rfl
  refine ⟨u.retire, ?_, State.retire_passed hi (by rw [hme]) hm, ?_, fun l r => ?_, fun m ha hmt => ?_⟩
  · rw [exec_pmark, execPmark, issueWith_issuing h]
    rcases ha : s.issue.agent with _ | n <;> simp only [u, hs, ha] <;> rfl
  · obtain ⟨n, xs, he, -⟩ := u.retireGroup_eq u.me
    rw [State.retire_me hm, he, hme]
  · rw [State.retire_reg hm, hme]
    rfl
  · rw [State.team?_retire] at hmt
    refine State.wdog_opened hs (.inl ?_) hmt
    show _ ∈ (match s.issue.agent with | .ct => [] | .grp _ => _)
    split
    · contradiction
    · exact List.mem_cons_self

theorem exec_sleep_zero : exec (.sleep 0) s = .next s.retire := by
  rw [exec_sleep, execSleep, issueWith_issuing h, if_pos rfl]

/-- SLEEP makes its lanes wait 64 cycles for each unit (R287). -/
theorem completes_sleep {i : Nat} (hi : i ≠ 0) : Completes (.sleep i) s fun t => s.AllPassed t ∧ (∀ l r, t.me.reg l r = s.me.reg l r) ∧
    (s.Untraced → s.OnlyGroup t) ∧ ∀ l ∈ s.issue.lanes, l < s.me.lanes.length → (t.me.lane l).wait = .sleep (s.clk + 64 * i) := by
  refine ⟨s.settle (s.issue.lanes.map (·, .wait (.sleep (s.clk + 64 * i)))), ?_, State.settle_passed rfl rfl h.1 _ (fun _ hw => nomatch hw),
    State.settle_reg h.1 _ _, fun hu => State.settle_onlyGroup hu _ _, fun l hl hn => State.settle_wait h.1 _ _ hl hn⟩
  rw [exec_sleep, execSleep, issueWith_issuing h, if_neg hi, State.retireWait_eq_settle]

theorem exec_nop_issuing : exec .nop s = .next s.retire := by rw [exec_nop, execNop, issueWith_issuing h]

end

/-- Settles O38: each instruction by its own lemma, and the end of an issue by what `retire` does to the issuing group. -/
theorem threadControl : Obligations.ThreadControl := by
  unfold Obligations.ThreadControl
  intro s i k h hb
  refine ⟨fun n ha hrest => completes_exit h hb ha hrest, exec_exit_ct h, exec_racq_held h, completes_racq h, exec_rrel_small h,
    completes_rrel_held h, completes_rrel h, completes_pmark h, exec_sleep_zero h, completes_sleep h, exec_nop_issuing h,
    State.retire_passed rfl rfl h.1, fun hu => ⟨?_, ?_⟩, fun hc => ?_⟩
  · rw [State.retire_untraced hu]
    exact s.modMe_onlyGroup _
  · rw [State.retire_me h.1]
    exact s.retireGroup_onlyRegs s.me
  · rw [State.retire_me h.1]
    exact State.retireGroup_rwc_counted h.2 hc s.me

end Sys2Proof.Machine
end

section
/-!
SUPPORT. Transfers of control: the targets of lanes, the ways that lanes take, and what a flow leaves (R24, R143, R153, R282, R395).
-/
namespace Sys2Proof.Machine

/-! Targets. -/

/-- Lanes whose targets hold headers all go there (R153). -/
theorem State.targets_headers {s : State} {ts : List (Nat × Nat)} (h : ∀ p ∈ ts, s.HeaderAt p.2) :
    s.targets ts = (s, [], ts.map fun p => (p.1, .to p.2 id)) := by
  induction ts with
  | nil => rfl
  | cons p ts ih =>
    obtain ⟨h4, w, hf, hw⟩ := h p List.mem_cons_self
    have ht : s.target p.1 p.2 = (s, .ok true) := by
      unfold State.target
      rw [if_neg (by simp [h4]), hf]
      simp only [if_pos hw]
    unfold State.targets
    simp only [ht, ih fun q hq => h q (List.mem_cons_of_mem _ hq)]
    rfl

/-- A target that holds no header is a fault of code 0x04 (R395). -/
theorem State.targets_word {s : State} {l t w : Nat} (h4 : t % 4 = 0) (hf : s.fetch s.issue.core s.issue.agent t = (s, .word w))
    (hw : w / 2 ^ 29 ≠ 6) : s.targets [(l, t)] = (s, [(6, 0, l, 0x04, l, t, 0)], []) := by
  have ht : s.target l t = (s, .error (6, 0, l, 0x04, l, t, 0)) := by
    unfold State.target
    rw [if_neg (by simp [h4]), hf]
    simp only [if_neg hw]
  simp [State.targets, ht]

/-- So is one that is not aligned (R395). -/
theorem State.targets_unaligned {s : State} {l t : Nat} (h4 : t % 4 ≠ 0) :
    s.targets [(l, t)] = (s, [(6, 0, l, 0x04, l, t, 0)], []) := by
  have ht : s.target l t = (s, .error (6, 0, l, 0x04, l, t, 0)) := by
    unfold State.target
    rw [if_pos h4]
  simp [State.targets, ht]

/-! Ways. -/

/-- What its way does to a lane. -/
def State.flowLane (s : State) (w : Flow) (x : Lane) : Lane :=
  match w with
  | .on => { s.pastIssue x with counted := false, back := none }
  | .to t f => { f x with pc := t, clause := none, counted := false, back := none, saved := [] }
  | .hold w => { x with wait := .retry w, pc := s.issue.pc, clause := some s.issue.clause }
  | .ask _ _ _ => x

/-- No lane asks another chip for its return address. -/
def Flow.settled : Flow → Prop
  | .ask _ _ _ => False
  | _ => True

theorem State.askReturns_settled {s : State} {fs : List (Nat × Flow)} (h : ∀ e ∈ fs, e.2.settled) : s.askReturns fs = s := by
  unfold State.askReturns
  refine foldl_fix fun e he => ?_
  have := h e he
  split
  · rename_i hw
    rw [hw] at this
    exact this.elim
  · rfl

theorem State.flow_eq {s : State} {fs : List (Nat × Flow)} (h : ∀ e ∈ fs, e.2.settled) :
    s.flow fs = s.countIssue.modMe fun g => fs.foldl (fun h e => h.modLane e.1 (s.flowLane e.2)) g :=
  State.askReturns_settled h

theorem State.flow_me? {s : State} {fs : List (Nat × Flow)} (h : ∀ e ∈ fs, e.2.settled) :
    (s.flow fs).me? = s.me?.map fun g => fs.foldl (fun h e => h.modLane e.1 (s.flowLane e.2)) (s.countGroup g) := by
  rw [State.flow_eq h, State.me?_modMe, State.countIssue_me?, Option.map_map]
  rfl

theorem State.flow_me {s : State} {fs : List (Nat × Flow)} (hm : s.me?.isSome = true) (h : ∀ e ∈ fs, e.2.settled) :
    (s.flow fs).me = fs.foldl (fun h e => h.modLane e.1 (s.flowLane e.2)) (s.countGroup s.me) := by
  obtain ⟨g, hg⟩ := Option.isSome_iff_exists.mp hm
  simp [State.me, State.flow_me? h, hg]

/-- A flow leaves a group as it was, but for `$rwc` and its lanes. -/
theorem State.flow_me_eq {s : State} {fs : List (Nat × Flow)} (hm : s.me?.isSome = true) (h : ∀ e ∈ fs, e.2.settled) :
    ∃ n xs, (s.flow fs).me = { s.me with rwc := n, lanes := xs } := by
  obtain ⟨k, ys, hc, -⟩ := s.countGroup_eq s.me
  obtain ⟨xs, hx, -⟩ := Group.foldEnds_eq s.flowLane fs (s.countGroup s.me)
  exact ⟨k, xs, by rw [State.flow_me hm h, hx, hc]⟩

theorem State.flow_reg {s : State} {fs : List (Nat × Flow)} (hm : s.me?.isSome = true) (h : ∀ e ∈ fs, e.2.settled) (l r : Nat) :
    (s.flow fs).me.reg l r = s.me.reg l r := by
  obtain ⟨k, xs, hme⟩ := State.flow_me_eq hm h
  rw [hme]
  rfl

theorem State.sameUnits_flow {s : State} {fs : List (Nat × Flow)} (h : ∀ e ∈ fs, e.2.settled) : s.SameUnits (s.flow fs) := by
  rw [State.flow_eq h]
  exact s.sameUnits_countIssue.trans (State.sameUnits_modMe _ _)

theorem State.countIssue_onlyGroup {s : State} (h : s.Untraced) : s.OnlyGroup s.countIssue := by
  unfold State.countIssue
  split
  · rw [State.traceIssue_untraced h]
    exact s.modMe_onlyGroup _
  · exact ⟨rfl, fun _ => rfl, fun _ _ _ => rfl⟩

/-- The frame of a flow that is not traced: the issuing group alone changes. -/
theorem State.flow_onlyGroup {s : State} {fs : List (Nat × Flow)} (hu : s.Untraced) (h : ∀ e ∈ fs, e.2.settled) :
    s.OnlyGroup (s.flow fs) := by
  rw [State.flow_eq h]
  exact (State.countIssue_onlyGroup hu).trans (State.modMe_onlyGroup _ _)

theorem State.countGroup_lane_length (s : State) (g : Group) : (s.countGroup g).lanes.length = g.lanes.length := by
  obtain ⟨k, ys, hc, hy⟩ := s.countGroup_eq g
  rw [hc]
  exact hy

/-- A lane whose way is the same wherever it is named. -/
theorem State.flow_lane {s : State} {fs : List (Nat × Flow)} (hm : s.me?.isSome = true) (h : ∀ e ∈ fs, e.2.settled) {l : Nat} {w : Flow}
    (hl : l < s.me.lanes.length) (hmem : (l, w) ∈ fs) (hw : ∀ e ∈ fs, e.1 = l → e.2 = w)
    (hF : ∀ x, s.flowLane w (s.flowLane w x) = s.flowLane w x) :
    (s.flow fs).me.lane l = s.flowLane w ((s.countGroup s.me).lane l) := by
  rw [State.flow_me hm h]
  exact Group.lane_foldEnds_idem (by rw [s.countGroup_lane_length]; exact hl) hmem hw hF

/-- A lane that is named once. -/
theorem State.flow_lane_once {s : State} {fs : List (Nat × Flow)} (hm : s.me?.isSome = true) (h : ∀ e ∈ fs, e.2.settled) {l : Nat}
    {w : Flow} (hl : l < s.me.lanes.length) (hmem : (l, w) ∈ fs) (hn : (fs.map (·.1)).Nodup) :
    (s.flow fs).me.lane l = s.flowLane w ((s.countGroup s.me).lane l) := by
  rw [State.flow_me hm h]
  exact Group.lane_foldEnds_once (by rw [s.countGroup_lane_length]; exact hl) hmem hn

/-! The trace of indirect targets. -/

theorem State.sameUnits_traceTargets (s : State) (ts : List (Nat × Nat)) : s.SameUnits (s.traceTargets ts) := by
  unfold State.traceTargets
  split
  · exact .refl s
  · rename_i n hn
    have fold : ∀ (xs : List Nat) (u : State), s.SameUnits u → s.SameUnits (xs.foldl (fun u t => u.trace s.issue.core s.myVi
        ([4, n] ++ natBytes t 4 ++ maskBytes s.me.width ((ts.filter (·.2 == t)).map (·.1)))) u) := by
      intro xs
      induction xs with
      | nil => exact fun u hu => hu
      | cons x xs ih => exact fun u hu => ih _ (hu.trans (u.sameUnits_trace _ _ _))
    exact fold _ s (.refl s)

@[simp] theorem State.group?_traceTargets (s : State) (ts : List (Nat × Nat)) (d : Nat) (a : Agent) :
    (s.traceTargets ts).group? d a = s.group? d a := by
  unfold State.traceTargets
  split
  · rfl
  · rename_i n hn
    have fold : ∀ (xs : List Nat) (u : State), (xs.foldl (fun u t => u.trace s.issue.core s.myVi
        ([4, n] ++ natBytes t 4 ++ maskBytes s.me.width ((ts.filter (·.2 == t)).map (·.1)))) u).group? d a = u.group? d a := by
      intro xs
      induction xs with
      | nil => exact fun u => rfl
      | cons x xs ih => exact fun u => (ih _).trans (u.group?_trace _ _ _ _ _)
    exact fold _ s

/-- A state with the groups and the issue of another has its issuing group. -/
theorem State.me_congr {s t : State} (hi : t.issue = s.issue) (hg : ∀ d a, t.group? d a = s.group? d a) : t.me = s.me := by
  unfold State.me State.me?
  rw [hi, hg]

@[simp] theorem State.me_traceTargets (s : State) (ts : List (Nat × Nat)) : (s.traceTargets ts).me = s.me :=
  State.me_congr (s.sameUnits_traceTargets ts).issue (s.group?_traceTargets ts)

@[simp] theorem State.me_trace (s : State) (c v : Nat) (p : List Nat) : (s.trace c v p).me = s.me :=
  State.me_congr (s.issue_trace c v p) (s.group?_trace c v p)

theorem State.traceTargets_untraced {s : State} (h : s.Untraced) (ts : List (Nat × Nat)) : s.traceTargets ts = s := by
  unfold State.traceTargets
  split
  · rfl
  · rename_i n hn
    exact foldl_fix fun t _ => State.trace_off (h.cfg_ne hn) _

end Sys2Proof.Machine
end

section
/-!
SUPPORT. BR, JMP and JMPI (R282).
-/
namespace Sys2Proof.Machine

theorem State.flowLane_to_idem (s : State) (t : Nat) (x : Lane) :
    s.flowLane (.to t id) (s.flowLane (.to t id) x) = s.flowLane (.to t id) x := rfl

/-- Lanes that all have ways whose state is settled: to headers, or on. -/
def goTo (ts : List (Nat × Nat)) : List (Nat × Flow) := ts.map fun p => (p.1, .to p.2 id)

theorem goTo_settled (ts : List (Nat × Nat)) : ∀ e ∈ goTo ts, e.2.settled := by
  intro e he
  obtain ⟨p, -, rfl⟩ := List.mem_map.mp he
  trivial

/-- What a change of the issuing group alone does not touch: the registers. -/
theorem State.OnlyGroup.cfg {s t : State} (h : s.OnlyGroup t) : t.cfg = s.cfg := by
  rw [← h.1]

/-- A change of the issuing group alone that keeps its team leaves it untraced. -/
theorem State.Untraced.onlyGroup {s t : State} (hu : s.Untraced) (h : s.OnlyGroup t) (hteam : t.me.team = s.me.team) : t.Untraced := by
  have hi : t.issue = s.issue := by rw [← h.1]
  have ht (c n : Nat) : t.team? c n = s.team? c n := by
    have := congrArg (fun k : Core => NMap.find k.teams n) (h.2.1 c)
    exact this
  unfold State.Untraced State.isCt State.myVi State.myTeam? at hu ⊢
  rw [hi, hteam, State.cfgGet_of_cfg h.cfg]
  simp only [ht]
  exact hu

section
variable {s : State} (h : s.Issuing) (hb : s.badPa = none)
include h hb

/-- BR: the lanes whose flag stands as asked go to the header, and the others on (R282). -/
theorem completes_br {sense : Bool} {c o : Nat} (hh : (∃ l ∈ s.issue.lanes, s.me.flag l c = sense) → s.HeaderAt (s.relative o 19)) :
    Completes (.br c sense o) s fun t => (∀ l r, t.me.reg l r = s.me.reg l r) ∧ (s.Untraced → s.OnlyGroup t) ∧
      ∀ l ∈ s.issue.lanes, l < s.me.lanes.length →
        if s.me.flag l c = sense then t.StandsAt l (s.relative o 19) else s.Passed t l := by
  let taken := s.issue.lanes.filter fun l => s.me.flag l c == sense
  let ts := taken.map (·, s.relative o 19)
  let fs := goTo ts ++ (s.issue.lanes.filter (!taken.contains ·)).map (·, Flow.on)
  have htaken {l : Nat} : l ∈ taken ↔ l ∈ s.issue.lanes ∧ s.me.flag l c = sense := by simp [taken]
  have hts : s.targets ((s.issue.lanes.filter fun l => s.me.flag l c == sense).map (·, s.relative o 19)) = (s, [], goTo ts) := by
    refine State.targets_headers fun p hp => ?_
    obtain ⟨l, hl, rfl⟩ := List.mem_map.mp hp
    exact hh ⟨l, htaken.mp hl⟩
  have hgo {e : Nat × Flow} (he : e ∈ goTo ts) : e.1 ∈ taken ∧ e.2 = .to (s.relative o 19) id := by
    obtain ⟨p, hp, rfl⟩ := List.mem_map.mp he
    obtain ⟨l, hl, rfl⟩ := List.mem_map.mp hp
    exact ⟨hl, rfl⟩
  have hon {e : Nat × Flow} (he : e ∈ (s.issue.lanes.filter (!taken.contains ·)).map (·, Flow.on)) : e.1 ∉ taken ∧ e.2 = .on := by
    obtain ⟨l, hl, rfl⟩ := List.mem_map.mp he
    exact ⟨by simpa using (List.mem_filter.mp hl).2, rfl⟩
  have hset : ∀ e ∈ fs, e.2.settled := fun e he => by
    rcases List.mem_append.mp he with he | he
    · exact goTo_settled ts e he
    · rw [(hon he).2]; trivial
  let v := s.flow fs
  let t : State := match s.issue.agent with
    | .grp n => v.trace s.issue.core s.myVi ([3, n] ++ maskBytes s.me.width ((wentTo (goTo ts)).map Prod.fst))
    | .ct => v
  have htm : t.me = v.me := by dsimp only [t]; split <;> simp
  refine ⟨t, ?_, fun l r => ?_, fun hu => ?_, fun l hl hn => ?_⟩
  · rw [exec_br, execBr, issueWith_issuing h]
    dsimp only
    rw [hts]
    have ht : t.badPa = none := by
      have : v.badPa = none := (State.sameUnits_flow hset).badPa.trans hb
      dsimp only [t]
      split
      · exact (State.badPa_trace _ _ _ _).trans this
      · exact this
    exact finish_next ht
  · rw [htm]
    exact State.flow_reg h.1 hset l r
  · have hsame : t = v := by
      dsimp only [t]
      split
      · rename_i n ha
        refine State.trace_off ?_ _
        rw [State.cfgGet_of_cfg (State.flow_onlyGroup hu hset).cfg]
        exact hu.cfg_ne ha
      · rfl
    rw [hsame]
    exact State.flow_onlyGroup hu hset
  · rw [State.StandsAt, State.Passed, htm]
    split
    · rename_i hf
      have hmem : (l, Flow.to (s.relative o 19) id) ∈ fs :=
        List.mem_append_left _ (List.mem_map.mpr ⟨(l, s.relative o 19), List.mem_map.mpr ⟨l, htaken.mpr ⟨hl, hf⟩, rfl⟩, rfl⟩)
      rw [State.flow_lane h.1 hset hn hmem ?_ (s.flowLane_to_idem _)]
      · exact ⟨rfl, rfl⟩
      · intro e he hel
        rcases List.mem_append.mp he with he | he
        · exact (hgo he).2
        · exact absurd (htaken.mpr ⟨hl, hf⟩) (hel ▸ (hon he).1)
    · rename_i hf
      have hnot : l ∉ taken := fun hin => hf (htaken.mp hin).2
      have hmem : (l, Flow.on) ∈ fs :=
        List.mem_append_right _ (List.mem_map.mpr ⟨l, List.mem_filter.mpr ⟨hl, by simpa using hnot⟩, rfl⟩)
      rw [State.flow_lane h.1 hset hn hmem ?_ (fun _ => rfl)]
      · exact ⟨rfl, rfl⟩
      · intro e he hel
        rcases List.mem_append.mp he with he | he
        · exact absurd (hel ▸ (hgo he).1) hnot
        · exact (hon he).2

/-- Lanes that all go to headers stand there, with nothing else of the part changed (R24, R153). -/
theorem State.goTo_flow {f : Nat → Nat} :
    let v := s.flow (goTo (s.issue.lanes.map fun l => (l, f l)))
    v.badPa = none ∧ (∀ l r, v.me.reg l r = s.me.reg l r) ∧ (s.Untraced → s.OnlyGroup v) ∧
      ∀ l ∈ s.issue.lanes, l < s.me.lanes.length → v.StandsAt l (f l) := by
  intro v
  have hset := goTo_settled (s.issue.lanes.map fun l => (l, f l))
  refine ⟨(State.sameUnits_flow hset).badPa.trans hb, State.flow_reg h.1 hset, fun hu => State.flow_onlyGroup hu hset, fun l hl hn => ?_⟩
  have hmem : (l, Flow.to (f l) id) ∈ goTo (s.issue.lanes.map fun l => (l, f l)) :=
    List.mem_map.mpr ⟨(l, f l), List.mem_map.mpr ⟨l, hl, rfl⟩, rfl⟩
  rw [State.StandsAt, State.flow_lane h.1 hset hn hmem ?_ (s.flowLane_to_idem _)]
  · exact ⟨rfl, rfl⟩
  · intro e he hel
    obtain ⟨p, hp, rfl⟩ := List.mem_map.mp he
    obtain ⟨k, -, rfl⟩ := List.mem_map.mp hp
    cases hel
    rfl

/-- JMP: every lane goes to the header (R282). -/
theorem completes_jmp {o : Nat} (hh : s.HeaderAt (s.relative o 23)) : Completes (.jmp o) s fun t =>
    (∀ l r, t.me.reg l r = s.me.reg l r) ∧ (s.Untraced → s.OnlyGroup t) ∧
      ∀ l ∈ s.issue.lanes, l < s.me.lanes.length → t.StandsAt l (s.relative o 23) := by
  obtain ⟨hv, hgo⟩ := State.goTo_flow h hb (f := fun _ => s.relative o 23)
  refine ⟨_, ?_, hgo⟩
  rw [exec_jmp, execJmp, issueWith_issuing h, State.targets_headers]
  · exact finish_next hv
  · intro p hp
    obtain ⟨l, -, rfl⟩ := List.mem_map.mp hp
    exact hh

/-- JMPI: each lane goes to the header that its register names (R282). -/
theorem completes_jmpi {a : Nat} (hf : s.Free false [a] []) (hh : ∀ l ∈ s.issue.lanes, s.HeaderAt (s.me.reg l a).toNat) :
    Completes (.jmpi a) s fun t => (∀ l r, t.me.reg l r = s.me.reg l r) ∧ (s.Untraced → s.OnlyGroup t) ∧
      ∀ l ∈ s.issue.lanes, l < s.me.lanes.length → t.StandsAt l (s.me.reg l a).toNat := by
  let ts := s.issue.lanes.map fun l => (l, (s.me.reg l a).toNat)
  let v := s.flow (goTo ts)
  obtain ⟨hv, hreg, hgroup, hstand⟩ := State.goTo_flow h hb (f := fun l => (s.me.reg l a).toNat)
  refine ⟨v.traceTargets (wentTo (goTo ts)), ?_, fun l r => ?_, fun hu => ?_, fun l hl hn => ?_⟩
  · rw [exec_jmpi, execJmpi, issueWith_free hf, State.targets_headers]
    · exact finish_next ((v.sameUnits_traceTargets _).badPa.trans hv)
    · intro p hp
      obtain ⟨l, hl, rfl⟩ := List.mem_map.mp hp
      exact hh l hl
  · rw [State.me_traceTargets]
    exact hreg l r
  · rw [State.traceTargets_untraced]
    · exact hgroup hu
    · obtain ⟨n, xs, hme⟩ := State.flow_me_eq h.1 (goTo_settled ts)
      exact hu.onlyGroup (hgroup hu) (by rw [hme])
  · rw [State.StandsAt, State.me_traceTargets]
    exact hstand l hl hn

/-- JMP to a word that is no header faults (R395). -/
theorem exec_jmp_word {o l w : Nat} (hl : s.issue.lanes = [l]) (h4 : s.relative o 23 % 4 = 0)
    (hw : s.fetch s.issue.core s.issue.agent (s.relative o 23) = (s, .word w)) (hno : w / 2 ^ 29 ≠ 6) :
    exec (.jmp o) s = .next (s.raise 0x04 l (s.relative o 23) 0) := by
  rw [exec_jmp, execJmp, issueWith_issuing h, hl, List.map_cons, List.map_nil, State.targets_word h4 hw hno]
  exact State.finish_raise hb _ _ _ _

omit h in
/-- JMPI to an offset that is not aligned faults (R395). -/
theorem exec_jmpi_unaligned {a l : Nat} (hf : s.Free false [a] []) (hl : s.issue.lanes = [l]) (h4 : (s.me.reg l a).toNat % 4 ≠ 0) :
    exec (.jmpi a) s = .next (s.raise 0x04 l (s.me.reg l a).toNat 0) := by
  rw [exec_jmpi, execJmpi, issueWith_free hf, hl, List.map_cons, List.map_nil, State.targets_unaligned h4]
  exact State.finish_raise hb _ _ _ _

end

/-- Settles O36: the targets are headers or a fault, and a flow of lanes to headers changes where they stand alone. -/
theorem controlTransfers : Obligations.ControlTransfers := by
  unfold Obligations.ControlTransfers
  intro s sense c a o h hb
  exact ⟨completes_br h hb, completes_jmp h hb, completes_jmpi h hb, fun l w hl =>
    ⟨exec_jmp_word h hb hl, fun hf => exec_jmpi_unaligned hb hf hl⟩⟩

end Sys2Proof.Machine
end

section
/-!
SUPPORT. Calls, returns and the return stack (R282, R283, R408).
-/
namespace Sys2Proof.Machine

/-! The stack area of calm memory. -/

theorem State.fillPage_heap {s : State} {r : Ref} {n pa : Nat} (h : s.HeapRef r n pa) (p : Option Nat) :
    s.fillPage r.space r.va p = s := by
  unfold State.fillPage
  rw [if_pos]
  exact h.window.imp id fun w => .inl w.1

theorem State.pin_heap {s : State} {r : Ref} {n pa : Nat} (h : s.HeapRef r n pa) : s.pin r.space r.va = s := by
  unfold State.pin
  rw [if_pos (h.window.imp id And.left)]

/-- A write of the part to memory that nothing stands before is made, and no more. -/
theorem State.Calm.putNow {s : State} (h : s.Calm) (a : Actor) (me : Nat × Agent × Nat) {r : Ref} {pa : Nat} (hd kind : Nat)
    (bs : List Byte) (hr : s.HeapRef r bs.length pa) : s.putNow a me r hd kind bs = (s.poke pa bs, none) := by
  unfold State.putNow
  simp [h.claimed, h.sideLog, State.prepare_heap hr, State.missing_heap hr, State.locate_heap hr, h.applyFor, runWrites, h.commit,
    (h.poke pa bs).unclaim]

/-! Spills and calls. -/

section
variable {s : State}

theorem State.spillOf_room {l : Nat} (h8 : (s.me.lane l).rstack.length < 8) (h264 : (s.me.lane l).rstack.length + (s.me.lane l).spilled < 264) :
    s.spillOf l = .ok none := by
  unfold State.spillOf
  dsimp only
  rw [if_neg (by omega), if_pos h8]

theorem State.spillOf_area {l : Nat} {r : Ref} (h8 : (s.me.lane l).rstack.length = 8) (h256 : (s.me.lane l).spilled < 256)
    (hr : s.resolve s.actor (s.stackArea l).1 ((s.stackArea l).2 + 4 * (s.me.lane l).spilled) 4 [.write] none = .ok r) :
    s.spillOf l = .ok (some r) := by
  unfold State.spillOf
  dsimp only
  rw [if_neg (by omega), if_neg (by omega), hr]

theorem State.spillOf_full {l : Nat} (h264 : 264 ≤ (s.me.lane l).rstack.length + (s.me.lane l).spilled) :
    s.spillOf l = .error (spillFault l 0 0 ((s.stackArea l).2 + 4 * (s.me.lane l).spilled) 0) := by
  unfold State.spillOf
  dsimp only
  rw [if_pos h264]

/-- The ways of lanes that call headers with room on their stacks. -/
def callTo (ret : Nat) (ts : List (Nat × Nat)) : List (Nat × Flow) := ts.map fun p => (p.1, .to p.2 (·.push ret))

theorem callTo_settled (ret : Nat) (ts : List (Nat × Nat)) : ∀ e ∈ callTo ret ts, e.2.settled := by
  intro e he
  obtain ⟨p, -, rfl⟩ := List.mem_map.mp he
  trivial

/-- Calls of lanes with room on their stacks write no memory. -/
theorem State.calls_room (ret : Nat) {ts : List (Nat × Nat)} (h : ∀ p ∈ ts, s.spillOf p.1 = .ok none) :
    s.calls ret (goTo ts) = (s, callTo ret ts) := by
  induction ts with
  | nil => rfl
  | cons p ts ih =>
    have := ih fun q hq => h q (List.mem_cons_of_mem _ hq)
    unfold goTo at this ⊢
    rw [List.map_cons, State.calls, h p List.mem_cons_self]
    simp only [this]
    rfl

/-- A call of a lane whose stack is full writes its oldest return address to its stack area. -/
theorem State.calls_spill (ret : Nat) {l t pa : Nat} {r : Ref} (hc : s.Calm) (hs : s.spillOf l = .ok (some r)) (hr : s.HeapRef r 4 pa) :
    s.calls ret (goTo [(l, t)]) = (s.poke pa (leBytes ((s.me.lane l).rstack.getLastD 0) 4), callTo ret [(l, t)]) := by
  have hr4 : s.HeapRef r (leBytes ((s.me.lane l).rstack.getLastD 0) 4).length pa := by
    rw [leBytes_length]
    exact hr
  unfold goTo
  rw [List.map_cons, List.map_nil, State.calls, hs]
  dsimp only
  rw [hr.here]
  dsimp only
  rw [State.fillPage_heap hr, State.pin_heap hr, hc.putNow _ _ _ _ _ hr4]
  rfl

/-- A flow, with the trace packets of an indirect transfer where it is one. -/
def State.flowTraced (s : State) (ws : List (Nat × Flow)) (indirect : Bool) : State :=
  if indirect then (s.flow ws).traceTargets (wentTo ws) else s.flow ws

@[simp] theorem State.me_flowTraced (ws : List (Nat × Flow)) (indirect : Bool) : (s.flowTraced ws indirect).me = (s.flow ws).me := by
  unfold State.flowTraced
  split
  · exact State.me_traceTargets _ _
  · rfl

theorem State.finish_flowTraced {ws : List (Nat × Flow)} (h : ∀ e ∈ ws, e.2.settled) (hb : s.badPa = none) (indirect : Bool) :
    finish (s.flowTraced ws indirect) = .next (s.flowTraced ws indirect) := by
  refine finish_next ?_
  have hflow : (s.flow ws).badPa = none := (State.sameUnits_flow h).badPa.trans hb
  unfold State.flowTraced
  split
  · exact (State.sameUnits_traceTargets _ _).badPa.trans hflow
  · exact hflow

theorem State.flowTraced_onlyGroup {ws : List (Nat × Flow)} (hm : s.me?.isSome = true) (hu : s.Untraced) (h : ∀ e ∈ ws, e.2.settled)
    (indirect : Bool) : s.OnlyGroup (s.flowTraced ws indirect) := by
  have hflow := State.flow_onlyGroup hu h
  obtain ⟨n, xs, hme⟩ := State.flow_me_eq hm h
  unfold State.flowTraced
  rw [State.traceTargets_untraced (hu.onlyGroup hflow (by rw [hme])), ite_self]
  exact hflow

/-- Calls whose targets hold headers and whose stacks take them. -/
theorem State.call_goes {ts : List (Nat × Nat)} {u : State} {xs : List (Nat × Flow)} (hh : ∀ p ∈ ts, s.HeaderAt p.2)
    (hspill : ∀ l ∈ s.issue.lanes, ∃ o, s.spillOf l = .ok o) (hcalls : s.calls s.clauseEnd (goTo ts) = (u, xs)) (indirect : Bool) :
    s.call ts indirect = finish (u.flowTraced xs indirect) := by
  unfold State.call
  rw [State.targets_headers hh]
  dsimp only
  rw [List.filterMap_eq_nil_iff.mpr]
  · show (match s.calls s.clauseEnd (goTo ts) with | (v, xs) => finish (v.flowTraced xs indirect)) = _
    rw [hcalls]
  · intro l hl
    obtain ⟨o, ho⟩ := hspill l hl
    rw [ho]

/-- A call of a lane whose stack and stack area are full faults (R408). -/
theorem State.call_full {l t : Nat} (hb : s.badPa = none) (hl : s.issue.lanes = [l]) (hh : s.HeaderAt t)
    (h264 : 264 ≤ (s.me.lane l).rstack.length + (s.me.lane l).spilled) (indirect : Bool) :
    s.call [(l, t)] indirect = .next (s.raise 0x21 l (((s.stackArea l).2 + 4 * (s.me.lane l).spilled) % 2 ^ 32) 0) := by
  unfold State.call
  rw [State.targets_headers fun p hp => by rw [List.mem_singleton.mp hp]; exact hh, hl]
  dsimp only
  rw [List.filterMap_cons, State.spillOf_full h264]
  exact State.finish_raise hb _ _ _ _

/-! Returns. -/

/-- The ways of lanes that return to addresses held in hardware. -/
def State.returnTo (s : State) (ls : List Nat) : List (Nat × Flow) :=
  ls.map fun l => (l, .to ((s.me.lane l).rstack.headD 0) fun y => { y with rstack := (s.me.lane l).rstack.tail })

theorem State.returnTo_settled (s : State) (ls : List Nat) : ∀ e ∈ s.returnTo ls, e.2.settled := by
  intro e he
  obtain ⟨l, -, rfl⟩ := List.mem_map.mp he
  trivial

theorem State.returns_held {ls : List Nat} (h : ∀ l ∈ ls, (s.me.lane l).rstack ≠ []) : s.returns ls = (s, [], s.returnTo ls) := by
  induction ls with
  | nil => rfl
  | cons l ls ih =>
    obtain ⟨t, rest, hs⟩ := List.exists_cons_of_ne_nil (h l List.mem_cons_self)
    have hone : s.returnOf l = (s, .ok (.to t (fun y => { y with rstack := rest }), false)) := by
      unfold State.returnOf
      dsimp only
      rw [hs]
    unfold State.returns
    simp only [hone, ih fun k hk => h k (List.mem_cons_of_mem _ hk)]
    simp [State.returnTo, hs]

/-- A return address that its area holds in calm memory (R283). -/
theorem State.returns_area {l pa : Nat} {r : Ref} (hc : s.Calm) (hs : (s.me.lane l).rstack = []) (ho : 0 < (s.me.lane l).spilled)
    (hr : s.resolve s.actor (s.stackArea l).1 ((s.stackArea l).2 + 4 * ((s.me.lane l).spilled - 1)) 4 [.read] none = .ok r)
    (hp : s.HeapRef r 4 pa) : s.returns [l] =
      (s, [], [(l, .to (leNat (Mem.bytes s.mem pa 4)) fun y => { y with spilled := y.spilled - 1 })]) := by
  have hone : s.returnOf l = (s, .ok (.to (leNat (Mem.bytes s.mem pa 4)) (fun y => { y with spilled := y.spilled - 1 }), true)) := by
    unfold State.returnOf
    dsimp only
    rw [hs]
    dsimp only
    rw [if_neg (by omega), hr]
    dsimp only
    rw [hp.here]
    dsimp only
    rw [State.pin_heap hp, hc.readAt _ _ _ hp]
  simp [State.returns, hone]

/-- Return addresses that hold headers are ways (R153). -/
theorem State.returnWays_headers {ws : List (Nat × Flow)} (h : ∀ e ∈ ws, ∃ t f, e.2 = .to t f ∧ s.HeaderAt t) :
    s.returnWays ws = (s, [], ws) := by
  induction ws with
  | nil => rfl
  | cons e ws ih =>
    obtain ⟨t, f, he, h4, w, hf, hw⟩ := h e List.mem_cons_self
    obtain ⟨l, y⟩ := e
    obtain rfl : y = .to t f := he
    have ht : s.target l t = (s, .ok true) := by
      unfold State.target
      rw [if_neg (by simp [h4]), hf]
      simp only [if_pos hw]
    unfold State.returnWays
    simp only [ht, ih fun q hq => h q (List.mem_cons_of_mem _ hq)]
    rfl

/-- RET whose lanes' return addresses are at hand and hold headers. -/
theorem exec_ret_goes {ws : List (Nat × Flow)} (h : s.Issuing) (hr : s.returns s.issue.lanes = (s, [], ws))
    (hw : ∀ e ∈ ws, ∃ t f, e.2 = .to t f ∧ s.HeaderAt t) : exec .ret s = finish (s.flowTraced ws true) := by
  rw [exec_ret, execRet, issueWith_issuing h, hr]
  dsimp only
  rw [State.returnWays_headers hw]
  rfl

/-- RET of a lane that holds no return address faults (R408). -/
theorem exec_ret_empty {l : Nat} (h : s.Issuing) (hb : s.badPa = none) (hl : s.issue.lanes = [l]) (hs : (s.me.lane l).rstack = [])
    (ho : (s.me.lane l).spilled = 0) : exec .ret s = .next (s.raise 0x21 (l + 256) ((s.stackArea l).2 % 2 ^ 32) 0) := by
  have hone : s.returnOf l = (s, .error (spillFault l 1 0 (s.stackArea l).2 0)) := by
    unfold State.returnOf
    dsimp only
    rw [hs]
    dsimp only
    rw [if_pos ho]
  rw [exec_ret, execRet, issueWith_issuing h, hl]
  simp only [State.returns, hone]
  exact State.finish_raise hb _ _ _ _

end

theorem State.Untraced.poke {s : State} (hu : s.Untraced) (pa : Nat) (bs : List Byte) : (s.poke pa bs).Untraced := by
  have hct : (s.poke pa bs).isCt = s.isCt := rfl
  have hcfg : (s.poke pa bs).cfgGet Config.nTrcCtl (s.poke pa bs).issue.core = s.cfgGet Config.nTrcCtl s.issue.core := rfl
  have hvi : (s.poke pa bs).myVi = s.myVi := rfl
  unfold State.Untraced
  rw [hct, hcfg, hvi]
  exact hu

theorem State.OnlyGroup.mem {s t : State} (h : s.OnlyGroup t) : t.mem = s.mem := by
  rw [← h.1]

/-! What a flow of lanes to headers leaves of them. -/

section
variable {s : State} (hm : s.me?.isSome = true) {ws : List (Nat × Flow)} (hset : ∀ e ∈ ws, e.2.settled) (hn : (ws.map (·.1)).Nodup)
  {l t : Nat} {f : Lane → Lane} (hl : l < s.me.lanes.length) (hmem : (l, Flow.to t f) ∈ ws) (indirect : Bool)
include hm hset hn hl hmem

theorem State.flowTraced_standsAt : (s.flowTraced ws indirect).StandsAt l t := by
  unfold State.StandsAt
  rw [State.me_flowTraced, State.flow_lane_once hm hset hl hmem hn]
  exact ⟨rfl, rfl⟩

/-- A lane's return stack after its way: what the way's change makes of it. -/
theorem State.flowTraced_stack : ∃ x : Lane, x.rstack = (s.me.lane l).rstack ∧ x.spilled = (s.me.lane l).spilled ∧
    ((s.flowTraced ws indirect).me.lane l).rstack = (f x).rstack ∧ ((s.flowTraced ws indirect).me.lane l).spilled = (f x).spilled := by
  refine ⟨(s.countGroup s.me).lane l, State.lane_countGroup (p := Lane.rstack) (fun _ _ => rfl) s s.me l,
    State.lane_countGroup (p := Lane.spilled) (fun _ _ => rfl) s s.me l, ?_⟩
  rw [State.me_flowTraced, State.flow_lane_once hm hset hl hmem hn]
  exact ⟨rfl, rfl⟩

end

theorem Lane.push_room {x : Lane} (h : x.rstack.length < 8) (ret : Nat) :
    (x.push ret).rstack = ret :: x.rstack ∧ (x.push ret).spilled = x.spilled := by
  unfold Lane.push
  rw [if_pos h]
  exact ⟨rfl, rfl⟩

theorem Lane.push_full {x : Lane} (h : x.rstack.length = 8) (ret : Nat) :
    (x.push ret).rstack = ret :: x.rstack.take 7 ∧ (x.push ret).spilled = x.spilled + 1 := by
  unfold Lane.push
  rw [if_neg (by omega)]
  exact ⟨rfl, rfl⟩

/-! CALL and CALLI. -/

section
variable {s : State} {i : Instr} {dest : Nat → Nat} {indirect : Bool} (h : s.Issuing)
  (he : exec i s = s.call (s.issue.lanes.map fun l => (l, dest l)) indirect) (hh : ∀ l ∈ s.issue.lanes, s.HeaderAt (dest l))
include h he hh

/-- A call with room on the stacks pushes the clause end (R283). -/
theorem completes_call_room (hb : s.badPa = none) (hnd : s.issue.lanes.Nodup)
    (hroom : ∀ l ∈ s.issue.lanes, (s.me.lane l).rstack.length < 8 ∧ (s.me.lane l).rstack.length + (s.me.lane l).spilled < 264) :
    Completes i s fun t => (∀ l r, t.me.reg l r = s.me.reg l r) ∧ ∀ l ∈ s.issue.lanes, l < s.me.lanes.length →
      t.StandsAt l (dest l) ∧ (t.me.lane l).rstack = s.clauseEnd :: (s.me.lane l).rstack ∧ (t.me.lane l).spilled = (s.me.lane l).spilled := by
  let ts := s.issue.lanes.map fun l => (l, dest l)
  let ws := callTo s.clauseEnd ts
  have hset : ∀ e ∈ ws, e.2.settled := callTo_settled _ ts
  have hspill : ∀ l ∈ s.issue.lanes, s.spillOf l = .ok none := fun l hl => State.spillOf_room (hroom l hl).1 (hroom l hl).2
  have hgoes : s.call ts indirect = finish (s.flowTraced ws indirect) := by
    refine State.call_goes (fun p hp => ?_) (fun l hl => ⟨none, hspill l hl⟩) (State.calls_room _ fun p hp => ?_) indirect
    · obtain ⟨l, hl, rfl⟩ := List.mem_map.mp hp
      exact hh l hl
    · obtain ⟨l, hl, rfl⟩ := List.mem_map.mp hp
      exact hspill l hl
  have hn : (ws.map (·.1)).Nodup := by
    rw [show ws.map (·.1) = s.issue.lanes by simp [ws, ts, callTo, Function.comp_def]]
    exact hnd
  refine ⟨s.flowTraced ws indirect, he.trans (hgoes.trans (State.finish_flowTraced hset hb indirect)), fun l r => ?_, fun l hl hlen => ?_⟩
  · rw [State.me_flowTraced, State.flow_reg h.1 hset]
  · have hmem : (l, Flow.to (dest l) (·.push s.clauseEnd)) ∈ ws :=
      List.mem_map.mpr ⟨(l, dest l), List.mem_map.mpr ⟨l, hl, rfl⟩, rfl⟩
    obtain ⟨x, hxr, hxs, hr, hs⟩ := State.flowTraced_stack h.1 hset hn hlen hmem indirect
    obtain ⟨hpr, hps⟩ := Lane.push_room (x := x) (by rw [hxr]; exact (hroom l hl).1) s.clauseEnd
    exact ⟨State.flowTraced_standsAt h.1 hset hn hlen hmem indirect, by rw [hr, hpr, hxr], by rw [hs, hps, hxs]⟩

/-- A call on a full stack spills its oldest address to the stack area (R283). -/
theorem completes_call_spill {l pa : Nat} {r : Ref} (hone : s.issue.lanes = [l]) (hlen : l < s.me.lanes.length)
    (h8 : (s.me.lane l).rstack.length = 8) (h256 : (s.me.lane l).spilled < 256) (hc : s.Calm)
    (hr : s.resolve s.actor (s.stackArea l).1 ((s.stackArea l).2 + 4 * (s.me.lane l).spilled) 4 [.write] none = .ok r)
    (hp : s.HeapRef r 4 pa) : Completes i s fun t =>
      t.StandsAt l (dest l) ∧ (t.me.lane l).rstack = s.clauseEnd :: (s.me.lane l).rstack.take 7 ∧
      (t.me.lane l).spilled = (s.me.lane l).spilled + 1 ∧
      (s.Untraced → t.mem = Mem.setBytes s.mem pa (leBytes ((s.me.lane l).rstack.getLastD 0) 4)) := by
  let u := s.poke pa (leBytes ((s.me.lane l).rstack.getLastD 0) 4)
  have hbad : u.badPa = none := hc.badPa
  have huu : s.Untraced → u.Untraced := fun hu => hu.poke _ _
  let ws := callTo s.clauseEnd [(l, dest l)]
  have hset : ∀ e ∈ ws, e.2.settled := callTo_settled _ _
  have hspill := State.spillOf_area h8 h256 hr
  have hgoes : s.call [(l, dest l)] indirect = finish (u.flowTraced ws indirect) := by
    refine State.call_goes (fun p hp => ?_) (fun k hk => ?_) (State.calls_spill _ hc hspill hp) indirect
    · rw [List.mem_singleton.mp hp]
      exact hh l (by rw [hone]; exact List.mem_singleton_self l)
    · rw [hone] at hk
      rw [List.mem_singleton.mp hk]
      exact ⟨_, hspill⟩
  have hmu : u.me?.isSome = true := h.1
  have hn : (ws.map (·.1)).Nodup := List.nodup_singleton l
  have hmem : (l, Flow.to (dest l) (·.push s.clauseEnd)) ∈ ws := List.mem_singleton_self _
  have hkeep (hu : s.Untraced) : (u.flowTraced ws indirect).mem = u.mem :=
    (State.flowTraced_onlyGroup hmu (huu hu) hset indirect).mem
  obtain ⟨x, hxr, hxs, hstack, hspilled⟩ := State.flowTraced_stack (s := u) hmu hset hn hlen hmem indirect
  obtain ⟨hpr, hps⟩ := Lane.push_full (x := x) (by rw [hxr]; exact h8) s.clauseEnd
  refine ⟨u.flowTraced ws indirect, ?_, State.flowTraced_standsAt hmu hset hn hlen hmem indirect, by rw [hstack, hpr, hxr]; rfl,
    by rw [hspilled, hps, hxs]; rfl, hkeep⟩
  rw [he, hone]
  exact hgoes.trans (State.finish_flowTraced (s := u) hset hbad indirect)

omit h in
theorem exec_call_full (hb : s.badPa = none) {l : Nat} (hone : s.issue.lanes = [l])
    (h264 : 264 ≤ (s.me.lane l).rstack.length + (s.me.lane l).spilled) :
    exec i s = .next (s.raise 0x21 l (((s.stackArea l).2 + 4 * (s.me.lane l).spilled) % 2 ^ 32) 0) := by
  rw [he, hone]
  exact State.call_full hb hone (hh l (by rw [hone]; exact List.mem_singleton_self l)) h264 indirect

end

/-! RET. -/

section
variable {s : State} (h : s.Issuing)
include h

/-- RET pops the address that its lane's stack holds (R283). -/
theorem completes_ret (hb : s.badPa = none) (hnd : s.issue.lanes.Nodup)
    (hh : ∀ l ∈ s.issue.lanes, (s.me.lane l).rstack ≠ [] ∧ s.HeaderAt ((s.me.lane l).rstack.headD 0)) :
    Completes .ret s fun t => (∀ l r, t.me.reg l r = s.me.reg l r) ∧ ∀ l ∈ s.issue.lanes, l < s.me.lanes.length →
      t.StandsAt l ((s.me.lane l).rstack.headD 0) ∧ (t.me.lane l).rstack = (s.me.lane l).rstack.tail := by
  let ws := s.returnTo s.issue.lanes
  have hset : ∀ e ∈ ws, e.2.settled := s.returnTo_settled _
  have hn : (ws.map (·.1)).Nodup := by
    rw [show ws.map (·.1) = s.issue.lanes by simp [ws, State.returnTo, Function.comp_def]]
    exact hnd
  refine ⟨s.flowTraced ws true, ?_, fun l r => ?_, fun l hl hlen => ?_⟩
  · rw [exec_ret_goes h (State.returns_held fun l hl => (hh l hl).1), State.finish_flowTraced hset hb]
    intro e he
    obtain ⟨l, hl, rfl⟩ := List.mem_map.mp he
    exact ⟨_, _, rfl, (hh l hl).2⟩
  · rw [State.me_flowTraced, State.flow_reg h.1 hset]
  · have hmem : (l, Flow.to ((s.me.lane l).rstack.headD 0) fun y => { y with rstack := (s.me.lane l).rstack.tail }) ∈ ws :=
      List.mem_map.mpr ⟨l, hl, rfl⟩
    obtain ⟨x, -, -, hr, -⟩ := State.flowTraced_stack h.1 hset hn hlen hmem true
    exact ⟨State.flowTraced_standsAt h.1 hset hn hlen hmem true, hr⟩

/-- RET refills from the stack area (R283). -/
theorem completes_ret_area {l pa : Nat} {r : Ref} (hone : s.issue.lanes = [l]) (hlen : l < s.me.lanes.length)
    (hs : (s.me.lane l).rstack = []) (ho : 0 < (s.me.lane l).spilled) (hc : s.Calm)
    (hr : s.resolve s.actor (s.stackArea l).1 ((s.stackArea l).2 + 4 * ((s.me.lane l).spilled - 1)) 4 [.read] none = .ok r)
    (hp : s.HeapRef r 4 pa) (hh : s.HeaderAt (leNat (Mem.bytes s.mem pa 4))) : Completes .ret s fun t =>
      t.StandsAt l (leNat (Mem.bytes s.mem pa 4)) ∧ (t.me.lane l).rstack = [] ∧ (t.me.lane l).spilled = (s.me.lane l).spilled - 1 := by
  let ws : List (Nat × Flow) := [(l, .to (leNat (Mem.bytes s.mem pa 4)) fun y => { y with spilled := y.spilled - 1 })]
  have hset : ∀ e ∈ ws, e.2.settled := fun e he => by rw [List.mem_singleton.mp he]; trivial
  have hn : (ws.map (·.1)).Nodup := List.nodup_singleton l
  obtain ⟨x, hxr, hxs, hstack, hspilled⟩ := State.flowTraced_stack h.1 hset hn hlen (List.mem_singleton_self _) true
  refine ⟨s.flowTraced ws true, ?_, State.flowTraced_standsAt h.1 hset hn hlen (List.mem_singleton_self _) true,
    by rw [hstack]; exact hxr.trans hs, by rw [hspilled]; exact congrArg (· - 1) hxs⟩
  rw [exec_ret_goes h (ws := ws) (by rw [hone]; exact State.returns_area hc hs ho hr hp), State.finish_flowTraced hset hc.badPa]
  intro e he
  rw [List.mem_singleton.mp he]
  exact ⟨_, _, rfl, hh⟩

end

/-- Settles O37: CALL and CALLI are one call with two kinds of targets, and a return takes its address from the lane or from its area. -/
theorem callsAndReturns : Obligations.CallsAndReturns := by
  unfold Obligations.CallsAndReturns
  intro s a o r pa h hb hnd
  refine ⟨fun j hj hf hh => ?calls, fun hh => completes_ret h hb hnd hh, fun l hl hs => ⟨exec_ret_empty h hb hl hs, fun hn ho hc hr hp hw =>
    completes_ret_area h hl hn hs ho hc hr hp hw⟩⟩
  have he : ∃ indirect, exec j.1 s = s.call (s.issue.lanes.map fun l => (l, j.2.2 l)) indirect := by
    simp only [List.mem_cons, List.not_mem_nil, or_false] at hj
    rcases hj with rfl | rfl
    · exact ⟨false, by rw [exec_call, execCall, issueWith_issuing h]⟩
    · exact ⟨true, by rw [exec_calli, execCalli, issueWith_free hf]⟩
  obtain ⟨indirect, he⟩ := he
  exact ⟨completes_call_room h he hh hb hnd, fun l hl hn h8 h256 hc hr hp => completes_call_spill h he hh hl hn h8 h256 hc hr hp,
    fun l hl h264 => exec_call_full he hh hb hl h264⟩

end Sys2Proof.Machine
end

section
/-!
SUPPORT. Streams: what a read whose values are there leaves, and the stream instructions on open and closed streams (R276 to R278).
-/
namespace Sys2Proof.Machine

/-! Frames. -/

theorem State.AccessFree.whole {s : State} {u : Bool} {reads writes : List Nat} (h : s.AccessFree u reads writes) :
    s.flushLanes true = [] := by
  have hflush := h.2
  cases u with
  | true => exact hflush
  | false =>
    simp only [State.flushLanes, Bool.false_and, Bool.false_eq_true, if_false] at hflush
    simp [State.flushLanes, hflush]

theorem issueWhole_free {s : State} {u : Bool} {reads writes : List Nat} (h : s.Free u reads writes) (k : State → Out) :
    issueWhole u reads writes s k = k s := by
  cases u with
  | true => exact issueWith_free h k
  | false => exact issueSet_free h k

theorem accessWhole_free {s : State} {u : Bool} {reads writes : List Nat} (h : s.AccessFree u reads writes) (k : State → Out) :
    accessWhole u reads writes s k = k s := by
  rw [accessWhole, issueWhole_free h.1, if_pos h.whole]

theorem State.modMe_retire_me {s : State} (hm : s.me?.isSome = true) (f : Group → Group) :
    ∃ n xs, (s.modMe f).retire.me = { f s.me with rwc := n, lanes := xs } := by
  obtain ⟨n, xs, h, -⟩ := (s.modMe f).retireGroup_eq (f s.me)
  refine ⟨n, xs, ?_⟩
  rw [State.retire_me (by rw [State.me?_modMe, Option.isSome_map]; exact hm), State.me_modMe _ _ hm, h]

theorem State.modMe_retire_reg {s : State} (hm : s.me?.isSome = true) (f : Group → Group) (l r : Nat) :
    (s.modMe f).retire.me.reg l r = (f s.me).reg l r := by
  rw [State.retire_reg (by rw [State.me?_modMe, Option.isSome_map]; exact hm), State.me_modMe _ _ hm]

theorem handleFault_nil (s : State) (hd n : Nat) (rights : List Right) : s.handleFault hd n rights [] = none := rfl

theorem leNat_lt (bs : List Byte) : leNat bs < 256 ^ bs.length := by
  have h := leNat_leBytes (leNat bs) bs.length
  rw [leBytes_leNat] at h
  rw [h]
  exact Nat.mod_lt _ (Nat.pow_pos (by decide))

/-! The end of a read. -/

/-- A read of a whole issue whose value is there ends with its registers written and its lanes past the word (R30). -/
theorem State.replyEnd_value {s : State} (hi : s.Issuing) (hb : s.badPa = none) (hd v : Nat) (w : Nat → Nat → List (Nat × Word)) :
    ∃ t, finish (s.replyEnd hd none (s.issue.lanes.map (·, Got.value v)) .load 0 w) = .next t ∧ s.AllPassed t ∧
      (∀ l r, t.me.reg l r = (s.issue.lanes.foldl (fun h l => h.setRegs l (w l v)) s.me).reg l r) ∧ t.me.streams = s.me.streams := by
  let f : Group → Group := (·.takeValues (s.issue.lanes.map (·, Got.value v)) w)
  let t := (s.modMe f).addOpDue s.issue.lanes .reply none none (.accessReply · 0 0)
  have hm : t.me?.isSome = true := by
    show (s.modMe f).me?.isSome = true
    rw [State.me?_modMe, Option.isSome_map]
    exact hi.1
  have hf : f s.me = s.issue.lanes.foldl (fun h l => h.setRegs l (w l v)) s.me := Group.takeValues_values _ _ (fun _ => v) _
  have hme : t.me = f s.me := State.me_modMe s f hi.1
  obtain ⟨rs, ps, hset⟩ := Group.setLanes_eq s.me s.issue.lanes fun l => w l v
  have hend : s.replyEnd hd none (s.issue.lanes.map (·, Got.value v)) .load 0 w =
      t.settle (s.issue.lanes.map (·, .wait (.op s.opSeq .load))) := by
    unfold State.replyEnd
    simp only [answered_values s.issue.lanes fun _ => v, heldEnds_values s.issue.lanes fun _ => v,
      firstPoison_values s.issue.lanes fun _ => v, if_neg hi.2, List.nil_append]
    rfl
  refine ⟨_, ?_, State.settle_passed (s := s) (t := t) rfl (by rw [hme, hf, hset]) hm (.wait (.op s.opSeq .load)) (fun _ h => nomatch h),
    fun l r => ?_, ?_⟩
  · rw [hend]
    exact finish_next ((t.sameUnits_settle _).badPa.trans hb)
  · rw [State.settle_reg hm, hme, hf]
  · obtain ⟨n, xs, h, -⟩ := State.settle_me_eq hm (s.issue.lanes.map (·, .wait (.op s.opSeq .load)))
    rw [h, hme, hf, hset]

/-! Fields that name a stream. -/

/-- The word names a stream in the field at `bit`, and nothing else of it depends on the state. -/
def NamesStream (i : Instr) (bit z : Nat) : Prop := ∀ s : State, s.fieldChecks i = [⟨bit, 7, (NMap.find s.me.streams z).isSome⟩]

section
variable {s : State} {i : Instr} {bit z : Nat} (h : NamesStream i bit z)
include h

theorem fieldWith_open {st : Stream} (hst : NMap.find s.me.streams z = some st) (k : State → Out) : fieldWith i s k = k s :=
  fieldWith_pass (by rw [h s, hst]; rfl) k

theorem fieldWith_closed (hst : NMap.find s.me.streams z = none) (k : State → Out) : fieldWith i s k = .next (s.reserved 7 bit 0) := by
  rw [fieldWith, h s, hst]
  rfl

end

section
variable {s : State} {u : Bool} {z : Nat} {st : Stream} (hst : NMap.find s.me.streams z = some st) (hi : s.Issuing)
include hst hi

/-- ZADV moves POS on, not past END (R277). -/
theorem completes_zadv (n : Nat) : Completes (.zadv u z n) s fun t => s.AllPassed t ∧ NMap.find t.me.streams z =
    some { st with pos := min (st.pos + if n = 0 then s.issue.lanes.length else n) st.fin } := by
  let x : Stream := { st with pos := min (st.pos + if n = 0 then s.issue.lanes.length else n) st.fin }
  refine ⟨(s.modMe (·.putStream z x)).retire, ?_, State.modMe_retire_passed hi.1 _ rfl, ?_⟩
  · rw [exec_zadv, execZadv, fieldWith_open (fun _ => rfl) hst, issueWith_issuing hi, hst]
  · obtain ⟨m, xs, h⟩ := State.modMe_retire_me hi.1 (·.putStream z x)
    rw [h]
    exact NMap.find_put_self _ _ _

/-- ZCLOSE leaves the other streams open (R277). -/
theorem completes_zclose : Completes (.zclose u z) s fun t => s.AllPassed t ∧
    ∀ y, NMap.find t.me.streams y = if y = z then none else NMap.find s.me.streams y := by
  let f : Group → Group := fun g => { g with streams := NMap.drop g.streams z }
  refine ⟨(s.modMe f).retire, ?_, State.modMe_retire_passed hi.1 f rfl, fun y => ?_⟩
  · rw [exec_zclose, execZclose, fieldWith_open (fun _ => rfl) hst, issueWith_issuing hi]
  · obtain ⟨m, xs, h⟩ := State.modMe_retire_me hi.1 f
    rw [h]
    show NMap.find (NMap.drop s.me.streams z) y = _
    split
    case isTrue hy => rw [hy, NMap.find_drop_self]
    case isFalse hy => exact NMap.find_drop_ne _ hy

/-- ZEND tells each lane whether its element is past END (R277). -/
theorem completes_zend {c : Nat} (hc : c < 8) (hn : s.issue.lanes.Nodup) : Completes (.zend u c z) s fun t => s.AllPassed t ∧
    ∀ k (h : k < s.issue.lanes.length), s.issue.lanes[k] < s.me.lanes.length →
      t.me.flag s.issue.lanes[k] c = decide (st.fin ≤ st.pos + if u then 0 else k) := by
  let rank : Nat → Nat := fun l => if u then 0 else s.issue.lanes.idxOf l
  let f : Group → Group := fun g => s.issue.lanes.foldl (fun h l => h.setFlag l c (decide (st.fin ≤ st.pos + rank l))) g
  have hranks : s.ranks u = s.issue.lanes.map fun l => (l, rank l) := by
    refine List.ext_getElem (by simp [State.ranks]) fun k hk _ => ?_
    simp [State.ranks, rank, hn.idxOf_getElem]
  have hfold (g : Group) : (s.ranks u).foldl (fun h x => h.setFlag x.1 c (decide (st.fin ≤ st.pos + x.2))) g = f g := by
    rw [hranks, List.foldl_map]
  obtain ⟨ys, hys, hylen⟩ := Group.setFlags_eq s.me s.issue.lanes c fun l => decide (st.fin ≤ st.pos + rank l)
  refine ⟨(s.modMe f).retire, ?_, State.modMe_retire_passed hi.1 f (by rw [show f s.me = _ from hys]; exact hylen), fun k hk hl => ?_⟩
  · rw [exec_zend, execZend, fieldWith_open (fun _ => rfl) hst, issueWith_issuing hi, hst]
    simp only [hfold]
  · rw [State.retire_me (by rw [State.me?_modMe, Option.isSome_map]; exact hi.1), State.me_modMe _ _ hi.1, State.retireGroup_flag]
    refine (Group.flag_setFlags s.me s.issue.lanes c _ (List.getElem_mem hk) hl hc).trans ?_
    simp [rank, hn.idxOf_getElem]

end

/-! Elements. -/

theorem Group.reg_setSame (g : Group) (ls : List Nat) (d : Nat) (v : Word) {l : Nat} (hl : l ∈ ls) :
    (ls.foldl (fun h l => h.setRegs l [(d, v)]) g).reg l d = v := by
  rw [Group.reg_setLanes g ls (fun _ => [(d, v)]) l d (fun _ _ x hx => by rw [List.mem_singleton.mp hx]; omega), if_pos hl]
  simp [lastWrite]

section
variable {s : State} (hi : s.Issuing) (u : Bool) (d hd base n past : Nat) {st : Stream}
include hi

/-- Past END every lane gets the value for it (R277, R278). -/
theorem State.streamRead_past (hp : st.fin ≤ st.pos) :
    ∃ t, s.streamRead u d hd base n past st = .next t ∧ s.AllPassed t ∧ s.Result t u d fun _ => BitVec.ofNat 32 past := by
  let f : Group → Group := fun g => s.issue.lanes.foldl (fun h l => h.setRegs l [(d, BitVec.ofNat 32 past)]) g
  have hhere : (s.ranks u).filter (fun x => decide (st.pos + x.2 < st.fin)) = [] :=
    List.filter_eq_nil_iff.mpr fun x _ => by simp; omega
  have hout : ((s.ranks u).filter fun x => !decide (st.pos + x.2 < st.fin)).map (·.1) = s.issue.lanes := by
    rw [List.filter_eq_self.mpr fun x _ => by simp; omega]
    refine List.ext_getElem (by simp [State.ranks]) fun k hk _ => ?_
    simp [State.ranks]
  obtain ⟨rs, ps, hset⟩ := Group.setLanes_eq s.me s.issue.lanes fun _ => [(d, BitVec.ofNat 32 past)]
  refine ⟨(s.modMe f).retire, ?_, State.modMe_retire_passed hi.1 f (by rw [show f s.me = _ from hset]), fun l hl => ?_⟩
  · unfold State.streamRead
    simp only [hhere, hout, List.map_nil, List.take_nil, ite_self, handleFault_nil]
    rfl
  · rw [State.modMe_retire_reg hi.1]
    exact Group.reg_setSame s.me s.issue.lanes d _ hl

/-- The element of an issue whose lanes read one (R277, R278). -/
theorem State.streamRead_element {r : Ref} {pa : Nat} (hc : s.Calm) (hp : st.pos < st.fin)
    (hone : u = true ∨ s.issue.lanes = [s.issue.lanes.headD 0])
    (hf : s.handleFault hd n [.read] [(s.issue.lanes.headD 0, base + n * st.pos)] = none)
    (hr : s.resolve s.actor hd (base + n * st.pos) n [] none = .ok r) (hpa : s.HeapRef r n pa) :
    ∃ t, s.streamRead u d hd base n past st = .next t ∧ s.AllPassed t ∧
      s.Result t u d fun _ => BitVec.ofNat 32 (leNat (Mem.bytes s.mem pa n)) := by
  let v := leNat (Mem.bytes s.mem pa n)
  let offs := s.issue.lanes.map fun l => (l, base + n * st.pos)
  have hranks : s.ranks u = s.issue.lanes.map (·, 0) := by
    rcases hone with rfl | hone
    · refine List.ext_getElem (by simp [State.ranks]) fun k hk _ => ?_
      simp [State.ranks]
    · rw [State.ranks, hone]
      cases u <;> rfl
  have hhere : (s.ranks u).filter (fun x => decide (st.pos + x.2 < st.fin)) = s.issue.lanes.map (·, 0) := by
    rw [hranks]
    exact List.filter_eq_self.mpr fun x hx => by obtain ⟨l, -, rfl⟩ := List.mem_map.mp hx; simpa using hp
  have hout : (s.ranks u).filter (fun x => !decide (st.pos + x.2 < st.fin)) = [] := by
    rw [hranks]
    exact List.filter_eq_nil_iff.mpr fun x hx => by obtain ⟨l, -, rfl⟩ := List.mem_map.mp hx; simpa using hp
  obtain ⟨l0, ls, hls⟩ := List.exists_cons_of_ne_nil hi.2
  have hmine : (if u then offs.take 1 else offs) = [(s.issue.lanes.headD 0, base + n * st.pos)] := by
    rcases hone with rfl | hone
    · simp [offs, hls]
    · obtain ⟨l, hl⟩ : ∃ l, s.issue.lanes = [l] := ⟨_, hone⟩
      simp [offs, hl]
  have hread : s.readEach hd n [(s.issue.lanes.headD 0, base + n * st.pos)] = (s, .ok [(s.issue.lanes.headD 0, .value v)]) := by
    simp only [State.readEach, hr, hc.readAt s.actor _ 0 hpa, v]
  obtain ⟨t, ht, hpass, hreg, -⟩ := State.replyEnd_value hi hc.badPa hd v fun _ v => [(d, BitVec.ofNat 32 v)]
  refine ⟨t, ?_, hpass, fun l hl => ?_⟩
  · rw [← ht]
    unfold State.streamRead
    simp only [hhere, hout, List.map_map, Function.comp_def, Nat.add_zero, List.map_nil, List.append_nil]
    rw [show (if u = true then List.take 1 (s.issue.lanes.map fun l => (l, base + n * st.pos)) else
      s.issue.lanes.map fun l => (l, base + n * st.pos)) = _ from hmine, hf]
    simp only [hr, hpa.here, hread]
    refine congrArg (fun gs => finish (s.replyEnd hd none gs .load 0 _)) ?_
    rcases hone with rfl | hone
    · simp
    · obtain ⟨l, hl⟩ : ∃ l, s.issue.lanes = [l] := ⟨_, hone⟩
      simp [hl]
  · rw [hreg, Group.reg_setSame _ _ d _ hl]

end

/-! Opening. -/

/-- ZOPEN of a good descriptor reads the row pointers and opens the stream (R276, R277). -/
theorem State.openStream_opens {s : State} (hi : s.Issuing) (hc : s.Calm) {l z row rpoff pa : Nat} {st : Stream} {r : Ref}
    (hf : s.handleFault st.rpH 8 [.read] [(l, rpoff + 4 * row)] = none)
    (hr : s.resolve s.actor st.rpH (rpoff + 4 * row) 8 [] none = .ok r) (hpa : s.HeapRef r 8 pa) :
    ∃ t, s.openStream l z row st rpoff = .next t ∧ s.AllPassed t ∧ NMap.find t.me.streams z =
      some { st with pos := leNat (Mem.bytes s.mem pa 8) % 2 ^ 32, fin := leNat (Mem.bytes s.mem pa 8) / 2 ^ 32 } := by
  let v := leNat (Mem.bytes s.mem pa 8)
  have hv : v / 2 ^ 32 % 2 ^ 32 = v / 2 ^ 32 := by
    have := leNat_lt (Mem.bytes s.mem pa 8)
    rw [Mem.length_bytes] at this
    exact Nat.mod_eq_of_lt (by omega)
  let f : Group → Group := (ReplyForm.stream z st).give v []
  have hm : (s.modMe f).me?.isSome = true := by
    rw [State.me?_modMe, Option.isSome_map]
    exact hi.1
  obtain ⟨t, ht, hpass, -, hstreams⟩ := State.replyEnd_value (s := s.modMe f) ⟨hm, hi.2⟩ hc.badPa st.rpH v fun _ _ => []
  refine ⟨t, ?_, ?_, ?_⟩
  · rw [← ht]
    unfold State.openStream
    simp only [hf, hr, hpa.here, hc.readAt s.actor _ 0 hpa]
    rfl
  · intro k hk hn
    exact hpass k hk (by rw [State.me_modMe _ _ hi.1]; exact hn)
  · rw [hstreams, State.me_modMe _ _ hi.1]
    refine (NMap.find_put_self _ _ _).trans ?_
    rw [hv]

/-- Settles O34: a closed stream fails the field's check, an open one gives its state or its element, and ZOPEN reads descriptor and row
pointers as they stand. -/
theorem streams : Obligations.Streams := by
  intro s u d a c z n st
  refine ⟨fun e q r pa hc hfree => ?_, fun hst => ⟨fun hi => ⟨completes_zadv hst hi n, completes_zend hst hi, completes_zclose hst hi⟩,
    fun hfree i hmem => ?_⟩, fun hst hi i hmem => ?_⟩
  · intro off x y rp v hacc hpoison hab
    have hread : s.readLane 12 32 (s.issue.lanes.headD 0, off) = (s, .value x) := State.readLane_ab (o := (_, off)) hab (hc.claimed _ _ _ _)
    have hexec : exec (.zopen u z a) s = match streamBad x with
        | some b => .next (s.reserved 6 b off)
        | none => s.openStream (s.issue.lanes.headD 0) z (fld x 128 32) y (fld x 32 32) := by
      rw [exec_zopen, execZopen, accessWith_free hfree]
      dsimp only
      rw [hacc, hpoison, hread] <;> rfl
    refine ⟨fun b hb => by rw [hexec, hb], fun hb hf hr hpa => ?_⟩
    obtain ⟨t, ht, h⟩ := State.openStream_opens (z := z) hfree.1.1 hc hf hr hpa
    exact ⟨t, by rw [hexec, hb]; exact ht, h⟩
  · have hgo (j : Instr) (bit : Nat) (hj : NamesStream j bit z) (k : State → Stream → Out) :
        streamWith j u [d] z s k = k s st := by
      rw [streamWith, fieldWith_open hj hst, accessWhole_free hfree, hst]
    have hsame : exec i.1 s = s.streamRead u d i.2.1 i.2.2.1 i.2.2.2.1 i.2.2.2.2 st := by
      rcases List.mem_cons.mp hmem with rfl | hmem
      · exact hgo (.zld u d z) 0 (fun _ => rfl) _
      · rw [List.mem_singleton.mp hmem]
        exact hgo (.zcrd u d z) 0 (fun _ => rfl) _
    unfold Completes
    rw [hsame]
    exact ⟨State.streamRead_past hfree.1.1 _ _ _ _ _ _, fun r pa hc hp hone hf hr hpa =>
      State.streamRead_element hfree.1.1 _ _ _ _ _ _ hc hp hone hf hr hpa⟩
  · simp only [List.mem_cons, List.not_mem_nil, or_false] at hmem
    rcases hmem with rfl | rfl | rfl | rfl | rfl
    · exact (exec_zadv u z n s).trans (fieldWith_closed (fun _ => rfl) hst _)
    · exact (exec_zend u c z s).trans (fieldWith_closed (fun _ => rfl) hst _)
    · exact (exec_zclose u z s).trans (fieldWith_closed (fun _ => rfl) hst _)
    · rw [exec_zld, execZld, streamWith, fieldWith_closed (bit := 0) (fun _ => rfl) hst]
    · rw [exec_zcrd, execZcrd, streamWith, fieldWith_closed (bit := 0) (fun _ => rfl) hst]

end Sys2Proof.Machine
end

section
/-!
SUPPORT. The event queue and queue control words (R279 to R281).
-/
namespace Sys2Proof.Machine

/-! What a queue's move leaves. -/

/-- `t` is `s` with records that joined core `c`'s event queue, and nothing changed of the issue and its group. -/
structure State.EventsGrow (c : Nat) (s t : State) : Prop where
  issue : t.issue = s.issue
  me? : t.me? = s.me?
  events : ∃ rs, (t.core c).events = (s.core c).events ++ rs

theorem State.EventsGrow.refl (c : Nat) (s : State) : State.EventsGrow c s s := ⟨rfl, rfl, [], (List.append_nil _).symm⟩

theorem State.EventsGrow.trans {c : Nat} {s t u : State} (h1 : State.EventsGrow c s t) (h2 : State.EventsGrow c t u) :
    State.EventsGrow c s u := by
  obtain ⟨i1, m1, rs1, e1⟩ := h1
  obtain ⟨i2, m2, rs2, e2⟩ := h2
  exact ⟨i2.trans i1, m2.trans m1, rs1 ++ rs2, by rw [e2, e1, List.append_assoc]⟩

theorem State.eventsGrow_modCore (s : State) (c : Nat) {f : Core → Core} (hf : Core.KeepsGroups f)
    (he : ∀ k, ∃ rs, (f k).events = k.events ++ rs) : State.EventsGrow c s (s.modCore c f) := by
  refine ⟨rfl, State.me?_modCore hf c, ?_⟩
  rw [State.core_modCore_self]
  exact he _

/-- A change of a core that leaves its event queue alone. -/
theorem State.eventsGrow_modCore_same (s : State) (c : Nat) {f : Core → Core} (hf : Core.KeepsGroups f)
    (he : ∀ k, (f k).events = k.events) : State.EventsGrow c s (s.modCore c f) :=
  s.eventsGrow_modCore c hf fun k => ⟨[], by rw [he, List.append_nil]⟩

theorem Core.areaPut_rest (k : Core) (base depth : Nat) (entry : List Byte) : ∃ ab, k.areaPut base depth entry = { k with ab := ab } := by
  unfold Core.areaPut
  dsimp only
  split <;> exact ⟨_, rfl⟩

/-- A change of a core's AB alone. -/
theorem State.eventsGrow_ab (s : State) (c : Nat) {f : Core → Core} (hf : ∀ k, ∃ ab, f k = { k with ab := ab }) :
    State.EventsGrow c s (s.modCore c f) := by
  refine s.eventsGrow_modCore_same c (fun k => ?_) fun k => ?_
  · obtain ⟨ab, h⟩ := hf k
    rw [h]
    exact ⟨rfl, rfl⟩
  · obtain ⟨ab, h⟩ := hf k
    rw [h]

theorem State.eventsGrow_placeEvent (s : State) (c : Nat) (r : List Word) : State.EventsGrow c s (s.placeEvent c r) := by
  unfold State.placeEvent
  extract_lets k
  refine iteInduction (fun _ => ?_) fun _ => iteInduction (fun _ => ?_) fun _ => ?_
  · exact s.eventsGrow_modCore c (f := fun k => { k with events := k.events ++ [r] }) (fun _ => ⟨rfl, rfl⟩) fun _ => ⟨[r], rfl⟩
  · exact s.eventsGrow_ab c fun k => k.areaPut_rest (qcwBase k.qcw2) (qcwDepth k.qcw2) (wordsBytes r)
  · exact s.eventsGrow_modCore_same c (f := fun k => { k with evWait := k.evWait ++ [r] }) (fun _ => ⟨rfl, rfl⟩) fun _ => rfl

theorem State.eventsGrow_refillEvents (s : State) (c : Nat) : State.EventsGrow c s (s.refillEvents c) := by
  unfold State.refillEvents
  extract_lets k s1 s2
  have h1 : State.EventsGrow c s s1 := by
    refine iteInduction (fun _ => .refl c s) fun _ => iteInduction (fun _ => ?_) fun _ => .refl c s
    exact s.eventsGrow_modCore c (fun _ => ⟨rfl, rfl⟩) fun _ => ⟨[_], rfl⟩
  have h2 : State.EventsGrow c s1 s2 := by
    refine s1.eventsGrow_modCore_same c (fun k => ?_) fun k => ?_
    · split
      · split <;> exact ⟨rfl, rfl⟩
      · exact ⟨rfl, rfl⟩
    · split
      · split <;> rfl
      · rfl
  refine (h1.trans h2).trans ?_
  split
  · exact .refl c s2
  next r rest _ =>
    let cleared := s2.modCore c ({ · with evWait := [] })
    have h3 : State.EventsGrow c s2 cleared := s2.eventsGrow_modCore_same c (fun _ => ⟨rfl, rfl⟩) fun _ => rfl
    exact (h3.trans (cleared.eventsGrow_placeEvent c r)).trans
      ((cleared.placeEvent c r).eventsGrow_modCore_same c (f := fun k => { k with evWait := k.evWait ++ rest }) (fun _ => ⟨rfl, rfl⟩)
        fun _ => rfl)

/-- The oldest record leaves the queue; the younger ones keep their places (R281, R303). -/
theorem State.takeEvent_cons {s : State} {c : Nat} {r : List Word} {rest : List (List Word)} (h : (s.core c).events = r :: rest) :
    ∃ t, s.takeEvent c = some (r, t) ∧ t.issue = s.issue ∧ t.me? = s.me? ∧ (t.core c).events.take rest.length = rest := by
  let u := s.modCore c fun k => { k with events := rest }
  obtain ⟨hi, hm, rs, he⟩ := u.eventsGrow_refillEvents c
  have hu : (u.core c).events = rest := by rw [State.core_modCore_self]
  refine ⟨u.refillEvents c, ?_, hi, hm.trans (State.me?_modCore (f := fun k => { k with events := rest }) (fun _ => ⟨rfl, rfl⟩) c), ?_⟩
  · rw [State.takeEvent, h]
  · rw [he, hu, List.take_left]

/-! Registers that every lane receives. -/

section
variable {s t : State} (hi : t.issue = s.issue) (hm : t.me? = s.me?) (hsome : s.me?.isSome = true) (ws : List (Nat × Word))
include hi hm hsome

theorem State.giveAll_passed : s.AllPassed (t.giveAll ws).retire := by
  have hme : t.me = s.me := by rw [State.me, hm, State.me]
  have hlen : (t.giveAll ws).me.lanes.length = s.me.lanes.length := by
    obtain ⟨rs, ps, h⟩ := Group.setLanes_eq t.me t.issue.lanes fun _ => ws
    rw [State.giveAll, State.me_modMe _ _ (by rw [hm]; exact hsome), h, hme]
  exact State.retire_passed (t := t.giveAll ws) hi hlen (by rw [State.giveAll, State.me?_modMe, Option.isSome_map, hm]; exact hsome)

theorem State.giveAll_reg {l q : Nat} (hl : l ∈ s.issue.lanes) (hq : ∀ x ∈ ws, x.1 < q + 128 ∧ q < x.1 + 128) :
    (t.giveAll ws).retire.me.reg l q = lastWrite ws q (s.me.reg l q) := by
  have hme : t.me = s.me := by rw [State.me, hm, State.me]
  rw [State.giveAll_eq_writeLanes t false, State.writeLanes_reg (by rw [hm]; exact hsome) _ _ _ _ fun _ _ => hq, hi, hme, if_pos hl]

/-- The 16 words of a record, in 16 registers. -/
theorem State.giveAll_block {l d k : Nat} (r : List Word) (hl : l ∈ s.issue.lanes) (hk : k < 16) :
    (t.giveAll (blockWrites d r)).retire.me.reg l (d + k) = (r[k]?).getD 0 := by
  rw [State.giveAll_reg hi hm hsome _ hl, lastWrite_blockWrites _ _ _ _ hk]
  intro x hx
  obtain ⟨m, hmem, rfl⟩ := List.mem_map.mp hx
  have := List.mem_range.mp hmem
  dsimp only
  omega

/-- One word, in one register. -/
theorem State.giveAll_single {l d : Nat} (v : Word) (hl : l ∈ s.issue.lanes) : (t.giveAll [(d, v)]).retire.me.reg l d = v := by
  rw [State.giveAll_reg hi hm hsome _ hl fun x hx => by rw [List.mem_singleton.mp hx]; omega]
  simp [lastWrite]

end

theorem State.sameCores_giveAll (s : State) (ws : List (Nat × Word)) : s.SameCores (s.giveAll ws).retire :=
  (s.sameCores_modGroup _ _ _).trans (State.sameCores_retire _)

/-- A privileged instruction of the control thread runs its body (R49). -/
theorem privWith_ct {s : State} (h : s.isCt = true) (k : State → Out) : privWith s k = k s := if_pos h

/-! EVPOP and EVPEEK. -/

section
variable {s : State} {u : Bool} {d : Nat} (hct : s.isCt = true) (h : s.Free u [] ((List.range 16).map (d + ·)))
include hct h

/-- EVPOP gives the oldest record and takes it from the queue (R281). -/
theorem completes_evpop {r : List Word} {rest : List (List Word)} (he : (s.core s.issue.core).events = r :: rest) (wait : Bool) :
    Completes (.evpop u d wait) s fun t => s.AllPassed t ∧ (∀ l ∈ s.issue.lanes, ∀ k < 16, t.me.reg l (d + k) = (r[k]?).getD 0) ∧
      (t.core s.issue.core).events.take rest.length = rest := by
  obtain ⟨t, ht, hi, hm, hrest⟩ := State.takeEvent_cons he
  refine ⟨(t.giveAll (blockWrites d r)).retire, ?_, State.giveAll_passed hi hm h.1.1 _,
    fun l hl k hk => State.giveAll_block hi hm h.1.1 r hl hk, ?_⟩
  · rw [exec_evpop, execEvpop, privWith_ct hct, issueWith_free h, ht]
  · rw [(t.sameCores_giveAll _).read (p := Core.events) fun _ _ _ _ _ => rfl]
    exact hrest

/-- EVPEEK gives the oldest record and leaves the queue (R281). -/
theorem completes_evpeek {r : List Word} {rest : List (List Word)} (he : (s.core s.issue.core).events = r :: rest) :
    Completes (.evpeek u d) s fun t => s.AllPassed t ∧ (∀ l ∈ s.issue.lanes, ∀ k < 16, t.me.reg l (d + k) = (r[k]?).getD 0) ∧
      (t.core s.issue.core).events = (s.core s.issue.core).events := by
  refine ⟨(s.giveAll (blockWrites d r)).retire, ?_, State.giveAll_passed rfl rfl h.1.1 _,
    fun l hl k hk => State.giveAll_block rfl rfl h.1.1 r hl hk, ?_⟩
  · rw [exec_evpeek, execEvpeek, privWith_ct hct, issueWith_free h, he]
  · exact (s.sameCores_giveAll _).read (p := Core.events) (fun _ _ _ _ _ => rfl) _

section
variable (he : (s.core s.issue.core).events = [])
include he

omit hct h in
theorem takeEvent_nil : s.takeEvent s.issue.core = none := by rw [State.takeEvent, he]

/-- Without a record, EVPOP gives zero where it may not wait (R281). -/
theorem completes_evpop_zero : Completes (.evpop u d false) s fun t => s.AllPassed t ∧ s.Result t u d fun _ => 0 := by
  refine ⟨(s.giveAll [(d, 0)]).retire, ?_, State.giveAll_passed rfl rfl h.1.1 _, fun l hl => State.giveAll_single rfl rfl h.1.1 0 hl⟩
  rw [exec_evpop, execEvpop, privWith_ct hct, issueWith_free h, takeEvent_nil he]
  rfl

/-- Without a record, EVPOP waits for one (R281). -/
theorem completes_evpop_wait : Completes (.evpop u d true) s fun t => s.AllPassed t ∧ (∀ l r, t.me.reg l r = s.me.reg l r) ∧
    ∀ l ∈ s.issue.lanes, l < s.me.lanes.length → (t.me.lane l).wait = .op s.opSeq .evpop := by
  let v := s.addOp s.issue.lanes (.evpop d) none none
  have hm : v.me?.isSome = true := h.1.1
  refine ⟨v.settle (s.issue.lanes.map (·, .wait (.op s.opSeq .evpop))), ?_,
    State.settle_passed (t := v) rfl rfl hm _ (fun _ hw => nomatch hw), fun l r => State.settle_reg hm _ _ l r,
    fun l hl hn => State.settle_wait hm s.issue.lanes _ hl hn⟩
  rw [exec_evpop, execEvpop, privWith_ct hct, issueWith_free h, takeEvent_nil he]
  exact congrArg _ (State.retireWait_eq_settle v _)

/-- Without a record, EVPEEK gives zero (R281). -/
theorem completes_evpeek_zero : Completes (.evpeek u d) s fun t => s.AllPassed t ∧ s.Result t u d fun _ => 0 := by
  refine ⟨(s.giveAll [(d, 0)]).retire, ?_, State.giveAll_passed rfl rfl h.1.1 _, fun l hl => State.giveAll_single rfl rfl h.1.1 0 hl⟩
  rw [exec_evpeek, execEvpeek, privWith_ct hct, issueWith_free h, he]

end
end

/-! Queue control words. -/

theorem exec_qcfg_free {s : State} {u : Bool} {d a : Nat} (hct : s.isCt = true) (h : s.Free u [d, d + 1, a] []) :
    let l := s.issue.lanes.headD 0
    let q := s.me.pair l d
    let sel := (s.me.reg l a).toNat
    exec (.qcfg u d a) s = match s.qcfgBad q.toNat sel with
      | some r => .next (s.raise r.1 r.2 (fld q.toNat 0 21) 0)
      | none => .next (((s.applyQcw s.issue.core (fld sel 8 2) (fld sel 0 8) q).release
          fun w => w == .launchQueue || w == .copyQueue).refillEvents s.issue.core).retire := by
  rw [exec_qcfg, execQcfg, privWith_ct hct, issueWith_free h] <;> rfl

theorem State.team?_modCore (s : State) (c : Nat) {f : Core → Core} (hf : ∀ k, (f k).teams = k.teams) (d t : Nat) :
    (s.modCore c f).team? d t = s.team? d t := by
  unfold State.team?
  by_cases h : d = c
  · rw [h, State.core_modCore_self, hf]
  · rw [State.core_modCore_ne _ _ h]

theorem State.team?_serveBowait (s : State) (c d t : Nat) : (s.serveBowait c).team? d t = s.team? d t := by
  unfold State.serveBowait
  generalize s.ops = os
  induction os generalizing s with
  | nil => rfl
  | cons o os ih =>
    rw [List.foldl_cons, ih]
    split
    · dsimp only
      split
      · exact State.team?_modGroup s _ _ _ d t
      · rfl
    · rfl

theorem State.team?_areaInit (s : State) (c p depth d t : Nat) : (s.areaInit c p depth).team? d t = s.team? d t := by
  unfold State.areaInit
  split
  · rfl
  · rw [State.abWrite, State.team?_serveBowait]
    exact State.team?_modCore s c (f := Core.storeAb [] p _) (fun _ => rfl) d t

/-- An empty queue takes a new control word at once (R280). -/
theorem State.applyQcw_team {s : State} {e t : Nat} {m : Team} (hm : s.team? e t = some m) (h0 : qcwDepth m.qcw0 = 0)
    (h1 : qcwDepth m.qcw1 = 0) (q : Double) :
    ((s.applyQcw e 0 t q).team? e t).map (·.qcw0) = some q ∧ ((s.applyQcw e 1 t q).team? e t).map (·.qcw1) = some q := by
  have hinit := (s.team?_areaInit e (m.abBase + qcwBase q) (qcwDepth q) e t).trans hm
  unfold State.applyQcw
  simp only [hm, OfNat.zero_ne_ofNat, OfNat.one_ne_ofNat, if_false, if_true, State.team?_modTeam_self, hinit, Option.map_some, h0, h1, one_ne_zero,
    beq_self_eq_true, Bool.true_or, and_self]

/-- Settles O35: the oldest record of the queue, or none; and a control word that R413 does not refuse takes the place of the old. -/
theorem queueInstructions : Obligations.QueueInstructions := by
  intro s u wait d a hct
  refine ⟨fun h => ⟨fun r rest he => ⟨completes_evpop hct h he wait, completes_evpeek hct h he⟩,
    fun he => ⟨completes_evpop_zero hct h he, completes_evpop_wait hct h he, completes_evpeek_zero hct h he⟩⟩,
    fun h => ⟨fun r hr => ?_, fun hr => ?_⟩, fun e t m q hm h0 h1 => State.applyQcw_team hm h0 h1 q⟩
  · rw [exec_qcfg_free hct h, hr]
  · rw [exec_qcfg_free hct h, hr]

end Sys2Proof.Machine
end

section
/-!
SUPPORT. CFGRD and CFGWR of the control thread (R6, R289, R315).
-/
namespace Sys2Proof.Machine

/-- No issue of a control thread is traced. -/
theorem State.untraced_ct {s : State} (h : s.isCt = true) : s.Untraced := Or.inl h

theorem State.cfg_retire_ct {s : State} (h : s.isCt = true) : s.retire.cfg = s.cfg := by
  rw [State.retire_untraced (State.untraced_ct h)]
  rfl

/-- A read leaves every register as it was but one that clears (R6). -/
theorem State.cfgRead_state (s : State) (i c vi : Nat) :
    (∀ r, Config.reg? i = some r → r.access = .rc → (s.cfgRead i c vi).2.cfgGet i (scopeKey r.scope c vi) = 0) ∧
      ((∀ r, Config.reg? i = some r → r.access ≠ .rc) → (s.cfgRead i c vi).2 = s) := by
  unfold State.cfgRead
  refine ⟨fun r hr ha => ?_, fun h => ?_⟩
  · simp only [hr, ha, if_true, State.cfgGet_cfgPut_self]
  · dsimp only
    split
    case h_1 r hr => rw [if_neg (h r hr)]
    case h_2 => rfl

theorem State.cfgRead_issue (s : State) (i c vi : Nat) :
    (s.cfgRead i c vi).2.issue = s.issue ∧ (s.cfgRead i c vi).2.me? = s.me? := by
  unfold State.cfgRead
  dsimp only
  split
  · split <;> exact ⟨rfl, rfl⟩
  · exact ⟨rfl, rfl⟩

section
variable {s : State} (hct : s.isCt = true) {d : Nat} (i : Nat)
include hct

/-- CFGRD gives the register's value, and a counter that clears holds 0 (R6, R289). -/
theorem completes_cfgrd (h : s.Free false [] [d]) :
    let c := s.issue.core
    let vi := s.cfgGet Config.nCfgVi c
    Completes (.cfgrd d i) s fun t => s.AllPassed t ∧ (s.Result t false d fun _ => BitVec.ofNat 32 (s.cfgValue i c vi)) ∧
      (∀ r, Config.reg? i = some r → r.access = .rc → t.cfgGet i (scopeKey r.scope c vi) = 0) ∧
      ((∀ r, Config.reg? i = some r → r.access ≠ .rc) → t.cfg = s.cfg) := by
  intro c vi
  let u := (s.cfgRead i c vi).2
  let ws := [(d, BitVec.ofNat 32 (s.cfgValue i c vi))]
  obtain ⟨hi, hm⟩ := s.cfgRead_issue i c vi
  obtain ⟨hclear, hkeep⟩ := s.cfgRead_state i c vi
  have hcfg : (u.giveAll ws).retire.cfg = u.cfg :=
    State.cfg_retire_ct (s := u.giveAll ws) (by unfold State.isCt; rw [show (u.giveAll ws).issue = s.issue from hi]; exact hct)
  refine ⟨(u.giveAll ws).retire, ?_, State.giveAll_passed hi hm h.1.1 ws, fun l hl => State.giveAll_single hi hm h.1.1 _ hl,
    fun r hr ha => ?_, fun hr => ?_⟩
  · rw [exec_cfgrd, execCfgrd, privWith_ct hct, issueWith_free h]
    rfl
  · rw [State.cfgGet_of_cfg hcfg]
    exact hclear r hr ha
  · rw [hcfg]
    exact congrArg State.cfg (hkeep hr)

variable (h : s.Free false [d] [])
include h

/-- The body of CFGWR. -/
theorem exec_cfgwr_free :
    let c := s.issue.core
    let x := (s.me.reg (s.issue.lanes.headD 0) d).toNat
    exec (.cfgwr d i) s =
      if i = Config.nSwapOut then
        if !s.mayLeave c (min x 255) then .next (s.reserved 7 0 0)
        else if s.ctBusy c then .next (s.hold s.issue.lanes .line)
        else .next (((s.cfgPut Config.nSwapOut c (min x 255)).swapOut c (min x 255)).retire)
      else if i = Config.nCtRun ∧ x = 0 then .next (s.retire.cfgWrite i c 0 x)
      else .next ((s.cfgWrite i c (s.cfgGet Config.nCfgVi c) x).retire) := by
  rw [exec_cfgwr, execCfgwr, privWith_ct hct, issueWith_free h]

/-- CFGWR stores in a register that it writes and that nothing else follows from (R289). -/
theorem completes_cfgwr {i : Nat} {r : Config.Reg} (hr : Config.reg? i = some r)
    (hi : i ∈ [Config.nCtTvec, Config.nCtEpc, Config.nTrapResume, Config.nCfgVi, Config.nDbgSel]) :
    let c := s.issue.core
    let x := (s.me.reg (s.issue.lanes.headD 0) d).toNat
    Completes (.cfgwr d i) s fun t => s.AllPassed t ∧ t.cfgGet i c = r.store x ∧
      ∀ j q, (j, q) ≠ (i, c) → j < 4096 → t.cfgGet j q = s.cfgGet j q := by
  intro c x
  let u := s.cfgPut i c (r.store x)
  have hx : x % 2 ^ 32 = x := Nat.mod_eq_of_lt (BitVec.isLt _)
  have hwrite : s.cfgWrite i c (s.cfgGet Config.nCfgVi c) x = u ∧ i ≠ Config.nSwapOut ∧ i ≠ Config.nCtRun ∧ i < 4096 := by
    simp only [List.mem_cons, List.not_mem_nil, or_false] at hi
    have written {w : Config.Reg} (hw : r = w) (ha : w.access = .rw) (hf : ∀ f, w.fields = [f] → f.len ≤ 32)
        (hs : s.cfgStore i c (s.cfgGet Config.nCfgVi c) (scopeKey w.scope c (s.cfgGet Config.nCfgVi c)) (w.store x) = s.cfgPut i c (w.store x)) :
        s.cfgWrite i c (s.cfgGet Config.nCfgVi c) x = u := by
      subst hw
      rw [State.cfgWrite_eq hr ha hf, hx, hs]
    have reg {w : Config.Reg} (hw : Config.reg? i = some w) : r = w := Option.some.inj (hr.symm.trans hw)
    rcases hi with rfl | rfl | rfl | rfl | rfl
    · exact ⟨written (reg rfl) rfl (by rintro f ⟨⟩; decide) rfl, by decide⟩
    · exact ⟨written (reg rfl) rfl (by rintro f ⟨⟩; decide) rfl, by decide⟩
    · exact ⟨written (reg rfl) rfl (by rintro f ⟨⟩; decide) rfl, by decide⟩
    · exact ⟨written (reg rfl) rfl (by rintro f ⟨⟩; decide) rfl, by decide⟩
    · exact ⟨written (reg rfl) rfl (by rintro f ⟨⟩) rfl, by decide⟩
  obtain ⟨hstore, hswap, hrun, hlt⟩ := hwrite
  have hcfg : u.retire.cfg = u.cfg := State.cfg_retire_ct (s := u) hct
  refine ⟨u.retire, ?_, State.retire_passed (t := u) rfl rfl h.1.1, ?_, fun j q hne hj => ?_⟩
  · rw [exec_cfgwr_free hct i h, if_neg hswap, if_neg fun hz => hrun hz.1, hstore]
  · rw [State.cfgGet_of_cfg hcfg, State.cfgGet_cfgPut_self]
  · rw [State.cfgGet_of_cfg hcfg]
    refine State.cfgGet_cfgPut_ne _ _ fun he => hne ?_
    rw [show j = i by omega, show q = c by omega]

/-- A register that no instruction writes stays as it is (R6). -/
theorem exec_cfgwr_readOnly {i : Nat} {r : Config.Reg} (hr : Config.reg? i = some r) (ha : r.access ≠ .rw) (hswap : i ≠ Config.nSwapOut)
    (hrun : i ≠ Config.nCtRun) : exec (.cfgwr d i) s = .next s.retire := by
  rw [exec_cfgwr_free hct i h, if_neg hswap, if_neg fun hz => hrun hz.1]
  unfold State.cfgWrite
  simp only [hr, if_pos ha]

end

/-- Settles O41: CFGRD reads through `cfgRead`, and CFGWR writes through `cfgWrite` where SWAP_OUT and a stop of the thread do not come first. -/
theorem configInstructions : Obligations.ConfigInstructions := by
  intro s d i hct
  refine ⟨completes_cfgrd hct i, fun h => ?_⟩
  have hexec := exec_cfgwr_free hct i h
  refine ⟨fun hi => ⟨fun hm => ?_, fun hm hb => ?_, fun hm hb => ?_⟩, fun hi hx => ?_, fun hi hx => ?_,
    fun r hr ha hi hx => exec_cfgwr_readOnly hct h hr ha hi hx, fun r hr hi => completes_cfgwr hct h hr hi⟩
  · rw [hexec, if_pos hi, hm]
    rfl
  · rw [hexec, if_pos hi, hm, Bool.not_true, if_neg Bool.false_ne_true, if_pos hb]
  · rw [hexec, if_pos hi, hm, Bool.not_true, if_neg Bool.false_ne_true, if_neg (by simp [hb])]
  · rw [hexec, if_neg (by rw [hi]; decide), if_pos ⟨hi, hx⟩, hx]
  · rw [hexec, if_neg hi, if_neg hx]

end Sys2Proof.Machine
end

section
/-!
SUPPORT. A GSTOP of an idle victim whose lanes await a word behind a remote window (R291, R317): the freeze sends a request on their behalf, and
the lanes of the GSTOP then wait for the number of that request.
-/
namespace Sys2Proof.Machine

section
variable {s : State} {a n : Nat} {y : Team} (hct : s.isCt = true) (h : s.Free false [a] [])
  (hn : (s.me.reg (s.issue.lanes.headD 0) a).toNat = n) (hy : s.team? s.issue.core n = some y) (hrun : y.frozen = false)
  (hdrain : (y.undrained || (s.freeze s.issue.core n).drainDone s.issue.core n) = false)
include hct h hn hy hrun hdrain

/-- GSTOP with M 0 of a running team that drains: its lanes wait for the number that was free before the freeze. -/
theorem exec_gstop_drains : exec (.gstop a 0) s = .next ((((s.freeze s.issue.core n).addOp s.issue.lanes (.gstop n) none none).due
    (.gstopDrainComplete s.issue.core)).retireWait (.op s.opSeq .gstop)) := by
  rw [exec_gstop, execGstop, privWith_ct hct, issueWith_free h]
  simp only [Nat.zero_le, if_true, hn, hy, Nat.zero_ne_one, if_false, hrun, Bool.false_eq_true, hdrain]

/-- What the statement says of that wait holds only where the freeze takes no number. -/
theorem groupControl_opSeq (hg : Obligations.GroupControl) {l : Nat} (hi : (s.freeze s.issue.core n).issue = s.issue)
    (hm : (s.freeze s.issue.core n).me?.isSome = true) (hl : l ∈ s.issue.lanes) (hlen : l < (s.freeze s.issue.core n).me.lanes.length) :
    (s.freeze s.issue.core n).opSeq = s.opSeq := by
  let u := s.freeze s.issue.core n
  let v := (u.addOp s.issue.lanes (.gstop n) none none).due (.gstopDrainComplete s.issue.core)
  have hclaimed : exec (.gstop a 0) s = .next (v.retireWait (.op u.opSeq .gstop)) := by
    subst hn
    obtain ⟨-, hfree⟩ := hg s 0 a 0 hct
    obtain ⟨-, -, hteam, -⟩ := hfree h
    obtain ⟨-, hwait, -⟩ := hteam y hy
    simp only [hrun, Bool.false_eq_true, if_false] at hwait
    exact hwait hdrain
  have hsame := Host.Outcome.next.inj (hclaimed.symm.trans (exec_gstop_drains hct h hn hy hrun hdrain))
  have wait (k : Nat) : ((v.retireWait (.op k .gstop)).me.lane l).wait = .op k .gstop := by
    rw [State.retireWait_eq_settle]
    exact State.settle_wait (s := v) hm v.issue.lanes _ (by rw [show v.issue = s.issue from hi]; exact hl) hlen
  have hwaits : Wait.op u.opSeq Why.gstop = Wait.op s.opSeq Why.gstop :=
    (wait u.opSeq).symm.trans ((congrArg (fun t : State => (t.me.lane l).wait) hsame).trans (wait s.opSeq))
  exact (Wait.op.inj hwaits).1

end

/-- An idle victim is to be swapped out: a lane of its group awaits a word behind a remote window, and another has a store on its way. A
control thread stops the team. -/
def idleVictim : State :=
  { (State.reset.modCore 0 fun k => { k with groups := [(0, placedGroup)], teams := [(0, { placedTeam with victim := 2 })] }) with
    issue := ⟨0, .ct, [0], 4, ⟨0, headerWord .ctl 4⟩, 0, 0, 0⟩, opSeq := 2,
    ops := [⟨0, 0, .grp 0, [0], .remote ⟨1, 1, 0, .waitc 0 0, .waitc 0 0 0, 0, 0, none⟩, none, none, 0, false, 0, 0, some (0, 0, 0)⟩,
            ⟨1, 0, .grp 0, [1], .store, none, none, 0, false, 0, 0, some (0, 0, 0)⟩] }

/-- Refutes O42, in GSTOP's wait for the drain: at `idleVictim` the freeze takes number 2 for the request that is to wake the team, GSTOP's
operation is number 3, and its lane waits for number 2. -/
theorem not_groupControl : ¬ Obligations.GroupControl := by
  intro h
  have hfree : idleVictim.Free false [0] [] := ⟨⟨rfl, by decide⟩, by decide +kernel, by decide +kernel, by decide +kernel⟩
  have hstate : (idleVictim.me.reg 0 0).toNat = 0 ∧ idleVictim.team? 0 0 = some { placedTeam with victim := 2 } ∧
      (idleVictim.freeze 0 0).drainDone 0 0 = false := by decide +kernel
  have hfrozen : (idleVictim.freeze 0 0).issue = idleVictim.issue ∧ (idleVictim.freeze 0 0).me?.isSome = true ∧
      0 < (idleVictim.freeze 0 0).me.lanes.length ∧ (idleVictim.freeze 0 0).opSeq = 3 := by decide +kernel
  obtain ⟨hreg, hteam, hdrain⟩ := hstate
  obtain ⟨hi, hm, hlen, hseq⟩ := hfrozen
  have hno := groupControl_opSeq (s := idleVictim) rfl hfree hreg hteam rfl hdrain h hi hm (List.mem_singleton_self 0) hlen
  exact absurd (hseq.symm.trans hno) (by decide)

end Sys2Proof.Machine
end

section
/-!
SUPPORT. Pending futures: the ends of lanes that differ, holds of single lanes, and FWAIT, FTEST and FCANCEL (R271 to R273).
-/
namespace Sys2Proof.Machine

/-! Lanes that end in their own way. -/

theorem State.settle_each_lane {s : State} (hm : s.me?.isSome = true) (e : Nat → LaneEnd) {ls : List Nat} {l : Nat} (hl : l ∈ ls)
    (hn : l < s.me.lanes.length) : (s.settle (ls.map fun k => (k, e k))).me.lane l = s.endLane (e l) ((s.countGroup s.me).lane l) := by
  obtain ⟨n, ys, h, hy⟩ := s.countGroup_eq s.me
  rw [State.settle_ends_me hm]
  refine Group.lane_foldEnds_idem (by rw [h]; exact hy ▸ hn) (List.mem_map.mpr ⟨l, hl, rfl⟩) (fun x hx hxl => ?_) (s.endLane_idem _)
  obtain ⟨k, -, rfl⟩ := List.mem_map.mp hx
  rw [← hxl]

/-- An end leaves registers and pending futures. -/
theorem State.settle_ends_reg {s : State} (hm : s.me?.isSome = true) (ends : List (Nat × LaneEnd)) (l r : Nat) :
    (s.settle ends).me.reg l r = s.me.reg l r := by
  obtain ⟨n, xs, h, -⟩ := State.settle_me_eq hm ends
  rw [h]
  rfl

/-! Holds of single lanes, one after another. -/

/-- Lane `l` is held at the word of `s` for a pending register. -/
def State.AwaitsFuture (s t : State) (l : Nat) : Prop := (t.me.lane l).pc = s.issue.pc ∧ ∃ r, (t.me.lane l).wait = .retry (.future r)

/-- `t` has the issue and the registers of `s`. -/
structure State.SameRegs (s t : State) : Prop where
  issue : t.issue = s.issue
  me? : t.me?.isSome = true
  length : t.me.lanes.length = s.me.lanes.length
  reg : ∀ l r, t.me.reg l r = s.me.reg l r

theorem State.SameRegs.hold {s t : State} (h : s.SameRegs t) (ls : List Nat) (why : Why) : s.SameRegs (t.hold ls why) := by
  obtain ⟨n, xs, hme, hlen⟩ := State.hold_me_eq h.me? ls why
  refine ⟨(t.sameUnits_hold ls why).issue.trans h.issue, ?_, by rw [hme]; exact hlen.trans h.length, fun l r => ?_⟩
  · rw [State.hold_eq_settle]
    exact State.isSome_settle h.me? _
  · rw [hme]
    exact h.reg l r

/-- A hold leaves another lane where it stands. -/
theorem State.hold_lane_ne {α : Type} {p : Lane → α} (hp : ∀ x n, p (Lane.count x n) = p x) {s : State} (hm : s.me?.isSome = true) {l : Nat}
    {ls : List Nat} (hl : l ∉ ls) (why : Why) : p ((s.hold ls why).me.lane l) = p (s.me.lane l) := by
  rw [State.hold_eq_settle, State.settle_me hm, Group.lane_modLanes_ne _ _ _ hl]
  exact State.lane_countGroup hp s s.me l

/-- Lanes held for pending registers, one after another, stand at the word, and their group's registers are as they were (R271). -/
theorem State.holdEach_awaits {s : State} (why : Nat → Nat) (ls : List Nat) : ∀ t, s.SameRegs t →
    s.SameRegs (ls.foldl (fun t l => t.hold [l] (.future (why l))) t) ∧
      ∀ l < s.me.lanes.length, l ∈ ls ∨ s.AwaitsFuture t l →
        s.AwaitsFuture (ls.foldl (fun t l => t.hold [l] (.future (why l))) t) l := by
  induction ls with
  | nil => exact fun t h => ⟨h, fun l _ hl => hl.resolve_left List.not_mem_nil⟩
  | cons k ls ih =>
    intro t h
    obtain ⟨hsame, hheld⟩ := ih _ (h.hold [k] (.future (why k)))
    refine ⟨hsame, fun l hn hl => hheld l hn ?_⟩
    by_cases hk : l = k
    · obtain ⟨hw, hpc⟩ := State.hold_lane h.me? (.future (why k)) (List.mem_singleton.mpr hk) (h.length.symm ▸ hn)
      exact Or.inr ⟨by rw [hpc, h.issue], _, hw⟩
    · rcases hl with hl | ⟨hpc, r, hw⟩
      · exact Or.inl ((List.mem_cons.mp hl).resolve_left hk)
      · have hne : l ∉ [k] := fun hm => hk (List.mem_singleton.mp hm)
        refine Or.inr ⟨?_, r, ?_⟩
        · rw [State.hold_lane_ne (p := Lane.pc) (fun _ _ => rfl) h.me? hne]
          exact hpc
        · rw [State.hold_lane_ne (p := Lane.wait) (fun _ _ => rfl) h.me? hne]
          exact hw

/-- An issue whose lanes all wait for a pending register is held (R271). -/
theorem issueWith_futures {s : State} {u : Bool} {reads writes : List Nat} (h : s.Issuing)
    (hr : ∀ r ∈ reads ++ writes, r < 16 * s.me.blocks) (hf : s.futureLanes u reads writes = s.issue.lanes) (k : State → Out) :
    issueWith u reads writes s k = .next (s.holdFuture u reads writes s.issue.lanes) := by
  obtain ⟨g, hg⟩ := Option.isSome_iff_exists.mp h.1
  have hme : s.me = g := by simp [State.me, hg]
  obtain ⟨l, ls, hl⟩ := List.exists_cons_of_ne_nil h.2
  have hlow : g.lowestOutside (reads ++ writes) = none := by
    rw [← hme, Group.lowestOutside, List.filter_eq_nil_iff.mpr fun r hmem => by simpa using hr r hmem]
    rfl
  have hrest : s.issue.lanes.filter (fun x => !s.issue.lanes.contains x) = [] :=
    List.filter_eq_nil_iff.mpr fun x hx => by simpa using hx
  unfold issueWith
  rw [hg, hl]
  dsimp only
  rw [hlow, ← hl, hf]
  simp only [if_neg h.2, hrest, if_true]

/-- An instruction all of whose lanes wait for a pending register changes no register, and stands at its word (R271). -/
theorem completes_held {i : Instr} {s : State} {u : Bool} {reads writes : List Nat} {k : State → Out} (h : s.Issuing)
    (hr : ∀ r ∈ reads ++ writes, r < 16 * s.me.blocks) (hf : s.futureLanes u reads writes = s.issue.lanes)
    (he : exec i s = issueWith u reads writes s k) :
    Completes i s fun t => (∀ l r, t.me.reg l r = s.me.reg l r) ∧ ∀ l ∈ s.issue.lanes, l < s.me.lanes.length →
      (t.me.lane l).pc = s.issue.pc ∧ ∃ r, (t.me.lane l).wait = .retry (.future r) := by
  obtain ⟨hsame, hheld⟩ := State.holdEach_awaits (s := s) (fun l => ((s.me.pend.filter fun p =>
    (reads.contains p.reg && decide (p.lane = srcLane u s.issue.lanes l)) || (writes.contains p.reg && decide (p.lane = l))).map
      (·.reg)).min?.getD 0) s.issue.lanes s ⟨rfl, h.1, rfl, fun _ _ => rfl⟩
  refine ⟨s.holdFuture u reads writes s.issue.lanes, by rw [he, issueWith_futures h hr hf], hsame.reg, fun l hl hn => hheld l hn (Or.inl hl)⟩

/-! The instructions. -/

/-- FWAIT holds the lanes that still await a register, and lets the others go on (R272). -/
theorem completes_fwait {s : State} {u : Bool} {a m : Nat} (h : s.Free u (if m = 0 then [a] else []) []) :
    Completes (.fwait u a m) s fun t => (∀ l r, t.me.reg l r = s.me.reg l r) ∧ ∀ l ∈ s.issue.lanes, l < s.me.lanes.length →
      if m = 1 ∧ ∃ p ∈ s.me.pend, p.lane = l then (t.me.lane l).wait = .retry .fwait ∧ (t.me.lane l).pc = s.issue.pc
      else s.Passed t l := by
  let held := s.issue.lanes.filter fun l => m = 1 && s.me.pend.any (·.lane == l)
  let e : Nat → LaneEnd := fun l => if held.contains l then .hold .fwait else .go
  have hheld {l : Nat} (hl : l ∈ s.issue.lanes) : held.contains l = true ↔ m = 1 ∧ ∃ p ∈ s.me.pend, p.lane = l := by
    simp [held, hl]
  refine ⟨s.settle (s.issue.lanes.map fun l => (l, e l)), ?_, fun l r => State.settle_ends_reg h.1.1 _ l r, fun l hl hn => ?_⟩
  · rw [exec_fwait, execFwait, issueWith_free h]
  · have hlane := State.settle_each_lane h.1.1 e hl hn
    split
    case isTrue hp =>
      rw [hlane, show e l = .hold .fwait from if_pos ((hheld hl).mpr hp)]
      exact ⟨rfl, rfl⟩
    case isFalse hp =>
      rw [State.Passed, hlane, show e l = .go from if_neg fun hc => hp ((hheld hl).mp hc)]
      exact ⟨rfl, rfl⟩

theorem Group.lowestOutside_none {g : Group} {rs : List Nat} (h : ∀ r ∈ rs, r < 16 * g.blocks) : g.lowestOutside rs = none := by
  rw [Group.lowestOutside, List.filter_eq_nil_iff.mpr fun r hr => by simpa using h r hr]
  rfl

/-- FTEST tells a pending register from a written one (R272). -/
theorem completes_ftest {s : State} {u : Bool} {d a : Nat} (h : s.Free u [] [d]) (ha : a < 16 * s.me.blocks) :
    Completes (.ftest u d a) s fun t => s.AllPassed t ∧
      s.Result t u d fun l => if s.me.pend.any (fun p => p.lane == l && p.reg == a) then 0 else 1 := by
  let f : Group → Nat → List (Nat × Word) := fun g l => [(d, if g.pend.any (fun p => p.lane == l && p.reg == a) then 0 else 1)]
  have hd : d < 16 * s.me.blocks := (h.2.1 d (by simp)).1
  refine ⟨(s.writeLanes u f).retire, ?_, State.writeLanes_passed h.1.1 u f, fun l hl => ?_⟩
  · rw [exec_ftest, execFtest, Group.lowestOutside_none (by simp [ha, hd])]
    exact issueWith_free h _
  · rw [State.writeLanes_reg h.1.1 u f l d fun _ _ x hx => by rw [List.mem_singleton.mp hx]; omega, if_pos hl]
    simp [f, lastWrite]

/-! FCANCEL. -/

/-- A lane's pending register `a` receives the cancelled word, and what was held for it issues again (R273). -/
def Group.cancelLane (g : Group) (a l : Nat) : Group :=
  { g.setReg l a 0x40000000 with pend := g.pend.filter fun p => !(p.lane == l && p.reg == a) }.releaseFuture

theorem Group.reg_cancelLane (g : Group) {a l k r : Nat} (ha : a < 128) (hr : r < 128) :
    (g.cancelLane a l).reg k r = if k = l ∧ r = a then 0x40000000 else g.reg k r := by
  show (g.setReg l a 0x40000000).reg k r = _
  split
  case isTrue h => rw [h.1, h.2, Group.reg_setReg_self]
  case isFalse h => exact Group.reg_setReg_ne _ _ (by omega)

theorem Group.length_cancelLane (g : Group) (a l : Nat) : (g.cancelLane a l).lanes.length = g.lanes.length := List.length_map _

/-- The registers of the lanes that `c` picks, cancelled. -/
def Group.cancelLanes (g : Group) (a : Nat) (c : Nat → Bool) (ls : List Nat) : Group :=
  ls.foldl (fun h l => if c l then h.cancelLane a l else h) g

section
variable (a : Nat) (c : Nat → Bool) (ls : List Nat)

theorem Group.length_cancelLanes (g : Group) : (g.cancelLanes a c ls).lanes.length = g.lanes.length := by
  induction ls generalizing g with
  | nil => rfl
  | cons l ls ih =>
    refine (ih _).trans ?_
    dsimp only
    split
    · exact g.length_cancelLane a l
    · rfl

theorem Group.reg_cancelLanes (g : Group) (k : Nat) {r : Nat} (ha : a < 128) (hr : r < 128) :
    (g.cancelLanes a c ls).reg k r = if (k ∈ ls ∧ c k = true) ∧ r = a then 0x40000000 else g.reg k r := by
  induction ls generalizing g with
  | nil => simp [Group.cancelLanes]
  | cons l ls ih =>
    refine (ih _).trans ?_
    dsimp only
    by_cases hc : c l = true
    · rw [if_pos hc, Group.reg_cancelLane g ha hr]
      grind
    · rw [if_neg hc]
      grind

theorem Group.mem_pend_cancelLanes (g : Group) (p : Pending) :
    p ∈ (g.cancelLanes a c ls).pend ↔ p ∈ g.pend ∧ ¬(p.reg = a ∧ p.lane ∈ ls ∧ c p.lane = true) := by
  induction ls generalizing g with
  | nil => simp [Group.cancelLanes]
  | cons l ls ih =>
    refine (ih _).trans ?_
    dsimp only
    by_cases hc : c l = true
    · have hone : p ∈ (g.cancelLane a l).pend ↔ p ∈ g.pend ∧ ¬(p.lane = l ∧ p.reg = a) := by
        simp only [Group.cancelLane, Group.releaseFuture, Group.release, List.mem_filter, Bool.not_eq_true', Bool.and_eq_false_iff, beq_eq_false_iff_ne,
          ne_eq, not_and_or]
      rw [if_pos hc, hone]
      grind
    · rw [if_neg hc]
      grind

end

/-- FCANCEL writes the cancelled word where its register is pending, and nowhere else (R273). -/
theorem completes_fcancel {s : State} {u : Bool} {a : Nat} (h : s.Issuing) (hb : a < 16 * s.me.blocks) (ha : a < 128) :
    let cancelled := fun l => l ∈ s.issue.lanes ∧ ∃ p ∈ s.me.pend, p.lane = srcLane u s.issue.lanes l ∧ p.reg = a
    Completes (.fcancel u a) s fun t => s.AllPassed t ∧ t.ops = s.ops ∧
      (∀ l r, r < 128 → (cancelled l ∧ r = a → t.me.reg l r = 0x40000000) ∧ (¬(cancelled l ∧ r = a) → t.me.reg l r = s.me.reg l r)) ∧
      ∀ p, p ∈ t.me.pend ↔ p ∈ s.me.pend ∧ ¬(p.reg = a ∧ cancelled p.lane) := by
  intro cancelled
  let c : Group → Nat → Bool := fun g l => g.pend.any fun p => p.lane == srcLane u s.issue.lanes l && p.reg == a
  let f : Group → Group := fun g => g.cancelLanes a (c g) s.issue.lanes
  have hc (l : Nat) : cancelled l ↔ l ∈ s.issue.lanes ∧ c s.me l = true := by simp [cancelled, c]
  have hreg (l r : Nat) (hr : r < 128) := (State.modMe_retire_reg h.1 f l r).trans
    (Group.reg_cancelLanes a (c s.me) s.issue.lanes s.me l ha hr)
  refine ⟨(s.modMe f).retire, ?_, State.modMe_retire_passed h.1 f (Group.length_cancelLanes a _ _ s.me), State.ops_retire _,
    fun l r hr => ⟨fun hl => ?_, fun hl => ?_⟩, fun p => ?_⟩
  · rw [exec_fcancel, execFcancel, Group.lowestOutside_none (by simpa using hb)]
    exact issueWith_issuing h false _
  · rw [hreg l r hr, if_pos ⟨(hc l).mp hl.1, hl.2⟩]
  · rw [hreg l r hr, if_neg fun hx => hl ⟨(hc l).mpr hx.1, hx.2⟩]
  · obtain ⟨n, xs, hme⟩ := State.modMe_retire_me h.1 f
    rw [hme, hc]
    exact Group.mem_pend_cancelLanes a (c s.me) s.issue.lanes s.me p

/-- Settles O32: what waits is held by the frame or by FWAIT's own check, FTEST reads what is pending, and FCANCEL cancels lane by lane. -/
theorem futures : Obligations.Futures := by
  intro s u d a m
  refine ⟨completes_fwait, completes_ftest, completes_fcancel, fun i hi hr h hread hboth => ?_⟩
  have ha := hr a (by simp)
  have hd := hr d (by simp)
  simp only [List.mem_cons, List.not_mem_nil, or_false] at hi
  rcases hi with rfl | rfl
  · exact completes_held h (reads := [a]) (writes := []) (by simpa using ha) hread (exec_fwait u a 0 s)
  · exact completes_held h (reads := [a]) (writes := [d]) (by simp [ha, hd]) hboth (by rw [exec_mov, execMov, if_neg (by decide), alu1, laneOp])

end Sys2Proof.Machine
end

section
/-!
SUPPORT. LAUNCH of one record (R41, R274, R275, R306).
-/
namespace Sys2Proof.Machine

/-! The place of a launch. -/

/-- The launch that the issue in progress makes of a record. -/
def State.myLaunch (s : State) (b chips : Nat) : Launch :=
  ⟨b, if s.isCt then s.cfgGet Config.nCfgVi s.issue.core else s.myVi, match s.myTeam? with | some m => m.prio | none => 0, s.myDepth, chips, 0,
    if s.isCt then 256 else s.me.team⟩

/-- No launch of core `c` waits for room. -/
def State.NoLaunchWaits (s : State) (c : Nat) : Prop := ∀ o ∈ s.ops, o.launch? c = none

/-- The pending-launch queue of core `c` has room. -/
def State.LaunchRoom (s : State) (c : Nat) : Prop := (s.core c).launchOver = [] ∧ (s.core c).launchQ.length < 4

theorem State.placeLaunch_first {s : State} {c : Nat} (h : s.NoLaunchWaits c) (x : Launch) : s.placeLaunch c x = s.enqueueLaunch c x :=
  if_neg fun hany => by
    obtain ⟨o, ho, hs⟩ := List.any_eq_true.mp hany
    rw [h o ho] at hs
    cases hs

theorem State.placeLaunch_behind {s : State} {c : Nat} (h : ¬s.NoLaunchWaits c) (x : Launch) : s.placeLaunch c x = none := by
  refine if_pos (List.any_eq_true.mpr ?_)
  by_contra hno
  refine h fun o ho => ?_
  by_contra hsome
  exact hno ⟨o, ho, Option.isSome_iff_ne_none.mpr hsome⟩

theorem State.enqueueLaunch_room {s : State} {c : Nat} (h : s.LaunchRoom c) (x : Launch) :
    s.enqueueLaunch c x = some ((s.modCore c fun k => { k with launchQ := k.launchQ ++ [x] }).due (.launchDispatch c)) :=
  if_pos h

/-- The core with a launch in its team's overflow area. -/
def Core.launchOverflow (x : Launch) (k : Core) : Core :=
  match NMap.find k.teams x.team with
  | some m => { k.areaPut (m.abBase + qcwBase m.qcw0) (qcwDepth m.qcw0) (leBytes x.bits 64) with launchOver := k.launchOver ++ [x] }
  | none => k

theorem State.enqueueLaunch_area {s : State} {c : Nat} (h : ¬s.LaunchRoom c) {x : Launch} (ha : s.launchArea c x.team = true) :
    s.enqueueLaunch c x = some (s.modCore c (Core.launchOverflow x)) :=
  (if_neg h).trans (if_pos ha)

theorem State.enqueueLaunch_none {s : State} {c : Nat} (h : ¬s.LaunchRoom c) {x : Launch} (ha : s.launchArea c x.team = false) :
    s.enqueueLaunch c x = none :=
  (if_neg h).trans (if_neg (by rw [ha]; exact Bool.false_ne_true))

/-- A launch in its team's overflow area changes nothing of its core but AB and the launches there. -/
theorem Core.launchOverflow_some {x : Launch} {k : Core} {m : Team} (h : NMap.find k.teams x.team = some m) :
    ∃ ab, k.launchOverflow x = { k with ab := ab, launchOver := k.launchOver ++ [x] } := by
  obtain ⟨ab, hab⟩ := k.areaPut_rest (m.abBase + qcwBase m.qcw0) (qcwDepth m.qcw0) (leBytes x.bits 64)
  refine ⟨ab, ?_⟩
  unfold Core.launchOverflow
  rw [h]
  dsimp only
  rw [hab]

theorem Core.launchOverflow_rest (x : Launch) (k : Core) : ∃ ab os, k.launchOverflow x = { k with ab := ab, launchOver := os } := by
  cases h : NMap.find k.teams x.team with
  | none => exact ⟨_, _, by unfold Core.launchOverflow; rw [h]⟩
  | some m =>
    obtain ⟨ab, hab⟩ := Core.launchOverflow_some h
    exact ⟨ab, _, hab⟩

/-! The word. -/

/-- The launches have found their places, or wait for them: the flag of SETA tracks them, and the lanes end. -/
def State.launched (s t : State) (ends : List (Nat × LaneEnd)) : State :=
  (match t.setA with
    | some f => t.addOpDue s.issue.lanes .read (some f) none .registerWriteback
    | none => t).settle ends

section
variable {s : State} {u repl : Bool} {d a n l off e q : Nat} (hfree : s.Free u (a :: if repl then [d, d + 1] else []) [])
  (hoffs : (s.addrLanes u).map (fun l => (l, (s.me.reg l a).toNat + 64 * n)) = [(l, off)])
include hfree hoffs

/-- A replicated launch to no chip is RESERVED_FIELD (R275). -/
theorem exec_launch_noChips (hr : repl = true) (hc : (s.me.pair l d).toNat = 0) : exec (.launch u d a n repl) s = .next (s.reserved 2 16 0) := by
  subst hr
  rw [exec_launch, execLaunch, issueWhole_free hfree]
  dsimp only
  rw [hoffs]
  exact if_pos (by simp [hc])

variable (hchips : repl = true → (s.me.pair l d).toNat ≠ 0) (hmis : s.misaligned 12 6 [(l, off)] = none)
  (hlocal : s.localFault 12 64 [(l, off)] = none) (hpoison : s.localPoison 12 64 [(l, off)] = none)
  (hheld : s.recordsHeld [(l, off)] = false) (hab : s.myAb off 64 = some (e, q))
include hchips hmis hlocal hpoison hheld hab

/-- A record out of range is RESERVED_FIELD (R274). -/
theorem exec_launch_bad {k : Nat} (hbad : recordBad (s.abNat e q 64) = some k) :
    exec (.launch u d a n repl) s = .next (s.reserved 6 k off) := by
  rw [exec_launch, execLaunch, issueWhole_free hfree]
  dsimp only
  rw [hoffs]
  have hmask : (repl && [(l, off)].any fun o => (if repl then (s.me.pair o.1 d).toNat else 0) == 0) = false := by
    cases repl <;> simp_all
  simp only [hmask, hmis, hlocal, hheld, hpoison, Bool.false_eq_true, if_false, List.map_cons, List.map_nil, hab, List.findSome?_cons, hbad,
    Option.map_some]

variable (hgood : recordBad (s.abNat e q 64) = none)
include hgood

/-- A good record is placed, or its word stays before its issue (R41, R306). -/
theorem exec_launch_good {t : State} {ends : List (Nat × LaneEnd)}
    (hplaced : s.placeLaunches u [(l, s.abNat e q 64, if repl then (s.me.pair l d).toNat else 0)] = (t, ends)) :
    exec (.launch u d a n repl) s = if s.launchFull then .next (s.holdBefore .launchQueue) else .next (s.launched t ends) := by
  rw [exec_launch, execLaunch, issueWhole_free hfree]
  dsimp only
  rw [hoffs]
  have hmask : (repl && [(l, off)].any fun o => (if repl then (s.me.pair o.1 d).toNat else 0) == 0) = false := by
    cases repl <;> simp_all
  simp only [hmask, hmis, hlocal, hheld, hpoison, Bool.false_eq_true, if_false, List.map_cons, List.map_nil, hab, List.findSome?_cons, hgood,
    Option.map_none, List.findSome?_nil, hplaced]
  rfl

end

/-- The word stays before its issue where a launch waits for room, or neither the queue nor the team's area has any (R41, R306). -/
theorem State.launchFull_iff (s : State) : s.launchFull = true ↔ ¬s.NoLaunchWaits s.issue.core ∨
    (¬s.LaunchRoom s.issue.core ∧ s.launchArea s.issue.core (if s.isCt then 256 else s.me.team) = false) := by
  rw [State.launchFull]
  by_cases hf : s.NoLaunchWaits s.issue.core
  · rw [State.placeLaunch_first hf]
    by_cases hr : s.LaunchRoom s.issue.core
    · rw [State.enqueueLaunch_room hr]
      simp [hf, hr]
    · cases ha : s.launchArea s.issue.core (if s.isCt then 256 else s.me.team) with
      | true =>
        rw [State.enqueueLaunch_area hr ha]
        simp [hf]
      | false =>
        rw [State.enqueueLaunch_none hr ha]
        simp [hr]
  · rw [State.placeLaunch_behind hf]
    simp [hf]

/-- The issue of one launch that finds its place. -/
theorem State.placeLaunches_one {s t : State} {u : Bool} {l b chips : Nat} (hl : u = true ∨ s.issue.lanes = [l])
    (ht : s.placeLaunch s.issue.core (s.myLaunch b chips) = some t) :
    s.placeLaunches u [(l, b, chips)] = (t, s.issue.lanes.map (·, .go)) := by
  have hls : (if u then s.issue.lanes else [l]) = s.issue.lanes := by
    rcases hl with rfl | hl
    · rfl
    · rw [hl, ite_self]
  change (match s.placeLaunch s.issue.core (s.myLaunch b chips) with
    | some t => (t, (if u then s.issue.lanes else [l]).map (·, LaneEnd.go) ++ [])
    | none => _) = _
  rw [ht, hls, List.append_nil]

/-! What a placed launch leaves. -/

/-- But for an operation that its flag tracks, a placed launch only ends its lanes. -/
theorem State.launched_eq (s t : State) (ends : List (Nat × LaneEnd)) :
    ∃ os ag n, s.launched t ends = ({ t with ops := os, agenda := t.agenda ++ ag, opSeq := n } : State).settle ends := by
  unfold State.launched
  cases t.setA with
  | none => exact ⟨t.ops, [], t.opSeq, by rw [List.append_nil]⟩
  | some f => exact ⟨_, _, _, rfl⟩

section
variable {s t : State} (hm : t.me? = s.me?) (hsome : s.me?.isSome = true)
include hm hsome

theorem State.launched_passed (hi : t.issue = s.issue) : s.AllPassed (s.launched t (s.issue.lanes.map (·, .go))) := by
  have hme : t.me = s.me := by rw [State.me, hm, State.me]
  obtain ⟨os, ag, n, h⟩ := s.launched_eq t (s.issue.lanes.map (·, .go))
  rw [h]
  refine State.settle_passed (t := { t with ops := os, agenda := t.agenda ++ ag, opSeq := n }) hi ?_ (by rw [← hsome, ← hm]; rfl) .go
    fun _ h => nomatch h
  rw [← hme]
  rfl

theorem State.launched_reg (ends : List (Nat × LaneEnd)) (l r : Nat) : (s.launched t ends).me.reg l r = s.me.reg l r := by
  have hme : t.me = s.me := by rw [State.me, hm, State.me]
  obtain ⟨os, ag, n, h⟩ := s.launched_eq t ends
  rw [h, State.settle_ends_reg (by rw [← hsome, ← hm]; rfl), ← hme]
  rfl

end

theorem State.sameCores_settle (s : State) (ends : List (Nat × LaneEnd)) : s.SameCores (s.settle ends) :=
  s.sameCores_countIssue.trans (State.sameCores_modGroup _ _ _ _)

theorem State.sameCores_launched (s t : State) (ends : List (Nat × LaneEnd)) : t.SameCores (s.launched t ends) := by
  obtain ⟨os, ag, n, h⟩ := s.launched_eq t ends
  rw [h]
  refine State.SameCores.trans (t := { t with ops := os, agenda := t.agenda ++ ag, opSeq := n }) (State.sameCores_of_eq rfl) ?_
  exact State.sameCores_settle _ ends

theorem State.mem_agenda_launched (s : State) {t : State} {e : Instr} (he : e ∈ t.agenda) (ends : List (Nat × LaneEnd)) :
    e ∈ (s.launched t ends).agenda := by
  obtain ⟨os, ag, n, h⟩ := s.launched_eq t ends
  rw [h, (State.sameUnits_settle _ ends).agenda]
  exact List.mem_append_left _ he

/-- Settles O33: the record is checked whole, and the launch goes to the queue or the area, or the word stays where it is. -/
theorem launches : Obligations.Launches := by
  intro s u repl d a n l0 off chips c hfree hone
  have hoffs : (s.addrLanes u).map (fun l => (l, (s.me.reg l a).toNat + 64 * n)) = [(l0, off)] := by
    obtain ⟨l, ls, hl⟩ := List.exists_cons_of_ne_nil hfree.1.2
    have hl0 : l0 = l := by rw [show l0 = s.issue.lanes.headD 0 from rfl, hl]; rfl
    subst hl0
    rcases hone with rfl | hone
    · rw [State.addrLanes, if_pos rfl, hl]
      rfl
    · rw [State.addrLanes, hone]
      cases u <;> rfl
  refine ⟨fun hr hc => exec_launch_noChips hfree hoffs hr (by rw [← hc]; exact (if_pos hr).symm), ?_⟩
  intro hchips hmis hlocal hpoison hheld e q hab b vi x
  have hmask : repl = true → (s.me.pair l0 d).toNat ≠ 0 := fun hr hz => hchips hr ((if_pos hr).trans hz)
  refine ⟨fun k hk => exec_launch_bad hfree hoffs hmask hmis hlocal hpoison hheld hab hk, ?_⟩
  intro first hgood
  have hplace {t : State} (hfull : ¬s.launchFull = true) (ht : s.placeLaunch c x = some t) :
      exec (.launch u d a n repl) s = .next (s.launched t (s.issue.lanes.map (·, .go))) :=
    (exec_launch_good hfree hoffs hmask hmis hlocal hpoison hheld hab hgood (State.placeLaunches_one hone ht)).trans (if_neg hfull)
  refine ⟨fun hf ho hq => ?_, fun hf hr ha => ?_, fun hno => ?_⟩
  · let t := (s.modCore c fun k => { k with launchQ := k.launchQ ++ [x] }).due (.launchDispatch c)
    have hroom : s.LaunchRoom c := ⟨ho, hq⟩
    have hm : t.me? = s.me? := State.me?_modCore (f := fun k => { k with launchQ := k.launchQ ++ [x] }) (fun _ => ⟨rfl, rfl⟩) c
    refine ⟨_, hplace (fun hfull => ?_) ((State.placeLaunch_first hf x).trans (State.enqueueLaunch_room hroom x)),
      State.launched_passed (t := t) hm hfree.1.1 rfl, ?_, ?_, State.launched_reg (t := t) hm hfree.1.1 _⟩
    · rcases (State.launchFull_iff s).mp hfull with h | h
      · exact h hf
      · exact h.1 hroom
    · rw [(s.sameCores_launched t _).read (p := Core.launchQ) fun _ _ _ _ _ => rfl]
      exact congrArg Core.launchQ (State.core_modCore_self s c fun k => { k with launchQ := k.launchQ ++ [x] })
    · exact State.mem_agenda_launched s (List.mem_append_right _ List.mem_cons_self) _
  · let t := s.modCore c (Core.launchOverflow x)
    have hm : t.me? = s.me? := State.me?_modCore (fun k => by
      obtain ⟨ab, os, h⟩ := Core.launchOverflow_rest x k
      rw [h]
      exact ⟨rfl, rfl⟩) c
    have hcore : (t.core c).launchQ = (s.core c).launchQ ∧ (t.core c).launchOver = (s.core c).launchOver ++ [x] := by
      obtain ⟨m, hmem⟩ : ∃ m, NMap.find (s.core c).teams x.team = some m := by
        rw [State.launchArea] at ha
        cases hteam : s.team? c x.team with
        | none => rw [hteam] at ha; cases ha
        | some m => exact ⟨m, hteam⟩
      obtain ⟨ab, hab⟩ := Core.launchOverflow_some hmem
      rw [State.core_modCore_self, hab]
      exact ⟨rfl, rfl⟩
    refine ⟨_, hplace (fun hfull => ?_) ((State.placeLaunch_first hf x).trans (State.enqueueLaunch_area hr ha)),
      State.launched_passed (t := t) hm hfree.1.1 rfl, ?_, ?_⟩
    · rcases (State.launchFull_iff s).mp hfull with h | h
      · exact h hf
      · exact Bool.false_ne_true (h.2.symm.trans ha)
    · rw [(s.sameCores_launched t _).read (p := Core.launchQ) fun _ _ _ _ _ => rfl]
      exact hcore.1
    · rw [(s.sameCores_launched t _).read (p := Core.launchOver) fun _ _ _ _ _ => rfl]
      exact hcore.2
  · obtain ⟨t, ends, hp⟩ : ∃ t ends, s.placeLaunches u [(l0, b, if repl then (s.me.pair l0 d).toNat else 0)] = (t, ends) := ⟨_, _, rfl⟩
    exact (exec_launch_good hfree hoffs hmask hmis hlocal hpoison hheld hab hgood hp).trans (if_pos ((State.launchFull_iff s).mpr hno))

end Sys2Proof.Machine
end

section
/-!
SUPPORT. Arrivals at a barrier in a core whose groups do not stand in ascending order of their slots: an update of the issuing group puts it before
the others and leaves the old one behind, so that its absent lanes count twice (R285).
-/
namespace Sys2Proof.Machine

/-- Two groups of one core, the higher slot first; the lower slot's has two lanes, of which lane 0 issues, and its team's barrier 0 counts one
arrival without a name. -/
def crossedGroups : State :=
  let g : Group := { placedGroup with lanes := List.replicate 2 (Lane.ctStart 0) }
  { (State.reset.modCore 0 fun k => { k with
      groups := [(5, { g with team := 1 }), (3, g)], teams := [(0, { placedTeam with bars := List.replicate 8 ⟨0, [], 1⟩ })] }) with
    issue := ⟨0, .grp 3, [0], 4, ⟨0, headerWord .ctl 4⟩, 0, 0, 0⟩ }

theorem crossedGroups_free : crossedGroups.AccessFree false [] [] :=
  ⟨⟨⟨rfl, by decide⟩, by decide, by decide +kernel, by decide +kernel⟩, by decide +kernel⟩

theorem exec_bara_team {s : State} (h : s.AccessFree false [] []) {n : Nat} (ha : s.issue.agent = .grp n) (b : Nat) :
    exec (.bara b) s = .next (s.arriveAt b .bara fun _ => none) := by
  rw [exec_bara, execBara, accessWith_free h, ha]

/-- Refutes O39, in the completion of a phase: at `crossedGroups` one lane is absent besides the one that arrives, as many as the arrivals without
a name, but the phase goes on after the arrival. The statement leaves out that a core's groups stand in ascending order. -/
theorem not_barriers : ¬ Obligations.Barriers := by
  intro h
  have hteam : crossedGroups.team? (crossedGroups.barHome crossedGroups.issue.core crossedGroups.me.team).1
      (crossedGroups.barHome crossedGroups.issue.core crossedGroups.me.team).2 =
        some { placedTeam with bars := List.replicate 8 ⟨0, [], 1⟩ } := by decide +kernel
  obtain ⟨hboth, -⟩ := h crossedGroups 0 3 _ crossedGroups_free rfl hteam (by decide)
  obtain ⟨harrive, -⟩ := hboth (.bara 0, .none) List.mem_cons_self
  obtain ⟨-, hdone⟩ := harrive (by decide +kernel)
  obtain ⟨t, ht, -, hbar, -⟩ := hdone (by decide +kernel) (by decide +kernel)
  have hgoes : t = crossedGroups.arriveAt 0 .bara fun _ => none :=
    Host.Outcome.next.inj (ht.symm.trans (exec_bara_team crossedGroups_free rfl 0))
  have hphase := congrArg Bar.phase hbar
  rw [hgoes] at hphase
  exact absurd hphase (by decide +kernel)

end Sys2Proof.Machine
end

section
/-!
SUPPORT. Exceptions: what stopping a core, entering the handler and leaving it change of cores, groups and registers (R380, R381, R386, R390), and
TRAP, BKPT and ERET (R288, R294).
-/
namespace Sys2Proof.Machine

/-! Registers and cores through a trace. -/

/-- A trace writes no register but the tail of its core's ring (R453). -/
theorem State.cfgGet_tracePut (s : State) (c : Nat) (bs : List Nat) {num key : Nat} (hn : num < 4096) (ht : num ≠ Config.nTrcTail) :
    (s.tracePut c bs).cfgGet num key = s.cfgGet num key := by
  have hlt : Config.nTrcTail < 4096 := by decide
  refine (State.cfgGet_cfgPut_ne _ _ ?_).trans (State.cfgGet_of_cfg rfl num key)
  omega

theorem State.cfgGet_trace (s : State) (c v : Nat) (p : List Nat) {num key : Nat} (hn : num < 4096) (ht : num ≠ Config.nTrcTail) :
    (s.trace c v p).cfgGet num key = s.cfgGet num key := by
  have mod (u : State) (f : Core → Core) : (u.modCore c f).cfgGet num key = u.cfgGet num key := State.cfgGet_of_cfg rfl num key
  have put (u : State) (bs : List Nat) := u.cfgGet_tracePut c bs (key := key) hn ht
  have keep {q : Prop} [Decidable q] {u w : State} (hu : u.cfgGet num key = s.cfgGet num key) (hw : w.cfgGet num key = s.cfgGet num key) :
      (if q then u else w).cfgGet num key = s.cfgGet num key := by
    split
    · exact hu
    · exact hw
  have written (bs : List Nat) (f : Core → Core) := (mod (s.tracePut c bs) f).trans (put s bs)
  refine keep rfl (keep (mod s _) (keep (written _ _) (keep ?_ ?_)))
  · exact (mod _ _).trans (written _ _)
  · exact (put _ _).trans (written _ _)

theorem State.core_cfgPut (s : State) (num k v c : Nat) : (s.cfgPut num k v).core c = s.core c := rfl

/-- Two states whose group `a` of core `c` is the same. -/
theorem Core.ct_of_group? {k q : Core} (h : q.group? .ct = k.group? .ct) : q.ct = k.ct := Option.some.inj h

/-! The stop. -/

/-- What the stop of core `c` for entry `e` leaves, up to the delivery: counted, stopped, trapped and queued (R386). -/
structure State.StoppedFor (s t : State) (c : Nat) (e : Entry) : Prop where
  cfg : ∀ num key, num < 4096 → num ≠ Config.nTrcTail → num ≠ Config.nErrTrap → t.cfgGet num key = s.cfgGet num key
  count : t.cfgGet Config.nErrTrap e.vi = min (s.cfgGet Config.nErrTrap e.vi + 1) 0xFFFFFFFF
  ct : (t.core c).ct = (s.core c).ct
  stopped : (t.core c).stopped = true
  inHandler : (t.core c).inHandler = (s.core c).inHandler
  dead : (t.core c).dead = (s.core c).dead
  entries : (t.core c).entries = (s.core c).entries.filter (·.code ≠ 0x30) ++ e :: (s.core c).entries.filter (·.code = 0x30)
  group : t.group? c (.grp e.gslot) = (s.group? c (.grp e.gslot)).map ({ · with trapped := true })

/-- A fault that no reply raised goes behind the faults that wait, and before the PREEMPT entries (R380). -/
theorem State.entries_enqueue (s : State) (c : Nat) {e : Entry} (hcode : e.code ≠ 0x30) (hlate : e.late = false) :
    (s.enqueue c e).core c =
      { s.core c with entries := (s.core c).entries.filter (·.code ≠ 0x30) ++ e :: (s.core c).entries.filter (·.code = 0x30) } := by
  have hahead : ∀ x, (!e.ahead x) = true := fun x => by simp [Entry.ahead, hlate]
  have htake (xs : List Entry) : xs.takeWhile (fun x => !e.ahead x) = xs := List.takeWhile_eq_self_iff.mpr fun x _ => hahead x
  have hdrop (xs : List Entry) : xs.dropWhile (fun x => !e.ahead x) = [] := List.dropWhile_eq_nil_iff.mpr fun x _ => hahead x
  rw [State.enqueue, State.core_modCore_self]
  dsimp only
  rw [if_neg hcode, htake, hdrop, List.append_assoc, List.cons_append, List.nil_append]

theorem State.stopFor_stopped (s : State) (c : Nat) {e : Entry} (hcode : e.code ≠ 0x30) (hlate : e.late = false) :
    s.StoppedFor (s.stopFor c e) c e := by
  let f : Core → Core := fun k => { k with stopped := true }.modGroup (.grp e.gslot) ({ · with trapped := true })
  let u := (s.count Config.nErrTrap e.vi 1).modCore c f
  let v := u.trace c e.vi [6, e.gslot, e.code]
  have hu : u.core c = f (s.core c) := State.core_modCore_self _ c f
  have hrest := Core.modGroup_rest { s.core c with stopped := true } (.grp e.gslot) ({ · with trapped := true })
  have hsame : u.SameCores v := State.SameCores.trace (fun _ => rfl) c e.vi _
  have hv : (s.stopFor c e).core c = { v.core c with
      entries := (v.core c).entries.filter (·.code ≠ 0x30) ++ e :: (v.core c).entries.filter (·.code = 0x30) } :=
    State.entries_enqueue v c hcode hlate
  have read {α : Type} {p : Core → α} (hp : Core.Local p) (hg : ∀ k : Core, p { k with stopped := true } = p k) :
      p (v.core c) = p (s.core c) :=
    calc p (v.core c) = p (u.core c) := hsame.read hp c
      _ = p (f (s.core c)) := congrArg p hu
      _ = p { f (s.core c) with ct := (s.core c).ct, groups := (s.core c).groups } :=
        (hp (f (s.core c)) (s.core c).ct (s.core c).groups (f (s.core c)).traceLost (f (s.core c)).traceSync).symm
      _ = p { s.core c with stopped := true } := congrArg p hrest
      _ = p (s.core c) := hg _
  have hentries : (v.core c).entries = (s.core c).entries := read (p := Core.entries) (fun _ _ _ _ _ => rfl) fun _ => rfl
  have hgroup (a : Agent) : v.group? c a = (f (s.core c)).group? a := (u.group?_trace c e.vi _ c a).trans (congrArg (Core.group? · a) hu)
  have hcfg (num key : Nat) (hn : num < 4096) (ht : num ≠ Config.nTrcTail) :
      (s.stopFor c e).cfgGet num key = (s.count Config.nErrTrap e.vi 1).cfgGet num key := by
    have hqueue : (s.stopFor c e).cfgGet num key = v.cfgGet num key := State.cfgGet_of_cfg rfl num key
    have hstop : u.cfgGet num key = (s.count Config.nErrTrap e.vi 1).cfgGet num key := State.cfgGet_of_cfg rfl num key
    rw [hqueue, State.cfgGet_trace u c e.vi _ hn ht, hstop]
  refine ⟨fun num key hn ht he => ?_, ?_, ?_, ?_, ?_, ?_, ?_, ?_⟩
  · rw [hcfg num key hn ht, State.count]
    refine State.cfgGet_cfgPut_ne s _ ?_
    have hlt : Config.nErrTrap < 4096 := by decide
    omega
  · rw [hcfg _ _ (by decide) (by decide), State.count, State.cfgGet_cfgPut_self]
  · rw [hv]
    exact (Core.ct_of_group? (hgroup .ct)).trans (Core.ct_of_group? (Core.group?_modGroup_ne _ _ (fun h => nomatch h)))
  · rw [hv]
    refine (hsame.read (p := Core.stopped) (fun _ _ _ _ _ => rfl) c).trans ?_
    rw [hu]
    exact congrArg Core.stopped hrest
  · rw [hv]
    exact read (p := Core.inHandler) (fun _ _ _ _ _ => rfl) fun _ => rfl
  · rw [hv]
    exact read (p := Core.dead) (fun _ _ _ _ _ => rfl) fun _ => rfl
  · rw [hv, hentries]
  · have hqueue : (s.stopFor c e).group? c (.grp e.gslot) = v.group? c (.grp e.gslot) := by
      rw [State.group?, hv]
      rfl
    rw [hqueue, hgroup]
    exact Core.group?_modGroup_self _ _ _

/-! The entry. -/

/-- The registers of a trap record. -/
theorem State.cfgGet_putRecord (s : State) (c : Nat) (e : Entry) {m : Nat} (hm : m < 16) :
    (s.putRecord c e).cfgGet (Config.nTrec0 + m) c = e.record / 2 ^ (32 * m) % 2 ^ 32 := by
  refine read_foldl_of_mem (read := fun (t : State) m => t.cfgGet (Config.nTrec0 + m) c) (g := fun m _ => e.record / 2 ^ (32 * m) % 2 ^ 32)
    (fun t m => State.cfgGet_cfgPut_self t _ _ _) (fun t a b hb => State.cfgGet_cfgPut_ne t _ (by omega)) List.nodup_range
    (List.mem_range.mpr hm) s

theorem State.cfgGet_putRecord_ne (s : State) (c : Nat) (e : Entry) {num key : Nat} (hn : num < 4096)
    (h : num < Config.nTrec0 ∨ Config.nTrec0 + 16 ≤ num) : (s.putRecord c e).cfgGet num key = s.cfgGet num key := by
  have hlt : Config.nTrec0 + 16 < 4096 := by decide
  have fold : ∀ (ms : List Nat) (u : State), (∀ m ∈ ms, m < 16) →
      (ms.foldl (fun t m => t.cfgPut (Config.nTrec0 + m) c (e.record / 2 ^ (32 * m) % 2 ^ 32)) u).cfgGet num key = u.cfgGet num key := by
    intro ms
    induction ms with
    | nil => exact fun u _ => rfl
    | cons m ms ih =>
      intro u hms
      have hm := hms m List.mem_cons_self
      rw [List.foldl_cons, ih _ fun x hx => hms x (List.mem_cons_of_mem _ hx), State.cfgGet_cfgPut_ne _ _ (by omega)]
  exact fold _ s fun m hm => List.mem_range.mp hm

theorem State.core_putRecord (s : State) (c : Nat) (e : Entry) (d : Nat) : (s.putRecord c e).core d = s.core d := by
  have fold : ∀ (ms : List Nat) (u : State),
      (ms.foldl (fun t m => t.cfgPut (Config.nTrec0 + m) c (e.record / 2 ^ (32 * m) % 2 ^ 32)) u).core d = u.core d := by
    intro ms
    induction ms with
    | nil => exact fun u => rfl
    | cons m ms ih => exact fun u => ih _
  exact fold _ s

/-- The control thread's lane at the start of its handler (R380). -/
def Lane.inHandler (pc : Nat) (x : Lane) : Lane := { x with pc := pc, clause := none, wait := .none, back := none, counted := false }

/-- What an entry writes: CT_EPC, the record and the default action, and where the control thread goes on (R380, R381, R390). -/
structure State.Entered (s t : State) (c : Nat) (e : Entry) (pc : Nat) : Prop where
  epc : t.cfgGet Config.nCtEpc c = pc % 2 ^ 32
  record : ∀ m < 16, t.cfgGet (Config.nTrec0 + m) c = e.record / 2 ^ (32 * m) % 2 ^ 32
  resume : t.cfgGet Config.nTrapResume c = e.defaultAct
  rest : ∀ key, t.cfgGet Config.nErrTrap key = s.cfgGet Config.nErrTrap key
  core : ∃ n q, t.core c = { s.core c with
    inHandler := true, cur := some e, epcClause := q,
    ct := { (s.core c).ct with rwc := n }.modLane 0 (Lane.inHandler (s.cfgGet Config.nCtTvec c)) }

theorem State.enter_entered (s : State) (c : Nat) (e : Entry) (p : Nat × Option Clause) : s.Entered (s.enter c e p) c e p.1 := by
  let u := (s.cfgPut Config.nCtEpc c (p.1 % 4294967296)).putRecord c e
  let v := u.cfgPut Config.nTrapResume c e.defaultAct
  have hcfg (num key : Nat) : (s.enter c e p).cfgGet num key = v.cfgGet num key := by
    refine State.cfgGet_of_cfg ?_ num key
    unfold State.enter
    dsimp only
    split <;> rfl
  have hkeep {num key : Nat} (hn : num < 4096) (hr : num ≠ Config.nTrapResume) : v.cfgGet num key = u.cfgGet num key := by
    have hlt : Config.nTrapResume < 4096 := by decide
    exact State.cfgGet_cfgPut_ne _ _ (by omega)
  refine ⟨?_, fun m hm => ?_, ?_, fun key => ?_, ?_⟩
  · rw [hcfg, hkeep (by decide) (by decide), State.cfgGet_putRecord_ne _ _ _ (by decide) (by decide), State.cfgGet_cfgPut_self,
      show (4294967296 : Nat) = 2 ^ 32 from rfl]
  · have hlt : Config.nTrec0 + m < 4096 ∧ Config.nTrec0 + m ≠ Config.nTrapResume := by
      have h1 : Config.nTrec0 = 336 := rfl
      have h2 : Config.nTrapResume = 384 := rfl
      omega
    rw [hcfg, hkeep hlt.1 hlt.2, State.cfgGet_putRecord _ _ _ hm]
  · rw [hcfg, State.cfgGet_cfgPut_self]
  · rw [hcfg, hkeep (by decide) (by decide), State.cfgGet_putRecord_ne _ _ _ (by decide) (by decide), State.cfgGet_cfgPut_ne]
    have h1 : Config.nErrTrap = 362 := rfl
    have h2 : Config.nCtEpc = 1 := rfl
    omega
  · unfold State.enter
    extract_lets s1 w s2 undo
    have h1 : s1.core c = s.core c := by
      unfold s1
      rw [State.core_cfgPut, State.core_putRecord, State.core_cfgPut]
    have h2 : s2.core c = s.core c := by
      rw [← h1]
      unfold s2
      generalize w = x
      cases x <;> rfl
    rw [State.core_modCore_self, h2]
    exact ⟨_, _, rfl⟩

/-! The delivery. -/

/-- The core with its first waiting entry taken. -/
def State.takenEntry (s : State) (c : Nat) (rest : List Entry) : State := s.modCore c fun q => { q with entries := rest }

theorem State.deliver_cases (s : State) (c : Nat) :
    s.deliver c = s ∨ ∃ e rest p, s.deliver c = (s.takenEntry c rest).enter c e p := by
  unfold State.deliver
  dsimp only
  split
  · exact Or.inl rfl
  · split
    · exact Or.inr ⟨_, _, _, rfl⟩
    · exact Or.inl rfl

/-- A delivery counts no trap, ends no stop and touches no group slot (R380). -/
theorem State.deliver_keeps (s : State) (c : Nat) :
    (∀ key, (s.deliver c).cfgGet Config.nErrTrap key = s.cfgGet Config.nErrTrap key) ∧
      ((s.deliver c).core c).stopped = (s.core c).stopped ∧ ∀ n, (s.deliver c).group? c (.grp n) = s.group? c (.grp n) := by
  rcases s.deliver_cases c with h | ⟨e, rest, p, h⟩
  · rw [h]
    exact ⟨fun _ => rfl, rfl, fun _ => rfl⟩
  · have hent := (s.takenEntry c rest).enter_entered c e p
    have htaken : (s.takenEntry c rest).core c = { s.core c with entries := rest } := State.core_modCore_self s c _
    obtain ⟨n, q, hcore⟩ := hent.core
    rw [htaken] at hcore
    rw [h]
    refine ⟨fun key => (hent.rest key).trans (State.cfgGet_of_cfg rfl _ _), by rw [hcore], fun n => ?_⟩
    rw [State.group?, hcore]
    rfl

theorem State.deliver_waits {s : State} {c : Nat} (h : (s.core c).inHandler = true ∨ s.ctRuns c = false) : s.deliver c = s :=
  if_pos (by rcases h with h | h <;> simp [h])

theorem State.deliver_enters {s : State} {c : Nat} {e : Entry} {rest : List Entry} {p : Nat × Option Clause} (hr : s.ctRuns c = true)
    (hh : (s.core c).inHandler = false) (he : (s.core c).entries = e :: rest) (hp : ((s.core c).ct.lane 0).boundary = some p) :
    s.deliver c = (s.takenEntry c rest).enter c e p := by
  refine (if_neg (by simp [hr, hh])).trans ?_
  rw [he, hp]
  rfl

/-! A fault of a group's issue. -/

/-- A fault that is not counted leaves its core but for its group (R386). -/
theorem State.sameCores_uncount (s : State) : s.SameCores s.uncount := s.sameCores_modGroup _ _ _

section
variable {s : State} {n : Nat} (ha : s.issue.agent = .grp n)
include ha

theorem State.ct_uncount : (s.uncount.core s.issue.core).ct = (s.core s.issue.core).ct :=
  Core.ct_of_group? (State.group?_modGroup_ne s _ (fun h => by rw [ha] at h; cases h))

/-- The stop for a fault of the group's issue. -/
theorem State.raise_stops {code : Nat} (hcode : code ≠ 0x30) (info foff fh : Nat) :
    ∃ u, s.raise code info foff fh = u.deliver s.issue.core ∧
      State.StoppedFor s.uncount u s.issue.core (s.faultEntry code info foff fh) := by
  refine ⟨s.uncount.stopFor s.issue.core (s.faultEntry code info foff fh), ?_, State.stopFor_stopped _ _ hcode rfl⟩
  rw [State.raise, ha]
  rfl

section
variable {code : Nat} (hcode : code ≠ 0x30) (info foff fh : Nat)
include hcode

/-- A fault of a group is counted, stops the core and traps the group (R386). -/
theorem State.raise_stopped (hsome : s.me?.isSome = true) :
    (s.raise code info foff fh).cfgGet Config.nErrTrap s.myVi = min (s.cfgGet Config.nErrTrap s.myVi + 1) 0xFFFFFFFF ∧
    ((s.raise code info foff fh).core s.issue.core).stopped = true ∧
    ((s.raise code info foff fh).group? s.issue.core (.grp n)).map (·.trapped) = some true := by
  obtain ⟨u, hu, hstop⟩ := State.raise_stops ha hcode info foff fh
  obtain ⟨hcfg, hstopped, hgroup⟩ := u.deliver_keeps s.issue.core
  have hslot : (s.faultEntry code info foff fh).gslot = n := by simp [State.faultEntry, ha]
  have hvi : (s.faultEntry code info foff fh).vi = s.myVi := rfl
  have htrapped := hstop.group
  rw [hslot, show s.uncount.group? s.issue.core (.grp n) = (s.group? s.issue.core (.grp n)).map _ by
    rw [← ha]; exact State.group?_modGroup_self s _ _ _] at htrapped
  obtain ⟨g, hg⟩ := Option.isSome_iff_exists.mp hsome
  rw [State.me?, ha] at hg
  rw [hu, hcfg, hstopped, hgroup, ← hvi, hstop.count, htrapped, hg]
  exact ⟨congrArg (fun x => min (x + 1) 0xFFFFFFFF) (State.cfgGet_of_cfg rfl _ _), hstop.stopped, rfl⟩

/-- Where the control thread stands at a boundary with nothing before it, it enters its handler for the fault (R380, R381, R390). -/
theorem State.raise_enters (hr : s.ctRuns s.issue.core = true) (hh : (s.core s.issue.core).inHandler = false)
    (he : (s.core s.issue.core).entries = []) (hlane : 0 < (s.core s.issue.core).ct.lanes.length) {p : Nat × Option Clause}
    (hp : ((s.core s.issue.core).ct.lane 0).boundary = some p) :
    let c := s.issue.core
    let e := s.faultEntry code info foff fh
    let t := s.raise code info foff fh
    t.cfgGet Config.nCtEpc c = p.1 % 2 ^ 32 ∧ (∀ m < 16, t.cfgGet (Config.nTrec0 + m) c = e.record / 2 ^ (32 * m) % 2 ^ 32) ∧
      t.cfgGet Config.nTrapResume c = e.defaultAct ∧ ((t.core c).ct.lane 0).pc = s.cfgGet Config.nCtTvec c ∧
      ((t.core c).ct.lane 0).clause = none ∧ ((t.core c).ct.lane 0).wait = .none ∧
      (t.core c).inHandler = true ∧ (t.core c).cur = some e ∧ (t.core c).entries = [] := by
  intro c e t
  obtain ⟨u, hu, hstop⟩ := State.raise_stops ha hcode info foff fh
  have hct := State.ct_uncount ha
  have hsame := s.sameCores_uncount
  have hct' : (u.core c).ct = (s.core c).ct := hstop.ct.trans hct
  have hin : (u.core c).inHandler = (s.core c).inHandler := hstop.inHandler.trans (hsame.read (p := Core.inHandler) (fun _ _ _ _ _ => rfl) c)
  have hdead : (u.core c).dead = (s.core c).dead := hstop.dead.trans (hsame.read (p := Core.dead) (fun _ _ _ _ _ => rfl) c)
  have hes : (s.uncount.core c).entries = (s.core c).entries := hsame.read (p := Core.entries) (fun _ _ _ _ _ => rfl) c
  have hq : (u.core c).entries = [e] := by
    rw [hstop.entries, hes, he]
    rfl
  have hcfg (num key : Nat) (hn : num < 4096) (ht : num ≠ Config.nTrcTail) (hx : num ≠ Config.nErrTrap) : u.cfgGet num key = s.cfgGet num key :=
    (hstop.cfg num key hn ht hx).trans (State.cfgGet_of_cfg rfl _ _)
  have hruns : u.ctRuns c = true := by
    rw [← hr, State.ctRuns, State.ctRuns, hcfg _ _ (by decide) (by decide) (by decide), hdead]
  have hent := (u.takenEntry c []).enter_entered c e p
  have hgoes : t = (u.takenEntry c []).enter c e p :=
    hu.trans (State.deliver_enters hruns (hin.trans hh) hq (by rw [hct']; exact hp))
  obtain ⟨k, q, hcore⟩ := hent.core
  have htaken : (u.takenEntry c []).core c = { u.core c with entries := [] } := State.core_modCore_self u c _
  have htvec : (u.takenEntry c []).cfgGet Config.nCtTvec c = s.cfgGet Config.nCtTvec c :=
    (State.cfgGet_of_cfg rfl _ _).trans (hcfg _ _ (by decide) (by decide) (by decide))
  rw [htaken, htvec] at hcore
  have hlane0 : (t.core c).ct.lane 0 = Lane.inHandler (s.cfgGet Config.nCtTvec c) ((s.core c).ct.lane 0) := by
    rw [hgoes, hcore]
    dsimp only
    rw [Group.lane_modLane, if_pos ⟨rfl, by rw [hct']; exact hlane⟩, hct']
    rfl
  refine ⟨by rw [hgoes]; exact hent.epc, fun m hm => by rw [hgoes]; exact hent.record m hm, by rw [hgoes]; exact hent.resume, ?_⟩
  rw [hlane0, hgoes, hcore]
  exact ⟨rfl, rfl, rfl, rfl, rfl, rfl⟩

/-- Where it is in a handler or stopped, the fault waits (R380). -/
theorem State.raise_waits (hw : (s.core s.issue.core).inHandler = true ∨ s.ctRuns s.issue.core = false) :
    let c := s.issue.core
    let k := s.core c
    let e := s.faultEntry code info foff fh
    let t := s.raise code info foff fh
    (t.core c).entries = k.entries.filter (·.code ≠ 0x30) ++ e :: k.entries.filter (·.code = 0x30) ∧ (t.core c).ct = k.ct ∧
      t.cfgGet Config.nCtEpc c = s.cfgGet Config.nCtEpc c := by
  intro c k e t
  obtain ⟨u, hu, hstop⟩ := State.raise_stops ha hcode info foff fh
  have hct := State.ct_uncount ha
  have hsame := s.sameCores_uncount
  have hin : (u.core c).inHandler = (s.core c).inHandler := hstop.inHandler.trans (hsame.read (p := Core.inHandler) (fun _ _ _ _ _ => rfl) c)
  have hdead : (u.core c).dead = (s.core c).dead := hstop.dead.trans (hsame.read (p := Core.dead) (fun _ _ _ _ _ => rfl) c)
  have hes : (s.uncount.core c).entries = k.entries := hsame.read (p := Core.entries) (fun _ _ _ _ _ => rfl) c
  have hcfg (num key : Nat) (hn : num < 4096) (ht : num ≠ Config.nTrcTail) (hx : num ≠ Config.nErrTrap) : u.cfgGet num key = s.cfgGet num key :=
    (hstop.cfg num key hn ht hx).trans (State.cfgGet_of_cfg rfl _ _)
  have hruns : u.ctRuns c = s.ctRuns c := by
    rw [State.ctRuns, State.ctRuns, hcfg _ _ (by decide) (by decide) (by decide), hdead]
  have hgoes : t = u := hu.trans (State.deliver_waits (by rw [hin, hruns]; exact hw))
  rw [hgoes, hstop.entries, hes]
  exact ⟨rfl, hstop.ct.trans hct, hcfg _ _ (by decide) (by decide) (by decide)⟩

end
end

/-! ERET. -/

/-- The control thread outside its handler, at `pc` (R390). -/
def Core.left (pc : Nat) (q : Core) : Core :=
  { q with inHandler := false, cur := none, epcClause := none,
           ct := q.ct.modLane 0 fun (x : Lane) => { x with pc := pc, clause := none, counted := false } }

/-- A retired action on the one entry of a trapped group lets it go on (R390). -/
theorem State.actOn_resumes {s : State} {c : Nat} {e : Entry} {g : Group} (h1 : e.code ≠ 0x30) (h2 : e.code ≠ 0x2A) (hlate : e.late = false)
    (he : (s.core c).entries = []) (hg : s.group? c (.grp e.gslot) = some g) (htrap : g.trapped = true) (hteam : g.team = e.tslot) :
    s.actOn c e 0 = s.modGroup c (.grp e.gslot) ({ · with trapped := false }) := by
  have hfind : NMap.find (s.core c).groups e.gslot = some g := hg
  unfold State.actOn
  rw [if_neg h1, if_neg h2, hfind]
  dsimp only
  rw [if_neg (by simp [htrap, hteam]), he, hlate]
  rfl

section
variable {s : State} {c : Nat} {e : Entry} {g : Group} (he : (s.core c).entries = []) (hq : (s.core c).epcClause = none)
  (hcur : (s.core c).cur = some e) (h1 : e.code ≠ 0x30) (h2 : e.code ≠ 0x2A) (hlate : e.late = false) (hother : e.other = none)
  (hresume : s.cfgGet Config.nTrapResume c = 0) (hg : s.group? c (.grp e.gslot) = some g) (htrap : g.trapped = true) (hteam : g.team = e.tslot)
include he hq hcur h1 h2 hlate hother hresume hg htrap hteam

/-- The end of a handler with nothing else to do: the group goes on, then the control thread, then the core (R390). -/
theorem State.leave_resumes : s.leave c =
    ((s.modGroup c (.grp e.gslot) ({ · with trapped := false })).modCore c (Core.left (s.cfgGet Config.nCtEpc c))).endStop c := by
  let u := (s.modGroup c (.grp e.gslot) ({ · with trapped := false })).modCore c (Core.left (s.cfgGet Config.nCtEpc c))
  have hu : (u.core c).entries = [] := by
    rw [State.core_modCore_self]
    exact ((s.sameCores_modGroup c _ _).read (p := Core.entries) (fun _ _ _ _ _ => rfl) c).trans he
  have hgoes (t : State) : t.pairGoes e = t := by simp only [State.pairGoes, hother]
  unfold State.leave
  dsimp only
  rw [hq, hcur]
  dsimp only
  rw [hresume, State.actOn_resumes h1 h2 hlate he hg htrap hteam, hgoes]
  split
  case h_1 x rest hx => cases hu.symm.trans hx
  case h_2 => rfl

/-- What the core and the group are then. -/
theorem State.leave_left (hlane : 0 < (s.core c).ct.lanes.length) :
    ((s.leave c).core c).inHandler = false ∧ ((s.leave c).core c).cur = none ∧
      ((s.leave c).core c).stopped = ((s.core c).dead || (s.core c).pairStops != 0) ∧
      (((s.leave c).core c).ct.lane 0).pc = s.cfgGet Config.nCtEpc c ∧ (((s.leave c).core c).ct.lane 0).clause = none ∧
      (s.leave c).group? c (.grp e.gslot) = some { g with trapped := false } := by
  let v := s.modGroup c (.grp e.gslot) ({ · with trapped := false })
  have hsame := s.sameCores_modGroup c (.grp e.gslot) ({ · with trapped := false })
  have hct : (v.core c).ct = (s.core c).ct := Core.ct_of_group? (State.group?_modGroup_ne s _ (fun h => nomatch h))
  have hes := (hsame.read (p := Core.entries) (fun _ _ _ _ _ => rfl) c).trans he
  have hdead := hsame.read (p := Core.dead) (fun _ _ _ _ _ => rfl) c
  have hpair := hsame.read (p := Core.pairStops) (fun _ _ _ _ _ => rfl) c
  have hgroup : v.group? c (.grp e.gslot) = some { g with trapped := false } := by
    rw [State.group?_modGroup_self, hg]
    rfl
  rw [State.leave_resumes he hq hcur h1 h2 hlate hother hresume hg htrap hteam]
  have hcore : (((v.modCore c (Core.left (s.cfgGet Config.nCtEpc c))).endStop c).core c) =
      { Core.left (s.cfgGet Config.nCtEpc c) (v.core c) with
        stopped := (v.core c).dead || (v.core c).pairStops != 0 || (v.core c).entries.any (·.code ≠ 0x30) || false } := by
    rw [State.endStop, State.core_modCore_self, State.core_modCore_self]
    rfl
  have hlane0 : (Core.left (s.cfgGet Config.nCtEpc c) (v.core c)).ct.lane 0 =
      { (s.core c).ct.lane 0 with pc := s.cfgGet Config.nCtEpc c, clause := none, counted := false } := by
    rw [Core.left]
    dsimp only
    rw [Group.lane_modLane, if_pos ⟨rfl, by rw [hct]; exact hlane⟩, hct]
  have hfind : ((v.modCore c (Core.left (s.cfgGet Config.nCtEpc c))).endStop c).group? c (.grp e.gslot) = v.group? c (.grp e.gslot) := by
    rw [State.group?, hcore]
    rfl
  rw [hfind, hgroup, hcore]
  refine ⟨rfl, rfl, ?_, ?_, ?_, rfl⟩
  · rw [hes, hdead, hpair]
    simp
  · exact congrArg Lane.pc hlane0
  · exact congrArg Lane.clause hlane0

/-- The registers and words are left alone. -/
theorem State.leave_badPa : (s.leave c).badPa = s.badPa := by
  rw [State.leave_resumes he hq hcur h1 h2 hlate hother hresume hg htrap hteam]
  rfl

end

section
variable {s : State} (hct : s.isCt = true) (h : s.Issuing)
include hct h

theorem execEret_issuing : execEret s =
    if (s.core s.issue.core).inHandler then finish (s.retire.leave s.issue.core) else .next (s.reserved 7 0 0) := by
  rw [execEret, privWith_ct hct, issueWith_issuing h]

/-- ERET in a handler leaves it (R294, R390). -/
theorem exec_eret_leaves (hh : (s.core s.issue.core).inHandler = true) (hbad : (s.retire.leave s.issue.core).badPa = none) :
    exec .eret s = .next (s.retire.leave s.issue.core) := by
  rw [exec_eret, execEret_issuing hct h, if_pos hh, finish_next hbad]

end

/-- Settles O40: a fault is the stop of its core, then a delivery that enters the handler or leaves the entry waiting; ERET is the handler's end. -/
theorem trapsAndReturns : Obligations.TrapsAndReturns := by
  unfold Obligations.TrapsAndReturns
  refine ⟨fun s i => ⟨fun h => ⟨by rw [exec_trap, execTrap, issueWith_issuing h], by rw [exec_bkpt, execBkpt, issueWith_issuing h]⟩,
      fun code info foff fh n ha hsome hcode => ?_⟩,
    fun s e g hct h hbad => ⟨fun hh => ?_, exec_eret_leaves hct h, fun hh he hq hcur h1 h2 hlate hother hresume hg htrap hteam hlane => ?_⟩⟩
  · obtain ⟨hcount, hstop, htrapped⟩ := State.raise_stopped ha hcode info foff fh hsome
    exact ⟨hcount, hstop, htrapped, fun hr hh he hlane p hp => State.raise_enters ha hcode info foff fh hr hh he hlane hp,
      State.raise_waits ha hcode info foff fh⟩
  · rw [exec_eret, execEret_issuing hct h, if_neg (by simp [hh])]
  · have hagent : s.issue.agent = .ct := of_decide_eq_true hct
    have hsame := s.sameCores_retire
    have hcfg := State.cfg_retire_ct hct
    have hct' : (s.retire.core s.issue.core).ct = s.retireGroup (s.core s.issue.core).ct := by
      rw [State.retire_untraced (State.untraced_ct hct)]
      refine Core.ct_of_group? (k := { s.core s.issue.core with ct := s.retireGroup (s.core s.issue.core).ct }) ?_
      rw [State.modMe, hagent]
      exact State.group?_modGroup_self s _ .ct _
    have hlanes : 0 < (s.retire.core s.issue.core).ct.lanes.length := by
      obtain ⟨n, xs, hr, hlen⟩ := s.retireGroup_eq (s.core s.issue.core).ct
      rw [hct', hr, hlen]
      exact hlane
    have hg' : s.retire.group? s.issue.core (.grp e.gslot) = some g := by
      rw [State.retire_untraced (State.untraced_ct hct), State.modMe, hagent, ← hg]
      exact State.group?_modGroup_ne s _ (fun h => nomatch h)
    have he' := (hsame.read (p := Core.entries) (fun _ _ _ _ _ => rfl) s.issue.core).trans he
    have hq' := (hsame.read (p := Core.epcClause) (fun _ _ _ _ _ => rfl) s.issue.core).trans hq
    have hcur' := (hsame.read (p := Core.cur) (fun _ _ _ _ _ => rfl) s.issue.core).trans hcur
    have hresume' := (State.cfgGet_of_cfg hcfg _ _).trans hresume
    have hleft := State.leave_left he' hq' hcur' h1 h2 hlate hother hresume' hg' htrap hteam hlanes
    rw [State.cfgGet_of_cfg hcfg, hsame.read (p := Core.dead) (fun _ _ _ _ _ => rfl),
      hsame.read (p := Core.pairStops) (fun _ _ _ _ _ => rfl)] at hleft
    refine ⟨_, exec_eret_leaves hct h hh ?_, hleft⟩
    rw [State.leave_badPa he' hq' hcur' h1 h2 hlate hother hresume' hg' htrap hteam]
    exact s.sameUnits_retire.badPa.trans hbad

end Sys2Proof.Machine
end

section
/-!
SUPPORT. GSAVE and GLOAD of images in this chip's memory (R283, R292).
-/
namespace Sys2Proof.Machine

/-! GSAVE. -/

/-- An image that nothing stands before is written at once. -/
theorem State.Calm.saveImage {s : State} (hc : s.Calm) {off pa : Nat} {r : Ref} {bs : List Byte}
    (hr : s.resolve s.actor (s.slotHandle 0) off bs.length [.write] none = .ok r) (hp : s.HeapRef r bs.length pa) (f : State → State) :
    s.saveImage off bs f = finish (f (s.poke pa bs)).retire := by
  unfold State.saveImage
  dsimp only
  rw [hr]
  dsimp only
  rw [hp.here]
  dsimp only
  rw [hc.putNow _ _ _ _ _ hp]

/-- An image that nothing stands before is read at once. -/
theorem State.Calm.loadImage {s : State} (hc : s.Calm) {off n pa : Nat} {r : Ref}
    (hr : s.resolve s.actor (s.slotHandle 0) off n [.read] none = .ok r) (hp : s.HeapRef r n pa) (k : Nat) :
    s.loadImage off n k = (s, .done (leNat (Mem.bytes s.mem pa n))) := by
  unfold State.loadImage
  rw [hr]
  dsimp only
  rw [hp.here]
  dsimp only
  rw [hc.readAt _ _ _ hp]

/-- Lanes with nothing spilled have no area to be read. -/
theorem State.readAreas_none (s : State) (m : Team) (g : Group) (k : Nat) {ls : List Nat} (h : ∀ l ∈ ls, (g.lane l).spilled = 0) :
    s.readAreas m g k ls = (s, .done (List.replicate ls.length [])) := by
  induction ls with
  | nil => rfl
  | cons l ls ih =>
    unfold State.readAreas
    dsimp only
    rw [if_pos (h l List.mem_cons_self), ih fun x hx => h x (List.mem_cons_of_mem _ hx)]
    rfl

theorem State.mem_modTeam (s : State) (c t : Nat) (f : Team → Team) : (s.modTeam c t f).mem = s.mem := by
  unfold State.modTeam
  split <;> rfl

theorem State.retire_ct {s : State} (h : s.isCt = true) : s.retire = s.modMe s.retireGroup := State.retire_untraced (State.untraced_ct h)

section
variable {s : State} (hct : s.isCt = true)
include hct

/-- The end of a save: its bytes in memory, and what else it keeps. -/
theorem completes_save (hc : s.Calm) (hsome : s.me?.isSome = true) {i : Instr} {off pa : Nat} {r : Ref} {bs : List Byte} {f : State → State}
    (he : exec i s = s.saveImage off bs f) (hr : s.resolve s.actor (s.slotHandle 0) off bs.length [.write] none = .ok r)
    (hp : s.HeapRef r bs.length pa) (hf : (s.poke pa bs).SameUnits (f (s.poke pa bs))) (hmem : (f (s.poke pa bs)).mem = (s.poke pa bs).mem)
    (hg : ∀ d a, (f (s.poke pa bs)).group? d a = s.group? d a) :
    Completes i s fun t => s.AllPassed t ∧ t.mem = Mem.setBytes s.mem pa bs ∧ ∀ d k, t.team? d k = (f (s.poke pa bs)).team? d k := by
  let u := f (s.poke pa bs)
  have hi : u.issue = s.issue := hf.issue
  have hme : u.me? = s.me? := by rw [State.me?, State.me?, hi, hg]
  have hu : u.isCt = true := by rw [State.isCt, hi]; exact hct
  refine ⟨u.retire, ?_, ?_, ?_, fun d k => u.team?_retire d k⟩
  · rw [he, hc.saveImage hr hp, finish_next]
    exact (hf.trans u.sameUnits_retire).badPa.trans hc.badPa
  · exact State.retire_passed hi (by rw [State.me, hme, State.me]) (by rw [hme]; exact hsome)
  · rw [State.retire_ct hu]
    exact hmem

section
variable {a b : Nat} (h : s.AccessFree false [a, b] [])
include h

/-- GSAVE of a team that is not drained is a use in a state that forbids it (R292, R413). -/
theorem exec_gsave_undrained
    (hd : ∀ x, s.team? s.issue.core (s.me.reg (s.issue.lanes.headD 0) a).toNat = some x →
      s.drained s.issue.core (s.me.reg (s.issue.lanes.headD 0) a).toNat = false) :
    exec (.gsave a b 1) s = .next (s.reserved 7 0 0) := by
  rw [exec_gsave, execGsave, privWith_ct hct, accessWith_free h]
  dsimp only
  rw [if_pos rfl]
  split
  case h_1 => rfl
  case h_2 x hx => rw [hd x hx]; rfl

variable {pa : Nat} {r : Ref}

/-- GSAVE of a drained team stores its image (R292). -/
theorem completes_gsave_team {k : Nat} {x : Team} (hk : (s.me.reg (s.issue.lanes.headD 0) a).toNat = k) (hx : s.team? s.issue.core k = some x)
    (hd : s.drained s.issue.core k = true) (hc : s.Calm)
    (hr : s.resolve s.actor (s.slotHandle 0) (s.me.reg (s.issue.lanes.headD 0) b).toNat
      (imageBytes (s.teamImage s.issue.core k x)).length [.write] none = .ok r)
    (hp : s.HeapRef r (imageBytes (s.teamImage s.issue.core k x)).length pa) :
    Completes (.gsave a b 1) s fun t => s.AllPassed t ∧ t.mem = Mem.setBytes s.mem pa (imageBytes (s.teamImage s.issue.core k x)) ∧
      (t.team? s.issue.core k).map (·.imaged) = some true := by
  let f : State → State := fun u => u.modTeam s.issue.core k fun y => { y with imaged := true }
  have he : exec (.gsave a b 1) s = s.saveImage (s.me.reg (s.issue.lanes.headD 0) b).toNat (imageBytes (s.teamImage s.issue.core k x)) f := by
    rw [exec_gsave, execGsave, privWith_ct hct, accessWith_free h]
    dsimp only
    rw [if_pos rfl, hk, hx]
    dsimp only
    rw [hd]
    rfl
  generalize imageBytes (s.teamImage s.issue.core k x) = bs at he hr hp ⊢
  obtain ⟨t, ht, hpass, hmem, hteam⟩ := completes_save hct hc h.1.1.1 (f := f) he hr hp
    ((s.poke pa bs).sameUnits_modTeam s.issue.core k _) ((s.poke pa bs).mem_modTeam s.issue.core k _)
    fun d q => (s.poke pa bs).group?_modTeam s.issue.core k _ d q
  refine ⟨t, ht, hpass, hmem, ?_⟩
  rw [hteam, State.team?_modTeam_self, show (s.poke pa bs).team? s.issue.core k = some x from hx]
  rfl

/-- GSAVE of a group of a drained team, with nothing spilled, stores its image (R283, R292). -/
theorem completes_gsave_group {k : Nat} {g : Group} {x : Team} (hk : (s.me.reg (s.issue.lanes.headD 0) a).toNat = k)
    (hg : s.group? s.issue.core (.grp k) = some g) (hx : s.team? s.issue.core g.team = some x) (hd : s.drained s.issue.core g.team = true)
    (hs : ∀ l < g.width, (g.lane l).spilled = 0) (hc : s.Calm)
    (hr : s.resolve s.actor (s.slotHandle 0) (s.me.reg (s.issue.lanes.headD 0) b).toNat
      (imageBytes (g.image (List.replicate g.width []))).length [.write] none = .ok r)
    (hp : s.HeapRef r (imageBytes (g.image (List.replicate g.width []))).length pa) :
    Completes (.gsave a b 0) s fun t => s.AllPassed t ∧ t.mem = Mem.setBytes s.mem pa (imageBytes (g.image (List.replicate g.width []))) := by
  have hfind : NMap.find (s.core s.issue.core).groups k = some g := hg
  have he : exec (.gsave a b 0) s =
      s.saveImage (s.me.reg (s.issue.lanes.headD 0) b).toNat (imageBytes (g.image (List.replicate g.width []))) id := by
    rw [exec_gsave, execGsave, privWith_ct hct, accessWith_free h]
    dsimp only
    rw [if_neg (by decide), hk, hfind]
    dsimp only
    rw [hx]
    dsimp only
    rw [hd, s.readAreas_none x g 0 fun l hl => hs l (List.mem_range.mp hl), List.length_range]
    rfl
  obtain ⟨t, ht, hpass, hmem, -⟩ := completes_save hct hc h.1.1.1 he hr hp (.refl _) rfl fun d q => rfl
  exact ⟨t, ht, hpass, hmem⟩

end

/-! GLOAD. -/

/-- GLOAD of a team image restores it and answers its slot (R292). -/
theorem exec_gload_team {d a b pa : Nat} {r : Ref} (h : s.AccessFree false [b] [d]) (hc : s.Calm)
    (hr : s.resolve s.actor (s.slotHandle 0) (s.me.reg (s.issue.lanes.headD 0) b).toNat 128 [.read] none = .ok r) (hp : s.HeapRef r 128 pa) :
    let out := s.restoreTeam s.issue.core (leNat (Mem.bytes s.mem pa 128))
    let t := (out.1.giveAll [(d, BitVec.ofNat 32 (out.2.getD 0xFFFFFFFF))]).retire
    t.badPa = none → exec (.gload d a b 1) s = .next t := by
  intro out t hbad
  rw [exec_gload, execGload, privWith_ct hct, if_pos rfl, accessWith_free h]
  dsimp only
  rw [if_pos rfl, hc.loadImage hr hp]
  exact finish_next hbad

section
variable {d a b : Nat} (h : s.AccessFree false [a, b] [d])
include h

/-- GLOAD of a group image into a team that runs is a use in a state that forbids it (R292, R413). -/
theorem exec_gload_running (hd : ∀ x, s.team? s.issue.core (s.me.reg (s.issue.lanes.headD 0) a).toNat = some x → x.frozen = false) :
    exec (.gload d a b 0) s = .next (s.reserved 7 0 0) := by
  rw [exec_gload, execGload, privWith_ct hct, if_neg (by decide), accessWith_free h]
  dsimp only
  rw [if_neg (by decide)]
  split
  case h_1 => rfl
  case h_2 x hx => rw [hd x hx]; rfl

/-- GLOAD of a group image restores it and answers its slot, where no area is written on another chip (R283, R292). -/
theorem exec_gload_group {n pa : Nat} {r : Ref} {x : Team} {u : State} {y : Option Nat}
    (hx : s.team? s.issue.core (s.me.reg (s.issue.lanes.headD 0) a).toNat = some x) (hf : x.frozen = true) (hc : s.Calm)
    (hr4 : s.resolve s.actor (s.slotHandle 0) (s.me.reg (s.issue.lanes.headD 0) b).toNat 4 [.read] none = .ok r) (hp4 : s.HeapRef r 4 pa)
    (hn : n = groupImageBytes x.width (fld (leNat (Mem.bytes s.mem pa 4)) 12 4))
    (hr : s.resolve s.actor (s.slotHandle 0) (s.me.reg (s.issue.lanes.headD 0) b).toNat n [.read] none = .ok r) (hp : s.HeapRef r n pa)
    (hu : s.restoreGroup s.issue.core (s.me.reg (s.issue.lanes.headD 0) a).toNat (leNat (Mem.bytes s.mem pa n)) x = (u, .done y))
    (hack : ∀ o ∈ u.ops, ∀ q, o.kind = .remote q → q.form ≠ .ack)
    (hbad : (u.giveAll [(d, BitVec.ofNat 32 (y.getD 0xFFFFFFFF))]).retire.badPa = none) :
    exec (.gload d a b 0) s = .next (u.giveAll [(d, BitVec.ofNat 32 (y.getD 0xFFFFFFFF))]).retire := by
  rw [exec_gload, execGload, privWith_ct hct, if_neg (by decide), accessWith_free h]
  dsimp only
  rw [if_neg (by decide), hx]
  dsimp only
  rw [if_neg (by simp [hf]), hc.loadImage hr4 hp4]
  dsimp only
  rw [← hn, hc.loadImage hr hp]
  dsimp only
  rw [hu]
  dsimp only
  split
  case h_1 id hid =>
    obtain ⟨o, ho, hsent⟩ := List.mem_filterMap.mp (List.mem_of_getLast? hid)
    split at hsent
    case h_1 q hq => exact absurd (Option.ite_none_right_eq_some.mp hsent).1.2.2 (hack o ho q hq)
    case h_2 => cases hsent
  case h_2 => exact finish_next hbad

end
end

/-- Settles O43: an image in calm memory is one write or one read, and the restoring functions give the rest. -/
theorem teamImages : Obligations.TeamImages := by
  unfold Obligations.TeamImages
  intro s d a b n pa r hct hc
  refine ⟨fun h => ⟨exec_gsave_undrained hct h, fun x hx hd hs => completes_gsave_team hct h rfl hx hd hc hs.1 hs.2,
    fun g x hg hx hd hsp hs => completes_gsave_group hct h rfl hg hx hd hsp hc hs.1 hs.2⟩,
    fun h hl => exec_gload_team hct h hc hl.1 hl.2,
    fun h => ⟨exec_gload_running hct h, fun x u y hx hf h4 hn hl hu hack hbad =>
      exec_gload_group hct h hx hf hc h4.1 h4.2 hn hl.1 hl.2 hu hack hbad⟩⟩

end Sys2Proof.Machine
end

section
/-!
SUPPORT. A copy whose rows go from calm memory, from zeros or from FILL into one core's AB (R96, R262, R263).
-/
namespace Sys2Proof.Machine

/-! The rows are read. -/

/-- What the source of a row that gives `q` reads, and that it reads no more than that. -/
theorem State.Calm.readRow {s : State} (hs : s.Calm) {j : CopyJob} {c core : Nat} {r : CopyRow} {q : List Byte × Nat}
    (h : s.RowsGive c j [r] [q]) (acc : Reading) : (s.readRow core j acc r).out = acc.out ++ [(q.1, [])] := by
  obtain ⟨-, hsrc, -⟩ := h
  unfold State.readRow
  dsimp only
  split at hsrc
  case h_1 hr => rw [hr, hsrc]
  case h_2 hr => rw [hr, hsrc]
  case h_3 g hr =>
    obtain ⟨pa, hg, hq⟩ := hsrc
    rw [hr, hq]
    simp [hg.here, State.locate_heap hg, hs.poison, hs.cxlLost, State.readRuns]
  case h_4 => exact hsrc.elim

theorem State.RowsGive.head {s : State} {c : Nat} {j : CopyJob} {r : CopyRow} {rs : List CopyRow} {q : List Byte × Nat}
    {qs : List (List Byte × Nat)} (h : s.RowsGive c j (r :: rs) (q :: qs)) : s.RowsGive c j [r] [q] := ⟨h.1, h.2.1, trivial⟩

theorem State.RowsGive.tail {s : State} {c : Nat} {j : CopyJob} {r : CopyRow} {rs : List CopyRow} {q : List Byte × Nat}
    {qs : List (List Byte × Nat)} (h : s.RowsGive c j (r :: rs) (q :: qs)) : s.RowsGive c j rs qs := h.2.2

theorem State.Calm.readRows {s : State} (hs : s.Calm) {j : CopyJob} {c core : Nat} {rs : List CopyRow} {qs : List (List Byte × Nat)}
    (h : s.RowsGive c j rs qs) (acc : Reading) :
    (rs.foldl (s.readRow core j) acc).out = acc.out ++ qs.map fun q => (q.1, []) := by
  induction rs generalizing qs acc with
  | nil =>
    cases qs with
    | nil => exact (List.append_nil _).symm
    | cons q qs => exact h.elim
  | cons r rs ih =>
    cases qs with
    | nil => exact h.elim
    | cons q qs =>
      rw [List.foldl_cons, ih h.tail, hs.readRow h.head, List.append_assoc]
      rfl

/-! The memory they read is ready. -/

/-- The references of such rows are their sources' in memory. -/
theorem State.RowsGive.refs {s : State} {c : Nat} {j : CopyJob} {rs : List CopyRow} {qs : List (List Byte × Nat)} (h : s.RowsGive c j rs qs) :
    ∀ x ∈ CopyJob.refs { j with rows := rs }, ∃ pa, s.HeapRef x.1 x.2 pa := by
  induction rs generalizing qs with
  | nil => exact fun x hx => nomatch hx
  | cons r rs ih =>
    cases qs with
    | nil => exact h.elim
    | cons q qs =>
      intro x hx
      obtain ⟨hd, hsrc, hrest⟩ := h
      unfold CopyJob.refs at hx
      rw [List.flatMap_cons, List.mem_append] at hx
      rcases hx with hx | hx
      · rw [hd] at hx
        rcases List.mem_append.mp hx with hx | hx
        · split at hx
          case h_1 g hg =>
            rw [List.mem_singleton.mp hx]
            rw [hg] at hsrc
            exact ⟨_, hsrc.choose_spec.1⟩
          case h_2 => cases hx
        · cases hx
      · exact ih hrest x hx

/-- Nothing delays them. -/
theorem State.Calm.jobReady {s : State} (hs : s.Calm) {c : Nat} {j : CopyJob} {qs : List (List Byte × Nat)} (h : s.RowsGive c j j.rows qs)
    (a : Actor) (id : Nat) (rung : Bool) : s.jobReady a id rung j = (s, none) := by
  have hrefs : ∀ x ∈ j.refs.filter (fun x => x.1.remote.isNone), ∃ pa, s.HeapRef x.1 x.2 pa := fun x hx =>
    h.refs x (List.mem_of_mem_filter hx)
  have hprep : (j.refs.filter fun x => x.1.remote.isNone).foldl (fun t x => t.prepare x.1 x.2) s = s :=
    foldl_fix fun x hx => by obtain ⟨pa, hp⟩ := hrefs x hx; exact State.prepare_heap hp
  have hmiss : (j.refs.filter fun x => x.1.remote.isNone).findSome? (fun x => (s.missing x.1.space x.1.va x.2).map (x.1, ·)) = none :=
    List.findSome?_eq_none_iff.mpr fun x hx => by obtain ⟨pa, hp⟩ := hrefs x hx; rw [State.missing_heap hp]; rfl
  have hlog (rs : List (Nat × Nat)) : s.loggedOn (s.dueFolios rs) id = false := by
    unfold State.loggedOn State.dueFolios
    rw [if_pos hs.pairs]
    rfl
  unfold State.jobReady
  dsimp only
  rw [hprep, hmiss]
  dsimp only
  rw [if_neg (by rw [hlog]; decide), hs.applyFor]
  dsimp only
  rw [hs.detectRuns]

/-! They are written. -/

/-- `t` is `s` with core `c`'s AB as `m`, as far as memory and the ABs tell; nothing in it delays an access either. -/
structure State.AbIs (s t : State) (c : Nat) (m : Mem 8) : Prop where
  calm : t.Calm
  mem  : t.mem = s.mem
  ab   : ∀ e, (t.core e).ab = if e = c then m else (s.core e).ab

theorem State.AbIs.refl {s : State} (hs : s.Calm) (c : Nat) : s.AbIs s c (s.core c).ab :=
  ⟨hs, rfl, fun e => by split <;> [subst_vars; skip] <;> rfl⟩

/-- The next free choice. -/
theorem State.AbIs.freeCtr {s t : State} {c : Nat} {m : Mem 8} (h : s.AbIs t c m) (n : Nat) : s.AbIs { t with freeCtr := n } c m :=
  ⟨⟨h.1.1, h.1.2, h.1.3, h.1.4, h.1.5, h.1.6, h.1.7, h.1.8, h.1.9, h.1.10, h.1.11, h.1.12, h.1.13, h.1.14⟩, h.mem, h.ab⟩

/-- A change of a core that leaves its AB alone. -/
theorem State.AbIs.modCore {s t : State} {c : Nat} {m : Mem 8} (h : s.AbIs t c m) (d : Nat) {f : Core → Core}
    (hf : ∀ k, (f k).ab = k.ab ∧ (f k).sideLog = k.sideLog) : s.AbIs (t.modCore d f) c m := by
  refine ⟨h.calm.modCore d f fun k => (hf k).2, h.mem, fun e => (Eq.trans ?_ (h.ab e))⟩
  by_cases he : e = d
  · subst he
    rw [State.core_modCore_self, (hf _).1]
  · rw [State.core_modCore_ne _ _ he]

/-- A row put in the core's AB. -/
theorem State.AbIs.put {s t : State} {c : Nat} {m : Mem 8} (h : s.AbIs t c m) (a : Nat) (bs : List Byte) :
    s.AbIs (t.modCore c (·.abRowPut a (bs, []))) c (Mem.setBytes m a bs) := by
  refine ⟨h.calm.modCore c _ fun _ => rfl, h.mem, fun e => ?_⟩
  by_cases he : e = c
  · subst he
    rw [State.core_modCore_self, if_pos rfl]
    have hm := h.ab e
    rw [if_pos rfl] at hm
    rw [← hm]
    rfl
  · rw [State.core_modCore_ne _ _ he, h.ab, if_neg he, if_neg he]

/-- New owner tags of WB tiles touch neither AB nor the side log. -/
theorem Core.tagTiles_ab (k : Core) (g : Nat) (ts : List Nat) : (k.tagTiles g ts).ab = k.ab ∧ (k.tagTiles g ts).sideLog = k.sideLog := by
  unfold Core.tagTiles
  induction ts generalizing k with
  | nil => exact ⟨rfl, rfl⟩
  | cons t ts ih =>
    rw [List.foldl_cons, (ih _).1, (ih _).2]
    split <;> exact ⟨rfl, rfl⟩

theorem State.AbIs.beforeRows {s t : State} {c : Nat} {m : Mem 8} (h : s.AbIs t c m) (j : CopyJob) : s.AbIs (t.beforeRows j) c m := by
  unfold State.beforeRows
  dsimp only
  refine List.foldlRecOn _ _ (motive := fun u : State => s.AbIs u c m) h fun u hu d _ => hu.modCore d fun k => ?_
  exact Core.tagTiles_ab _ _ _

section
variable {s : State} {c : Nat} {j : CopyJob}

/-- Each row in turn is put at its place. -/
theorem State.RowsGive.writes (hb : bit j.block 12 = false) {rs : List CopyRow} {qs : List (List Byte × Nat)} (h : s.RowsGive c j rs qs)
    {u t : State} {m : Mem 8} (ht : u.AbIs t c m) (n : Nat) :
    u.AbIs (((rs.zip (qs.map fun q => (q.1, ([] : List Nat)))).zipIdx n).foldl
      (fun t x => x.1.1.dsts.foldl (fun v d => v.writeRow j x.2 x.1.2 d) t) t) c (qs.foldl (fun m q => Mem.setBytes m q.2 q.1) m) := by
  induction rs generalizing qs t m n with
  | nil =>
    cases qs with
    | nil => exact ht
    | cons q qs => exact h.elim
  | cons r rs ih =>
    cases qs with
    | nil => exact h.elim
    | cons q qs =>
      obtain ⟨hd, -, hrest⟩ := h
      have hrow : r.dsts.foldl (fun v d => v.writeRow j n (q.1, []) d) t = t.modCore c (·.abRowPut q.2 (q.1, [])) := by
        rw [hd, List.foldl_cons, List.foldl_nil, State.writeRow, swizzleRow, hb]
        rfl
      rw [List.map_cons, List.zip_cons_cons, List.zipIdx_cons, List.foldl_cons, hrow]
      exact ih hrest (ht.put q.2 q.1) (n + 1)

/-- Every place is in the core's AB. -/
theorem State.RowsGive.dsts {rs : List CopyRow} {qs : List (List Byte × Nat)} (h : s.RowsGive c j rs qs) :
    ∀ r ∈ rs, ∃ a, r.dsts = [.ab c a] := by
  induction rs generalizing qs with
  | nil => exact fun r hr => nomatch hr
  | cons r rs ih =>
    cases qs with
    | nil => exact h.elim
    | cons q qs =>
      intro x hx
      rcases List.mem_cons.mp hx with rfl | hx
      · exact ⟨_, h.1⟩
      · exact ih h.tail x hx

/-- The job is performed at once, without poison (R96, R262, R263). -/
theorem State.RowsGive.jobRun {qs : List (List Byte × Nat)} (h : s.RowsGive c j j.rows qs) (hs : s.Calm) (hb : bit j.block 12 = false)
    (haway : j.away = []) (a : Actor) (id : Nat) :
    ∃ t, s.jobRun a id none false j [] = (t, .ok false) ∧ t.mem = s.mem ∧
      ∀ e, (t.core e).ab = if e = c then qs.foldl (fun m q => Mem.setBytes m q.2 q.1) (s.core c).ab else (s.core e).ab := by
  have hroom : s.holdFull j = false := by
    unfold State.holdFull
    rw [haway]
    rfl
  unfold State.jobRun
  rw [if_neg (by rw [hroom]; decide), hs.jobReady h]
  dsimp -zeta only
  extract_lets rd xs s2 rows s3 s4 globs sent ws hurt clear badRows s5
  have hxs : xs = qs.map fun q => (q.1, []) := hs.readRows h _
  have hdst : ∀ x ∈ rows, ∃ a, x.1.dsts = [.ab c a] := fun x hx => h.dsts _ (List.of_mem_zip hx).1
  have hglobs : globs = [] := List.flatMap_eq_nil_iff.mpr fun x hx => by obtain ⟨p, hp⟩ := hdst x hx; rw [hp]; rfl
  have hsent : sent = [] := List.flatMap_eq_nil_iff.mpr fun x hx => by obtain ⟨p, hp⟩ := hdst x hx; rw [hp]; rfl
  have hws : ws = [] := by unfold ws; rw [hglobs]; rfl
  have hbad : badRows = [] := List.filter_eq_nil_iff.mpr fun x hx => by
    have hclean := (List.of_mem_zip hx).2
    rw [hxs] at hclean
    obtain ⟨q, -, hq⟩ := List.mem_map.mp hclean
    simp [← hq]
  have h2 : s.AbIs s2 c (s.core c).ab := ((State.AbIs.refl hs c).freeCtr rd.free).beforeRows j
  have h3 : s.AbIs s3 c (qs.foldl (fun m q => Mem.setBytes m q.2 q.1) (s.core c).ab) := by
    unfold s3 rows
    rw [hxs]
    exact h.writes hb h2 0
  have h4 : s4 = s3 := foldl_fix fun d _ => h3.calm.serveBowait d
  rw [if_pos hws, hsent, hbad]
  dsimp only [List.foldl_nil]
  split
  case h_1 hx => cases hx
  case h_2 hx _ => cases hx
  case h_3 => exact ⟨s5, rfl, (congrArg State.mem h4).trans h3.mem, fun e => (congrArg (fun u : State => (u.core e).ab) h4).trans (h3.ab e)⟩

end

/-- Settles O31: the rows are read of calm memory, and each is put at its place; nothing else of the job's step touches memory or an AB. -/
theorem copiedRows : Obligations.CopiedRows := by
  unfold Obligations.CopiedRows
  intro s a id c j qs hs _ _ hb haway h
  exact h.jobRun hs hb haway a id

end Sys2Proof.Machine
end

section
/-!
SUPPORT. The issue is the same through all that the performing of a copy may do: events, error records, pages, watches, pairs and the rows
themselves (R96, R260, R269).
-/
namespace Sys2Proof.Machine

/-! Steps of one kind after another. -/

theorem State.issue_ite {s t u : State} {p : Prop} [Decidable p] (ht : t.issue = s.issue) (hu : u.issue = s.issue) :
    (if p then t else u).issue = s.issue := by
  split
  · exact ht
  · exact hu

theorem State.issue_foldl {α : Type} {f : State → α → State} (hf : ∀ t x, (f t x).issue = t.issue) (xs : List α) (s : State) :
    (xs.foldl f s).issue = s.issue := by
  induction xs generalizing s with
  | nil => rfl
  | cons x xs ih => exact (ih (f s x)).trans (hf s x)

/-- A step that may end in another result keeps the issue where it is done. -/
def KeepsIssue {ε : Type} (s : State) (r : Except ε State) : Prop := ∀ t, r = .ok t → t.issue = s.issue

theorem KeepsIssue.ok {ε : Type} {s t : State} (h : t.issue = s.issue) : KeepsIssue s (.ok t : Except ε State) := by
  intro u hu
  cases hu
  exact h

theorem KeepsIssue.error {ε : Type} (s : State) (e : ε) : KeepsIssue s (.error e : Except ε State) := fun _ h => nomatch h

theorem KeepsIssue.trans {ε : Type} {s t : State} {r : Except ε State} (h : t.issue = s.issue) (hr : KeepsIssue t r) : KeepsIssue s r :=
  fun u hu => (hr u hu).trans h

/-- Such steps one after another, up to the first that ends otherwise. -/
theorem KeepsIssue.foldl {ε α : Type} {s : State} {f : Except ε State → α → Except ε State}
    (hf : ∀ r x, KeepsIssue s r → KeepsIssue s (f r x)) (xs : List α) {r : Except ε State} (hr : KeepsIssue s r) :
    KeepsIssue s (xs.foldl f r) :=
  List.foldlRecOn xs f (motive := KeepsIssue s) hr fun r hr x _ => hf r x hr

/-! Events. -/

theorem State.issue_takeEvent {s t : State} {c : Nat} {r : List Word} (h : s.takeEvent c = some (r, t)) : t.issue = s.issue := by
  unfold State.takeEvent at h
  split at h
  case h_1 => cases h; exact (State.eventsGrow_refillEvents _ c).issue
  case h_2 => cases h

theorem State.issue_serveEvpop (s : State) (c : Nat) : (s.serveEvpop c).issue = s.issue := by
  unfold State.serveEvpop
  split
  case h_1 => rfl
  case h_2 o _ =>
    split
    case h_1 d r t _ ht =>
      have h := State.issue_takeEvent ht
      exact h
    case h_2 => rfl

theorem State.issue_postEvent (s : State) (c kind vi : Nat) (tslot : Option Nat) (ws : List Nat) : (s.postEvent c kind vi tslot ws).issue = s.issue :=
  (State.issue_serveEvpop _ c).trans (s.eventsGrow_placeEvent c _).issue

theorem State.issue_postPoison (s : State) (a : Actor) (handle off cause granules : Nat) :
    (s.postPoison a handle off cause granules).issue = s.issue := s.issue_postEvent _ _ _ _ _

/-! Error records. -/

theorem State.issue_machineCheck (s : State) (cls utype unit : Nat) (vi : Option Nat) (pa detail : Nat) :
    (s.machineCheck cls utype unit vi pa detail).issue = s.issue := (s.sameUnits_machineCheck _ _ _ _ _ _).issue

theorem State.issue_poisonUse (s : State) (vi : Option Nat) (consumer pa : Nat) : (s.poisonUse vi consumer pa).issue = s.issue :=
  (State.issue_machineCheck _ _ _ _ _ _ _).trans rfl

theorem State.issue_corrected (s : State) (num : Nat) (unit : Nat × Nat) (pa arr : Nat) : (s.corrected num unit pa arr).issue = s.issue := by
  unfold State.corrected
  extract_lets key s1 n
  refine State.issue_ite ?_ ?_
  · exact (State.issue_machineCheck _ _ _ _ _ _ _).trans rfl
  · rfl

theorem State.issue_uncorrected (s : State) (num : Nat) (unit : Nat × Nat) (pa arr : Nat) : (s.uncorrected num unit pa arr).issue = s.issue := by
  unfold State.uncorrected
  exact State.issue_machineCheck (s.count num 0 1) _ _ _ _ _ _

theorem State.issue_arrayUe (s : State) (pa : Nat) : (s.arrayUe pa).issue = s.issue := by
  unfold State.arrayUe
  exact s.issue_uncorrected _ _ _ _

theorem State.issue_detect (s : State) (pa n : Nat) : (s.detect pa n).issue = s.issue := by
  unfold State.detect
  refine State.issue_ite rfl (State.issue_foldl (fun t k => ?_) _ s)
  extract_lets t1
  have h1 : t1.issue = t.issue := by
    refine State.issue_ite ?_ rfl
    exact (State.issue_corrected _ _ _ _ _).trans rfl
  refine State.issue_ite ?_ h1
  exact (State.issue_arrayUe _ _).trans h1

theorem State.issue_detectRuns (s : State) (rs : List (Nat × Nat)) : (s.detectRuns rs).issue = s.issue :=
  State.issue_foldl (fun t _ => t.issue_detect _ _) rs s

theorem State.issue_poisonWrite (s : State) (a : Actor) (clear : List Nat) (w : Wr) : (s.poisonWrite a clear w).issue = s.issue := by
  unfold State.poisonWrite
  split
  · rfl
  extract_lets ks hurt s1
  have h1 : s1.issue = s.issue := by
    refine State.issue_foldl (fun t k => ?_) ks s
    refine State.issue_ite ?_ (t.issue_detect _ _)
    rfl
  clear_value hurt
  cases hurt with
  | nil => exact h1
  | cons k ks => exact (s1.issue_postPoison _ _ _ _ _).trans h1

theorem State.issue_store (s : State) (ws : List Wr) : (s.store ws).issue = s.issue := by
  unfold State.store
  refine State.issue_foldl (fun t w => ?_) ws s
  refine State.issue_ite ?_ rfl
  rfl

/-! Pages. -/

theorem State.issue_putEntry (s : State) (ea v : Nat) : (s.putEntry ea v).issue = s.issue := rfl

theorem State.issue_holdTrans (s : State) (x : Trans) : (s.holdTrans x).issue = s.issue := rfl

theorem State.issue_fillTrans (s : State) (vi va size base : Nat) : (s.fillTrans vi va size base).issue = s.issue :=
  (State.issue_holdTrans _ _).trans (s.issue_holdTrans _)

theorem State.issue_lookAtTiers (s : State) : s.lookAtTiers.issue = s.issue := rfl

theorem State.issue_tryMove {s t : State} {x : Wanted} (h : s.tryMove x = some t) : t.issue = s.issue := by
  unfold State.tryMove at h
  split at h
  case h_1 ea base size _ =>
    split_ifs at h
    · cases h; rfl
    · obtain ⟨p, -, rfl⟩ := Option.map_eq_some_iff.mp h
      rfl
  case h_2 => cases h
  case h_3 => cases h; rfl

theorem State.issue_want (s : State) (x : Wanted) : (s.want x).issue = s.issue := by
  unfold State.want
  extract_lets wait
  have hw : wait.issue = s.issue := State.issue_ite rfl rfl
  refine State.issue_ite hw ?_
  cases h : s.tryMove x with
  | none => exact hw
  | some t => exact State.issue_tryMove h

theorem State.issue_fillPage (s : State) (space va : Nat) (pref : Option Nat) : (s.fillPage space va pref).issue = s.issue := by
  have marked (e ea : Nat) : (if bit e 3 then s else s.putEntry ea (e + 8)).issue = s.issue := State.issue_ite rfl (s.issue_putEntry _ _)
  fun_cases State.fillPage s space va pref
  case case3 => exact (State.issue_fillTrans _ _ _ _ _).trans (marked _ _)
  case case4 => exact (State.issue_want _ _).trans ((State.issue_fillTrans _ _ _ _ _).trans (marked _ _))
  case case5 => exact (State.issue_lookAtTiers _).trans ((State.issue_putEntry _ _ _).trans (State.issue_fillTrans _ _ _ _ _))
  case case8 => exact (State.issue_lookAtTiers _).trans ((State.due_issue _ _).trans (State.issue_putEntry _ _ _))
  all_goals rfl

theorem State.issue_prepare (s : State) (r : Ref) (n : Nat) : (s.prepare r n).issue = s.issue := by
  unfold State.prepare
  extract_lets s1
  have h1 : s1.issue = s.issue := State.issue_foldl (fun t e => t.issue_fillPage _ _ _) _ s
  split <;> exact h1

theorem State.issue_mapRequest (s : State) (a : Actor) (space : Nat) (m : Nat × Option Nat) (kind : Nat) :
    (s.mapRequest a space m kind).issue = s.issue := by
  unfold State.mapRequest
  split
  · exact State.issue_ite rfl ((State.issue_postEvent _ _ _ _ _ _).trans rfl)
  · rfl

/-! Watches and monitors. -/

theorem State.issue_sendOutside (s : State) (a : Actor) (rank h off : Nat) (form : ReplyForm) (act : RemoteAct) :
    (s.sendOutside a rank h off form act).issue = s.issue := rfl

theorem State.issue_statusTry (s : State) (w : Watch) (byte n : Nat) (xs : List (Nat × Nat)) (depth : Nat) :
    (s.statusTry w byte n xs depth).1.issue = s.issue := by
  fun_cases State.statusTry s w byte n xs depth
  case case1 rank _ s1 a =>
    have h1 : s1.issue = s.issue := by
      refine State.issue_ite ?_ rfl
      rfl
    exact (State.issue_foldl (fun t x => t.issue_sendOutside _ _ _ _ _ _) xs s1).trans h1
  all_goals exact s.issue_fillPage _ _ _

theorem State.issue_statusPut (s : State) (w : Watch) (byte n : Nat) (xs : List (Nat × Nat)) (depth : Nat) :
    (s.statusPut w byte n xs depth).1.issue = s.issue := by
  have tried := s.issue_statusTry w byte n xs depth
  fun_cases State.statusPut s w byte n xs depth
  case case1 => rfl
  case case2 t ws ht => rw [ht] at tried; exact tried
  case case3 t ht => rw [ht] at tried; exact tried

theorem State.issue_kick (s : State) (k : Nat) : (s.kick k).issue = s.issue := State.issue_ite rfl (s.due_issue _)

theorem State.issue_spillWrite (s : State) (w : Watch) (off slice depth seq st : Nat) : (s.spillWrite w off slice depth seq st).issue = s.issue :=
  State.issue_ite rfl (s.poke_issue _ _)

/-- A count on a status block that keeps the issue. -/
def Counter.KeepsIssue (cnt : Counter) : Prop := ∀ s w byte n xs depth, (cnt s w byte n xs depth).issue = s.issue

section
variable {cnt : Counter} (hcnt : cnt.KeepsIssue)
include hcnt

theorem State.issue_liveBy (s : State) (w : Watch) (up down depth : Nat) : (State.liveBy cnt s w up down depth).issue = s.issue :=
  State.issue_ite rfl (hcnt _ _ _ _ _ _)

theorem State.keepsIssue_queueTriggerBy (s : State) (w : Watch) (off depth slice home : Nat) :
    KeepsIssue s (State.queueTriggerBy cnt s w off depth slice home) := by
  fun_cases State.queueTriggerBy cnt s w off depth slice home
  case case1 => exact .ok (hcnt _ _ _ _ _ _)
  case case2 => exact .ok ((State.issue_kick _ _).trans (State.issue_liveBy hcnt _ _ _ _ _))
  case case3 => exact .error s _
  case case4 => exact .ok ((State.issue_liveBy hcnt _ _ _ _ _).trans (s.issue_spillWrite _ _ _ _ _ _))

theorem State.keepsIssue_produceBy (s : State) (w : Watch) (h : Hit) : KeepsIssue s (State.produceBy cnt s w h) := by
  unfold State.produceBy
  split
  · exact .ok rfl
  · exact State.keepsIssue_queueTriggerBy hcnt _ _ _ _ _ _

theorem State.keepsIssue_compareBy (before s : State) (ws : List Wr) : KeepsIssue s (State.compareBy cnt before s ws) := by
  unfold State.compareBy
  extract_lets hs s1 all
  have h1 : s1.issue = s.issue := by
    refine State.issue_foldl (fun t h => ?_) hs s
    exact State.issue_ite (hcnt _ _ _ _ _ _) rfl
  refine .foldl (fun r x hr => ?_) _ (.ok h1)
  cases r with
  | ok t => exact .trans (hr t rfl) (State.keepsIssue_produceBy hcnt _ _ _)
  | error e => exact .error s e

end

theorem State.issue_modOp (s : State) (id : Nat) (f : Op → Op) : (s.modOp id f).issue = s.issue := rfl

theorem State.issue_waitcTrue (s : State) (o : Op) (d : Nat) (c : Cond) : (s.waitcTrue o d c).issue = s.issue := by
  fun_cases State.waitcTrue s o d c
  case case1 => exact (State.due_issue _ _).trans ((State.issue_modOp _ _ _).trans (s.issue_poisonUse _ _ _))
  case case2 => exact (State.due_issue _ _).trans ((State.issue_modOp _ _ _).trans (s.modGroup_issue _ _ _))

theorem State.issue_monitors (s : State) (ws : List Wr) : (s.monitors ws).issue = s.issue := by
  unfold State.monitors
  extract_lets s1 s2
  have h1 : s1.issue = s.issue := by
    refine State.issue_foldl (fun t o => ?_) _ s
    split
    · exact State.issue_ite (t.issue_waitcTrue _ _ _) rfl
    · rfl
  have h2 : s2.issue = s1.issue := by
    refine State.issue_foldl (fun t q => ?_) _ s1
    refine State.issue_ite ?_ rfl
    extract_lets rest t1
    exact State.issue_ite (s := t) rfl rfl
  exact h2.trans h1

theorem Counter.keepsIssue_countBy (k : Nat) : Counter.KeepsIssue (State.countBy k) := by
  induction k with
  | zero => exact fun s w byte n xs depth => s.issue_statusPut w byte n xs depth
  | succ k ih =>
    intro s w byte n xs depth
    have put := s.issue_statusPut w byte n xs depth
    unfold State.countBy
    dsimp only
    refine State.issue_ite put ?_
    split
    case h_1 u hu => exact ((u.issue_monitors _).trans (State.keepsIssue_compareBy ih _ _ _ u hu)).trans put
    case h_2 => rfl

theorem Counter.keepsIssue_statusCount : Counter.KeepsIssue State.statusCount := Counter.keepsIssue_countBy 16

theorem State.issue_suspend (s : State) (core : Option Nat) (w : Watch) (cause slice : Nat) : (s.suspend core w cause slice).issue = s.issue := by
  fun_cases State.suspend s core w cause slice
  case case1 => rfl
  all_goals exact (State.issue_postEvent _ _ _ _ _ _).trans (Counter.keepsIssue_statusCount _ _ _ _ _ _)

theorem State.issue_jobStops (s : State) (a : Actor) (rung : Bool) (x : RingFull) : (s.jobStops a rung x).issue = s.issue := by
  unfold State.jobStops State.ringStops
  refine State.issue_ite rfl ?_
  split
  · exact s.issue_suspend _ _ _ _
  · rfl

theorem State.keepsIssue_commit (s : State) (a : Actor) (clear : List Nat) (ws : List Wr) : KeepsIssue s (s.commit a clear ws) := by
  have stored : (ws.foldl (fun t w => t.poisonWrite a clear w) (s.store ws)).issue = s.issue :=
    (State.issue_foldl (fun t w => t.issue_poisonWrite _ _ _) ws _).trans (s.issue_store ws)
  unfold State.commit
  split
  case h_1 t ht =>
    exact .ok ((t.issue_monitors ws).trans ((State.keepsIssue_compareBy Counter.keepsIssue_statusCount _ _ _ t ht).trans stored))
  case h_2 e _ => exact .error s e

/-! Pairs. -/

theorem State.keepsIssue_applyOnce (s : State) (ps : List Pair) : KeepsIssue s (s.applyOnce ps) := by
  unfold State.applyOnce
  split
  · exact .ok rfl
  extract_lets s0 isBad marked bad s1 good a
  have h0 : s0.issue = s.issue := State.issue_foldl (fun t p => t.issue_detect _ _) ps s
  have h1 : s1.issue = s0.issue := by
    refine State.issue_foldl (fun t pa => ?_) _ s0
    split
    case h_1 p _ =>
      extract_lets t1
      have ht : t1.issue = t.issue := State.issue_ite (t.issue_poisonUse _ _ _) rfl
      exact (State.issue_postPoison _ _ _ _ _ _).trans ht
    case h_2 => rfl
  split
  case h_1 t ht => exact .ok (((s1.keepsIssue_commit _ _ _ t ht).trans h1).trans h0)
  case h_2 e _ => exact .error s e

theorem State.keepsIssue_applyIn (s : State) (fuel : Nat) (ps : List Pair) : KeepsIssue s (s.applyIn fuel ps) := by
  induction fuel generalizing s ps with
  | zero => exact .ok rfl
  | succ fuel ih =>
    unfold State.applyIn
    split
    · exact .ok rfl
    · dsimp only
      split
      case h_1 t ht => exact .trans (s.keepsIssue_applyOnce _ t ht) (ih t _)
      case h_2 e _ => exact .error s e

theorem State.keepsIssue_applyFor (s : State) (rs : List (Nat × Nat)) : KeepsIssue s (s.applyFor rs) := by
  refine .foldl (fun r f hr => ?_) _ (.ok rfl)
  cases r with
  | ok t => exact .trans (hr t rfl) (t.keepsIssue_applyIn _ _)
  | error e => exact .error s e

/-! The job. -/

theorem State.issue_jobReady (s : State) (a : Actor) (id : Nat) (rung : Bool) (j : CopyJob) : (s.jobReady a id rung j).1.issue = s.issue := by
  have prepared : ((j.refs.filter fun x => x.1.remote.isNone).foldl (fun t x => t.prepare x.1 x.2) s).issue = s.issue :=
    State.issue_foldl (fun t x => t.issue_prepare _ _) _ s
  fun_cases State.jobReady s a id rung j
  case case1 => exact (State.issue_mapRequest _ _ _ _ _).trans prepared
  case case2 => exact prepared
  case case3 => exact (State.issue_jobStops _ _ _ _).trans prepared
  case case4 u hu _ => exact (u.issue_detectRuns _).trans ((State.keepsIssue_applyFor _ _ u hu).trans prepared)

theorem State.issue_beforeRows (s : State) (j : CopyJob) : (s.beforeRows j).issue = s.issue :=
  State.issue_foldl (fun t c => t.modCore_issue c _) _ s

theorem State.issue_writeRow (s : State) (j : CopyJob) (p : Nat) (x : List Byte × List Nat) (d : Place) : (s.writeRow j p x d).issue = s.issue := by
  cases d <;> rfl

theorem State.issue_serveBowait (s : State) (c : Nat) : (s.serveBowait c).issue = s.issue := by
  refine State.issue_foldl (fun t o => ?_) _ s
  split
  · exact State.issue_ite ((State.endOp_issue _ _).trans (t.modGroup_issue _ _ _)) rfl
  · rfl

theorem State.issue_jobRun (s : State) (a : Actor) (id : Nat) (bo : Option BoRef) (rung : Bool) (j : CopyJob) (far : List (Byte × Bool)) :
    (s.jobRun a id bo rung j far).1.issue = s.issue := by
  have ready := s.issue_jobReady a id rung j
  unfold State.jobRun
  split
  · rfl
  split
  case h_1 s1 w h => rw [h] at ready; exact ready
  case h_2 s1 h =>
    rw [h] at ready
    extract_lets rd xs s2 rows s3 s4 globs sent ws hurt clear badRows s5
    have h2 : s2.issue = s1.issue := State.issue_beforeRows _ j
    have h3 : s3.issue = s2.issue := State.issue_foldl (fun t x => State.issue_foldl (fun u d => u.issue_writeRow _ _ _ d) _ t) _ s2
    have h4 : s4.issue = s3.issue := State.issue_foldl (fun t c => t.issue_serveBowait c) _ s3
    have h5 : s5.issue = s.issue := h4.trans (h3.trans (h2.trans ready))
    have committed : KeepsIssue s5 (if ws = [] then .ok s5 else s5.commit a clear ws) := by
      split
      · exact .ok rfl
      · exact s5.keepsIssue_commit _ _ _
    split
    case h_1 w _ => exact (s1.issue_jobStops _ _ _).trans ready
    case h_2 s7 h7 =>
      extract_lets s6
      have h6 : s6.issue = s.issue :=
        (State.issue_foldl (fun t x => t.issue_sendOutside _ _ _ _ _ _) sent s7).trans ((committed s7 h7).trans h5)
      split
      case h_1 g gs x tail _ _ =>
        extract_lets used
        have hu : used.issue = s6.issue := by
          unfold used
          split
          · exact s6.issue_poisonUse _ _ _
          · exact (State.issue_machineCheck _ _ _ _ _ _ _).trans (s6.cfgPut_issue _ _ _)
        exact (used.issue_postPoison _ _ _ _ _).trans (hu.trans h6)
      all_goals exact h6

/-! Posts. -/

theorem State.issue_autoTouch (s : State) (r : Ref) (core : Nat) : (s.autoTouch r core).issue = s.issue := by
  fun_cases State.autoTouch s r core <;> rfl

theorem State.issue_tryCopy (s : State) (a : Actor) (core id : Nat) (r : CopyRun) (j : CopyJob) (far : List (Byte × Bool)) :
    (s.tryCopy a core id r j far).issue = s.issue := by
  have run := s.issue_jobRun a id r.bo (r.wait == some .spillRing) j far
  unfold State.tryCopy
  split
  · rfl
  split
  case h_1 s1 w h => rw [h] at run; exact run
  case h_2 s1 bad h => rw [h] at run; exact run

theorem State.issue_setFuture (s : State) (ls : List Nat) (d id : Nat) : (s.setFuture ls d id).issue = s.issue := rfl

theorem State.issue_postOne (s : State) (op d : Nat) (ls : List Nat) (p : Post) : (s.postOne op d ls p).1.issue = s.issue := by
  unfold State.postOne
  split
  · rfl
  extract_lets room id
  generalize s.runOf op p room = jr
  obtain ⟨j, r⟩ := jr
  dsimp -zeta only
  extract_lets s0 late x t s1
  have h0 : s0.issue = s.issue := by
    refine (State.issue_foldl (fun t x => t.issue_autoTouch _ _) _ _).trans ?_
    split
    · exact s.modCore_issue _ _
    · rfl
  have ht : t.issue = s.issue := h0
  have h1 : s1.issue = s.issue := State.issue_ite ht ((t.issue_tryCopy _ _ _ _ _ _).trans ht)
  exact (s1.issue_setFuture ls d id).trans h1

theorem State.issue_postAll (s : State) (u : Bool) (op d : Nat) (ps : List Post) : (s.postAll u op d ps).1.issue = s.issue := by
  induction ps generalizing s with
  | nil => rfl
  | cons p ps ih => exact (ih _).trans (s.issue_postOne _ _ _ _)

end Sys2Proof.Machine
end

section
/-!
SUPPORT. TLOAD to TFILL: the checks before the posts, the futures they leave, and a request that moves nothing (R260, R269 to R271).
-/
namespace Sys2Proof.Machine

/-! The issue. -/

/-- The six instructions are one operation of six kinds (R260). -/
theorem exec_copy {s : State} {u : Bool} {d a n : Nat} : ∀ i ∈ ([(.tload u d a n, 0), (.tstore u d a n, 1), (.tgath u d a n, 2),
    (.tscat u d a n, 3), (.tcast u d a n, 4), (.tfill u d a n, 5)] : List (Instr × Nat)), exec i.1 s = copyOp i.2 u d a n s := by
  intro i hi
  simp only [List.mem_cons, List.not_mem_nil, or_false] at hi
  rcases hi with rfl | rfl | rfl | rfl | rfl | rfl <;> rfl

/-- The blocks' offsets that the lanes give. -/
def State.copyOffs (s : State) (u : Bool) (a n : Nat) : List (Nat × Nat) := (s.addrLanes u).map fun l => (l, (s.me.reg l a).toNat + 64 * n)

/-- The state after the posts, with the operation that SETA tracks (R145). -/
def State.posted (s : State) (ls : List Nat) : State :=
  match s.setA with
  | some f => s.addOpDue ls .read (some f) none .registerWriteback
  | none => s

theorem State.posted_eq (s : State) (ls : List Nat) : ∃ os ag k, s.posted ls = { s with ops := os, agenda := ag, opSeq := k } := by
  unfold State.posted
  cases s.setA with
  | none => exact ⟨_, _, _, rfl⟩
  | some f => exact ⟨_, _, _, rfl⟩

section
variable {s : State} {op : Nat} {u : Bool} {d a n : Nat} (h : s.AccessFree u [a] [d])
include h

/-- Blocks that an earlier access holds keep the word where it is (R97). -/
theorem copyOp_held (hb : s.blocksHeld op (s.copyOffs u a n) = true) : copyOp op u d a n s = .next (s.hold s.issue.lanes .line) := by
  rw [copyOp, accessWhole_free h]
  exact if_pos hb

variable (hb : s.blocksHeld op (s.copyOffs u a n) = false)
include hb

/-- Blocks that fail a check raise its fault (R260, R403). -/
theorem copyOp_fault {f : AccFault} (hc : s.checkPosts op (s.copyOffs u a n) = .error f) : copyOp op u d a n s = .next (s.raiseAcc f) := by
  rw [copyOp, accessWhole_free h]
  refine (if_neg (by rw [← State.copyOffs, hb]; decide)).trans ?_
  rw [← State.copyOffs, hc]

/-- Good blocks are posted, unless the queue has no room for them (R269, R270). -/
theorem copyOp_posts {posts : List Post} (hc : s.checkPosts op (s.copyOffs u a n) = .ok posts) : copyOp op u d a n s =
    if posts.any (!·.idle op) && s.copyRoom.isNone then .next (s.holdBefore .copyQueue)
    else finish (((s.postAll u op d posts).1.posted s.issue.lanes).settle (s.postAll u op d posts).2) := by
  rw [copyOp, accessWhole_free h]
  refine (if_neg (by rw [← State.copyOffs, hb]; decide)).trans ?_
  rw [← State.copyOffs, hc]
  rfl

end

/-! The futures. -/

/-- One word in one register of some lanes. -/
theorem Group.setOne_eq (g : Group) (ls : List Nat) (d : Nat) (v : Word) :
    ∃ rs ps, ls.foldl (fun h l => h.setReg l d v) g = { g with regs := rs, poison := ps } := Group.setLanes_eq g ls fun _ => [(d, v)]

/-- Each lane's register holds its future, and is pending behind those before it (R271). -/
theorem State.setFuture_pends {s : State} (hsome : s.me?.isSome = true) (ls : List Nat) (d id : Nat) :
    (∀ l ∈ ls, (s.setFuture ls d id).me.reg l d = BitVec.ofNat 32 (0xF0000000 + id % 2 ^ 28)) ∧
      (s.setFuture ls d id).me.pend = s.me.pend ++ ls.map fun l => ⟨l, d, id⟩ := by
  obtain ⟨rs, ps, hset⟩ := s.me.setOne_eq ls d (BitVec.ofNat 32 (0xF0000000 + id % 2 ^ 28))
  unfold State.setFuture
  rw [State.me_modMe _ _ hsome]
  refine ⟨fun l hl => s.me.reg_setSame ls d _ hl, ?_⟩
  dsimp only
  rw [hset]

/-! A request that moves nothing. -/

section
variable {s : State} {op : Nat} {u : Bool} {d a n : Nat} {p : Post} (hone : u = true ∨ s.issue.lanes = [p.lane]) (he : emptyPost p.blk = true)
include hone he

/-- It writes word 0, and its lanes go on (R269). -/
theorem State.postAll_empty : s.postAll u op d [p] =
    (s.modMe fun g => s.issue.lanes.foldl (fun h l => h.setReg l d 0) g, s.issue.lanes.map (·, .go)) := by
  have hls : (if u then s.issue.lanes else [p.lane]) = s.issue.lanes := by
    rcases hone with rfl | hl
    · rfl
    · rw [hl, ite_self]
  have hidle : p.idle op = true := by rw [Post.idle, he, Bool.true_or]
  have hpost : s.postOne op d s.issue.lanes p = (s.modMe fun g => s.issue.lanes.foldl (fun h l => h.setReg l d 0) g, .go) := if_pos hidle
  unfold State.postAll State.postAll
  dsimp only
  rw [hls, hpost, List.append_nil]

/-- So the instruction ends, with nothing but its registers written. -/
theorem completes_copy_empty {i : Instr} (h : s.AccessFree u [a] [d]) (hbad : s.badPa = none) (hi : exec i s = copyOp op u d a n s)
    (hb : s.blocksHeld op (s.copyOffs u a n) = false) (hc : s.checkPosts op (s.copyOffs u a n) = .ok [p]) :
    Completes i s fun t => s.AllPassed t ∧ (s.Result t u d fun _ => 0) ∧ (s.Untraced → t.mem = s.mem) := by
  let v := s.modMe fun g => s.issue.lanes.foldl (fun h l => h.setReg l d 0) g
  obtain ⟨os, ag, k, hv⟩ := v.posted_eq s.issue.lanes
  let w : State := { v with ops := os, agenda := ag, opSeq := k }
  have hsome : s.me?.isSome = true := h.1.1.1
  obtain ⟨rs, ps, hset⟩ := s.me.setOne_eq s.issue.lanes d 0
  have hme : w.me = s.issue.lanes.foldl (fun h l => h.setReg l d 0) s.me := State.me_modMe s _ hsome
  have hm : w.me?.isSome = true := by
    show v.me?.isSome = true
    rw [State.me?_modMe, Option.isSome_map]
    exact hsome
  have hidle : ([p].any (!·.idle op)) = false := by simp [Post.idle, he]
  have hpassed : s.AllPassed (w.settle (s.issue.lanes.map (·, .go))) :=
    State.settle_passed (s := s) (t := w) rfl (by rw [hme, hset]) hm .go fun _ h => nomatch h
  refine ⟨w.settle (s.issue.lanes.map (·, .go)), ?_, hpassed, fun l hl => ?_, fun hu => ?_⟩
  · rw [hi, copyOp_posts h hb hc, hidle, State.postAll_empty hone he]
    dsimp only
    rw [hv]
    exact finish_next ((State.sameUnits_settle w _).badPa.trans hbad)
  · rw [State.settle_reg hm, hme]
    exact s.me.reg_setSame s.issue.lanes d 0 hl
  · have huv : v.Untraced := hu.modMe hsome (by rw [hset])
    rw [State.settle_untraced (s := w) huv]
    rfl

end

/-- Settles O30: the blocks are held, bad, without room, or posted in order, as one check after another decides. -/
theorem tileCopies : Obligations.TileCopies := by
  unfold Obligations.TileCopies
  intro s u d a n offs h i hi
  have hexec := exec_copy (s := s) i hi
  refine ⟨fun hb => hexec.trans (copyOp_held h hb), fun f hb hc => hexec.trans (copyOp_fault h hb hc), fun posts hb hc => ⟨?_, ?_⟩,
    fun p hb hc hone he hbad => completes_copy_empty hone he h hbad hexec hb hc,
    fun ls id => ⟨fun l hl _ => (State.setFuture_pends h.1.1.1 ls d id).1 l hl, (State.setFuture_pends h.1.1.1 ls d id).2⟩⟩
  · rintro ⟨p, hp, hidle⟩ hroom
    have hany : posts.any (!·.idle i.2) = true := List.any_eq_true.mpr ⟨p, hp, by rw [hidle]; rfl⟩
    rw [hexec, copyOp_posts h hb hc, hany, hroom]
    rfl
  · intro hroom out t hbad
    have hgo : (posts.any (!·.idle i.2) && s.copyRoom.isNone) = false := by
      rcases hroom with hall | hroom
      · rw [List.any_eq_false.mpr fun p hp => by rw [hall p hp]; decide, Bool.false_and]
      · rw [Option.isNone_eq_false_iff.mpr (Option.isSome_iff_ne_none.mpr hroom), Bool.and_false]
    have ht : out.1.posted s.issue.lanes = t := by rw [← s.issue_postAll u i.2 d posts]; rfl
    rw [hexec, copyOp_posts h hb hc, hgo, ht]
    exact finish_next hbad

end Sys2Proof.Machine
end
